-- ==== Sys2Proof/Word.lean ====
section
/-! DEFINITION. Word.lean: the word types of the ZX4 (spec/01 R8, spec/04 R50) and the register numbers. -/

namespace Sys2Proof

/-- A 64-bit scalar register, address or payload word (R8). -/
abbrev Word := BitVec 64
/-- One lane of a vector register (R8). -/
abbrev Lane := BitVec 32
/-- An instruction halfword (R34). -/
abbrev Half := BitVec 16
/-- One byte of memory. -/
abbrev Byte := BitVec 8
/-- A value of the 40-bit accumulator format A40 (R50). -/
abbrev A40 := BitVec 40
/-- A lane mask (R8). -/
abbrev Mask32 := BitVec 32

/-- A vector register: 32 lanes of 32 bits (R8). -/
abbrev Lanes := Vector Lane 32

/-- A scalar register number x0 to x31. -/
abbrev XReg := Fin 32
/-- A vector register number v0 to v31. -/
abbrev VReg := Fin 32
/-- A mask register number m0 to m7. -/
abbrev MReg := Fin 8
/-- A stream register: v28 + i (R108). -/
abbrev SReg := Fin 4
/-- A tile table entry number (R197). -/
abbrev TileIx := Fin 64

end Sys2Proof
end

