-- ==== Sys2Proof/Syntax.lean ====
section
/-! DEFINITION. Syntax.lean: the instructions and the events of the opcode table, one constructor per row. An instruction carries
its decoded operands. An event (the rows from DISC_WRITE on) is a step of an agent other than an issuing slot; its operands name
the agent and what comes in from outside the device. -/

namespace Sys2Proof

/-- Rounding modes of MOD6.RND (R38, R54). -/
inductive Rnd | rne | rz | rd | ru | rs
  deriving DecidableEq, Repr

/-- The modifiers of a rounding instruction: mode and .sat (R38). -/
structure RMod where
  rnd : Rnd
  sat : Bool
  deriving DecidableEq, Repr

/-- Floating widths of page 1, coded as W 00, 01, 10, 11 (R85). -/
inductive FWidth | f32 | f64 | bf16 | f16
  deriving DecidableEq, Repr

/-- Lane types of page 2, coded as W 00, 01, 10 (R39). -/
inductive VTy | f32 | s32 | n32
  deriving DecidableEq, Repr

/-- Source widths of SEXT and ZEXT, coded as W 00, 01, 10 (R72). -/
inductive IWidth | b | h | w
  deriving DecidableEq, Repr

/-- Sizes of the integer atomics, coded as W 00, 01 (R190). -/
inductive AmoSize | d | w
  deriving DecidableEq, Repr

/-- The 8-bit formats of F2E and E2F, coded as X4[0] (R39). -/
inductive E8 | e4m3 | e5m2
  deriving DecidableEq, Repr

/-- The condition of TWAIT (R217). -/
inductive TileCond | ready | empty
  deriving DecidableEq, Repr

/-- Why a halfword chain is no instruction (R37, R41, R48). -/
inductive DecodeCause | badPrefix | illegal
  deriving DecidableEq, Repr

/-- The host's answer to an ATS translation request (R277, R357): the translated address of the byte range of size 2^log2 that
holds the page, and its permissions. -/
inductive AtsAnswer
  | notPresent
  | present (pa log2 : Nat) (r w x : Bool)
  deriving DecidableEq, Repr

/-- The host's answer to a PRI page request (R277). -/
inductive PriAnswer | success | responseFailure | invalidRequest
  deriving DecidableEq, Repr

/-- A management request over MCTP (R375, R364, R326). -/
inductive MgmtReq
  | readSensors
  | readLifetime
  | firmwareUpdate (image : List Byte)
  | coreImageUpdate (image : List Byte)
  | enrolKey (key : List Byte)
  | registerImageId (imageId : BitVec 32)
  deriving DecidableEq, Repr

/-- Who asks for a load: the service request at a control core, or the host through the PF (R366). -/
inductive LoadSource
  | service
  | host (part image codeBase firstCore count : Nat)
  deriving DecidableEq, Repr

/-- The kinds of UALink request a landing receives outside the message, operation and result apertures (R341, R343): reads, writes, writes
of some of 32 words, and atomics. -/
inductive UaAccess
  | read (len : Nat)
  | write (bytes : List Byte)
  | writeLanes (act : Mask32) (bytes : List Byte)
  | atomic (bytes : List Byte)
  deriving DecidableEq, Repr

/-- Who sends a request over UALink: a device, and a partition of it (R343, R345). -/
structure UaSender where
  dev : Nat
  part : Nat
  deriving DecidableEq, Repr

/-- A write to a landing's message aperture (R343). -/
structure UaWrite where
  addr : Word
  bytes : List Byte
  deriving DecidableEq, Repr

/-- An access of the host through BAR4 (R352). -/
inductive HostAccess
  | read (len : Nat)
  | write (bytes : List Byte)
  deriving DecidableEq, Repr

/-- How a region-0x0 UALink request completes (R343). -/
inductive UaStatus
  | data (bytes : List Byte)
  | done
  | ticketFailed
  | refusedPerm
  deriving DecidableEq, Repr

/-- One sample of the lifetime update (R326). -/
structure LifeSample where
  die : Nat
  tempBin : Nat
  voltBin : Nat
  seconds : Nat
  deriving DecidableEq, Repr

/-- The opcode table, one constructor per row. -/
inductive Instr
  -- page 0, majors 1 to 5 (R72): A := C op B
  | add (a c b : XReg) | sub (a c b : XReg) | and (a c b : XReg) | or (a c b : XReg)
  | xor (a c b : XReg) | andn (a c b : XReg) | orn (a c b : XReg) | xnor (a c b : XReg)
  | shl (a c b : XReg) | shr (a c b : XReg) | sar (a c b : XReg) | rol (a c b : XReg)
  | ror (a c b : XReg) | min (a c b : XReg) | max (a c b : XReg) | minn (a c b : XReg)
  | mul (a c b : XReg) | mulh (a c b : XReg) | mulhn (a c b : XReg) | div (a c b : XReg)
  | divn (a c b : XReg) | rem (a c b : XReg) | remn (a c b : XReg) | maxn (a c b : XReg)
  | seq (a c b : XReg) | sne (a c b : XReg) | slt (a c b : XReg) | sltn (a c b : XReg)
  | sle (a c b : XReg) | slen (a c b : XReg) | sel (a c b d : XReg)
  | clz (a b : XReg) | ctz (a b : XReg) | popc (a b : XReg) | brev (a b : XReg) | bswap (a b : XReg)
  | sext (w : IWidth) (a b : XReg) | zext (w : IWidth) (a b : XReg) | mov (a b : XReg)
  -- immediates (R73)
  | addi (a b : XReg) (imm : Int) | li (a : XReg) (imm : Int) | andi (a b : XReg) (imm : Int)
  | ori (a b : XReg) (imm : Int) | xori (a b : XReg) (imm : Int)
  | shli (a b : XReg) (n : Fin 64) | shri (a b : XReg) (n : Fin 64) | sari (a b : XReg) (n : Fin 64)
  | rori (a b : XReg) (n : Fin 64)
  -- loads and stores (R75): base register b, byte offset imm
  | ldSb (a b : XReg) (imm : Int) (rlx : Bool) | ldNb (a b : XReg) (imm : Int) (rlx : Bool)
  | ldSh (a b : XReg) (imm : Int) (rlx : Bool) | ldNh (a b : XReg) (imm : Int) (rlx : Bool)
  | ldSw (a b : XReg) (imm : Int) (rlx : Bool) | ldNw (a b : XReg) (imm : Int) (rlx : Bool)
  | ldD (a b : XReg) (imm : Int) (rlx : Bool)
  | stB (a b : XReg) (imm : Int) (rlx : Bool) | stH (a b : XReg) (imm : Int) (rlx : Bool)
  | stW (a b : XReg) (imm : Int) (rlx : Bool) | stD (a b : XReg) (imm : Int) (rlx : Bool)
  -- branches (R80 to R82): distance in halfwords
  | bcEq (a b : XReg) (dist : Int) | bcNe (a b : XReg) (dist : Int) | bcLt (a b : XReg) (dist : Int)
  | bcGe (a b : XReg) (dist : Int) | bcLtn (a b : XReg) (dist : Int) | bcGen (a b : XReg) (dist : Int)
  | br (dist : Int) | call (dist : Int) | jr (b : XReg) | callr (b : XReg) | ret
  | nop | brk
  -- scalar floating point (R85 to R91)
  | fadd (w : FWidth) (m : RMod) (a c b : XReg) | fsub (w : FWidth) (m : RMod) (a c b : XReg)
  | fmul (w : FWidth) (m : RMod) (a c b : XReg) | fdiv (w : FWidth) (m : RMod) (a c b : XReg)
  | fmin (w : FWidth) (a c b : XReg) | fmax (w : FWidth) (a c b : XReg)
  | fsqrt (w : FWidth) (m : RMod) (a b : XReg)
  | fma (w : FWidth) (m : RMod) (a c b : XReg) | fms (w : FWidth) (m : RMod) (a c b : XReg)
  | fnma (w : FWidth) (m : RMod) (a c b : XReg) | fnms (w : FWidth) (m : RMod) (a c b : XReg)
  | feq (w : FWidth) (a c b : XReg) | flt (w : FWidth) (a c b : XReg) | fle (w : FWidth) (a c b : XReg)
  | funord (w : FWidth) (a c b : XReg) | fclass (w : FWidth) (a b : XReg)
  | fabs (w : FWidth) (a b : XReg) | fneg (w : FWidth) (a b : XReg) | fsign (w : FWidth) (a c b : XReg)
  | fcvtF2i (w : FWidth) (rnd : Rnd) (a b : XReg) | fcvtF2n (w : FWidth) (rnd : Rnd) (a b : XReg)
  | fcvtI2f (w : FWidth) (m : RMod) (a b : XReg) | fcvtN2f (w : FWidth) (m : RMod) (a b : XReg)
  | fcvtFf (w src : FWidth) (m : RMod) (a b : XReg)
  | fcvtF2e (w : FWidth) (e : E8) (m : RMod) (a b : XReg) | fcvtE2f (w : FWidth) (e : E8) (a b : XReg)
  -- lane arithmetic (R95): lane mask k
  | vadd (t : VTy) (m : RMod) (a c b : VReg) (k : MReg) | vsub (t : VTy) (m : RMod) (a c b : VReg) (k : MReg)
  | vmul (t : VTy) (m : RMod) (a c b : VReg) (k : MReg)
  | vmin (t : VTy) (a c b : VReg) (k : MReg) | vmax (t : VTy) (a c b : VReg) (k : MReg)
  | vand (a c b : VReg) (k : MReg) | vor (a c b : VReg) (k : MReg) | vxor (a c b : VReg) (k : MReg)
  | vshl (a c b : VReg) (k : MReg) | vshr (a c b : VReg) (k : MReg) | vsar (a c b : VReg) (k : MReg)
  | vabs (t : VTy) (a b : VReg) (k : MReg) | vneg (t : VTy) (a b : VReg) (k : MReg)
  | vdiv (t : VTy) (m : RMod) (a c b : VReg) (k : MReg) | vsqrt (m : RMod) (a b : VReg) (k : MReg)
  | vfma (t : VTy) (m : RMod) (a c b : VReg) (k : MReg) | vfms (t : VTy) (m : RMod) (a c b : VReg) (k : MReg)
  | vfnma (t : VTy) (m : RMod) (a c b : VReg) (k : MReg) | vfnms (t : VTy) (m : RMod) (a c b : VReg) (k : MReg)
  | vceq (t : VTy) (a : MReg) (c b : VReg) (k : MReg) | vcne (t : VTy) (a : MReg) (c b : VReg) (k : MReg)
  | vclt (t : VTy) (a : MReg) (c b : VReg) (k : MReg) | vcle (t : VTy) (a : MReg) (c b : VReg) (k : MReg)
  -- select, move, permute (R97)
  | vsel (a c b : VReg) (d k : MReg) | vmov (a b : VReg) (k : MReg) | vbcast (a : VReg) (b : XReg) (k : MReg)
  | vins (a : VReg) (b : XReg) (n : Fin 32) | vext (t : VTy) (a : XReg) (b : VReg) (n : Fin 32)
  | viota (a : VReg) (b k : MReg) | vperm (a c b : VReg) (k : MReg)
  -- reductions, scan, functions, conversions (R98 to R100)
  | vradd (t : VTy) (rnd : Rnd) (a b : VReg) (k : MReg) | vrmin (t : VTy) (a b : VReg) (k : MReg)
  | vrmax (t : VTy) (a b : VReg) (k : MReg) | vrand (a b : VReg) (k : MReg) | vror (a b : VReg) (k : MReg)
  | vscan (t : VTy) (rnd : Rnd) (a b : VReg) (k : MReg)
  | vexp2 (m : RMod) (a b : VReg) (k : MReg) | vlog2 (m : RMod) (a b : VReg) (k : MReg)
  | vrcp (m : RMod) (a b : VReg) (k : MReg) | vrsq (m : RMod) (a b : VReg) (k : MReg)
  | vtanh (m : RMod) (a b : VReg) (k : MReg) | vsigm (m : RMod) (a b : VReg) (k : MReg)
  | vcvtF2s (rnd : Rnd) (a b : VReg) (k : MReg) | vcvtS2f (m : RMod) (a b : VReg) (k : MReg)
  | vcvtF2n (rnd : Rnd) (a b : VReg) (k : MReg) | vcvtN2f (m : RMod) (a b : VReg) (k : MReg)
  | vcvtFrnd (rnd : Rnd) (a b : VReg) (k : MReg) | vcvtF2bf (m : RMod) (a b : VReg) (k : MReg)
  | vcvtF2e4 (m : RMod) (a b : VReg) (k : MReg) | vcvtF2e5 (m : RMod) (a b : VReg) (k : MReg)
  -- vector memory (R101)
  | vld (a : VReg) (b : XReg) (imm : Int) (rlx : Bool) (k : MReg)
  | vst (a : VReg) (b : XReg) (imm : Int) (rlx : Bool) (k : MReg)
  | vldx (a : VReg) (b : XReg) (c : VReg) (k : MReg) | vstx (a : VReg) (b : XReg) (c : VReg) (k : MReg)
  | vldb (a : VReg) (b : XReg) (imm : Int) (rlx : Bool) (k : MReg)
  | vldt (a : VReg) (t : TileIx) (b : XReg) (k : MReg) | vstt (a : VReg) (t : TileIx) (b : XReg) (k : MReg)
  -- masks (R107) and streams (R110)
  | mand (a c b : MReg) | mor (a c b : MReg) | mxor (a c b : MReg) | mnot (a b : MReg)
  | mpop (a : XReg) (b : MReg) | mfirst (a : XReg) (b : MReg) | mset (a : MReg) (b : XReg)
  | mget (a : XReg) (b : MReg)
  | sbind (s : SReg) (b c : XReg) | sunbind (s : SReg) | srem (a : XReg) (s : SReg) | bstr (s : SReg) (b : XReg)
  -- sends (R139): channel name register a, first payload register b, word count n
  | send (a b : XReg) (n : Fin 7) | sendR (a b : XReg) (n : Fin 7) | sendm (a b : XReg) (n : Fin 7) (d : XReg)
  | sendg (a b : XReg) (n : Fin 7) | fork (a b : XReg) (n : Fin 7) | sendc (a b : XReg) (n : Fin 7)
  | sendv (a : XReg) (b : VReg) (n : Fin 7) | sendQ (a b : XReg) (n : Fin 7) (d : XReg)
  -- channel and pattern configuration (R148), end of an activation (R156, R157)
  | chset (a c b : XReg) | chget (a c b : XReg) | chclr (a c : XReg)
  | patset (a c b : XReg) | patclr (a c : XReg) | patget (a c b : XReg)
  | exit | exitf (a : XReg)
  -- atomics (R190), vector adds (R193), WAIT (R195)
  | amoadd (z : AmoSize) (a b c : XReg) | amoand (z : AmoSize) (a b c : XReg) | amoor (z : AmoSize) (a b c : XReg)
  | amoxor (z : AmoSize) (a b c : XReg) | amomin (z : AmoSize) (a b c : XReg) | amomax (z : AmoSize) (a b c : XReg)
  | amoswap (z : AmoSize) (a b c : XReg) | amocas (z : AmoSize) (a b c d : XReg)
  | amofadd (a b c : XReg) | amofadd64 (a b c : XReg)
  | amominn (z : AmoSize) (a b c : XReg) | amomaxn (z : AmoSize) (a b c : XReg)
  | vamoadd (t : VTy) (a : VReg) (b : XReg) (k : MReg)
  | vamoaddi (t : VTy) (a : VReg) (b : XReg) (c : VReg) (k : MReg)
  | wait (l s e m : Fin 16)
  -- tiles, ferries, matrix (R217, R246)
  | tset (a c b : XReg) | trel (a : XReg) (t : TileIx) | tstat (a : XReg) (t : TileIx)
  | twait (t : TileIx) (cond : TileCond)
  | subscr (a b : XReg) | unsub (a b : XReg) | fstat (a b : XReg)
  | mxm (a b : XReg) | mxz | mxd (a b : XReg) | mxstat (a : XReg) | drnld (a c b : XReg) | adpinv (b : XReg)
  -- CSRs and page 7 major 1 (R289, R290)
  | csrr (a : XReg) (csr : BitVec 12) | csrw (a : XReg) (csr : BitVec 12)
  | csrset (a : XReg) (csr : BitVec 12) | csrclr (a : XReg) (csr : BitVec 12)
  | trap (imm : BitVec 17) | rte | kill (a : XReg) | iinv (b : XReg) | tktq (a b : XReg)
  -- what an issuing slot does besides an instruction: a late event, a STEP, a refused encoding (R275, R319, R48)
  | lateTrapTaken (site : Nat) (slot : Fin 4) | step (site : Nat) (slot : Fin 4)
  | unassignedEncoding (cause : DecodeCause) (tval : BitVec 28)
  -- boot and numbering (R380 to R384, R376)
  | discWrite (die : Nat) (v : Word) | mapwWrite (die : Nat) (v : Word) | mapgoWrite (die : Nat) (v : Word)
  | mapInstall (pkt : Nat) | mapNotice (die : Nat) | diebaseWrite (v : Word)
  | powerOn (failed : List (Nat × Nat)) (darkDies : List Nat) | bootCommand (site : Nat)
  -- core: starts, releases, answers (R10, R15, R23, R77, R143)
  | bodyStart (site : Nat) | slotRelease (site : Nat) (slot : Fin 4) | lineFillAnswer (pkt : Nat)
  | loadResponse (pkt : Nat) | acknowledgement (pkt : Nat) | snapshotRelease (site : Nat)
  | requestPerform (pkt : Nat) | messageArrival (pkt : Nat) | overflowReturn (site chan : Nat) | fire (site : Nat)
  | steal (site : Nat) | stealRequest (pkt : Nat) | stealReply (pkt : Nat) | gangGrant (site : Nat)
  | nightfall (part : Nat)
  | slotSpill (site : Nat) | slotSpillDone (site : Nat) (slot : Fin 4) | slotRestore (site : Nat)
  -- tickets (R277 to R279), translation (R176), late refusals (R281)
  | ticketAnswer (pkt : Nat) | replayNotice (pkt : Nat) | failureNotice (pkt : Nat)
  | atsResponse (ferry rec : Nat) (answer : AtsAnswer) | priResponse (ferry rec : Nat) (answer : PriAnswer)
  | ticketLimitExpiry (ferry rec : Nat) | atsInvalidation (ferry pasid va log2 : Nat)
  | lateRefusal (pkt : Nat)
  | twinExchange (site : Nat) (slot : Fin 4)
  -- ferries (R209 to R223)
  | ferrySubscribe (pkt : Nat) | handleReply (pkt : Nat) | deferredPoll (ferry entry : Nat)
  | deferredRead (ferry entry : Nat) | ferryTileStart (ferry entry : Nat) | segmentAnswer (ferry entry pkt : Nat)
  | fixupReplay (pkt : Nat) | unsubAtFerry (pkt : Nat) | fstatAtFerry (pkt : Nat)
  -- clusters (R239, R228, R242, R233, R244, R250, R261)
  | leaseGrant (cluster : Nat) | blockFold (site : Nat) | adapterFetch (cluster pkt : Nat) | mxzAtHead (site : Nat)
  | adpinvAtHead (site : Nat) | drainStart (cluster : Nat) | drainGroupCommit (cluster : Nat)
  -- migration, dusk, dawn, teardown (R300 to R303, R359)
  | migration (src dst : Nat) | migrationStream (src : Nat) | switchMarker (pkt : Nat) | forwarding (pkt : Nat)
  | dusk (part : Nat) | partitionHalted (part : Nat) | dawn (part : Nat) (place : List (Nat × Nat))
  | flr (vf : Nat) | teardownCommand (part : Nat)
  -- host (R352 to R355, R370)
  | hostMessageWrite (vf off : Nat) (bytes : List Byte) (relaxed : Bool)
  | bar4Access (off : Nat) (acc : HostAccess) | vfRegisterWrite (vf off : Nat) (v : Word)
  | hdrop (vf : Nat) (v : Word) | hrefuse (vf : Nat) (v : Word) | attgo (vf : Nat) (v : Word) | msixRequest
  | invalidationMessage (pkt : Nat)
  -- UALink (R343 to R347, R333)
  | ualinkMessageWrite (port : Nat) (src : UaSender) (order : Nat) (w : UaWrite)
  | operationRecord (port : Nat) (src : UaSender) (order : Nat) (bytes : List Byte)
  | resultRecord (port dev : Nat) (bytes : List Byte)
  | linkDown (port : Nat) | ualinkTimeout (port dev : Nat) | linkUp (port : Nat) | linkReset (link : Nat)
  -- firmware (R348, R373, R372, R366, R375, R326)
  | remoteLaunch (die : Nat) | setcsr (die : Nat) | getcsr (die : Nat) | iinvService (die : Nat)
  | nightch (die : Nat) | super (die : Nat) | load (die : Nat) (src : LoadSource)
  | thermalStep (celsius : Nat) | lifetimeUpdate (samples : List LifeSample)
  | traceSample (site : Nat) | dbgctlWrite (site : Nat) (v : Word)
  | partitionBuild (part : Nat) (clusters : List Nat) (pasids : List Nat) (supcore : Option Nat) (twins : Bool)
  | powerLoss (raised : Bool) | mctpRequest (req : MgmtReq) | badservice (die : Nat)
  | ualinkReadWrite (port : Nat) (src : UaSender) (order : Nat) (addr : Word) (acc : UaAccess)
  | ualinkCompletion (port dev tag : Nat) (status : UaStatus)
  | entryLanding (pkt : Nat) | creditReturn (link : Nat) (pkt : Option Nat) (inc : Nat)
  deriving DecidableEq, Repr

end Sys2Proof
end

