-- ==== Sys2Proof/Machine/Float.lean ====
section
/-! DEFINITION. Machine/Float.lean: number formats, exact results, Round, the flags and the 4-bit block family (spec/04 R50 to R69),
computed on integers and rounded once at the end. -/

namespace Sys2Proof.Machine

/-- The parameters of a floating format (R50). `hasInf` is false for E4M3 only. -/
structure FFmt where
  ebits : Nat
  frac : Nat
  bias : Nat
  hasInf : Bool
  deriving DecidableEq, Repr

def fp64 : FFmt := ⟨11, 52, 1023, true⟩
def fp32 : FFmt := ⟨8, 23, 127, true⟩
def bf16 : FFmt := ⟨8, 7, 127, true⟩
def fp16 : FFmt := ⟨5, 10, 15, true⟩
def e5m2 : FFmt := ⟨5, 2, 15, true⟩
def e4m3 : FFmt := ⟨4, 3, 7, false⟩
def a40 : FFmt := ⟨10, 29, 511, true⟩

/-- The smallest normal exponent (R50). -/
def FFmt.emin (f : FFmt) : Int := 1 - (f.bias : Int)
/-- The weight of the sign bit. -/
def FFmt.signBit (f : FFmt) : Nat := 2 ^ (f.ebits + f.frac)
/-- The pattern of +∞, where the format has one. -/
def FFmt.infBits (f : FFmt) : Nat := (2 ^ f.ebits - 1) * 2 ^ f.frac
/-- The canonical NaN (R50). -/
def FFmt.nanBits (f : FFmt) : Nat := f.infBits + (if f.hasInf then 2 ^ (f.frac - 1) else 2 ^ f.frac - 1)
/-- The pattern of the largest finite value (R50). -/
def FFmt.maxBits (f : FFmt) : Nat := if f.hasInf then f.infBits - 1 else f.infBits + 2 ^ f.frac - 2
/-- A pattern with a sign. -/
def FFmt.signed (f : FFmt) (neg : Bool) (b : Nat) : Nat := if neg then f.signBit + b else b

/-- fexc bits (R59). -/
def fNV : Nat := 1
def fDZ : Nat := 2
def fOF : Nat := 4
def fUF : Nat := 8
def fNX : Nat := 16

/-- A floating value: NaN, an infinity, or (−1)^neg × m × 2^e, a zero when m = 0. -/
inductive FVal
  | nan
  | inf (neg : Bool)
  | num (neg : Bool) (m : Nat) (e : Int)
  deriving DecidableEq, Repr

/-- The value of a pattern (R50). Bits above the format are ignored. -/
def valOf (f : FFmt) (bits : Nat) : FVal :=
  let neg := bits / f.signBit % 2 == 1
  let ex := bits / 2 ^ f.frac % 2 ^ f.ebits
  let t := bits % 2 ^ f.frac
  if ex = 2 ^ f.ebits - 1 ∧ (f.hasInf ∨ t = 2 ^ f.frac - 1) then
    if f.hasInf ∧ t = 0 then .inf neg else .nan
  else if ex = 0 then .num neg t (f.emin - f.frac)
  else .num neg (2 ^ f.frac + t) ((ex : Int) - f.bias - f.frac)

def FVal.neg : FVal → FVal
  | .nan => .nan
  | .inf s => .inf (!s)
  | .num s m e => .num (!s) m e

def FVal.isNan : FVal → Bool
  | .nan => true
  | _ => false

/-- An exact result: a real is (−1)^neg × (m + d) × 2^e with 0 ≤ d < 1, and `st` says that d is not 0. -/
inductive Exact
  | nan
  | inf (neg : Bool)
  | zero (neg : Bool)
  | real (neg : Bool) (m : Nat) (e : Int) (st : Bool)
  deriving DecidableEq, Repr

/-- An exact result with the flags its operation raises before rounding (R60: NV, DZ). -/
structure ExRes where
  v : Exact
  fl : Nat
  deriving DecidableEq, Repr

def FVal.exact : FVal → Exact
  | .nan => .nan
  | .inf s => .inf s
  | .num s m e => if m = 0 then .zero s else .real s m e false

def exOk (x : FVal) : ExRes := ⟨x.exact, 0⟩
def exNV : ExRes := ⟨.nan, fNV⟩

/-- Signed integer of a finite value at exponent e0 ≤ e. -/
def scaled (s : Bool) (m : Nat) (e e0 : Int) : Int :=
  let v : Int := (m * 2 ^ (e - e0).toNat : Nat)
  if s then -v else v

/-- x + y exactly; a sum of opposite signs that is zero is +0, and −0 under .rd (R54, R60). -/
def exAdd (rd : Bool) (x y : FVal) : ExRes :=
  match x, y with
  | .nan, _ => ⟨.nan, 0⟩
  | _, .nan => ⟨.nan, 0⟩
  | .inf a, .inf b => if a = b then ⟨.inf a, 0⟩ else exNV
  | .inf a, .num _ _ _ => ⟨.inf a, 0⟩
  | .num _ _ _, .inf b => ⟨.inf b, 0⟩
  | .num s m e, .num s' m' e' =>
    if m = 0 ∧ m' = 0 then ⟨.zero (if s = s' then s else rd), 0⟩
    else if m = 0 then ⟨.real s' m' e' false, 0⟩
    else if m' = 0 then ⟨.real s m e false, 0⟩
    else
      let e0 := min e e'
      let v := scaled s m e e0 + scaled s' m' e' e0
      if v = 0 then ⟨.zero rd, 0⟩ else ⟨.real (decide (v < 0)) v.natAbs e0 false, 0⟩

/-- x × y exactly (R54, R60). -/
def fvMul (x y : FVal) : FVal × Nat :=
  match x, y with
  | .inf a, .inf b => (.inf (a != b), 0)
  | .inf a, .num b m _ => if m = 0 then (.nan, fNV) else (.inf (a != b), 0)
  | .num a m _, .inf b => if m = 0 then (.nan, fNV) else (.inf (a != b), 0)
  | .num a m e, .num b m' e' => (.num (a != b) (m * m') (e + e'), 0)
  | _, _ => (.nan, 0)

def exMul (x y : FVal) : ExRes :=
  let p := fvMul x y
  ⟨p.1.exact, p.2⟩

/-- ±(x × y) ± z exactly (R69, R87). -/
def exFma (rd np nz : Bool) (x y z : FVal) : ExRes :=
  let p := fvMul x y
  if p.2 ≠ 0 then exNV
  else exAdd rd (if np then p.1.neg else p.1) (if nz then z.neg else z)

/-- x ÷ y (R87, R60). -/
def exDiv (x y : FVal) : ExRes :=
  match x, y with
  | .nan, _ => ⟨.nan, 0⟩
  | _, .nan => ⟨.nan, 0⟩
  | .inf _, .inf _ => exNV
  | .inf a, .num b _ _ => ⟨.inf (a != b), 0⟩
  | .num a _ _, .inf b => ⟨.zero (a != b), 0⟩
  | .num a m e, .num b m' e' =>
    if m = 0 ∧ m' = 0 then exNV
    else if m' = 0 then ⟨.inf (a != b), fDZ⟩
    else if m = 0 then ⟨.zero (a != b), 0⟩
    else
      let k := 160 + Nat.log2 m'
      let n := m * 2 ^ k
      ⟨.real (a != b) (n / m') (e - e' - k) (n % m' != 0), 0⟩

/-- floor of the square root, one bit a step: r is the root found so far, n the number of bits still to try. -/
def isqrtGo (v : Nat) : Nat → Nat → Nat
  | 0, r => r
  | n + 1, r =>
    let c := r + 2 ^ n
    if c * c ≤ v then isqrtGo v n c else isqrtGo v n r

def isqrt (v : Nat) : Nat := isqrtGo v (Nat.log2 v / 2 + 1) 0

/-- √x (R68). -/
def exSqrt (x : FVal) : ExRes :=
  match x with
  | .nan => ⟨.nan, 0⟩
  | .inf s => if s then exNV else ⟨.inf false, 0⟩
  | .num s m e =>
    if m = 0 then ⟨.zero s, 0⟩
    else if s then exNV
    else
      let k := 320 + (e % 2).toNat
      let v := m * 2 ^ k
      let r := isqrt v
      ⟨.real false r ((e - k) / 2) (r * r != v), 0⟩

/-- 1 ÷ √x (R68). -/
def exRsq (x : FVal) : ExRes :=
  match x with
  | .nan => ⟨.nan, 0⟩
  | .inf s => if s then exNV else ⟨.zero false, 0⟩
  | .num s m e =>
    if m = 0 then ⟨.inf s, fDZ⟩
    else if s then exNV
    else
      let m2 := m * 2 ^ (e % 2).toNat
      let k := 160 + Nat.log2 m2
      let n := 2 ^ (2 * k)
      let r := isqrt (n / m2)
      ⟨.real false r (-(k : Int) - e / 2) (r * r * m2 != n), 0⟩

/-- 1 ÷ x (R68). -/
def exRcp (x : FVal) : ExRes := exDiv (.num false 1 0) x

/-- One step of the generator (R57). -/
def lfsrStep (g : BitVec 32) : BitVec 32 := if g.getLsbD 0 then (g >>> 1) ^^^ 0x80200003#32 else g >>> 1

/-- (m + d) × 2^e in units of 2^q under a mode, with the 32-bit number r of .rs: the count of units and whether it is inexact
(R54, R56). -/
def roundUnits (rnd : Rnd) (r : Nat) (neg : Bool) (m : Nat) (e : Int) (st : Bool) (q : Int) : Nat × Bool :=
  if q ≤ e then
    let t := m * 2 ^ (e - q).toNat
    let up := match rnd with
      | .rd => neg && st
      | .ru => !neg && st
      | _ => false
    (if up then t + 1 else t, st)
  else
    let u := 2 ^ (q - e).toNat
    let t := m / u
    let rem := m % u
    let inx := rem != 0 || st
    let up := match rnd with
      | .rz => false
      | .rd => neg && inx
      | .ru => !neg && inx
      | .rne => decide (2 * rem > u) || (2 * rem == u && (st || t % 2 == 1))
      | .rs => decide (r < rem * 2 ^ 32 / u)
    (if up then t + 1 else t, inx)

/-- A rounded pattern and the flags raised. -/
structure Rounded where
  bits : Nat
  fl : Nat
  deriving DecidableEq, Repr

/-- The result when the rounded magnitude exceeds the largest finite value (R55). -/
def overflowBits (f : FFmt) (m : RMod) (neg : Bool) : Nat :=
  let toInf := f.hasInf && !m.sat && (match m.rnd with
    | .rne => true
    | .rs => true
    | .rz => false
    | .rd => neg
    | .ru => !neg)
  f.signed neg (if toInf then f.infBits else f.maxBits)

/-- A real is tiny: rounded to the format's precision with unbounded exponent its magnitude stays below 2^emin (R59). Under .rs this
rounding uses the number r of the result's own rounding, which the spec leaves open (notes/assumptions/14). -/
def isTiny (f : FFmt) (rnd : Rnd) (r : Nat) (neg : Bool) (m : Nat) (e : Int) (st : Bool) : Bool :=
  let top := e + Nat.log2 m
  if top ≥ f.emin then false
  else if top < f.emin - 1 then true
  else decide ((roundUnits rnd r neg m e st (top - f.frac)).1 < 2 ^ (f.frac + 1))

/-- Round of R54 with the number r of .rs. The flags of the operation stand beside those of the rounding; NV excludes the rest (R59).
Under .sat an infinity adds NX to what its operation raised, so FDIV.sat of 1 by 0 raises DZ and NX (notes/assumptions/41). -/
def roundWith (f : FFmt) (m : RMod) (r : Nat) (x : ExRes) : Rounded :=
  match x.v with
  | .nan => ⟨f.nanBits, x.fl⟩
  | .zero s => ⟨f.signed s 0, x.fl⟩
  | .inf s =>
    if m.sat then ⟨f.signed s f.maxBits, x.fl ||| fNX⟩
    else if f.hasInf then ⟨f.signed s f.infBits, x.fl⟩
    else ⟨f.nanBits, fNV⟩
  | .real s mm e st =>
    let q := max (e + Nat.log2 mm) f.emin - f.frac
    let t := roundUnits m.rnd r s mm e st q
    let b := (q + f.frac - f.emin).toNat * 2 ^ f.frac + t.1
    if b > f.maxBits then ⟨overflowBits f m s, x.fl ||| fOF ||| fNX⟩
    else
      let fl := if t.2 then (if isTiny f m.rnd r s mm e st then fUF ||| fNX else fNX) else 0
      ⟨f.signed s b, x.fl ||| fl⟩

/-- The generator's steps of an instruction and the flags it raises, threaded through its roundings. -/
structure FEnv where
  lfsr : BitVec 32
  fl : Nat := 0
  deriving DecidableEq, Repr

/-- Whether an exact result is a rounding of its own that steps the generator: a zero or a real (R58; notes/assumptions/14). -/
def Exact.rounds : Exact → Bool
  | .zero _ => true
  | .real _ _ _ _ => true
  | _ => false

/-- One rounding: under .rs the generator steps first (R56, R58). -/
def roundOne (f : FFmt) (m : RMod) (x : ExRes) (env : FEnv) : Nat × FEnv :=
  let g := if m.rnd = .rs ∧ x.v.rounds then lfsrStep env.lfsr else env.lfsr
  let y := roundWith f m g.toNat x
  (y.bits, ⟨g, env.fl ||| y.fl⟩)

/-- One combination of VRADD and VSCAN: under .rs it always steps the generator (R58, R98). -/
def roundNode (f : FFmt) (m : RMod) (x : ExRes) (env : FEnv) : Nat × FEnv :=
  let g := if m.rnd = .rs then lfsrStep env.lfsr else env.lfsr
  let y := roundWith f m g.toNat x
  (y.bits, ⟨g, env.fl ||| y.fl⟩)

def rneMod : RMod := ⟨.rne, false⟩
def rneSat : RMod := ⟨.rne, true⟩
/-- Round under .rne without generator, used outside the instructions (windows, array, drain). -/
def roundRne (f : FFmt) (x : ExRes) : Rounded := roundWith f rneMod 0 x

/-- A total order on floating values other than NaN, with −0 below +0: the sign of x − y. -/
def fvKey (x : FVal) (e0 : Int) : Int :=
  match x with
  | .nan => 0
  | .inf s => if s then -1 else 1
  | .num s m e => scaled s m e e0

/-- x < y over the extended reals; −0 equals +0, and a NaN is unordered (R53). -/
def fvLt (x y : FVal) : Bool :=
  match x, y with
  | .nan, _ => false
  | _, .nan => false
  | .inf a, .inf b => a && !b
  | .inf a, .num _ _ _ => a
  | .num _ _ _, .inf b => !b
  | .num s m e, .num s' m' e' => decide (scaled s m e (min e e') < scaled s' m' e' (min e e'))

def fvEq (x y : FVal) : Bool := !x.isNan && !y.isNan && !fvLt x y && !fvLt y x
def fvLe (x y : FVal) : Bool := fvLt x y || fvEq x y

/-- Minimum of R53 on patterns. -/
def minBits (f : FFmt) (a b : Nat) : Nat :=
  let x := valOf f a
  let y := valOf f b
  if x.isNan && y.isNan then f.nanBits
  else if x.isNan then b
  else if y.isNan then a
  else if fvLt x y then a
  else if fvLt y x then b
  else if a / f.signBit % 2 = 1 then a else b

/-- Maximum of R53 on patterns. -/
def maxBits (f : FFmt) (a b : Nat) : Nat :=
  let x := valOf f a
  let y := valOf f b
  if x.isNan && y.isNan then f.nanBits
  else if x.isNan then b
  else if y.isNan then a
  else if fvLt x y then b
  else if fvLt y x then a
  else if a / f.signBit % 2 = 1 then b else a

/-- The exact value of an integer. -/
def intVal (v : Int) : FVal := .num (decide (v < 0)) v.natAbs 0

/-- Conversion to an integer with bounds lo and hi (R64). A result is the integer and the environment. -/
def toInt (rnd : Rnd) (lo hi : Int) (x : FVal) (env : FEnv) : Int × FEnv :=
  match x with
  | .nan => (0, { env with fl := env.fl ||| fNV })
  | .inf s => (if s then lo else hi, { env with fl := env.fl ||| fNV })
  | .num s m e =>
    let g := if rnd = .rs then lfsrStep env.lfsr else env.lfsr
    let t := roundUnits rnd g.toNat s m e false 0
    let v : Int := if s then -(t.1 : Int) else t.1
    if v < lo then (lo, ⟨g, env.fl ||| fNV⟩)
    else if v > hi then (hi, ⟨g, env.fl ||| fNV⟩)
    else (v, ⟨g, if t.2 then env.fl ||| fNX else env.fl⟩)

/-- Rounding to an integral value of the same format (R64). Zeros, infinities and NaN pass without a rounding, under .sat too. -/
def toIntegral (f : FFmt) (m : RMod) (x : FVal) (env : FEnv) : Nat × FEnv :=
  match x with
  | .nan => (f.nanBits, env)
  | .inf s => (f.signed s f.infBits, env)
  | .num s mm e =>
    if mm = 0 then (f.signed s 0, env)
    else
      let g := if m.rnd = .rs then lfsrStep env.lfsr else env.lfsr
      let t := roundUnits m.rnd g.toNat s mm e false 0
      let y := roundWith f m 0 (exOk (.num s t.1 0))
      (y.bits, ⟨g, if t.2 then env.fl ||| fNX else env.fl⟩)

/-- FCLASS (R89). -/
def classOf (f : FFmt) (bits : Nat) : Nat :=
  match valOf f bits with
  | .nan => 4
  | .inf s => 3 + (if s then 8 else 0)
  | .num s m _ =>
    (if m = 0 then 0 else if m < 2 ^ f.frac then 1 else 2) + (if s then 8 else 0)

/-- The code types of a block (R61). -/
inductive BlockTy | s4 | e2m1 | p4 | h4
  deriving DecidableEq, Repr

def blockTy (scale : Nat) : BlockTy :=
  match scale / 64 % 4 with
  | 0 => .s4
  | 1 => .e2m1
  | 2 => .p4
  | _ => .h4

/-- Twice the magnitude of code bits [2:0] (R62). -/
def codeMag2 (t : BlockTy) (c : Nat) : Nat :=
  match t with
  | .s4 => 2 * c
  | .e2m1 => match c with | 0 => 0 | 1 => 1 | 2 => 2 | 3 => 3 | 4 => 4 | 5 => 6 | 6 => 8 | _ => 12
  | .p4 => if c = 0 then 0 else 2 * 2 ^ (c - 1)
  | .h4 => match c with | 0 => 0 | 1 => 2 | 2 => 4 | 3 => 6 | 4 => 8 | 5 => 12 | 6 => 16 | _ => 32

/-- Twice the value of a code (R62). -/
def codeVal2 (t : BlockTy) (c : Nat) : Int :=
  match t with
  | .s4 => if c < 8 then 2 * (c : Int) else 2 * ((c : Int) - 16)
  | _ => if c < 8 then codeMag2 t c else -(codeMag2 t (c - 8) : Int)

/-- The value of a code in a block with its scale byte (R62). -/
def blockVal (scale code : Nat) : FVal :=
  if scale % 64 = 63 then .nan
  else
    let v := codeVal2 (blockTy scale) (code % 16)
    .num (decide (v < 0)) v.natAbs ((scale % 64 : Nat) - 33)

/-- The magnitude index of a code (R63). -/
def magIndex (t : BlockTy) (c : Nat) : Nat :=
  match t with
  | .s4 => (codeVal2 t c / 2).natAbs
  | _ => c % 8

/-- The better of two codes for the value y2 (twice y) in units of u: the nearer, then the one of even magnitude index. -/
def betterCode (t : BlockTy) (y2 : Int) (u : Int) (best c : Nat) : Nat :=
  let dc := (y2 - codeVal2 t c * u).natAbs
  let db := (y2 - codeVal2 t best * u).natAbs
  if dc < db ∨ (dc = db ∧ magIndex t c % 2 = 0 ∧ magIndex t best % 2 = 1) then c else best

/-- Encoding of a value into a code (R63): the code and the flags. -/
def blockEncode (scale : Nat) (x : FVal) : Nat × Nat :=
  let t := blockTy scale
  let top : Nat := 7
  let bot : Nat := match t with | .s4 => 8 | _ => 15
  if scale % 64 = 63 then (0, match x with | .nan => fNV | _ => 0)
  else match x with
    | .nan => (0, fNV)
    | .inf s => (if s then bot else top, fNX)
    | .num s m e =>
      let e1 := e - ((scale % 64 : Nat) - 32) + 1
      if m = 0 then (0, 0)
      else if e1 + Nat.log2 m > 12 then (if s then bot else top, fNX)
      else
        let e0 := min e1 0
        let y2 := scaled s m e1 e0
        let u : Int := (2 ^ (-e0).toNat : Nat)
        let codes := match t with
          | .s4 => [1, 2, 3, 4, 5, 6, 7, 8, 9, 10, 11, 12, 13, 14, 15]
          | _ => [1, 2, 3, 4, 5, 6, 7, 9, 10, 11, 12, 13, 14, 15]
        let c := codes.foldl (betterCode t y2 u) 0
        (c, if codeVal2 t c * u = y2 then 0 else fNX)

end Sys2Proof.Machine
end

