-- ==== Sys2Proof/Machine/Fun.lean ====
section
/-! DEFINITION. Machine/Fun.lean: exp2, log2, tanh and sigm of spec/04 R68, evaluated in fixed point with 256 fraction bits and
handed to Round as the 200 leading bits and a sticky part (notes/assumptions/15). -/

namespace Sys2Proof.Machine

/-- Fraction bits of the fixed-point evaluation. -/
def fxBits : Nat := 256
def fxOne : Nat := 2 ^ 256

/-- Σ t^k ÷ k! for k = n0 + 1 … n0 + fuel, given the term t^n0 ÷ n0!. -/
def expSeries (t : Nat) : Nat → Nat → Nat → Nat
  | 0, _, _ => 0
  | fuel + 1, k, term =>
    let nt := term * t / fxOne / (k + 1)
    nt + expSeries t fuel (k + 1) nt

/-- e^t for 0 ≤ t < 1 in fixed point. -/
def fxExp (t : Nat) : Nat := fxOne + expSeries t 60 0 fxOne

/-- Σ z^(2k+1) ÷ (2k+1), given the power z^(2k+1). -/
def atanhSeries (z2 : Nat) : Nat → Nat → Nat → Nat
  | 0, _, _ => 0
  | fuel + 1, k, pow => pow / (2 * k + 1) + atanhSeries z2 fuel (k + 1) (pow * z2 / fxOne)

/-- ln(num ÷ den) for 1 ≤ num ÷ den ≤ 2 in fixed point: 2 × atanh((num − den) ÷ (num + den)). -/
def fxLn (num den : Nat) : Nat :=
  let z := (num - den) * fxOne / (num + den)
  2 * atanhSeries (z * z / fxOne) 90 0 z

def fxLn2 : Nat := fxLn 2 1

/-- A positive fixed-point value v × 2^(e − 256) as an exact result. Its last 40 bits are dropped, since they may be wrong. -/
def fxReal (neg : Bool) (v : Nat) (e : Int) : ExRes := ⟨.real neg (v / 2 ^ 40) (e - 216) true, 0⟩

/-- The exponent of the leading bit of a finite nonzero value. -/
def topExp (m : Nat) (e : Int) : Int := e + Nat.log2 m

/-- m × 2^e in fixed point, rounded down, for a value below 2^16. -/
def fxOf (m : Nat) (e : Int) : Nat :=
  let k := e + fxBits
  if 0 ≤ k then m * 2 ^ k.toNat else m / 2 ^ (-k).toNat

/-- A value just above (or, with `below`, just below) m × 2^e. -/
def nudged (neg : Bool) (m : Nat) (e : Int) (below : Bool) : ExRes :=
  ⟨.real neg (if below then m * 2 ^ 160 - 1 else m * 2 ^ 160) (e - 160) true, 0⟩

/-- 2^x (R68). -/
def exExp2 (x : FVal) : ExRes :=
  match x with
  | .nan => ⟨.nan, 0⟩
  | .inf s => if s then ⟨.zero false, 0⟩ else ⟨.inf false, 0⟩
  | .num s m e =>
    if m = 0 then ⟨.real false 1 0 false, 0⟩
    else if topExp m e ≥ 14 then
      if s then ⟨.real false 1 (-8000) true, 0⟩ else ⟨.real false 1 8000 true, 0⟩
    else if topExp m e < -150 then nudged false 1 0 s
    else
      let v : Int := scaled s (fxOf m e) 0 0
      let n := v / (fxOne : Int)
      let r := (v % (fxOne : Int)).toNat
      if r = 0 then ⟨.real false 1 n false, 0⟩
      else fxReal false (fxExp (r * fxLn2 / fxOne)) n

/-- log₂ x (R68). -/
def exLog2 (x : FVal) : ExRes :=
  match x with
  | .nan => ⟨.nan, 0⟩
  | .inf s => if s then exNV else ⟨.inf false, 0⟩
  | .num s m e =>
    if m = 0 then ⟨.inf true, fDZ⟩
    else if s then exNV
    else
      let l := Nat.log2 m
      let k := e + l
      if m = 2 ^ l then exOk (.num (decide (k < 0)) k.natAbs 0)
      else
        let f : Int := (fxLn m (2 ^ l) * fxOne / fxLn2 : Nat)
        let v := k * (fxOne : Int) + f
        fxReal (decide (v < 0)) v.natAbs 0

/-- e^−t as (mantissa, exponent) with mantissa in [1, 2): t is in fixed point. -/
def fxExpNeg (t : Nat) : Nat × Int :=
  let n := t / fxLn2
  let r := t % fxLn2
  if r = 0 then (fxOne, -(n : Int)) else (fxExp (fxLn2 - r), -(n : Int) - 1)

/-- tanh x (R68). -/
def exTanh (x : FVal) : ExRes :=
  match x with
  | .nan => ⟨.nan, 0⟩
  | .inf s => ⟨.real s 1 0 false, 0⟩
  | .num s m e =>
    if m = 0 then ⟨.zero s, 0⟩
    else if topExp m e ≥ 8 then nudged s 1 0 true
    else if topExp m e < -60 then nudged s m e true
    else
      let p := fxExpNeg (2 * fxOf m e)
      let q := p.1 / 2 ^ (-p.2).toNat
      if p.2 < -150 then nudged s 1 0 true
      else fxReal s ((fxOne - q) * fxOne / (fxOne + q)) 0

/-- 1 ÷ (1 + e^−x) (R68). -/
def exSigm (x : FVal) : ExRes :=
  match x with
  | .nan => ⟨.nan, 0⟩
  | .inf s => if s then ⟨.zero false, 0⟩ else ⟨.real false 1 0 false, 0⟩
  | .num s m e =>
    if m = 0 then ⟨.real false 1 (-1) false, 0⟩
    else if topExp m e ≥ 12 then
      if s then ⟨.real false 1 (-5900) true, 0⟩ else nudged false 1 0 true
    else if topExp m e < -150 then nudged false 1 (-1) s
    else
      let p := fxExpNeg (fxOf m e)
      let q := p.1 / 2 ^ (-p.2).toNat
      if s then fxReal false (p.1 * fxOne / (fxOne + q)) p.2
      else if p.2 < -200 then nudged false 1 0 true
      else fxReal false (fxOne * fxOne / (fxOne + q)) 0

end Sys2Proof.Machine
end

