-- ==== Sys2Proof/Config.lean ====
section
/-! DEFINITION. Config.lean: what is fixed for the machine (sizes the spec states) and the free values (opaque, without a body). -/

namespace Sys2Proof.Config

/-- Core sites of the package, 32 x 32 on each of four dies (spec/00 R2). -/
def nSites : Nat := 4096
/-- Ferries of the package (R2). -/
def nFerries : Nat := 128
/-- Bytes of a scratchpad (R7). -/
def spadBytes : Nat := 0x80000
/-- First byte of the slot frames (R9). -/
def frameBase : Nat := 0x7C000
/-- Receive pool slots of a core (R116). -/
def poolSlots : Nat := 512
/-- Ready queue entries of a core (R127). -/
def readyMax : Nat := 16
/-- Deque entries of a core (R128). -/
def dequeMax : Nat := 64
/-- SYS packets a core reserves buffers for (R337). -/
def sysReserve : Nat := 4
/-- NI replay buffer entries and ticket table entries of a core (R7). -/
def replayMax : Nat := 64
def ticketMax : Nat := 16
/-- Page records and source table entries of a home (R277). -/
def pageRecs : Nat := 256
def sourceMax : Nat := 64
/-- Home translation cache entries of a ferry (R175). -/
def tlbMax : Nat := 2048
/-- Live subscriptions of a ferry and fix-up entries of a subscription (R210, R212). -/
def subMax : Nat := 64
def fixupMax : Nat := 16
/-- Outbox requests of a slot (R305). -/
def outboxMax : Nat := 32
/-- Matrix queue entries of a core (R224). -/
def mqMax : Nat := 16
/-- Bytes of a cluster's adapter cache (R2). -/
def adpCache : Nat := 512 * 1024
/-- Bytes of HBM behind the 128 ferries (R2, R352). -/
def hbmBytes : Nat := 768 * 2 ^ 30
/-- Instructions retired after the oldest unacknowledged request before a slot stalls (R282). -/
def skidMax : Nat := 256

/-- Cycles that pass before step n. The spec fixes no time between two steps of the model (notes/assumptions/2). -/
opaque freeCycles : Nat → Nat
/-- Nanoseconds of global time that pass before step n (notes/assumptions/2). -/
opaque freeNs : Nat → Nat
/-- The device identity key: the secret seed, the secret key of the message randomizer and the public seed (R370; notes/assumptions/10). -/
opaque keySeed : BitVec 256
opaque keyPrf : BitVec 256
opaque keyPublicSeed : BitVec 256
/-- The 32 random bytes that a signature made in step n takes in (R370; notes/assumptions/10). -/
opaque signRandom : Nat → BitVec 256
/-- Which translation cache entry a full cache replaces (R175 leaves it open; notes/assumptions/7). -/
opaque freeVictim : Nat → Nat
/-- Whether an access of step n misses the home cache, and the partition whose line its fill evicts, if any (R177 and R355 name the
cache and its counters and give no organisation; notes/assumptions/21). -/
opaque freeMiss : Nat → Bool
opaque freeEvict : Nat → Option Nat
/-- Which way a BULK packet takes among the minimal paths, and which causeway link (R334, R336; notes/assumptions/84). -/
opaque freeRoute : Nat → Nat
/-- Which of two bytes a matrix read sees when a store races it (R237; notes/assumptions/12). -/
opaque freeRace : Nat → Bool
/-- The bytes of a spill frame, whose layout is opaque (R296; notes/assumptions/17). -/
opaque freeFrame : Nat → Byte
/-- Whether a shadow frame meets an uncorrectable error at dawn (R303; notes/assumptions/18). -/
opaque freeShadow : Nat → Bool
/-- A die temperature reading (R375; notes/assumptions/13). -/
opaque freeSensor : Nat → Nat
/-- Pages of HBM below 512 GiB to which the boot ROM copies the firmware image, and at which it places the firmware's code (R378 names
no address; notes/assumptions/19). -/
opaque fwImagePage : Fin (2 ^ 27)
opaque fwCodePage : Fin (2 ^ 27)
def fwImageAddr : Nat := fwImagePage.val * 4096
def fwCodeBase : Nat := fwCodePage.val * 4096

end Sys2Proof.Config
end

