-- ==== Sys2Proof/Machine/Mem.lean ====
section
/-! DEFINITION. Machine/Mem.lean: byte memory as a sorted list of (address, byte) pairs, and tables as sorted lists of (key, value)
pairs. An unlisted byte reads 0: R376 says so of a scratchpad; for other memory see notes/assumptions/1. -/

namespace Sys2Proof.Machine

/-- Byte memory in canonical form: addresses strictly rising, no listed byte is 0. -/
abbrev Mem := List Host.Cell

/-- What an unlisted address reads as. -/
def unlisted : Byte := 0

/-- Addresses strictly rise from lo and no byte is the unlisted one. -/
def Mem.wfFrom (lo : Nat) : Mem → Bool
  | [] => true
  | (a, b) :: m => decide (lo ≤ a) && b != unlisted && Mem.wfFrom (a + 1) m

/-- The canonical form. -/
def Mem.wf (m : Mem) : Bool := Mem.wfFrom 0 m

/-- Reads one byte. -/
def readByte : Mem → Nat → Byte
  | [], _ => unlisted
  | (b, v) :: m, a => if b = a then v else readByte m a

/-- Writes one byte, keeping the canonical form. -/
def writeByte : Mem → Nat → Byte → Mem
  | [], a, v => if v = unlisted then [] else [(a, v)]
  | (b, w) :: m, a, v =>
    if a < b then (if v = unlisted then (b, w) :: m else (a, v) :: (b, w) :: m)
    else if a = b then (if v = unlisted then m else (a, v) :: m)
    else (b, w) :: writeByte m a v

/-- Reads n bytes from a. -/
def readBytes (m : Mem) (a : Nat) : Nat → List Byte
  | 0 => []
  | n + 1 => readByte m a :: readBytes m (a + 1) n

/-- Writes a list of bytes from a. -/
def writeBytes (m : Mem) (a : Nat) : List Byte → Mem
  | [] => m
  | b :: bs => writeBytes (writeByte m a b) (a + 1) bs

/-- Bytes to a number, little-endian (R75). -/
def leNat : List Byte → Nat
  | [] => 0
  | b :: bs => b.toNat + 256 * leNat bs

/-- A number to n bytes, little-endian (R75). -/
def leBytes : Nat → Nat → List Byte
  | 0, _ => []
  | n + 1, v => BitVec.ofNat 8 v :: leBytes n (v / 256)

/-- A little-endian number of n bytes at a. -/
def readLE (m : Mem) (a n : Nat) : Nat := leNat (readBytes m a n)
/-- Stores v as n little-endian bytes at a. -/
def writeLE (m : Mem) (a n v : Nat) : Mem := writeBytes m a (leBytes n v)

/-- A table: keys strictly rise. -/
abbrev Table (α : Type) := List (Nat × α)

def tget {α : Type} : Table α → Nat → Option α
  | [], _ => none
  | (k, v) :: t, i => if k = i then some v else tget t i

def tset {α : Type} : Table α → Nat → α → Table α
  | [], i, v => [(i, v)]
  | (k, w) :: t, i, v => if i < k then (i, v) :: (k, w) :: t else if i = k then (i, v) :: t else (k, w) :: tset t i v

def tdel {α : Type} : Table α → Nat → Table α
  | [], _ => []
  | (k, w) :: t, i => if i = k then t else (k, w) :: tdel t i

/-- The element at position n of a list, if any. -/
def nth {α : Type} : List α → Nat → Option α
  | [], _ => none
  | x :: _, 0 => some x
  | _ :: xs, n + 1 => nth xs n

/-- The list without the element at position n. -/
def dropNth {α : Type} : List α → Nat → List α
  | [], _ => []
  | _ :: xs, 0 => xs
  | x :: xs, n + 1 => x :: dropNth xs n

/-- The list with the element at position n replaced. -/
def setNth {α : Type} : List α → Nat → α → List α
  | [], _, _ => []
  | _ :: xs, 0, y => y :: xs
  | x :: xs, n + 1, y => x :: setNth xs n y

end Sys2Proof.Machine
end

