-- ==== Sys2Proof/Machine/State.lean ====
section
/-! DEFINITION. Machine/State.lean: everything the spec gives the machine, as plain data. -/

namespace Sys2Proof.Machine

/-- An agent that performs requests or exchanges packets: a core by its physical site, a ferry, a landing by its number, the
adapter unit of a cluster, the host (R171, R276, R332). -/
inductive Endpoint
  | core (site : Nat)
  | ferry (f : Nat)
  | landing (n : Nat)
  | adapter (cl : Nat)
  | host
  deriving DecidableEq, Repr

/-- A message: the header fields of R137 and six payload words. -/
structure Msg where
  time : BitVec 32 := 0
  seq : BitVec 16 := 0
  gang : Bool := false
  rel : Bool := false
  count : Nat := 0
  kind : Nat := 0
  srcCore : Nat := 0
  srcDev : Nat := 0
  chan : Nat := 0
  dstCore : Nat := 0
  dstDev : Nat := 0
  words : Vector Word 6 := Vector.replicate 6 0
  deriving DecidableEq, Repr

/-- A message a core holds: its arrival time (R323), the returned mark of R307, and the partition of its sender. -/
structure QMsg where
  msg : Msg
  arrival : Nat
  returned : Bool := false
  part : Nat := 1000             -- the sender's partition, as its request carried it (R348)
  deriving DecidableEq, Repr

/-- A bound stream (R108). -/
structure Stream where
  base : Word
  count : Nat
  stride : Int
  write : Bool
  pos : Nat
  deriving DecidableEq, Repr

/-- The integer and floating atomics (R192). -/
inductive AmoOp | add | and | or | xor | min | max | swap | cas | fadd | fadd64 | minn | maxn
  deriving DecidableEq, Repr

/-- What a request asks of its home (R77, R104, R192, R193, R141, R23, R221, R222). -/
inductive ROp
  | read (n : Nat)
  | write (bytes : List Byte)
  | vread (act : Mask32) (bcast : Bool)
  | vwrite (act : Mask32) (data : Lanes)
  | amo (op : AmoOp) (n : Nat) (c d : Word)
  | vadd (t : VTy) (act : Mask32) (data : Lanes)
  | vaddi (t : VTy) (act : Mask32) (idx data : Lanes)
  | line
  | msg (m : Msg)
  | subscr (win rows groups : Nat) (snap : List Nat) (desc : List Byte)
  | unsub (handle : Word)
  | fstat (handle : Word)
  | drain (bytes : List Byte)
  | inval (line : Word)
  deriving DecidableEq, Repr

/-- What a request carries to its home (R77, R179). -/
structure ReqPkt where
  uid : Nat
  seq : BitVec 16
  op : ROp
  addr : Word
  ordered : Bool
  head : Bool
  last : Bool
  part : Nat
  winbase : Word
  srcCore : Nat
  slot : Fin 4
  act : BitVec 48
  deriving DecidableEq, Repr

/-- Where an answer goes: nowhere, an x register (the n low bytes, sign-extended or not), or the active lanes of a v register. -/
inductive RDest
  | none
  | x (r : XReg) (n : Nat) (sgn : Bool)
  | v (r : VReg) (act : Mask32) (bcast : Bool)
  deriving DecidableEq, Repr

/-- Where a request of the NI stands (R278): not yet injected, in flight, ticketed, bounced behind a ticket, or failed and waiting
for the failure notice's other requests to be reported. -/
inductive ReqStatus
  | held
  | flying
  | ticketed (t : BitVec 16)
  | bounced (t : BitVec 16)
  deriving DecidableEq, Repr

/-- A request in the replay buffer or the load table of an NI. -/
structure Req where
  uid : Nat                      -- names the request on this NI, rising in injection order
  seqn : Nat                     -- sequence number, its low 16 bits on the wire; the copies of a SENDM share one
  slot : Fin 4
  act : BitVec 48
  op : ROp
  addr : Word
  home : Endpoint
  ordered : Bool
  phys : Bool := false           -- a copy of a SENDM, addressed by its site (R144)
  dest : RDest
  cntL : Bool
  cntS : Bool
  cntE : Bool
  status : ReqStatus
  head : Bool := false
  last : Bool := false
  burst : Option (BitVec 16) := none   -- the ticket in whose burst it was sent again (R278)
  snap : List Nat := []          -- uids a SEND.R, SUBSCR or TREL waits for (R143, R216)
  loads : List Nat := []         -- loads of its activation that are performed before it, a request of an outbox (R189)
  part : Nat                     -- partition of the requester; `fwPart` for firmware
  winbase : Word
  retAt : Nat                    -- instructions the slot had retired once this one retired
  killed : Bool := false         -- its activation was killed: it completes without effect (R307)
  tell : Option Word := none     -- its result goes to the twin secondary too, with this fingerprint (R309)
  foldEnd : Nat := 0             -- words folded once its instruction retired: the last ones stand for its data (R310)
  ticketAt : Nat := 0            -- cycle at which its ticket answer came (R297)
  deriving DecidableEq, Repr

/-- The partition number that stands for firmware. -/
def fwPart : Nat := 1000

/-- States of a ticket entry (R278). -/
inductive TState | free | opened | replaying | failed
  deriving DecidableEq, Repr

/-- An entry of the requester ticket table (R278, R294). -/
structure TicketEnt where
  state : TState := .free
  ticket : BitVec 16 := 0
  home : Endpoint := .host
  page : Word := 0
  seqn : Nat := 0
  slot : Fin 4 := 0
  hold : Bool := false           -- FAILED or REPLAYING with an ordered request: the home still holds the source (R278)
  deriving DecidableEq, Repr

/-- A late event of a slot: a refusal or a ticket failure that is due (R275, R279, R281). -/
structure Due where
  uid : Nat
  seqn : Nat
  cause : BitVec 8
  tval : Word
  req : BitVec 2
  late : Bool
  retAt : Nat
  strictAt : Option Word := none          -- the instruction that STRICT held for the request (R283)
  ticket : Option (BitVec 16 × Endpoint) := none   -- the failed ticket that removed the request (R279)
  deriving DecidableEq, Repr

/-- A partial of a quorum pattern (R125). -/
structure Partial where
  k : Nat
  comb : Word
  words : Vector Word 6
  count : Nat
  seq : BitVec 16
  lost : List QMsg               -- the messages absorbed, kept for delay accounting (R323)
  deriving DecidableEq, Repr

/-- What a replayable activation holds of one term (R122, R125): of the channel set up as the `gen`-th, and for a partial of the quorum
pattern set up as the `pgen`-th. `roam` says that the message stands in the deque. -/
structure Held where
  chan : Nat
  msgs : List QMsg
  part : Option Partial
  gen : Nat := 0
  pgen : Nat := 0
  roam : Bool := false
  deriving DecidableEq, Repr

/-- The origin of a message counted at the end of an activation (R323). -/
structure DelayMsg where
  dev : Nat
  core : Nat
  time : BitVec 32
  arrival : Nat
  deriving DecidableEq, Repr

/-- A request in the outbox of a replayable activation (R305). -/
structure OutReq where
  op : ROp
  addr : Word
  ordered : Bool
  winbase : Word
  retAt : Nat                    -- instructions the slot had retired once this one retired (R281)
  snapReads : List Nat           -- snapshot of a SEND.R at its issue (R143)
  rect : Option (List Nat)       -- the sites of a SENDM
  deriving DecidableEq, Repr

/-- Slot states (R16); `reserved` is a slot granted to a gang or twin of the core at the given site (R130, R308), or, with the number
of no site, one that a restore is filling (R298). -/
inductive SlotMode
  | free
  | run
  | stalled
  | closing
  | reserved (lead : Nat)
  deriving DecidableEq, Repr

/-- The twin of an activation: which role, and the site of the partner (R308). -/
inductive TwinRole
  | primary (partner : Nat)
  | secondary (partner : Nat)
  deriving DecidableEq, Repr

/-- An activation that a firing started: the core's site, the slot, the activation id (R130, R308). -/
structure Member where
  site : Nat
  slot : Fin 4
  act : BitVec 48
  deriving DecidableEq, Repr

/-- What a twin's slot waits for, beside what stalls any slot: the exchange of fingerprints, or the primary's result (R309, R310). -/
inductive TwinWait | none | exchange | result
  deriving DecidableEq, Repr

/-- One ready-queue entry (R122), or a spilled activation that is ready to return (R298). -/
structure Fired where
  pat : Nat
  ch0 : Nat := 0                 -- channel of term 0, whose FAULTCH receives the reports (R116)
  lead : Option Nat := none      -- on a gang member, the logical number of the core whose pattern fired
  entry : Word
  terms : List (Nat × Vector Word 6)
  comb : Word
  sqv : Bool
  sqterm : Nat
  seq : BitVec 16
  quorum : Nat
  gang : Nat
  replay : Bool
  twin : Bool
  held : List Held
  returned : Bool
  delays : List DelayMsg
  reruns : Nat := 0
  deriving DecidableEq, Repr

inductive ReadyEnt
  | start (f : Fired)
  | resume (slot : Fin 4) (frame : Nat)
  deriving DecidableEq, Repr

/-- The context of one slot (R8, R295). -/
structure Slot where
  mode : SlotMode := .free
  x : Vector Word 32 := Vector.replicate 32 0
  v : Vector Lanes 32 := Vector.replicate 32 (Vector.replicate 32 0)
  m : Vector Mask32 8 := Vector.replicate 8 0
  pc : Word := 0
  fexc : BitVec 5 := 0
  cntL : Nat := 0
  cntS : Nat := 0
  cntE : Nat := 0
  cntM : Nat := 0
  pendX : BitVec 32 := 0
  pendV : BitVec 32 := 0
  streams : Vector (Option Stream) 4 := Vector.replicate 4 none
  strict : Bool := false
  winbase : Word := 0
  cause : BitVec 8 := 0
  tval : Word := 0
  epc : Word := 0
  tseq : BitVec 17 := 0
  treq : BitVec 2 := 3
  exact : Bool := false
  late : Bool := false
  nest : Bool := false
  pm : Bool := false
  sup : Bool := false
  lfsr : BitVec 32 := 1
  actId : BitVec 48 := 0
  serial : BitVec 24 := 0        -- start count of the slot (R314)
  fired : Option Fired := none   -- what the activation was started from
  replayable : Bool := false
  outbox : List OutReq := []
  twin : Option TwinRole := none
  group : List Member := []      -- on a gang or a twin: the activations started together, the lead or primary first (R130, R308)
  twinWait : TwinWait := .none
  fprint : Word := 0
  folds : Nat := 0               -- words folded into fprint so far
  retired : Nat := 0             -- instructions retired since body start (R310)
  exchanged : Option Nat := none -- retirement count of the last twin exchange that agreed
  results : List (Word × Word) := []   -- results the primary hands to its secondary, each with the fingerprint after it (R309)
  due : List Due := []
  stepOwed : Bool := false
  strictReq : Option Nat := none -- a request STRICT waits for (R283)
  strictNext : Option (Vector (Option Stream) 4) := none   -- the streams once the instruction STRICT holds has completed (R111, R283)
  waits : List Nat := []         -- the requests and fills that hold the stalled slot, by uid (R297)
  stallAt : Nat := 0             -- cycle at which the slot stalled or began to close (R297)
  startNs : Nat := 0
  endReport : Bool := false      -- closing with a kill: outstanding requests have no effect
  ilen : Nat := 1                -- length in halfwords of the instruction being executed
  deriving DecidableEq, Repr

/-- A slot stalled on a fill (R23): its activation, the pc of its instruction, the pc it reached, and for a taken transfer the return
address it writes, if it is a call. -/
structure FillWait where
  slot : Fin 4
  act : BitVec 48
  at_ : Word
  reach : Word
  xfer : Option (Option Word)
  deriving DecidableEq, Repr

/-- An activation away in a spill frame (R296 to R298). -/
structure Away where
  slot : Fin 4
  frame : Nat
  ctx : Slot
  frameBytes : List Byte
  frameUE : List Nat             -- offsets of words of the slot frame with an uncorrectable error
  waits : List Nat               -- the requests and fills it waits for
  fillTrap : Option (FillWait × BitVec 8) := none   -- the trap of a line fill that failed while it was away (R23)
  deriving DecidableEq, Repr

/-- A transfer of a slot's context to or from a spill frame; its accesses stand among the core's BULK accesses (R297, R298). -/
structure FrameMove where
  slot : Fin 4
  frame : Nat
  fillTrap : Option (FillWait × BitVec 8) := none
  deriving DecidableEq, Repr

/-- What a core's NI accesses memory for on the BULK class: a trace record (R322), a page of a spill frame written or read (R297, R298), a
message on its way to or from the overflow of the channel set up as the `gen`-th (R132), and on a control core the clearing of an overflow
ring of a partition that is torn down (R359). -/
inductive BulkKind
  | trace
  | spillPage (p : Nat)
  | restorePage (p : Nat)
  | ovfReturn (ch gen ix : Nat)
  | ovfSpill
  | clear (part : Nat)
  deriving DecidableEq, Repr

/-- A BULK access of a core's NI that is not yet complete: in flight, or waiting on a ticket (R188, R332). -/
structure Bulk where
  uid : Nat
  kind : BulkKind
  op : ROp
  addr : Word
  status : ReqStatus := .flying
  burst : Option (BitVec 16) := none   -- the ticket in whose burst it was sent again (R278)
  deriving DecidableEq, Repr

/-- An entry of an overflow ring: where it stands and, for a sequenced channel, its number (R126, R132). -/
structure OvfEnt where
  ix : Nat
  seq : BitVec 16
  arrival : Nat
  returned : Bool
  part : Nat := 1000
  deriving DecidableEq, Repr

/-- Channel kinds (R115). -/
inductive ChanKind | fifo | sequenced | roaming
  deriving DecidableEq, Repr

/-- A configured channel (R115, R150, R151). -/
structure Chan where
  kind : ChanKind
  cap : Nat
  peer : Bool
  code : Bool
  faultCh : Option (BitVec 8)
  faultRaw : BitVec 8            -- FAULTCH as set, for CHGET
  ovfBase : Word
  ovfSize : Nat
  nextSeq : BitVec 16
  queue : List QMsg := []        -- pool messages, oldest first, held ones included
  ovf : List OvfEnt := []        -- overflow entries, oldest first
  head : Nat := 0
  tail : Nat := 0
  drops : Nat := 0
  last : Nat := 63
  waiters : List Endpoint := []  -- senders that wait on a refused spill (R133)
  held : Nat := 0                -- pool slots (deque entries) still held for replayable activations (R122)
  heldParts : Nat := 0           -- fired partials still held (R125)
  gen : Nat := 0                 -- which CHSET of the core set it up
  deriving DecidableEq, Repr

/-- Combine operations (R117). -/
inductive Comb | none | add | or | max | fadd
  deriving DecidableEq, Repr

/-- A valid pattern (R117). -/
structure Pat where
  raw : List Byte                -- the descriptor as set, for PATGET
  terms : List Nat
  qn : Nat                       -- quorum count n, or 0 for ordinary terms
  comb : Comb
  replay : Bool
  twin : Bool
  gang : Nat
  entry : Word
  prog : Option Partial := none  -- the partial in progress
  done : List Partial := []      -- complete partials returned by R307
  held : Bool := false           -- a fired partial is held in its second slot (R125)
  gen : Nat := 0                 -- which PATSET of the core set it up
  deriving DecidableEq, Repr

/-- One roaming message in the deque (R128). -/
structure DeqEnt where
  chan : Nat
  qm : QMsg
  deriving DecidableEq, Repr

/-- An instruction cache line: address, its bytes, whether it passed R18, and a use stamp for replacement (R22). -/
structure CLine where
  addr : Nat
  words : List Half
  start : BitVec 56
  target : BitVec 56
  ok : Bool
  used : Nat
  deriving DecidableEq, Repr

/-- A line fill in flight (R23). `discard` marks one that IINV overtook (R293). -/
structure Fill where
  line : Nat
  uid : Nat
  status : ReqStatus
  discard : Bool := false
  waiters : List FillWait := []
  ticketAt : Nat := 0
  burst : Option (BitVec 16) := none   -- the ticket in whose burst it was sent again (R278)
  deriving DecidableEq, Repr

/-- Who hears how the spill of a message ends (R132, R133): the source of a request, of the network or of a FORK; a peer, by its port,
device, core and sequence number (R344); firmware with a remote launch and the report it then makes (R348); the core with a fault report
(R284) or an entry it has stolen (R129). -/
inductive Spiller
  | source (src : Endpoint) (r : ReqPkt)
  | peer (port dev core seq : Nat) (last : Bool)
  | launch (die : Nat) (q : QMsg) (part version : Nat) (w1 : Word)
  | report
  | stolen
  deriving DecidableEq, Repr

/-- The spill a core's NI has on its way: `out` is being written to entry `ix` of the ring of the channel set up as the `gen`-th, by the
BULK access `uid`. It is the message that arrived, or the farthest one held, whose place the arrival `come` then takes (R126, R132). -/
structure Spill where
  uid : Nat
  chan : Nat
  gen : Nat
  ix : Nat
  out : QMsg
  come : Option QMsg
  by_ : Spiller
  deriving DecidableEq, Repr

/-- A message of the SYS class that an NI has taken off the network and not yet placed (R337); `fwd` says that a vacated site forwarded it
(R300). -/
structure SysWait where
  src : Endpoint
  req : ReqPkt
  fwd : Bool := false
  deriving DecidableEq, Repr

/-- The instruction a core issued last, with the cycle of its issue (R322). -/
structure Issued where
  slot : Fin 4
  pat : Nat
  act : BitVec 48
  pc : Word
  cycle : Nat
  deriving DecidableEq, Repr

/-- An entry of the delay table (R323, R324). -/
structure DelayEnt where
  dev : Nat
  core : Nat
  count : Nat
  transit : Nat
  queue : Nat
  run : Nat
  deriving DecidableEq, Repr

/-- Berth states (R200). -/
inductive BState | empty | filling | ready | draining
  deriving DecidableEq, Repr

/-- A tile table entry that TSET has set (R197 to R204). -/
structure Tile where
  win : Nat
  off : Nat
  rows : Nat
  groups : Nat
  rstride : Nat
  output : Bool
  state : BState := .empty
  tnum : Nat := 0
  handle : Nat := 0
  rpos : Nat := 0
  subv : Bool := false
  fault : Bool := false
  failAddr : Word := 0
  relp : Bool := false
  dest : Bool := false
  pin : Nat := 0
  relSnap : List Nat := []       -- requests the ferry's reads follow (R216)
  deriving DecidableEq, Repr

/-- A subscription descriptor, decoded (R205). -/
structure SubDesc where
  base : Word
  xbase : Word
  rpitch : Nat
  tcount : Nat
  flagv : Nat
  s1 : Int
  s2 : Int
  s3 : Int
  c1 : Nat
  c2 : Nat
  c3 : Nat
  rfirst : Nat
  rlen : Nat
  output : Bool
  fmt : Nat
  gather : Bool
  dcount : Bool
  dbase : Bool
  nv : Bool
  nchan : Nat
  klen : Nat
  idxaddr : Word
  defaddr : Word
  deriving DecidableEq, Repr

/-- What a segment carries: words of the row index list, bytes of a row, or scale bytes of a row (R206, R212). -/
inductive SegKind | index | row | scale
  deriving DecidableEq, Repr

/-- A segment: the part of a row, of its scale bytes or of the index list that lies in one 4 KiB piece (R212). -/
structure Seg where
  id : Nat
  kind : SegKind
  row : Nat
  off : Nat                      -- its first byte within the row, the scale bytes or the list
  addr : Word
  len : Nat
  deriving DecidableEq, Repr

/-- A tile a ferry is moving: segments not yet sent, segments on their way with the uids of their packets, and the bytes read so far,
keyed 2^48 × kind + 2^16 × row + byte (R212). -/
structure TileJob where
  tile : Nat
  segs : List Seg
  flying : List (Nat × Seg) := []
  stage : Mem := []
  indexed : Bool                 -- the rows are known: no index list, or all of it read
  deriving DecidableEq, Repr

/-- A segment that waits on a ticket (R212). -/
structure Fixup where
  ticket : BitVec 16
  home : Nat
  tile : Nat
  seg : Seg
  deriving DecidableEq, Repr

/-- Where a subscription stands (R223); `record` is the flag met and the record not yet read (R209). -/
inductive SubState | waiting | record | active | done | failed | cancelled
  deriving DecidableEq, Repr

/-- A subscription entry of a ferry (R210 to R213). -/
structure Sub where
  gen : Nat
  part : Nat
  lcore : Nat
  slot : Fin 4
  act : BitVec 48
  snap : List Nat
  d : SubDesc
  rows : Nat
  groups : Nat
  win : Nat
  state : SubState
  tcount : Nat := 0
  tdone : Nat := 0
  next : Nat := 0                -- next tile to start
  jobs : List TileJob := []
  fixups : List Fixup := []
  defTicket : Option (BitVec 16 × Nat) := none   -- the deferred read waits on this ticket of this ferry
  drops : Nat := 0
  fail : Option (Nat × Word) := none   -- the tile that failed and the failing address (R213)
  stopping : Bool := false       -- UNSUB accepted: sent segments finish, and the berths in hand are drained
  deriving DecidableEq, Repr

/-- A notice of a subscription, not yet acknowledged (R211): flying, or held behind a refused spill. -/
structure Note where
  uid : Nat
  handle : Nat
  part : Nat
  msg : Msg
  flying : Bool := false
  ticket : Option (BitVec 16 × Endpoint) := none
  deriving DecidableEq, Repr

/-- An entry of the home translation cache (R175). `pa` is an address of State.mem. -/
structure TlbEnt where
  pasid : Nat
  va : Nat
  log2 : Nat
  pa : Nat
  r : Bool
  w : Bool
  x : Bool
  deriving DecidableEq, Repr

/-- The access a request needs (R175). -/
inductive Need | read | write | both | exec
  deriving DecidableEq, Repr

/-- A page record of a home (R277). -/
structure PageRec where
  pasid : Nat
  page : Nat                     -- VA of the 4 KiB piece, divided by 4096
  need : Need
  pri : Bool := false            -- a PRI request is out; otherwise an ATS request
  want : Option Nat := none      -- a PRI request is held since this step, for the host grants no more (R351)
  opened : Nat                   -- global time
  sources : List Endpoint
  deriving DecidableEq, Repr

/-- An entry of a home's source table (R277, R278). `rlx` marks one that only relaxed requests opened. -/
structure SrcEnt where
  src : Endpoint
  hold : Bool
  ticket : BitVec 16
  rlx : Bool
  deriving DecidableEq, Repr

/-- One ferry: translation cache, page records by index, source table, subscriptions by entry, generations. -/
structure Ferry where
  tlb : List TlbEnt := []
  recs : Table PageRec := []
  srcs : List SrcEnt := []
  subs : Table Sub := []
  notes : List Note := []
  nextNote : Nat := 0            -- uid of the next notice or segment
  late : List (Endpoint × BitVec 16 × Bool) := []  -- notices held for a dark partition: source, ticket, success (R303)
  gens : Table Nat := []         -- the generation that entry i takes when it is reused (R210)
  priLost : Table Nat := []      -- records that a teardown closed while their page request was out, with its time (R351, R359)
  deriving DecidableEq, Repr

/-- A drain micro-op, decoded (R252). -/
structure MicroOp where
  op : Nat
  dst : Nat
  s1 : Nat
  s2 : Nat
  s3 : Nat
  md : Nat
  deriving DecidableEq, Repr

/-- A drain program slot: its micro-ops up to END and its constants (R250). -/
structure DrainImg where
  ops : List MicroOp
  consts : List A40
  deriving DecidableEq, Repr

/-- One side of a block as the array has read it: the group is poisoned by an uncorrectable word, is a NaN group, or holds 32 integers over
one exponent (R226, R227). -/
inductive Side
  | poison
  | nan
  | ints (vs : List Int) (e : Int)
  deriving DecidableEq, Repr

/-- The kinds of queued matrix commands (R247). -/
inductive MKind | mxm | mxd | mxz | adpinv
  deriving DecidableEq, Repr

/-- A queued matrix command (R230, R231, R235). -/
structure MCmd where
  kind : MKind
  slot : Fin 4
  act : BitVec 48
  pat : Nat
  at_ : Nat := 0
  bt : Nat := 0
  dst : Nat := 0
  aux : Nat := 0
  adp : Nat := 0
  auxv : Bool := false
  adpv : Bool := false
  colb : Nat := 0
  ofmt : Nat := 0
  dslot : Nat := 0
  fin : Bool := false
  acc : Bool := false
  kb : Nat := 0
  p : Nat := 0
  id : Nat := 0
  all : Bool := false
  m : Nat := 0                   -- shape of the chain the command works on
  n : Nat := 0
  kpos0 : Nat := 0               -- chain block of its block 0
  blk : Nat := 0                 -- next block to fold
  started : Bool := false
  folded : Bool := false
  readyAt : Option Nat := none   -- step number at which it became ready to drain (R250)
  apin : Bool := false           -- its pin on the A tile stands
  view : Mem := []               -- the scratchpad as it stood at issue, which its tile reads may still see (R237)
  sideA : List Side := []        -- the rows of the A and B tiles in the array, as its block has read them
  sideB : List Side := []
  deriving DecidableEq, Repr

/-- A block of one row the adapter unit still has to apply (R242): chain block, the row, and the A values it uses. -/
structure ReplayEnt where
  row : Nat
  kb : Nat
  vals : List FVal
  deriving DecidableEq, Repr

/-- The accumulator slot of a core (R233, R248). Elements are keyed i × 256 + j; an unlisted one is +0. -/
structure Acc where
  opened : Bool := false
  m : Nat := 0
  n : Nat := 0
  colb : Nat := 0
  kpos : Nat := 0
  ids : List Nat := []
  stat : List Nat := []
  failed : List Nat := []        -- rows with ADPFAIL
  u : Table A40 := []            -- keyed row × 64 + t
  flags : Nat := 0
  poison : Bool := false
  replay : List ReplayEnt := []
  adptab : Word := 0
  elems : Table A40 := []
  ue : List Nat := []            -- elements with an uncorrectable error
  deriving DecidableEq, Repr

/-- Cache tags of the adapter unit (R242). -/
inductive ATag
  | entry (id : Nat)
  | aSide (id kb : Nat)
  | bSide (id colb : Nat)
  deriving DecidableEq, Repr

/-- A line of the adapter cache. -/
structure ALine where
  tag : ATag
  bytes : List Byte
  used : Nat
  drop : Bool := false           -- ADPINV removed it; it goes when the chain that uses it closes (R244)
  deriving DecidableEq, Repr

/-- A piece of a fetch, within one 4 KiB page: in flight, waiting on a ticket, or read (R242, R212). -/
structure APiece where
  uid : Nat
  addr : Word
  len : Nat
  status : ReqStatus := .flying
  data : Option (List Byte) := none
  deriving DecidableEq, Repr

/-- A fetch of the adapter unit (R242). `discard` marks one that ADPINV overtook (R244). -/
structure AFetch where
  tag : ATag
  core : Nat                     -- rank whose chain asked first
  pieces : List APiece
  discard : Bool := false
  deriving DecidableEq, Repr

/-- A running drain (R250, R260, R265). -/
structure DrainRun where
  rank : Nat
  group : Nat := 0               -- next group to commit
  sums : List (A40 × A40) := []  -- sum and maximum of each row of the committed groups
  rowv : List (List Nat) := []   -- aux rows 4 to 7 and 0 to 3 as read at the start, FP32 patterns
  colv : List (List Nat) := []
  deriving DecidableEq, Repr

/-- The shared resources of a cluster (R224). -/
structure Cluster where
  lease : BitVec 8 := 8
  adptab : Word := 0
  progs : Vector (Option DrainImg) 16 := Vector.replicate 16 none
  holder : Option Nat := none
  used : Nat := 0
  lastRank : Nat := 3
  limit : Nat := 8               -- LEASE at the last grant
  cache : List ALine := []
  fetches : List AFetch := []
  nextUid : Nat := 0             -- uid of the next piece of a fetch
  drain : Option DrainRun := none
  deriving DecidableEq, Repr

/-- A replay or failure notice that an NI has taken off the network and cannot act on yet (R278, R312, R337). -/
structure Notice where
  home : Endpoint
  ticket : BitVec 16
  ok : Bool
  pages : Bool := false          -- it came before the ticket answer to a page of a spill frame, which it still concerns (R312)
  deriving DecidableEq, Repr

/-- One core (R7). -/
structure Core where
  ctrl : Bool := false           -- control core of its die (R338)
  boot : Bool := false           -- BOOT state (R379)
  bootSum : Word := 0
  lcore : Option Nat := none     -- user logical number
  part : Option Nat := none
  halted : Bool := false         -- dusk or migration
  slots : Vector Slot 4 := Vector.replicate 4 {}
  lastIssued : Nat := 3
  issued : Option Issued := none -- what issued last, and when (R322)
  spad : Mem := []
  spadUE : List Nat := []        -- offsets of words with an uncorrectable error
  spadCE : List Nat := []        -- offsets of words with a single-bit error
  icache : List CLine := []
  fills : List Fill := []
  chans : Table Chan := []
  pats : Table Pat := []
  marked : List Nat := []
  nextGen : Nat := 1             -- number of the next CHSET or PATSET that is accepted
  strayDeque : Nat := 0          -- deque entries held for replayable activations whose channel has gone (R128, R152)
  ready : List ReadyEnt := []
  deque : List DeqEnt := []      -- oldest first
  granted : List Nat := []       -- sites that granted the gang or twin at the head of the ready queue
  lastVictim : Option Nat := none
  stealOut : Bool := false       -- a steal request is out
  stolen : Option DeqEnt := none -- a stolen entry that the deque has no room for yet (R128, R129)
  tiles : Table Tile := []
  nextUid : Nat := 0
  nextSeq : Nat := 0
  reqs : List Req := []
  tickets : Vector TicketEnt 16 := Vector.replicate 16 {}
  tvec : Word := 0
  rotate : Word := 0
  stealdom : Word := 0
  spill : Word := 0
  dbgctl : Word := 0
  dbgact : Word := 0
  stepCsr : Word := 0
  events : Vector (BitVec 63) 18 := Vector.replicate 18 0
  delay : List DelayEnt := []    -- entries 0 to 62 in order of first appearance
  others : Option DelayEnt := none
  traceN : Nat := 0
  mq : List MCmd := []
  acc : Acc := {}
  away : List Away := []
  spillOut : Option FrameMove := none    -- a slot spill in progress (R297)
  restoring : Option FrameMove := none   -- a restore in progress (R298)
  bulks : List Bulk := []        -- BULK accesses of the NI, in the order they were sent
  spilling : Option Spill := none        -- a spill on its way (R132)
  inbox : List SysWait := []     -- messages of the SYS class taken off the network and not yet placed (R337)
  reports : List Msg := []       -- fault reports held behind a spill, under way or refused (R284)
  notices : List Notice := []    -- notices that wait for answers still on their way, or for the core to run again, oldest first
  srcs : List SrcEnt := []       -- HOLD entries of senders this core has ticketed (R133, R278)
  fwd : Table Nat := []          -- numbers that a vacated site forwards, with the sites they moved to (R300)
  moveTo : Option Nat := none    -- a migration of the core to this site is in progress (R300)
  awaitMark : List Endpoint := []    -- sources whose switch marker has not arrived (R300)
  mapVer : Nat := 0              -- die map commits this NI has installed (R382)
  baseVer : Nat := 0             -- DIEBASE writes this NI has received (R380)
  corrected : Nat := 0           -- single-bit errors corrected at the site and not yet in the lifetime records (R326)
  deriving DecidableEq, Repr

/-- One commit of a die's logical map (R382). -/
structure MapCommit where
  base : Nat
  sites : List (Option Nat)
  deriving DecidableEq, Repr

/-- A die: the firmware CSRs of its control core, discovery and the logical map (R380 to R382). -/
structure Die where
  dark : Bool := false
  disc : Word := 0
  mapgo : Word := 0
  flooding : List Nat := []      -- sites whose discovery reply has not been placed
  staged : Table Nat := []
  commits : List MapCommit := []
  mapWait : List Endpoint := []  -- recipients that have not installed the last commit
  mapQueue : List Word := []     -- MAPGO writes that wait for the notice
  landVer : Vector Nat 16 := Vector.replicate 16 0
  landBase : Vector Nat 16 := Vector.replicate 16 0
  deriving DecidableEq, Repr

/-- A host message that the host interface has taken in and that is neither placed nor refused (R353, R354). -/
structure HostMsg where
  uid : Nat
  msg : Msg
  relaxed : Bool := false        -- written with the Relaxed Ordering attribute
  flying : Bool := false         -- its packet, or its answer, is on the way
  stored : Bool := false         -- it takes a place of the VF's host store
  ticket : Option (BitVec 16 × Endpoint) := none
  deriving DecidableEq, Repr

/-- What is resident on a partition (R369, R370). -/
structure Image where
  dp : List Byte
  dn : List Byte
  version : Nat
  rbc : Nat
  codeBase : Nat := 0
  nLines : Nat := 0
  deriving DecidableEq, Repr

/-- A partition (R358) with its VF registers (R355) and firmware record (R374). -/
structure Part where
  running : Bool := false
  teardown : Bool := false
  clearing : Bool := false       -- the teardown is clearing the overflow rings (R359)
  gone : Bool := false
  dark : Bool := false
  halting : Bool := false        -- dusk has begun, requests still unanswered (R301)
  clusters : List Nat := []
  pasids : List Nat := [0, 0, 0, 0]
  supcore : Option Nat := none
  nightch : Word := 0
  armed : Bool := true
  nightEvents : Nat := 0
  twins : Bool := false
  image : Option Image := none
  hdrop : Nat := 0
  hrefuse : Nat := 0
  hcacc : Nat := 0
  hcmiss : Nat := 0
  evown : Nat := 0
  evforeign : Nat := 0
  tickets : Nat := 0
  host : List HostMsg := []      -- host messages to the partition, oldest first
  nonce : List Byte := []
  attaddr : Word := 0
  attgo : Bool := false
  attRep : List Byte := []       -- the report of a running attestation
  attWait : Option (BitVec 16 × Endpoint) := none    -- the ticket its writing waits on
  spills : List (Nat × Endpoint × BitVec 16) := []   -- senders refused while dark, with the core's place (R303)
  deriving DecidableEq, Repr

/-- An export window (R345). -/
structure Window where
  base : Nat
  size : Nat
  idev0 : Nat
  idev1 : Nat
  ipart : Nat
  ownpart : Nat
  at_ : Bool
  wr : Bool
  rd : Bool
  deriving DecidableEq, Repr

/-- A request of this device that a landing sent to a peer and that is not yet answered (R343, R344). -/
structure LOut where
  tag : Nat
  src : Endpoint
  uid : Nat
  dev : Nat
  srccore : Nat
  seq : BitVec 16
  op : ROp
  last : Bool
  region0 : Bool
  left : Nat := 1                -- UALink completions still to come
  err : Option UaStatus := none  -- the first error among those that have come (R343)
  sentAt : Nat
  deriving DecidableEq, Repr

/-- A ticket of a landing toward its own cores: the peer and its ticket, and the sources that wait (R346). -/
structure LTicket where
  dev : Nat
  peer : BitVec 16
  sources : List Endpoint
  deriving DecidableEq, Repr

/-- A peer's region-0x0 access that waits at this device until its page is serviced, by the ferry's ticket (R343). Without a ticket it has
been serviced and waits for room at the home. -/
structure PeerWait where
  dev : Nat
  part : Nat
  addr : Word
  acc : UaAccess
  ticket : Option (BitVec 16)
  deriving DecidableEq, Repr

/-- What a peer asks of this device: a message write, an operation record, a region-0x0 access, or something already refused (R343). -/
inductive PeerAsk
  | message (bytes : List Byte)
  | record (bytes : List Byte)
  | access (acc : UaAccess)
  | refused
  deriving DecidableEq, Repr

/-- A request of a peer's landing, the `order`-th it has sent here (R342). -/
structure PeerReq where
  dev : Nat
  part : Nat
  order : Nat
  addr : Word
  ask : PeerAsk
  deriving DecidableEq, Repr

/-- A MISS or FOLLOW for the request with the tag, which waits for room in the landing's tables; `told` is the notice that has come for it
since (R346). -/
structure Missed where
  tag : Nat
  ticket : BitVec 16
  follow : Bool
  told : Option Bool := none
  deriving DecidableEq, Repr

/-- The hold of a core of a peer at this device's landing; `bounced` says that a request was bounced behind it (R344, R278). -/
structure PeerSrc where
  dev : Nat
  core : Nat
  hold : Bool
  ticket : BitVec 16
  bounced : Bool := false
  deriving DecidableEq, Repr

/-- What a landing has put on its port: a request of this device (a read of `read` bytes or a write, of the lanes of `mask` alone if there
is one), or a completion. -/
structure UlTx where
  dev : Nat
  tag : Nat
  addr : Word
  read : Nat := 0
  bytes : List Byte := []
  mask : Option Mask32 := none
  status : Option UaStatus := none
  deriving DecidableEq, Repr

/-- A UALink port and the landing that holds it (R330, R341 to R347). -/
structure Port where
  up : Bool := true
  downDevs : List Nat := []                -- peers refused after a timeout (R347)
  nextTag : Nat := 0
  outs : List LOut := []
  ltickets : Table LTicket := []
  srcs : List SrcEnt := []                 -- source hold toward this device's own sources
  peerSrcs : List PeerSrc := []
  misses : List Missed := []
  inNext : Table Nat := []                 -- the order of the next request of each peer (R342)
  early : List PeerReq := []               -- requests of peers not yet performed, in the order they came in
  waits : List PeerWait := []
  tx : List UlTx := []
  encrypted : Bool := false                -- link encryption (R341)
  deriving DecidableEq, Repr

/-- Packet classes (R331). -/
inductive Cls | req | rsp | sys | bulk
  deriving DecidableEq, Repr

/-- The answer to a request (R77, R104, R192, R146, R276, R281). -/
inductive Answer
  | data (bytes : List Byte)
  | lanes (d : Lanes)
  | old (w : Word)
  | ack
  | refusePerm (code : Nat)
  | refuseUE
  | codeDenied
  | failed
  | ticket (t : BitVec 16) (follow : Bool)
  deriving DecidableEq, Repr

/-- Packet bodies (R332). -/
inductive Body
  | req (r : ReqPkt)
  | answer (uid : Nat) (a : Answer)
  | notice (t : BitVec 16)
  | failure (t : BitVec 16)
  | marker (lcore : Nat) (origin : Endpoint)
  | forward (lcore : Nat) (r : ReqPkt) (src : Endpoint)
  | stealReq (chans : List Nat)
  | stealRep (e : Option DeqEnt)
  | mapCommit (die n : Nat)
  | dieBase (n : Nat)
  | inval (line : Word) (reply : Nat)
  | flood (row col : Nat)
  | nightfall (part : Nat)
  | entryReq (lcore : Nat) (r : ReqPkt)
  deriving DecidableEq, Repr

/-- Where a packet is: with its source, or on a path, which is fixed when its first flit leaves: the links of the path, and for each flit
how many of them it has crossed (R331, R335). -/
inductive Wire
  | queued
  | flying (path at_ : List Nat)
  deriving DecidableEq, Repr

/-- A packet on its way. `start` is the site from which an entry landing sends it on (R339). -/
structure Packet where
  src : Endpoint
  dst : Endpoint
  cls : Cls
  body : Body
  wire : Wire := .queued
  start : Option Nat := none
  deriving DecidableEq, Repr

/-- A directed link: the sender's credits by class, the flits freed at the receiver and not yet returned, oldest first, and the sideband of
the last flit that crossed (R331, R333). -/
structure LinkSt where
  credits : Vector Nat 4 := Vector.ofFn fun i => if i.val = 2 then 4 else if i.val = 3 then 24 else 16
  freed : List Cls := []
  last : Option Word := none
  deriving DecidableEq, Repr

/-- An IINV service whose acknowledgements are outstanding (R373, R315). -/
structure InvSvc where
  die : Nat
  part : Nat
  reply : Word
  total : Nat
  left : Nat
  deriving DecidableEq, Repr

/-- The nonvolatile store (R365, R326, R364, R378). -/
structure NvStore where
  keys : List (List Byte) := []
  ids : List (BitVec 32 × Nat) := []       -- registered IMAGEIDs and their rollback counters
  raising : Option (BitVec 32 × Nat) := none   -- a raise in progress (R365)
  firmware : List Byte := []
  coreImage : List Byte := []
  temp : List (Nat × Nat × Nat) := []      -- die, bin, seconds
  volt : List (Nat × Nat × Nat) := []
  siteErrs : Table Nat := []
  stackErrs : Table Nat := []
  ferryTickets : Table Nat := []
  ferryFails : Table Nat := []
  deriving DecidableEq, Repr

/-- What leaves the device toward the host: vectors, completions of reads, accesses to host memory with requester and PASID (R357),
management answers, and signals of firmware. -/
inductive HostOut
  | msix (vf vector : Nat)
  | pfVector (vector : Nat)
  | bar4Data (off : Nat) (bytes : List Byte)
  | vfData (vf off : Nat) (v : Word)
  | hostAccess (vf pasid addr : Nat) (op : ROp)
  | mctp (bytes : List Byte)
  | machineCheck (site code : Nat)
  | flrDone (vf : Nat)
  deriving DecidableEq, Repr

/-- What firmware, the host's driver or a landing does beside the events of the opcode table: firmware writes an export window, the time
limits, the UALink range, the device number, the link encryption of a port (R345, R347, R357, R341, R342, R371); the host places BAR4,
grants page requests and reads a VF register (R351, R352, R355); a landing goes on with what waits for room (R342, R343, R346); firmware
goes on with an attestation (R370); a router or a control core takes a management packet, the discovery flood or the nightfall signal (R332,
R381, R136). -/
inductive Act
  | setWindow (i : Nat) (w : Window)
  | ticketLimit (ns : Nat)
  | linkLimit (ns : Nat)
  | peerRange (lo hi : Nat)
  | devid (n : Nat)
  | encrypt (port : Nat) (on : Bool)
  | bar4Base (pa : Nat)
  | priGrant (n : Nat)
  | vfRead (vf off : Nat)
  | landing (port : Nat)
  | attest (vf : Nat)
  | manage (pkt : Nat)
  deriving DecidableEq, Repr

/-- Which step comes next: an event of the opcode table, an issue at a core, or another act. -/
inductive Turn
  | event (i : Instr)
  | issue (site : Nat)
  | act (a : Act)
  deriving DecidableEq, Repr

/-- A load that waits on a ticket, or whose ticket has failed (R366). -/
structure LoadWait where
  die : Nat
  src : LoadSource
  home : Endpoint
  ticket : BitVec 16
  failed : Bool := false
  deriving DecidableEq, Repr

/-- The machine. The core of a dark partition p that stood at site x is kept in `cores` at 4096 (p + 1) + x, its cluster c in
`clusters` at 1024 (p + 1) + c: the shadow frames of R301. -/
structure State where
  agenda : List Turn := []       -- the order in which the agents move, left open by the spec (notes/assumptions/2)
  focus : Nat := 0               -- the core that issues when the agenda is empty
  cur : Nat × Fin 4 := (0, 0)    -- core and slot whose instruction exec performs
  stepNo : Nat := 0
  cycle : Nat := 0
  time : Nat := 0                -- global time in ns (R286)
  devid : Nat := 0
  cores : Table Core := []
  clusters : Table Cluster := []
  ferries : Table Ferry := []
  dies : Vector Die 4 := Vector.replicate 4 {}
  parts : Table Part := []
  ports : Vector Port 16 := Vector.replicate 16 {}
  windows : Table Window := []
  mem : Mem := []                -- HBM, host memory and peer memory, at the addresses of `pa`
  memUE : List Nat := []
  memCE : List Nat := []         -- words of HBM with a single-bit error (R326)
  net : List Packet := []
  links : Table LinkSt := []     -- by the numbers of Machine/Links.lean
  failed : List (Nat × Nat) := []          -- failed sites and their self-test codes (R381)
  moved : Table Nat := []        -- sites of migrated or re-placed logical numbers (R300, R303)
  bases : List Word := []        -- DIEBASE writes, oldest first (R380)
  routers : Table Nat := []      -- what a router has set as its coordinates: DIE, ROW and COL as an endpoint code has them (R381)
  invs : Table InvSvc := []
  loads : List LoadWait := []
  nv : NvStore := {}
  ticketLimit : Nat := 1000000000
  linkLimit : Nat := 1000000
  priMax : Nat := 4096           -- outstanding page requests the host grants (R351)
  hostUid : Nat := 0             -- uid of the host interface's next packet
  bar4 : List (Nat × Nat) := []  -- reads through BAR4 on their way: uid and offset (R352)
  bar4Base : Nat := 0
  peerLo : Nat := 0
  peerHi : Nat := 0
  clock : Nat := 1800
  out : List HostOut := []       -- outputs to the host, newest last
  deriving DecidableEq, Repr

/-- The control core of a die, idle, with no image (R378, R379). -/
def ctrlCore : Core := { ctrl := true }

/-- Channel 0 of a core in BOOT state (R379). -/
def bootChan : Chan :=
  { kind := .fifo, cap := 16, peer := true, code := true, faultCh := none, faultRaw := 0, ovfBase := 0, ovfSize := 0, nextSeq := 0 }

/-- A working core in BOOT state (R379). -/
def bootCore : Core := { boot := true, chans := [(0, bootChan)] }

/-- The machine right after reset, as a power-on in which every site passes self-test leaves it before the boot ROM has copied an
image: control cores at site (0, 0) of each die, every other site in BOOT state, every table empty (R376 to R379). A site that
`cores` does not list is a control core or a core in BOOT state by its number. -/
def State.reset : State := {}

/-- Why the machine stops with a fault. -/
inductive Fault
  /-- A home is asked for a physical address beyond the 768 GiB of HBM behind the ferries (R2, R377). Raised by a firmware-mode
  access at its home. Safe: the spec says the frame does not exist. -/
  | noFrame
  deriving DecidableEq, Repr

/-- Why an instruction has no meaning here. -/
inductive Refusal
  /-- Raised by an arm of exec whose meaning is not written. Safe. -/
  | notModelled (mnemonic : String)
  deriving DecidableEq, Repr

end Sys2Proof.Machine
end

