-- ==== Sys2Proof/Machine/Base.lean ====
section
/-! DEFINITION. Machine/Base.lean: looking up and replacing the parts of the state, the fields of addresses and names (spec/10 R161,
spec/08 R138), and who stands where (spec/20 R330, R338, R339). -/

namespace Sys2Proof.Machine

/-- f at every place of a vector, in a form the kernel evaluates. -/
def eachOf {α β : Type} {n : Nat} (v : Vector α n) (f : α → β) : Vector β n := Vector.ofFn fun i => f v[i]

/-- What a step answers. -/
abbrev Res := Host.Outcome State Fault Refusal

/-- The first working site of a die from n on. -/
def firstWorking (failed : List (Nat × Nat)) : Nat → Nat → Nat
  | 0, n => n
  | fuel + 1, n => if (tget failed n).isSome then firstWorking failed fuel (n + 1) else n

/-- The site of a die's control core (R338). -/
def ctrlSite (s : State) (die : Nat) : Nat := firstWorking s.failed 1024 (die * 1024)

/-- A site is working: it passed self-test and its die is in service (R376). -/
def working (s : State) (site : Nat) : Bool :=
  decide (site < Config.nSites) && (tget s.failed site).isNone && !(s.dies[(Fin.ofNat 4 (site / 1024))]).dark

def getCore (s : State) (site : Nat) : Core :=
  (tget s.cores site).getD (if ctrlSite s (site / 1024) = site then ctrlCore else bootCore)
def setCore (s : State) (site : Nat) (c : Core) : State := { s with cores := tset s.cores site c }
def updCore (s : State) (site : Nat) (f : Core → Core) : State := setCore s site (f (getCore s site))

def setSlot (s : State) (site : Nat) (k : Fin 4) (f : Slot → Slot) : State :=
  updCore s site fun c => { c with slots := c.slots.set k (f c.slots[k]) }
def getSlot (s : State) (site : Nat) (k : Fin 4) : Slot := (getCore s site).slots[k]

/-- The core and slot whose instruction is being executed. -/
def curCore (s : State) : Core := getCore s s.cur.1
def curSlot (s : State) : Slot := (curCore s).slots[s.cur.2]
def updCur (s : State) (f : Slot → Slot) : State := setSlot s s.cur.1 s.cur.2 f
def updCurCore (s : State) (f : Core → Core) : State := updCore s s.cur.1 f

def getFerry (s : State) (f : Nat) : Ferry := (tget s.ferries f).getD {}
def setFerry (s : State) (f : Nat) (x : Ferry) : State := { s with ferries := tset s.ferries f x }
def getCluster (s : State) (c : Nat) : Cluster := (tget s.clusters c).getD {}
def setCluster (s : State) (c : Nat) (x : Cluster) : State := { s with clusters := tset s.clusters c x }
def getPart (s : State) (p : Nat) : Part := (tget s.parts p).getD {}
def setPart (s : State) (p : Nat) (x : Part) : State := { s with parts := tset s.parts p x }
def updPart (s : State) (p : Nat) (f : Part → Part) : State := setPart s p (f (getPart s p))
def dieIx (d : Nat) : Fin 4 := Fin.ofNat 4 d
def getDie (s : State) (d : Nat) : Die := s.dies[dieIx d]
def setDie (s : State) (d : Nat) (x : Die) : State := { s with dies := s.dies.set (dieIx d) x }
def portIx (p : Nat) : Fin 16 := Fin.ofNat 16 p
def getPort (s : State) (p : Nat) : Port := s.ports[portIx p]
def setPort (s : State) (p : Nat) (x : Port) : State := { s with ports := s.ports.set (portIx p) x }
/-- The port that a UALink landing holds, and back (R330). -/
def portOfLanding (n : Nat) : Nat := n / 16 * 4 + n % 16 - 12
def landingOfPort (p : Nat) : Nat := p / 4 * 16 + 12 + p % 4

/-- Puts a packet on its way. -/
def sendPkt (s : State) (p : Packet) : State := { s with net := s.net ++ [p] }

def siteDie (site : Nat) : Nat := site / 1024
def siteRow (site : Nat) : Nat := site / 32 % 32
def siteCol (site : Nat) : Nat := site % 32
def siteAt (die row col : Nat) : Nat := die * 1024 + row * 32 + col
/-- The cluster of a site and its rank in it (R224, R130). -/
def siteCluster (site : Nat) : Nat := siteDie site * 256 + siteRow site / 2 * 16 + siteCol site / 2
def siteRank (site : Nat) : Nat := siteRow site % 2 * 2 + siteCol site % 2
def clusterSite (cl rank : Nat) : Nat := siteAt (cl / 256) (cl / 16 % 16 * 2 + rank / 2) (cl % 16 * 2 + rank % 2)

/-- Applies the commits of a die's map to one number, oldest first (R382). -/
def mapLookup (lc : Nat) : List MapCommit → Option Nat → Option Nat
  | [], r => r
  | m :: ms, r =>
    mapLookup lc ms (if m.base ≤ lc ∧ lc < m.base + m.sites.length then ((nth m.sites (lc - m.base)).getD none) else r)

/-- The first numbers of the dies as a DIEBASE value gives them; 0x1FFF is unknown (R380). -/
def dieBase (v : Word) (d : Nat) : Nat := v.toNat / 2 ^ (16 * d) % 2 ^ 13

/-- The die that holds a logical number by the bases of a DIEBASE value: the one with the largest known base at or below it. -/
def dieOfNumber (v : Word) (lc : Nat) : Option Nat :=
  [0, 1, 2, 3].foldl (fun r d =>
    let b := dieBase v d
    if b ≤ lc ∧ b ≠ 0x1FFF then
      (match r with
       | none => some d
       | some e => if dieBase v e ≤ b then some d else r)
    else r) none

/-- The last DIEBASE value among the first n writes. -/
def basesAt (s : State) (n : Nat) : Word := ((s.bases.take n).getLast?).getD 0x1FFF1FFF1FFF1FFF#64

/-- The site of a user logical number under the first `ver` commits of its die, after any move (R300, R382). -/
def numberSite (s : State) (die ver lc : Nat) : Option Nat :=
  match mapLookup lc ((getDie s die).commits.take ver) none with
  | none => none
  | some site => if working s site then some ((tget s.moved lc).getD site) else none

/-- The site of the core that answers to a logical number in the device's installed maps, all commits counted. -/
def siteOf (s : State) (lc : Nat) : Option Nat :=
  if 0x1FF0 ≤ lc ∧ lc < 0x1FF4 then (if (getDie s (lc - 0x1FF0)).dark then none else some (ctrlSite s (lc - 0x1FF0)))
  else match [0, 1, 2, 3].filterMap (fun d => numberSite s d (getDie s d).commits.length lc) with
    | x :: _ => some x
    | [] => none

/-- The logical number of the core at a site: user number, or 0x1FF0 + d of a control core (R338). -/
def coreNumber (s : State) (site : Nat) : Nat :=
  let c := getCore s site
  if c.ctrl then 0x1FF0 + siteDie site else c.lcore.getD 0x1FFE

/-- The partition a core's requests belong to. -/
def corePart (s : State) (site : Nat) : Nat := ((getCore s site).part).getD fwPart

/-- A logical number is a core of the partition (R76 step 3). -/
def inPart (s : State) (p lc : Nat) : Bool :=
  match siteOf s lc with
  | some site => !(getCore s site).ctrl && (getCore s site).part == some p
  | none => false

-- Fields of addresses (R161)
def bits (a : Word) (lo w : Nat) : Nat := a.toNat / 2 ^ lo % 2 ^ w
def space (a : Word) : Nat := bits a 60 4
def meshCore (a : Word) : Nat := bits a 35 13
def meshWin (a : Word) : Nat := bits a 20 4
def meshOff (a : Word) : Nat := bits a 0 19
def homeFerry (a : Word) : Nat := bits a 12 7
def fabricPeer (a : Word) : Nat := bits a 46 10
def fabricOff (a : Word) : Nat := bits a 0 46
def meshAddr (lc win off : Nat) : Word := BitVec.ofNat 64 (0xF * 2 ^ 60 + lc * 2 ^ 35 + win * 2 ^ 20 + off)
/-- The self-addressed frame base of a slot (R9). -/
def frameBaseAddr (k : Fin 4) : Word := 0xF000FFF80007C000#64 + BitVec.ofNat 64 (k.val * 0x1000)

/-- The mesh hops from a site to a ferry of its die: to row 0 or 31 of the edge router column that packets of the site's column take,
2k + (c mod 2) (R210, R334). -/
def ferryDist (site f : Nat) : Nat :=
  let col := siteCol site
  let r := 2 * (f % 16) + col % 2
  max col r - min col r + (if f / 16 % 2 = 0 then siteRow site else 31 - siteRow site)

/-- Inserts a ferry into a list kept in order of distance, then number. -/
def insertFerry (site f : Nat) : List Nat → List Nat
  | [] => [f]
  | g :: gs =>
    if ferryDist site f < ferryDist site g ∨ (ferryDist site f = ferryDist site g ∧ f < g) then f :: g :: gs
    else g :: insertFerry site f gs

/-- The 32 ferries attached to the site's die, nearest first (R210, R330). -/
def ferriesByDistance (site : Nat) : List Nat :=
  (List.range 32).foldl (fun l i => insertFerry site (siteDie site * 32 + i) l) []

/-- Sign extension of the low n bits to 64 (R49). -/
def sextN (v n : Nat) : Word :=
  let w := v % 2 ^ n
  BitVec.ofNat 64 (if w < 2 ^ (n - 1) then w else w + 2 ^ 64 - 2 ^ n)
/-- Zero extension of the low n bits to 64 (R49). -/
def zextN (v n : Nat) : Word := BitVec.ofNat 64 (v % 2 ^ n)
/-- The signed value of the low n bits. -/
def signedN (v n : Nat) : Int :=
  let w := v % 2 ^ n
  if w < 2 ^ (n - 1) then w else (w : Int) - 2 ^ n
/-- A 64-bit word from an integer, modulo 2^64. -/
def wordOf (v : Int) : Word := BitVec.ofInt 64 v
/-- The first of the numbers below n at which p holds. -/
def findFrom (p : Nat → Bool) : Nat → Nat → Option Nat
  | 0, _ => none
  | fuel + 1, i => if p i then some i else findFrom p fuel (i + 1)

end Sys2Proof.Machine
end

