-- ==== Sys2Proof/Machine/Win.lean ====
section
/-! DEFINITION. Machine/Win.lean: the scratchpad seen through the windows of spec/10 R163 to R170, its check bits (spec/01 R14), and
the conversions that ferries, arrays and drains share with the windows. -/

namespace Sys2Proof.Machine

/-- Depth of a plane window (R163). -/
def planeDepth (w : Nat) : Nat :=
  match w with
  | 1 => 16 | 2 => 8 | 3 => 8 | 4 => 16 | 5 => 16 | _ => 32
def isPlane (w : Nat) : Bool := decide (1 ≤ w ∧ w ≤ 7)
/-- Element size in half bytes of a window that addresses single elements (R102). -/
def elemHalf (w : Nat) : Nat :=
  match w with
  | 0 => 8 | 8 => 1 | 9 => 2 | 10 => 2 | 11 => 4 | 12 => 1 | 13 => 2 | _ => 0

def winXbase (wb : Word) : Nat := bits wb 32 19
def winPbase (wb : Word) : Nat := bits wb 0 19
/-- The bits of winbase that hold a value (R164). -/
def winbaseMask : Word := 0x0007FFFF0007FFFF#64

/-- Exponent byte of the plane group at offset o (R164). -/
def planeExpOff (wb : Word) (w o : Nat) : Nat :=
  (winXbase wb + (o + 2 ^ 19 - winPbase wb) % 2 ^ 19 / (4 * planeDepth w)) % 2 ^ 19
/-- Scale byte of the DEC.MX4 code byte at offset o (R164). -/
def mx4ScaleOff (wb : Word) (o : Nat) : Nat := (winXbase wb + (o + 2 ^ 19 - winPbase wb) % 2 ^ 19 / 16) % 2 ^ 19

/-- The aligned integer of element j from the planes of a group, D planes as numbers, most significant first (R165). -/
def planeInt (d : Nat) (planes : List Nat) (j : Nat) : Int :=
  let v : Nat := planes.foldl (fun acc p => acc * 2 + p / 2 ^ j % 2) 0
  if v < 2 ^ (d - 1) then v else (v : Int) - 2 ^ d

/-- The planes of 32 aligned integers (R165). -/
def planesOf (d : Nat) (q : List Int) : List Nat :=
  (List.range d).map fun p =>
    (List.range 32).foldl (fun acc j =>
      let v := (((nth q j).getD 0) % (2 ^ d : Int)).toNat
      acc + v / 2 ^ (d - 1 - p) % 2 * 2 ^ j) 0

/-- Reads the D planes at o. -/
def readPlanes (m : Mem) (o d : Nat) : List Nat := (List.range d).map fun p => readLE m (o + 4 * p) 4

/-- floor(log2 |v|) of a finite nonzero value. -/
def fvTop : FVal → Int
  | .num _ m e => e + Nat.log2 m
  | _ => 0
def fvNonzero : FVal → Bool
  | .num _ m _ => m != 0
  | _ => false
def fvFinite : FVal → Bool
  | .num _ _ _ => true
  | _ => false

/-- RoundInt(v × 2^k), to nearest, ties to even (R166, R227). -/
def roundInt (v : FVal) (k : Int) : Int :=
  match v with
  | .num s m e =>
    let t := (roundUnits .rne 0 s m (e + k) false 0).1
    if s then -(t : Int) else t
  | _ => 0

/-- The largest floor(log2) of the nonzero values, or −127 when all are 0 (R166). -/
def groupTop (vs : List FVal) : Int :=
  let tops := (vs.filter fvNonzero).map fvTop
  match tops with
  | [] => -127
  | t :: ts => ts.foldl max t

/-- Plane write of one group: exponent byte and aligned integers, from exact values (R166). -/
def planeEncode (d : Nat) (vs : List FVal) : Nat × List Int :=
  if vs.any (fun v => !fvFinite v) then (255, vs.map fun _ => 0)
  else
    let x := (min (max (groupTop vs + 127) 0) 254).toNat
    let q := vs.map fun v => roundInt v (127 + d - 2 - x)
    if q.any (fun t => t == 2 ^ (d - 1)) then
      if x < 254 then (x + 1, vs.map fun v => roundInt v (127 + d - 2 - (x + 1 : Nat)))
      else (x, q.map fun t => min t (2 ^ (d - 1) - 1))
    else (x, q)

/-- Plane write of S4 or S8 integers (R166). -/
def planeEncodeInt (d nbits : Nat) (vs : List Int) : Nat × List Int :=
  (127 + (d - 2) - (d - nbits), vs.map fun v => v * 2 ^ (d - nbits))

/-- What a plane write stores for 32 supplied lanes (R163, R166). -/
def planeWrite (w : Nat) (lanes : List Nat) : Nat × List Int :=
  let d := planeDepth w
  match w with
  | 1 => planeEncodeInt d 8 (lanes.map fun v => signedN v 8)
  | 2 => planeEncodeInt d 4 (lanes.map fun v => signedN v 4)
  | 3 =>
    let scale := (lanes.headD 0) / 256 % 256
    planeEncode d (lanes.map fun v => blockVal scale (v % 16))
  | 4 => planeEncode d (lanes.map fun v => valOf e4m3 v)
  | 5 => planeEncode d (lanes.map fun v => valOf e5m2 v)
  | 6 => planeEncode d (lanes.map fun v => valOf bf16 v)
  | _ => planeEncode d (lanes.map fun v => valOf fp32 v)

/-- An element read through a plane window (R167). -/
def planeRead (w x : Nat) (q : Int) : Nat :=
  let d := planeDepth w
  match w with
  | 1 => (q / 2 ^ (d - 8) % 2 ^ 32).toNat
  | 2 => (q / 2 ^ (d - 4) % 2 ^ 32).toNat
  | _ =>
    if x = 255 then fp32.nanBits
    else (roundRne fp32 (exOk (.num (decide (q < 0)) q.natAbs ((x : Int) - 127 - (d - 2))))).bits

/-- A natural element's code bits decoded to a 32-bit lane (R168). -/
def decRead (w scale code : Nat) : Nat :=
  match w with
  | 8 => (roundRne fp32 (exOk (blockVal scale code))).bits
  | 9 => (roundRne fp32 (exOk (valOf e4m3 code))).bits
  | 10 => (roundRne fp32 (exOk (valOf e5m2 code))).bits
  | 11 => (roundRne fp32 (exOk (valOf bf16 code))).bits
  | 12 => (signedN code 4 % 2 ^ 32).toNat
  | 13 => (signedN code 8 % 2 ^ 32).toNat
  | _ => code

/-- A 32-bit lane encoded for a natural window (R168). -/
def decWrite (w scale v : Nat) : Nat :=
  match w with
  | 8 => (blockEncode scale (valOf fp32 v)).1
  | 9 => (roundWith e4m3 rneSat 0 (exOk (valOf fp32 v))).bits
  | 10 => (roundWith e5m2 rneSat 0 (exOk (valOf fp32 v))).bits
  | 11 => (roundWith bf16 rneSat 0 (exOk (valOf fp32 v))).bits
  | 12 => ((min (max (signedN v 32) (-8)) 7) % 16).toNat
  | 13 => ((min (max (signedN v 32) (-128)) 127) % 256).toNat
  | _ => v % 2 ^ 32

/-- Where an element lies: its first byte, its bytes, whether it is the upper half of its byte. -/
structure ElemAt where
  off : Nat
  len : Nat
  hi : Bool
  deriving DecidableEq, Repr

/-- Element l past offset o in the layout of window 0 or 8 to 13 (R102). -/
def elemAt (w o : Nat) (l : Int) : ElemAt :=
  match elemHalf w with
  | 1 => ⟨((o : Int) + l / 2).toNat, 1, l % 2 == 1⟩
  | h => ⟨((o : Int) + l * (h / 2 : Nat)).toNat, h / 2, false⟩

/-- Reads one natural element as a lane; sc gives the scale byte of a code byte. -/
def readElem (m : Mem) (sc : Nat → Nat) (w : Nat) (e : ElemAt) : Nat :=
  let raw := readLE m e.off e.len
  let code := if elemHalf w = 1 then (if e.hi then raw / 16 else raw % 16) else raw
  decRead w (readByte m (sc e.off)).toNat code

/-- Stores one lane into a natural element: a 4-bit element is a read-modify-write of its byte (R170). -/
def writeElem (m : Mem) (sc : Nat → Nat) (w : Nat) (e : ElemAt) (v : Nat) : Mem :=
  let code := decWrite w (readByte m (sc e.off)).toNat v
  if elemHalf w = 1 then
    let old := (readByte m e.off).toNat
    writeByte m e.off (BitVec.ofNat 8 (if e.hi then code * 16 + old % 16 else old / 16 * 16 + code))
  else writeLE m e.off e.len code

/-- The byte ranges an element read touches. -/
def elemRanges (sc : Nat → Nat) (w : Nat) (e : ElemAt) : List (Nat × Nat) :=
  if w = 8 then [(e.off, e.len), (sc e.off, 1)] else [(e.off, e.len)]

/-- The 8-byte words that n bytes from o touch. -/
def wordsOf (o n : Nat) : List Nat := (List.range ((o + n + 7) / 8 - o / 8)).map fun i => (o / 8 + i) * 8

/-- Whether the ranges together cover the word at k wholly. -/
def covers (rs : List (Nat × Nat)) (k : Nat) : Bool :=
  (List.range 8).all fun i => rs.any fun r => decide (r.1 ≤ k + i ∧ k + i < r.1 + r.2)

/-- The first uncorrectable word that a read of the ranges meets (R14). -/
def ueOfRead (ue : List Nat) (rs : List (Nat × Nat)) : Option Nat :=
  (rs.flatMap fun r => wordsOf r.1 r.2).find? fun k => ue.contains k

/-- The first uncorrectable word that a write of the ranges covers only in part, the read half of a sub-word store (R14). -/
def ueOfWrite (ue : List Nat) (rs : List (Nat × Nat)) : Option Nat :=
  (rs.flatMap fun r => wordsOf r.1 r.2).find? fun k => ue.contains k && !covers rs k

/-- Counts an event of a core, wrapping (R325). -/
def countEv (c : Core) (e : Fin 18) (n : Nat := 1) : Core := { c with events := c.events.set e (c.events[e] + BitVec.ofNat 63 n) }

/-- Corrects the single-bit errors of the words a local access meets, and counts them (R14). -/
def correct (c : Core) (rs : List (Nat × Nat)) : Core :=
  let ws := rs.flatMap fun r => wordsOf r.1 r.2
  let hit := c.spadCE.filter fun k => ws.contains k
  if hit.isEmpty then c
  else countEv { c with spadCE := c.spadCE.filter (fun k => !ws.contains k), corrected := c.corrected + hit.length } 11 hit.length

/-- The words that a write covers only in part, which it reads first (R14). -/
def partWords (rs : List (Nat × Nat)) : List (Nat × Nat) :=
  ((rs.flatMap fun r => wordsOf r.1 r.2).filter fun k => !covers rs k).map fun k => (k, 8)

/-- The words a write covers wholly are not read: they get fresh check bits, and an error in them is not found (R14). -/
def freshen (c : Core) (rs : List (Nat × Nat)) : Core :=
  { c with spadUE := c.spadUE.filter (fun k => !covers rs k), spadCE := c.spadCE.filter fun k => !covers rs k }

end Sys2Proof.Machine
end

