-- ==== Sys2Proof/Machine/Access.lean ====
section
/-! DEFINITION. Machine/Access.lean: what loads, stores, atomics and vector adds do to bytes (spec/05 R75, spec/06 R104, spec/11 R192,
R194), and accesses to a scratchpad as one step with its check bits (spec/01 R13, R14, spec/10 R169, R170). -/

namespace Sys2Proof.Machine

/-- The lanes of a mask, ascending. -/
def laneList (act : Mask32) : List (Fin 32) := (List.finRange 32).filter fun l => act.getLsbD l.val

/-- New value of an atomic at n bytes; c and d are taken at that width (R192). -/
def amoNew (op : AmoOp) (n old : Nat) (cw dw : Word) : Nat :=
  let w := 8 * n
  let c := cw.toNat % 2 ^ w
  let d := dw.toNat % 2 ^ w
  match op with
  | .add => (old + c) % 2 ^ w
  | .and => old &&& c
  | .or => old ||| c
  | .xor => old ^^^ c
  | .min => if signedN old w ≤ signedN c w then old else c
  | .max => if signedN c w ≤ signedN old w then old else c
  | .swap => c
  | .cas => if old = c then d else old
  | .fadd => (roundRne fp32 (exAdd false (valOf fp32 old) (valOf fp32 c))).bits
  | .fadd64 => (roundRne fp64 (exAdd false (valOf fp64 old) (valOf fp64 c))).bits
  | .minn => min old c
  | .maxn => max old c

/-- The sum a vector add leaves in a word (R194). -/
def vaddNew (t : VTy) (w v : Nat) : Nat :=
  match t with
  | .f32 => (roundRne fp32 (exAdd false (valOf fp32 w) (valOf fp32 v))).bits
  | _ => (w + v) % 2 ^ 32

/-- Word offset of a lane of VAMOADDI: an index of ten bits in global and fabric space (R193). -/
def vaddiOff (idx : Lane) : Nat := 4 * (idx.toNat % 1024)

/-- The byte ranges an operation reads at address b. -/
def opReads (op : ROp) (b : Nat) : List (Nat × Nat) :=
  match op with
  | .read n => [(b, n)]
  | .vread act bc => if bc then [(b, 4)] else (laneList act).map fun l => (b + 4 * l.val, 4)
  | .amo _ n _ _ => [(b, n)]
  | .vadd _ act _ => (laneList act).map fun l => (b + 4 * l.val, 4)
  | .vaddi _ act idx _ => (laneList act).map fun l => (b + vaddiOff idx[l], 4)
  | .line => [(b, 128)]
  | _ => []

/-- The byte ranges an operation writes at address b. -/
def opWrites (op : ROp) (b : Nat) : List (Nat × Nat) :=
  match op with
  | .write bs => [(b, bs.length)]
  | .vwrite act _ => (laneList act).map fun l => (b + 4 * l.val, 4)
  | .amo _ n _ _ => [(b, n)]
  | .vadd _ act _ => (laneList act).map fun l => (b + 4 * l.val, 4)
  | .vaddi _ act idx _ => (laneList act).map fun l => (b + vaddiOff idx[l], 4)
  | _ => []

/-- Performs an operation on bytes at address b: the answer and the memory after it (R180). -/
def memOp (m : Mem) (b : Nat) (op : ROp) : Answer × Mem :=
  match op with
  | .read n => (.data (readBytes m b n), m)
  | .write bs => (.ack, writeBytes m b bs)
  | .vread act bc =>
    (.lanes (Vector.ofFn fun l : Fin 32 =>
      if act.getLsbD l.val then BitVec.ofNat 32 (readLE m (if bc then b else b + 4 * l.val) 4) else 0), m)
  | .vwrite act data => (.ack, (laneList act).foldl (fun m l => writeLE m (b + 4 * l.val) 4 data[l].toNat) m)
  | .amo op n c d =>
    let old := readLE m b n
    let new := amoNew op n old c d
    (.old (BitVec.ofNat 64 old), if op = .cas ∧ old ≠ c.toNat % 2 ^ (8 * n) then m else writeLE m b n new)
  | .vadd t act data =>
    (.ack, (laneList act).foldl (fun m l =>
      writeLE m (b + 4 * l.val) 4 (vaddNew t (readLE m (b + 4 * l.val) 4) data[l].toNat)) m)
  | .vaddi t act idx data =>
    (.ack, (laneList act).foldl (fun m l =>
      let a := b + vaddiOff idx[l]
      writeLE m a 4 (vaddNew t (readLE m a 4) data[l].toNat)) m)
  | .line => (.data (readBytes m b 128), m)
  | _ => (.ack, m)

/-- Performs an operation on memory that carries check bits: uncorrectable data answers REFUSED.UE and changes nothing; a word
written wholly gets fresh check bits (R14, R175; notes/assumptions/16). -/
def checkedOp (m : Mem) (ue : List Nat) (b : Nat) (op : ROp) : Answer × Mem × List Nat :=
  match ueOfRead ue (opReads op b), ueOfWrite ue (opWrites op b) with
  | none, none =>
    let r := memOp m b op
    (r.1, r.2, ue.filter fun k => !covers (opWrites op b) k)
  | _, _ => (.refuseUE, m, ue)

/-- A scratchpad access: its result and the core after it, or the offset of the uncorrectable word it met (R14). -/
abbrev SpadRes (α : Type) := Except Nat (α × Core)

/-- Reads: check the ranges, correct what can be corrected, then look. -/
def spadRead {α : Type} (c : Core) (rs : List (Nat × Nat)) (f : Mem → α) : SpadRes α :=
  match ueOfRead c.spadUE rs with
  | some k => .error k
  | none => let c := correct c rs; .ok (f c.spad, c)

/-- Reads `rs` and writes `ws` as one step. A word that `ws` covers in part is read first. -/
def spadWrite (c : Core) (rs ws : List (Nat × Nat)) (f : Mem → Mem) : SpadRes Unit :=
  match ueOfRead c.spadUE rs, ueOfWrite c.spadUE ws with
  | none, none => let c := freshen (correct c (rs ++ partWords ws)) ws; .ok ((), { c with spad := f c.spad })
  | some k, _ => .error k
  | none, some k => .error k

/-- Scalar read of n bytes at an offset through window 0 or 8 to 13 (R169): the value before extension. -/
def readScalar (c : Core) (wb : Word) (w o n : Nat) : SpadRes Nat :=
  if w = 0 then spadRead c [(o, n)] fun m => readLE m o n
  else
    let sc := mx4ScaleOff wb
    let es := if n = 8 then [elemAt w o 0, elemAt w o 1] else [elemAt w o 0]
    spadRead c (es.flatMap (elemRanges sc w)) fun m =>
      match es with
      | [e, e'] => readElem m sc w e + 2 ^ 32 * readElem m sc w e'
      | e :: _ => readElem m sc w e
      | [] => 0

/-- Scalar write of n bytes at an offset through window 0 or 8 to 13 (R169). -/
def writeScalar (c : Core) (wb : Word) (w o n v : Nat) : SpadRes Unit :=
  if w = 0 then spadWrite c [] [(o, n)] fun m => writeLE m o n v
  else
    let sc := mx4ScaleOff wb
    let es := if n = 8 then [(elemAt w o 0, v % 2 ^ 32), (elemAt w o 1, v / 2 ^ 32)] else [(elemAt w o 0, v % 2 ^ 32)]
    let rs := if w = 8 then es.map fun e => (sc e.1.off, 1) else []
    let hs := if elemHalf w = 1 then es.map fun e => (e.1.off, e.1.len) else []
    spadWrite c (rs ++ hs) (es.map fun e => (e.1.off, e.1.len)) fun m => es.foldl (fun m e => writeElem m sc w e.1 e.2) m

/-- Reads the listed lanes from natural elements: lane and value. -/
def readLanesAt (c : Core) (sc : Nat → Nat) (w : Nat) (es : List (Fin 32 × ElemAt)) : SpadRes (List (Fin 32 × Nat)) :=
  spadRead c (es.flatMap fun e => elemRanges sc w e.2) fun m => es.map fun e => (e.1, readElem m sc w e.2)

/-- The bytes of which the elements of a 4-bit window write one half only; they are read first (R170). -/
def halfBytes (w : Nat) (es : List (Nat × ElemAt)) : List (Nat × Nat) :=
  if elemHalf w = 1 then (es.filter fun e => !es.any fun x => x.2.off == e.2.off && x.2.hi != e.2.hi).map fun e => (e.2.off, 1) else []

/-- Writes the listed lanes to natural elements in order. -/
def writeLanesAt (c : Core) (sc : Nat → Nat) (w : Nat) (es : List (Nat × ElemAt)) : SpadRes Unit :=
  let rs := (if w = 8 then es.map fun e => (sc e.2.off, 1) else []) ++ halfBytes w es
  spadWrite c rs (es.map fun e => (e.2.off, e.2.len)) fun m => es.foldl (fun m e => writeElem m sc w e.2 e.1) m

/-- Reads one plane group at o with its exponent byte at x. -/
def readGroup (c : Core) (w o x : Nat) : SpadRes (List Nat) :=
  let d := planeDepth w
  spadRead c [(o, 4 * d), (x, 1)] fun m =>
    let ps := readPlanes m o d
    (List.range 32).map fun j => planeRead w (readByte m x).toNat (planeInt d ps j)

/-- Stores a converted plane group (R166). -/
def storeGroup (m : Mem) (w o x : Nat) (g : Nat × List Int) : Mem :=
  let d := planeDepth w
  let m := (planesOf d g.2).zipIdx.foldl (fun m p => writeLE m (o + 4 * p.2) 4 p.1) m
  writeByte m x (BitVec.ofNat 8 g.1)

/-- Writes one plane group at o with its exponent byte at x from 32 lanes (R166). -/
def writeGroup (c : Core) (w o x : Nat) (lanes : List Nat) : SpadRes Unit :=
  spadWrite c [] [(o, 4 * planeDepth w), (x, 1)] fun m => storeGroup m w o x (planeWrite w lanes)

/-- The lanes of a vector value. -/
def lanesOf (v : Lanes) : List Nat := v.toList.map (fun l : Lane => l.toNat)
/-- Lanes listed by number over an old vector. -/
def putLanes (old : Lanes) (l : List (Fin 32 × Nat)) : Lanes :=
  l.foldl (fun v e => v.set e.1 (BitVec.ofNat 32 e.2)) old

/-- The active lanes of one plane group; with no active lane nothing is read (R94). -/
def readPlaneLanes (c : Core) (w o x : Nat) (act : Mask32) : SpadRes (List (Fin 32 × Nat)) :=
  if act = 0 then .ok ([], c)
  else match readGroup c w o x with
    | .error k => .error k
    | .ok (vs, c) => .ok ((laneList act).map fun l => (l, (nth vs l.val).getD 0), c)

/-- Contiguous vector read of the active lanes (R102, R104). -/
def readVec (c : Core) (wb : Word) (w o : Nat) (act : Mask32) (bcast : Bool) : SpadRes (List (Fin 32 × Nat)) :=
  if isPlane w then readPlaneLanes c w o (planeExpOff wb w o) act
  else readLanesAt c (mx4ScaleOff wb) w ((laneList act).map fun l => (l, elemAt w o (if bcast then 0 else (l.val : Int))))

/-- Contiguous vector write of the active lanes (R102, R104). -/
def writeVec (c : Core) (wb : Word) (w o : Nat) (act : Mask32) (v : Lanes) : SpadRes Unit :=
  if isPlane w then writeGroup c w o (planeExpOff wb w o) (lanesOf v)
  else writeLanesAt c (mx4ScaleOff wb) w ((laneList act).map fun l => (v[l].toNat, elemAt w o (l.val : Int)))

end Sys2Proof.Machine
end

