-- ==== Sys2Proof/Machine/Links.lean ====
section
/-! DEFINITION. Machine/Links.lean: endpoint codes, the links of the package, the paths of packets, flit sidebands and credits (spec/20 R329 to
R337). -/

namespace Sys2Proof.Machine

/-- The logical number a request goes to (R300). -/
def reqNumber (r : ReqPkt) : Nat :=
  match r.op with
  | .msg m => m.dstCore
  | _ => meshCore r.addr

-- Endpoint codes (R329)

def endpointCode (kind die row col : Nat) : Nat := kind % 4 * 2 ^ 14 + die % 4 * 2 ^ 12 + row % 32 * 2 ^ 7 + col % 32 * 2 ^ 2
def siteCode (x : Nat) : Nat := endpointCode 0 (siteDie x) (siteRow x) (siteCol x)

/-- The column of an endpoint as R334 counts it: a core's, or 0. -/
def endCol (e : Endpoint) : Nat := match e with | .core x => siteCol x | _ => 0
/-- A ferry's edge: its die, and whether it is the north one (R330). -/
def ferryDie (f : Nat) : Nat := f / 32 % 4
def ferryNorth (f : Nat) : Bool := f / 16 % 2 == 0
/-- The edge router column of a packet between a ferry and an endpoint whose column is c (R334). A packet from the ferry takes the router
that the endpoint's own packets take (notes/assumptions/84). -/
def edgeRouter (f c : Nat) : Nat := 2 * (f % 16) + c % 2
def ferryCode (f c : Nat) : Nat := endpointCode (if ferryNorth f then 1 else 2) (ferryDie f) 0 (edgeRouter f c)

/-- The site whose NI an endpoint without links of its own shares: an adapter unit's is the north-west core of its cluster
(notes/assumptions/84), the host interface's the control core of C0 (R352). A dark partition's core keeps the place it left. -/
def niSite (s : State) (e : Endpoint) : Nat :=
  match e with
  | .core x => x % Config.nSites
  | .adapter cl => clusterSite (cl % (Config.nSites / 4)) 0
  | _ => ctrlSite s 0

/-- The code of an endpoint in a packet exchanged with another (R329, R334). -/
def codeOf (s : State) (e other : Endpoint) : Nat :=
  match e with
  | .ferry f => ferryCode f (endCol other)
  | .landing n => endpointCode 3 (n / 16) 0 (n % 16)
  | e => siteCode (niSite s e)

/-- The logical core a request on its way to a core names: on its own die, or to be resolved at an entry landing (R182, R339). -/
def coreTarget (p : Packet) : Option Nat :=
  match p.body, p.dst with
  | .req r, .core _ => some (reqNumber r)
  | .entryReq lc _, _ => some lc
  | _, _ => none

/-- SRC of a packet. -/
def srcCode (s : State) (p : Packet) : Nat := codeOf s p.src p.dst
/-- DST of a packet; a request that an entry landing resolves goes to KIND 3, COL 31 (R339). -/
def dstCode (s : State) (p : Packet) : Nat :=
  match p.body, p.dst with
  | .entryReq _ _, .landing n => endpointCode 3 (n / 16) 0 31
  | _, _ => codeOf s p.dst p.src

-- Links: numbers of the directed links of the package

/-- The link of a core site to the east, west, north or south: 0 to 3. In rows 0 and 31 it leads to the edge router (R330). -/
def meshLink (site dir : Nat) : Nat := site * 4 + dir
/-- The link of an edge router into its die: die, south edge, column. -/
def routerLink (die side col : Nat) : Nat := 16384 + die * 64 + side * 32 + col
/-- Causeway link h out of a die, eastward or westward (R330). -/
def causewayLink (die : Nat) (west : Bool) (h : Nat) : Nat := 16640 + die * 48 + (if west then 24 else 0) + h
/-- The links of a UALink landing from and into its die. -/
def landingOut (n : Nat) : Nat := 16832 + n
def landingIn (n : Nat) : Nat := 16896 + n

/-- The link of the other direction. -/
def reverseLink (l : Nat) : Nat :=
  if l < 16384 then
    let x := l / 4
    match l % 4 with
    | 0 => meshLink (x + 1) 1
    | 1 => meshLink (x - 1) 0
    | 2 => if siteRow x = 0 then routerLink (siteDie x) 0 (siteCol x) else meshLink (x - 32) 3
    | _ => if siteRow x = 31 then routerLink (siteDie x) 1 (siteCol x) else meshLink (x + 32) 2
  else if l < 16640 then
    let r := l - 16384
    if r / 32 % 2 = 0 then meshLink (siteAt (r / 64) 0 (r % 32)) 2 else meshLink (siteAt (r / 64) 31 (r % 32)) 3
  else if l < 16832 then
    let k := l - 16640
    if k % 48 < 24 then causewayLink ((k / 48 + 1) % 4) true (k % 48) else causewayLink ((k / 48 + 3) % 4) false (k % 48 - 24)
  else if l < 16896 then l + 64
  else l - 64

-- Where endpoints attach (R330, R334)

/-- The site at which causeway link h of an edge attaches: column 31 or 0, row h + 4. -/
def causewaySite (die : Nat) (west : Bool) (h : Nat) : Nat := siteAt die (h + 4) (if west then 0 else 31)
/-- The site at which a landing attaches: of the four rows a landing has, packets for itself take the first (notes/assumptions/84). -/
def landingSite (n : Nat) : Nat :=
  let i := n % 16
  if i < 6 then causewaySite (n / 16) false (4 * i)
  else if i < 12 then causewaySite (n / 16) true (4 * (i - 6))
  else siteAt (n / 16) (if i % 2 = 0 then 0 else 28) (if i < 14 then 31 else 0)

/-- Where a packet leaves the mesh for its destination, and the link it takes there, if any. -/
def exitOf (s : State) (p : Packet) : Nat × List Nat :=
  match p.dst with
  | .ferry f =>
    let x := siteAt (ferryDie f) (if ferryNorth f then 0 else 31) (edgeRouter f (endCol p.src))
    (x, [meshLink x (if ferryNorth f then 2 else 3)])
  | .landing n => (landingSite n, if n % 16 < 12 then [] else [landingOut n])
  | e => (niSite s e, [])
/-- Where a packet enters the mesh, and the link it comes by. A packet that an entry landing sends on starts where it came in. -/
def entryOf (s : State) (p : Packet) : Nat × List Nat :=
  match p.start, p.src with
  | some x, _ => (x, [])
  | none, .ferry f =>
    let c := edgeRouter f (endCol p.dst)
    (siteAt (ferryDie f) (if ferryNorth f then 0 else 31) c, [routerLink (ferryDie f) (if ferryNorth f then 0 else 1) c])
  | none, .landing n => (landingSite n, if n % 16 < 12 then [] else [landingIn n])
  | none, e => (niSite s e, [])

-- Paths (R334, R335)

/-- Along the row from a site to a column. -/
def rowPath (x col : Nat) : List Nat :=
  if siteCol x ≤ col then (List.range (col - siteCol x)).map fun i => meshLink (x + i) 0
  else (List.range (siteCol x - col)).map fun i => meshLink (x - i) 1
/-- Along the column from a site to a row. -/
def colPath (x row : Nat) : List Nat :=
  if siteRow x ≤ row then (List.range (row - siteRow x)).map fun i => meshLink (x + 32 * i) 3
  else (List.range (siteRow x - row)).map fun i => meshLink (x - 32 * i) 2
/-- Dimension-ordered: first along the row to the destination column, then along the column (R334). -/
def orderedPath (x y : Nat) : List Nat :=
  rowPath x (siteCol y) ++ colPath (siteAt (siteDie x) (siteRow x) (siteCol y)) (siteRow y)

/-- One of the minimal paths: where both directions lead nearer, `free` chooses the row (R334, BULK). -/
def minimalPath (free : Nat → Bool) : Nat → Nat → Nat → List Nat
  | 0, _, _ => []
  | fuel + 1, x, y =>
    let along := siteCol x != siteCol y && (siteRow x == siteRow y || free fuel)
    if along then
      (if siteCol x < siteCol y then meshLink x 0 :: minimalPath free fuel (x + 1) y else meshLink x 1 :: minimalPath free fuel (x - 1) y)
    else if siteRow x < siteRow y then meshLink x 3 :: minimalPath free fuel (x + 32) y
    else if siteRow y < siteRow x then meshLink x 2 :: minimalPath free fuel (x - 32) y
    else []

/-- From a site to another over the causeways, by link h of each edge on the way; `stop` ends the path at the entry landing (R335). -/
def crossDies (walk : Nat → Nat → List Nat) (west : Bool) (h : Nat) (stop : Bool) : Nat → Nat → Nat → List Nat
  | 0, _, _ => []
  | fuel + 1, x, y =>
    if siteDie x = siteDie y then (if stop then [] else walk x y)
    else
      let d := siteDie x
      let e := if west then (d + 3) % 4 else (d + 1) % 4
      walk x (causewaySite d west h) ++ causewayLink d west h :: crossDies walk west h stop fuel (causewaySite e (!west) h) y

/-- The crossing from die a to die b goes west: it is three dies east (R335). -/
def goesWest (a b : Nat) : Bool := (b + 4 - a) % 4 == 3

/-- The causeway hash of a packet: of SRC, and the destination logical core number or DST (R335). -/
def causewayHash (src t : Nat) : Nat := (src / 4 ^^^ t) % 24
def hashOf (s : State) (p : Packet) : Nat :=
  causewayHash (srcCode s p)
    (match coreTarget p, p.dst with
     | some lc, _ => lc
     | none, .ferry _ => dstCode s p / 4
     | none, .landing _ => dstCode s p / 4
     | none, e => coreNumber s (niSite s e))

/-- The path of a packet, as links. A BULK packet takes any minimal path and any causeway link (R334, R335, R336). -/
def pathOf (s : State) (p : Packet) : List Nat :=
  let bulk := p.cls == .bulk
  let walk := if bulk then minimalPath (fun i => Config.freeRoute (s.stepNo * 256 + i) % 2 == 0) 62 else orderedPath
  let h := if bulk then Config.freeRoute (s.stepNo * 256 + 255) % 24 else hashOf s p
  let stop := match p.body with | .entryReq _ _ => true | _ => false
  let i := entryOf s p
  let o := exitOf s p
  i.2 ++ crossDies walk (goesWest (siteDie i.1) (siteDie o.1)) h stop 4 i.1 o.1 ++ (if stop then [] else o.2)

/-- The entry landing of a request from an endpoint of a die to a logical core on another: the facing landing of the last crossing (R335,
R339). -/
def entryFrom (code dieA lc dieB : Nat) : Nat := 16 * dieB + (if goesWest dieA dieB then 0 else 6) + causewayHash code lc / 4
def entryLanding (site lc dieB : Nat) : Nat := entryFrom (siteCode site) (siteDie site) lc dieB
/-- The site at which a request to be resolved came in to the die of its entry landing. -/
def entrySite (s : State) (p : Packet) : Nat :=
  match p.dst with
  | .landing n => causewaySite (n / 16) (decide (6 ≤ n % 16)) (hashOf s p)
  | e => niSite s e

-- Flits and sidebands (R331, R332)

/-- Bytes an operation carries beside the header flit. The layouts of packets other than messages are internal to the device
(notes/assumptions/84). -/
def opPayload (op : ROp) : Nat :=
  match op with
  | .write bs => bs.length
  | .vwrite _ _ => 128
  | .amo _ _ _ _ => 16
  | .vadd _ _ _ => 128
  | .vaddi _ _ _ _ => 192
  | .subscr _ _ _ _ _ => 64
  | _ => 0
def reqFlits (op : ROp) : Nat :=
  match op with
  | .msg _ => 1
  | op => 1 + (opPayload op + 63) / 64
/-- Flits of a packet: a message is one, a 128-byte vector store three (R331). -/
def flitsOf (b : Body) : Nat :=
  match b with
  | .req r => reqFlits r.op
  | .entryReq _ r => reqFlits r.op
  | .forward _ r _ => reqFlits r.op
  | .answer _ (.data bs) => 1 + (bs.length + 63) / 64
  | .answer _ (.lanes _) => 3
  | _ => 1

/-- TYPE of a request (R332). -/
def reqType (op : ROp) : Nat :=
  match op with
  | .read _ => 0
  | .vread _ _ => 0
  | .line => 0
  | .write _ => 1
  | .vwrite _ _ => 1
  | .amo _ _ _ _ => 2
  | .vadd _ _ _ => 2
  | .vaddi _ _ _ _ => 2
  | .msg _ => 3
  | .inval _ => 12
  | _ => 11
/-- TYPE of a packet (R332). -/
def typeOf (b : Body) : Nat :=
  match b with
  | .req r => reqType r.op
  | .entryReq _ r => reqType r.op
  | .forward _ r _ => reqType r.op
  | .answer _ (.data _) => 4
  | .answer _ (.lanes _) => 4
  | .answer _ (.old _) => 4
  | .answer _ .ack => 5
  | .answer _ (.ticket _ _) => 7
  | .answer _ _ => 6
  | .notice _ => 8
  | .failure _ => 8
  | .marker _ _ => 9
  | .stealReq _ => 10
  | .stealRep _ => 10
  | _ => 12

def clsIx (c : Cls) : Fin 4 := match c with | .req => 0 | .rsp => 1 | .sys => 2 | .bulk => 3

/-- SEQ: of the request a core injected, echoed by its answer (R331). -/
def seqOf (s : State) (p : Packet) : Nat :=
  match p.body, p.dst with
  | .req r, _ => r.seq.toNat
  | .entryReq _ r, _ => r.seq.toNat
  | .forward _ r _, _ => r.seq.toNat
  | .answer uid _, .core x => (((getCore s x).reqs.find? fun r => r.uid == uid).map fun r => r.seqn % 2 ^ 16).getD 0
  | _, _ => 0

/-- The sideband of a flit of a packet, with the credits it returns (R331). -/
def sideband (s : State) (p : Packet) (last : Bool) (crvc crinc : Nat) : Word :=
  BitVec.ofNat 64 (srcCode s p + dstCode s p * 2 ^ 16 + (if last then 2 ^ 33 else 0) + typeOf p.body * 2 ^ 34 + (clsIx p.cls).val * 2 ^ 38 +
    crinc % 64 * 2 ^ 40 + crvc % 4 * 2 ^ 46 + seqOf s p * 2 ^ 48)
/-- The sideband of a null flit: CRVC and CRINC alone. -/
def nullBand (crvc crinc : Nat) : Word := BitVec.ofNat 64 (2 ^ 32 + crinc % 64 * 2 ^ 40 + crvc % 4 * 2 ^ 46)

-- Credits (R333)

def getLink (s : State) (l : Nat) : LinkSt := (tget s.links l).getD {}
def setLink (s : State) (l : Nat) (x : LinkSt) : State := { s with links := tset s.links l x }

/-- A flit leaves the input buffers at the end of a link. -/
def freeBuffer (s : State) (l : Nat) (c : Cls) : State :=
  let x := getLink s l
  setLink s l { x with freed := x.freed ++ [c] }

/-- RSP and SYS packets are sunk as they come: their buffers are free at once (R337). -/
def sunk (c : Cls) : Bool := c == .rsp || c == .sys

/-- Every flit of a packet leaves the network. -/
def freeFlits (s : State) (p : Packet) : State :=
  match p.wire with
  | .queued => s
  | .flying path at_ =>
    at_.foldl (fun s i =>
      match (if i = 0 ∨ (i = path.length ∧ sunk p.cls) then none else nth path (i - 1)) with
      | some l => freeBuffer s l p.cls
      | none => s) s

/-- All flits of a packet have come to the end of its path. -/
def landed (s : State) (p : Packet) : Bool :=
  match p.wire with
  | .queued => (pathOf s p).isEmpty
  | .flying path at_ => at_.all fun i => i == path.length

/-- Two packets keep their order on the way: one source, one class other than BULK, and one destination endpoint or logical core, by
whatever way each is addressed (R182, R336). -/
def sameLane (p q : Packet) : Bool :=
  p.src == q.src && p.cls == q.cls && p.cls != .bulk && (p.dst == q.dst || ((coreTarget p).isSome && coreTarget p == coreTarget q))

/-- The place of a link on a path. -/
def linkIx (path : List Nat) (l : Nat) : Option Nat := findFrom (fun i => nth path i == some l) path.length 0

/-- Every flit of a packet has crossed a link of its path, or its path does not take it. -/
def hasCrossed (l : Nat) (p : Packet) : Bool :=
  match p.wire with
  | .queued => false
  | .flying path at_ =>
    match linkIx path l with
    | some i => at_.all fun a => decide (i < a)
    | none => true
/-- A link is between the flits of a packet, which no other packet of its class may part. -/
def midPacket (l : Nat) (p : Packet) : Bool :=
  match p.wire with
  | .queued => false
  | .flying path at_ =>
    match linkIx path l with
    | some i => at_.any (fun a => decide (i < a)) && at_.any fun a => decide (a ≤ i)
    | none => false

/-- The packet with its path, chosen when its first flit leaves. -/
def onWire (s : State) (p : Packet) : Packet :=
  match p.wire with
  | .queued => { p with wire := .flying (pathOf s p) (List.replicate (flitsOf p.body) 0) }
  | .flying _ _ => p

/-- The packet in place k after its next flit has crossed a link, and whether it was its last flit; none when no flit of it may cross:
without a credit of its class, behind an earlier packet of its lane, or while the link is in the middle of another packet of the class
(R333, R336, R331). -/
def crossing (s : State) (l k : Nat) : Option (Packet × Bool) :=
  match nth s.net k with
  | none => none
  | some p =>
    let q := onWire s p
    let others := s.net.eraseIdx k
    if (getLink s l).credits[clsIx p.cls] = 0 ∨ !(s.net.take k).all (fun o => !sameLane o p || hasCrossed l o) ∨
        others.any (fun o => o.cls == p.cls && midPacket l o) then none
    else match q.wire with
      | .queued => none
      | .flying path at_ =>
        match linkIx path l with
        | none => none
        | some i =>
          match findFrom (fun j => nth at_ j == some i) at_.length 0 with
          | none => none
          | some j => some ({ q with wire := .flying path (at_.set j (i + 1)) }, j + 1 == at_.length)

/-- The credits that a flit over a link returns for the link of the other direction: of the class freed longest ago, and `inc` of them as
far as so many of its flits are freed and the field holds it (R333). -/
def owedCredits (s : State) (l inc : Nat) : Option (Cls × Nat) :=
  let f := (getLink s (reverseLink l)).freed
  f.head?.bind fun c =>
    let n := min inc (min 63 (f.filter fun d => d == c).length)
    if n = 0 then none else some (c, n)

/-- Takes n flits of a class off a list of freed ones. -/
def dropFreed (c : Cls) : Nat → List Cls → List Cls
  | 0, l => l
  | n + 1, l => dropFreed c n (l.erase c)

/-- A flit has crossed a link and brings the credits it carries to the sender of the other direction (R333). -/
def returnCredits (s : State) (l inc : Nat) : State :=
  match owedCredits s l inc with
  | none => s
  | some (c, n) =>
    let r := reverseLink l
    let x := getLink s r
    setLink s r { x with freed := dropFreed c n x.freed, credits := x.credits.set (clsIx c) (x.credits[clsIx c] + n) }

def crvcOf (o : Option (Cls × Nat)) : Nat := (o.map fun e => (clsIx e.1).val).getD 0
def crincOf (o : Option (Cls × Nat)) : Nat := (o.map fun e => e.2).getD 0

/-- A flit of a packet crosses a link: a credit of its class is spent, the buffer it leaves is free, and at the end of its path an RSP or
SYS flit is sunk (R333, R337). -/
def crossFlit (s : State) (l k : Nat) (p : Packet) (last : Bool) (o : Option (Cls × Nat)) : State :=
  let x := getLink s l
  let i := match p.wire with | .flying path _ => (linkIx path l).getD 0 | .queued => 0
  let path := match p.wire with | .flying path _ => path | .queued => []
  let s' := setLink s l { x with credits := x.credits.set (clsIx p.cls) (x.credits[clsIx p.cls] - 1),
                                 last := some (sideband s p last (crvcOf o) (crincOf o)) }
  let s' := match (if i = 0 then none else nth path (i - 1)) with
    | some b => freeBuffer s' b p.cls
    | none => s'
  let s' := if i + 1 = path.length ∧ sunk p.cls then freeBuffer s' l p.cls else s'
  { s' with net := s'.net.set k p }

/-- No packet flit may cross a link now. -/
def linkQuiet (s : State) (l : Nat) : Bool := (List.range s.net.length).all fun k => (crossing s l k).isNone

/-- CREDIT_RETURN: a flit, of the packet in place `pkt` of the network or a null flit, crosses a link and reaches its port, with the
credits it returns, at most `inc` of them. A null flit goes only when there are credits to return and no packet flit to send; it takes no
credit (R333). -/
def execCreditReturn (link : Nat) (pkt : Option Nat) (inc : Nat) (s : State) : Res :=
  match pkt with
  | some k =>
    match crossing s link k with
    | none => .next s
    | some (p, last) => .next (crossFlit (returnCredits s link inc) link k p last (owedCredits s link inc))
  | none =>
    match owedCredits s link inc with
    | none => .next s
    | some (c, n) =>
      if linkQuiet s link then
        let s := returnCredits s link inc
        .next (setLink s link { getLink s link with last := some (nullBand (clsIx c).val n) })
      else .next s

/-- Flits of a class that stand in the buffers at the end of a link. -/
def heldFlits (s : State) (l : Nat) (c : Cls) : Nat :=
  (s.net.map fun p =>
    match p.wire with
    | .queued => 0
    | .flying path at_ =>
      if p.cls = c then (at_.filter fun i => i != 0 && nth path (i - 1) == some l && !(i == path.length && sunk c)).length else 0).sum

/-- Input buffers of a port by class: REQ, RSP, SYS, BULK (R333). -/
def bufferFlits (i : Fin 4) : Nat := if i.val = 2 then 4 else if i.val = 3 then 24 else 16

/-- LINK_RESET: the sender holds credits for every buffer (R333). A link is reset while no flit stands in its buffers, since none is lost
(R331; notes/assumptions/84). -/
def execLinkReset (link : Nat) (s : State) : Res :=
  if [Cls.req, .rsp, .sys, .bulk].all fun c => heldFlits s link c == 0 then
    .next (setLink s link { getLink s link with credits := Vector.ofFn bufferFlits, freed := [] })
  else .next s

/-- Packets are dropped on their way, and their flits leave the buffers. -/
def dropPkts (s : State) (gone : Packet → Bool) : State :=
  let s := (s.net.filter gone).foldl freeFlits s
  { s with net := s.net.filter fun p => !gone p }

end Sys2Proof.Machine
end

