-- ==== Sys2Proof/Machine/Home.lean ====
section
/-! DEFINITION. Machine/Home.lean: translation at a ferry, page records, tickets and the source table, and a request performed at its
ferry (spec/10 R171 to R178, spec/16 R276 to R278, spec/21 R356). -/

namespace Sys2Proof.Machine

/-- The access an operation needs (R175). -/
def opNeed : ROp → Need
  | .write _ | .vwrite _ _ => .write
  | .amo _ _ _ _ | .vadd _ _ _ | .vaddi _ _ _ _ => .both
  | .line => .exec
  | _ => .read

def permOk (n : Need) (e : TlbEnt) : Bool :=
  match n with
  | .read => e.r
  | .write => e.w
  | .both => e.r && e.w
  | .exec => e.x

/-- The PASID of a partition for an address (R356); 0 is no entry. -/
def pasidOf (s : State) (part : Nat) (va : Nat) : Nat := (nth (getPart s part).pasids (va / 2 ^ 55 % 4)).getD 0

def tlbHit (e : TlbEnt) (pasid va : Nat) : Bool := e.pasid == pasid && va / 2 ^ e.log2 == e.va / 2 ^ e.log2

/-- What a home finds for an access (R175, R356, R377). -/
inductive Found
  | pa (n : Nat)
  | deny
  | miss (pasid : Nat)
  | noFrame
  deriving DecidableEq, Repr

def translate (s : State) (f part va : Nat) (need : Need) : Found :=
  if part = fwPart then (if va < Config.hbmBytes then .pa va else .noFrame)
  else
    let pasid := pasidOf s part va
    if pasid = 0 then .deny
    else match (getFerry s f).tlb.find? fun e => tlbHit e pasid va with
      | some e => if permOk need e then .pa (e.pa + va % 2 ^ e.log2) else .deny
      | none => .miss pasid

/-- The ticket word of a ferry's record (R276). -/
def ferryTicket (f ix : Nat) : BitVec 16 := BitVec.ofNat 16 (f * 256 + ix)

/-- The source table after a ticket to a source: HOLD for an ordered request (R277, R278). None when the table is full. -/
def holdSource (srcs : List SrcEnt) (src : Endpoint) (ordered : Bool) (t : BitVec 16) : Option (List SrcEnt) :=
  match srcs.find? fun e => e.src == src with
  | some e =>
    if ordered then some (srcs.map fun x => if x.src == src then ⟨src, true, t, false⟩ else x)
    else if e.rlx then some (srcs.map fun x => if x.src == src then { x with ticket := t } else x)
    else some srcs
  | none => if srcs.length < Config.sourceMax then some (srcs ++ [⟨src, ordered, t, !ordered⟩]) else none

/-- Opens or joins the page record of a miss and enters the source (R277). None when the records or the source table are full. -/
def openTicket (s : State) (f part pasid va : Nat) (need : Need) (src : Endpoint) (ordered : Bool) : Option (State × BitVec 16) :=
  let x := getFerry s f
  let page := va / 4096
  match x.recs.find? fun r => r.2.pasid == pasid && r.2.page == page with
  | some (ix, r) =>
    let t := ferryTicket f ix
    match holdSource x.srcs src ordered t with
    | none => none
    | some srcs =>
      let r := if r.sources.contains src then r else { r with sources := r.sources ++ [src] }
      some (setFerry s f { x with recs := tset x.recs ix r, srcs := srcs }, t)
  | none =>
    match findFrom (fun i => (tget x.recs i).isNone && (tget x.priLost i).isNone) Config.pageRecs 0 with
    | none => none
    | some ix =>
      let t := ferryTicket f ix
      match holdSource x.srcs src ordered t with
      | none => none
      | some srcs =>
        let r : PageRec := { pasid := pasid, page := page, need := need, opened := s.time, sources := [src] }
        let s := setFerry s f { x with recs := tset x.recs ix r, srcs := srcs }
        let s := { s with nv := { s.nv with ferryTickets := tset s.nv.ferryTickets f ((tget s.nv.ferryTickets f).getD 0 + 1) } }
        some (if part = fwPart then s else updPart s part fun p => { p with tickets := p.tickets + 1 }, t)

/-- The stack of a word of HBM (R330, R171). -/
def stackOf (k : Nat) : Nat := k / 4096 % 128 / 16

/-- Counts an error corrected in a stack (R326). -/
def countStack (nv : NvStore) (k : Nat) : NvStore :=
  if k < Config.hbmBytes then { nv with stackErrs := tset nv.stackErrs (stackOf k) ((tget nv.stackErrs (stackOf k)).getD 0 + 1) } else nv

/-- Reads or writes at a physical address of State.mem with its check bits. A single-bit error in a word it reads, or writes in part, is
corrected and counted for the stack (R326). -/
def memAccess (s : State) (pa : Nat) (op : ROp) : State × Answer :=
  let r := checkedOp s.mem s.memUE pa op
  let met := (opReads op pa ++ partWords (opWrites op pa)).flatMap fun g => wordsOf g.1 g.2
  let found := s.memCE.filter met.contains
  ({ s with mem := r.2.1, memUE := r.2.2, memCE := s.memCE.filter fun k => !(met.contains k || covers (opWrites op pa) k),
            nv := found.foldl countStack s.nv }, r.1)

/-- What a home does with a request: an answer, or nothing yet because its tables are full (R277), or a frame that is not there. -/
inductive HomeRes
  | answer (s : State) (a : Answer)
  | wait
  | noFrame
  deriving DecidableEq, Repr

/-- HEAD makes the source's entry ACTIVE, LAST removes it once performed; a request with .rlx does neither (R278). -/
def markHead (srcs : List SrcEnt) (src : Endpoint) : List SrcEnt :=
  srcs.map fun e => if e.src == src then { e with hold := false } else e
def dropSource (srcs : List SrcEnt) (src : Endpoint) : List SrcEnt := srcs.filter fun e => e.src != src

/-- The VF counters after one home-cache access by partition p in step n (R355, R361). Whether it misses and whose line its fill
evicts are free values (notes/assumptions/21). -/
def countParts (n p : Nat) (parts : Table Part) : Table Part :=
  let upd := fun (q : Nat) (f : Part → Part) (l : Table Part) => tset l q (f ((tget l q).getD {}))
  let l := upd p (fun x => { x with hcacc := x.hcacc + 1 }) parts
  if Config.freeMiss n then
    let l := upd p (fun x => { x with hcmiss := x.hcmiss + 1 }) l
    match Config.freeEvict n with
    | none => l
    | some q =>
      if q = p then upd p (fun x => { x with evown := x.evown + 1 }) l
      else if (tget l q).isSome then upd q (fun x => { x with evforeign := x.evforeign + 1 }) l
      else l
  else l
def countAccess (s : State) (p : Nat) : State := { s with parts := countParts s.stepNo p s.parts }

/-- Device requests to host memory carry the VF's requester ID and the PASID of the translation (R357). Every access to a host page goes
out, whether or not the home cache holds the line, which R177 leaves open (notes/assumptions/21). -/
def hostBus (s : State) (part va n : Nat) (op : ROp) : State :=
  if 2 ^ 64 ≤ n ∧ n < 2 ^ 65 then { s with out := s.out ++ [.hostAccess part (pasidOf s part va) (n - 2 ^ 64) op] } else s

/-- Performs an access of a partition, or of firmware, at the address that its home has found for it. -/
def homeAccess (s : State) (part va n : Nat) (op : ROp) : State × Answer :=
  let y := memAccess s n op
  (if part = fwPart then y.1 else hostBus (countAccess y.1 part) part va n op, y.2)

/-- A memory request at a ferry (R175, R277, R278). -/
def ferryPerform (s : State) (f : Nat) (src : Endpoint) (r : ReqPkt) : HomeRes :=
  let x := getFerry s f
  match (if r.ordered && !r.head then x.srcs.find? fun e => e.src == src && e.hold else none) with
  | some e => .answer s (.ticket e.ticket true)
  | none =>
    let s := if r.ordered && r.head then setFerry s f { x with srcs := markHead x.srcs src } else s
    let va := r.addr.toNat % 2 ^ 57
    let fin := fun (s : State) =>
      if r.ordered && r.last then
        let x := getFerry s f
        setFerry s f { x with srcs := dropSource x.srcs src }
      else s
    match translate s f r.part va (opNeed r.op) with
    | .noFrame => .noFrame
    | .deny => .answer (fin s) (match r.op with | .line => .codeDenied | _ => .refusePerm 0)
    | .pa n =>
      let y := homeAccess s r.part va n r.op
      .answer (fin y.1) y.2
    | .miss pasid =>
      match openTicket s f r.part pasid va (opNeed r.op) src r.ordered with
      | none => .wait
      | some (s, t) => .answer s (.ticket t false)

/-- A source that belongs to a dark partition stands in its shadow frame: its notices are kept for dawn (R303). -/
def sourceDark (e : Endpoint) : Bool :=
  match e with
  | .core site => decide (Config.nSites ≤ site)
  | .adapter cl => decide (Config.nSites / 4 ≤ cl)
  | _ => false

/-- Posts a notice of a ferry to one source (R277, R303). -/
def postNotice (s : State) (f : Nat) (t : BitVec 16) (ok : Bool) (e : Endpoint) : State :=
  if sourceDark e then
    let x := getFerry s f
    setFerry s f { x with late := x.late ++ [(e, t, ok)] }
  else sendPkt s { src := .ferry f, dst := e, cls := .sys, body := if ok then .notice t else .failure t }

/-- Closes a record with a replay notice or a failure notice to each source (R277). A source that holds no ordered request leaves
the source table. -/
def closeRecord (s : State) (f ix : Nat) (ok : Bool) : State :=
  match tget (getFerry s f).recs ix with
  | none => s
  | some r =>
    let t := ferryTicket f ix
    let x := getFerry s f
    let s := setFerry s f { x with recs := tdel x.recs ix, srcs := x.srcs.filter fun e => !(e.rlx && e.ticket == t) }
    let s := if ok then s
      else { s with nv := { s.nv with ferryFails := tset s.nv.ferryFails f ((tget s.nv.ferryFails f).getD 0 + 1) } }
    r.sources.foldl (fun s e => postNotice s f t ok e) s

/-- A bulk access to a global address: performed, ticketed, refused, or not possible yet. -/
inductive BulkRes
  | done (s : State) (a : Answer)
  | ticketed (s : State) (t : BitVec 16)
  | refused
  | wait
  deriving DecidableEq, Repr

/-- A bulk-class access at the home of a global address, outside pair order (R188, R212, R132). -/
def bulkAccess (s : State) (part : Nat) (a : Word) (src : Endpoint) (op : ROp) : BulkRes :=
  let f := homeFerry a
  let va := a.toNat % 2 ^ 57
  match translate s f part va (opNeed op) with
  | .noFrame => .refused
  | .deny => .refused
  | .pa n =>
    let y := homeAccess s part va n op
    .done y.1 y.2
  | .miss pasid =>
    match openTicket s f part pasid va (opNeed op) src false with
    | none => .wait
    | some (s, t) => .ticketed s t

end Sys2Proof.Machine
end

