-- ==== Sys2Proof/Machine/Chan.lean ====
section
/-! DEFINITION. Machine/Chan.lean: messages as flits, placement in channels, overflow, absorption and firing (spec/07 R114 to R136,
spec/08 R137, R146, R147). -/

namespace Sys2Proof.Machine

def boolBit (b : Bool) : Nat := if b then 1 else 0

/-- The low doubleword of a header (R137). -/
def headerLow (m : Msg) : Nat :=
  m.dstDev % 1024 + m.dstCore % 8192 * 2 ^ 10 + m.chan % 256 * 2 ^ 23 + m.srcDev % 1024 * 2 ^ 31 + m.srcCore % 8192 * 2 ^ 41 +
    m.kind % 16 * 2 ^ 54 + m.count % 8 * 2 ^ 58 + boolBit m.rel * 2 ^ 61 + boolBit m.gang * 2 ^ 62
/-- The high doubleword of a header (R137). -/
def headerHigh (m : Msg) : Nat := m.seq.toNat + m.time.toNat * 2 ^ 16

/-- A message as one 64-byte flit (R137, R331). -/
def msgBytes (m : Msg) : List Byte :=
  leBytes 8 (headerLow m) ++ leBytes 8 (headerHigh m) ++ m.words.toList.flatMap (fun w : Word => leBytes 8 w.toNat)

/-- The message of a 64-byte flit. -/
def msgOf (b : List Byte) : Msg :=
  let l := leNat (b.take 8)
  let h := leNat ((b.drop 8).take 8)
  { time := BitVec.ofNat 32 (h / 2 ^ 16), seq := BitVec.ofNat 16 h, gang := l / 2 ^ 62 % 2 == 1, rel := l / 2 ^ 61 % 2 == 1,
    count := l / 2 ^ 58 % 8, kind := l / 2 ^ 54 % 16, srcCore := l / 2 ^ 41 % 8192, srcDev := l / 2 ^ 31 % 1024,
    chan := l / 2 ^ 23 % 256, dstCore := l / 2 ^ 10 % 8192, dstDev := l % 1024,
    words := Vector.ofFn fun i : Fin 6 => BitVec.ofNat 64 (leNat ((b.drop (16 + 8 * i.val)).take 8)) }

/-- Six words from a list, zeros beyond it. -/
def words6 (l : List Word) : Vector Word 6 := Vector.ofFn fun i : Fin 6 => (nth l i.val).getD 0

/-- Adds a channel to the marked list unless it stands there (R120). -/
def markChan (c : Core) (ch : Nat) : Core := if c.marked.contains ch then c else { c with marked := c.marked ++ [ch] }

def setChan (c : Core) (ch : Nat) (x : Chan) : Core := { c with chans := tset c.chans ch x }

/-- Pool slots a channel uses (R116). -/
def poolUsed (x : Chan) : Nat := x.queue.length + x.held
/-- Entries of the core's deque in use. -/
def dequeUsed (c : Core) : Nat :=
  c.deque.length + (c.chans.filter fun e => e.2.kind == .roaming).foldl (fun n e => n + e.2.held) 0 + c.strayDeque

/-- The quorum pattern that names a channel, if any (R118). -/
def quorumOf (c : Core) (ch : Nat) : Option (Nat × Pat) := c.pats.find? fun p => p.2.qn != 0 && p.2.terms.contains ch

/-- One step of the combine fold (R124). -/
def foldComb (op : Comb) (comb w : Word) : Word :=
  match op with
  | .none => 0
  | .add => comb + w
  | .or => comb ||| w
  | .max => if comb.toInt < w.toInt then w else comb
  | .fadd => BitVec.ofNat 64 (roundRne fp64 (exAdd false (valOf fp64 comb.toNat) (valOf fp64 w.toNat))).bits

/-- Word 0 of a message; a word it did not carry reads 0 (R124). -/
def word0 (m : Msg) : Word := if m.count = 0 then 0 else m.words[0]

/-- A partial after one more message (R125). -/
def absorbOne (p : Pat) (q : QMsg) : Pat :=
  let w := word0 q.msg
  let old := p.prog.getD { k := 0, comb := 0, words := words6 [], count := 0, seq := 0, lost := [] }
  let comb := if p.comb = .none then 0 else if old.k = 0 then w else foldComb p.comb old.comb w
  { p with prog := some { k := old.k + 1, comb := comb, words := q.msg.words, count := q.msg.count, seq := q.msg.seq,
                          lost := old.lost ++ [q] } }

def progCount (p : Pat) : Nat :=
  match p.prog with
  | some x => x.k
  | none => 0

/-- Takes the message numbered n out of a queue. -/
def takeSeq (q : List QMsg) (n : BitVec 16) : Option (QMsg × List QMsg) :=
  match q.find? fun x => x.msg.seq == n with
  | some x => some (x, q.filter fun y => y.msg.seq != n)
  | none => none

/-- Absorbs queued messages into the partial of the channel's quorum pattern while it has room (R125). -/
def absorb (ch : Nat) : Nat → Core → Core
  | 0, c => c
  | fuel + 1, c =>
    match tget c.chans ch, quorumOf c ch with
    | some x, some (pi, p) =>
      if progCount p < p.qn then
        match x.kind with
        | .fifo =>
          match x.queue with
          | q :: qs => absorb ch fuel { setChan c ch { x with queue := qs } with pats := tset c.pats pi (absorbOne p q) }
          | [] => c
        | .sequenced =>
          match takeSeq x.queue x.nextSeq with
          | some (q, qs) =>
            absorb ch fuel { setChan c ch { x with queue := qs, nextSeq := x.nextSeq + 1 } with pats := tset c.pats pi (absorbOne p q) }
          | none => c
        | .roaming => c
      else c
    | _, _ => c

/-- The word a refused spill of a channel answers (R133). -/
def spillTicket (ch : Nat) : BitVec 16 := BitVec.ofNat 16 (0xFF00 + ch)

/-- The entry of the ring the next spill takes: its tail, or the first free one from there on where sequenced messages have returned
out of order (R126, R132). -/
def spillIx (x : Chan) : Nat :=
  ((List.range (min x.ovfSize (x.ovf.length + 1))).map fun i => (x.tail + i) % x.ovfSize).find? (fun i => !x.ovf.any fun e => e.ix == i)
    |>.getD x.tail

-- BULK accesses of a core's NI (R188, R332)

/-- The partition whose access a BULK access is. -/
def bulkPart (s : State) (site : Nat) (k : BulkKind) : Nat :=
  match k with
  | .clear p => p
  | _ => corePart s site

/-- Sends a BULK access of a core's NI to its home. -/
def flyBulk (s : State) (site : Nat) (b : Bulk) : State :=
  sendPkt s
    { src := .core site, dst := .ferry (homeFerry b.addr), cls := .bulk,
      body := .req { uid := b.uid, seq := 0, op := b.op, addr := b.addr, ordered := false, head := false, last := false,
                     part := bulkPart s site b.kind, winbase := 0, srcCore := coreNumber s site, slot := 0, act := 0 } }
/-- Starts a BULK access of a core's NI (R188, R332). -/
def sendBulk (s : State) (site : Nat) (k : BulkKind) (a : Word) (op : ROp) : State :=
  let c := getCore s site
  let b : Bulk := { uid := c.nextUid, kind := k, op := op, addr := a }
  flyBulk (setCore s site { c with nextUid := c.nextUid + 1, bulks := c.bulks ++ [b] }) site b

-- Spills (R132)

/-- The overflow area of a channel takes another message (R133). -/
def ringRoom (x : Chan) : Bool := decide (x.ovf.length < x.ovfSize)

/-- A message of the channel is in overflow, or on its way there (R132). -/
def inOverflow (c : Core) (ch : Nat) (x : Chan) : Bool :=
  !x.ovf.isEmpty || c.spilling.any fun p => p.chan == ch && p.gen == x.gen

/-- The NI starts to write a message to the channel's ring, on the bulk class (R132, R188). It writes one message at a time
(notes/assumptions/69). -/
def startSpill (s : State) (site ch : Nat) (x : Chan) (out : QMsg) (come : Option QMsg) (by_ : Spiller) : State :=
  let c := getCore s site
  let p : Spill := { uid := c.nextUid, chan := ch, gen := x.gen, ix := spillIx x, out := out, come := come, by_ := by_ }
  sendBulk (setCore s site { c with spilling := some p }) site .ovfSpill (x.ovfBase + BitVec.ofNat 64 (64 * p.ix)) (.write (msgBytes out.msg))

/-- The channel with a message whose writing has been acknowledged (R132). -/
def spilled (x : Chan) (p : Spill) : Chan :=
  { x with ovf := x.ovf ++ [⟨p.ix, p.out.msg.seq, p.out.arrival, p.out.returned, p.out.part⟩], tail := (p.ix + 1) % x.ovfSize }

/-- Distance of a number ahead of a channel (R126). -/
def seqDist (x : Chan) (n : BitVec 16) : Nat := (n - x.nextSeq).toNat

/-- The held message with the largest distance. -/
def farthest (x : Chan) : Option QMsg :=
  x.queue.foldl (fun r q =>
    match r with
    | none => some q
    | some b => if seqDist x b.msg.seq < seqDist x q.msg.seq then some q else r) none

/-- How a message that passed the checks of R146 ends at its core (R147). -/
inductive Placed
  | ack (s : State)
  | ticket (s : State)
  | behind (s : State) (n : BitVec 16)   -- dropped behind its sequence or as a duplicate (R126)
  | spilling (s : State)                 -- a spill has begun, and its end decides (R132)
  | busy                                 -- it must be spilled, and another spill is on its way
  deriving DecidableEq, Repr

/-- The overflow entry a channel takes back next: the oldest, or the one with the lowest distance (R126, R132). -/
def nextReturn (x : Chan) : Option OvfEnt :=
  match x.kind with
  | .sequenced => x.ovf.foldl (fun r e =>
      match r with
      | none => some e
      | some b => if seqDist x e.seq < seqDist x b.seq then some e else r) none
  | _ => x.ovf.head?

/-- A spilled message of a sequenced channel is nearer than number n: the pool keeps the nearest ones, so a free slot is that message's
(R126). -/
def nearerSpilled (x : Chan) (n : BitVec 16) : Bool := x.ovf.any fun e => decide (seqDist x e.seq < seqDist x n)

/-- Posts the replay notice to every sender that waits on a refused spill into a channel (R133). -/
def wakeWaiters (s : State) (site ch : Nat) : State :=
  match tget (getCore s site).chans ch with
  | none => s
  | some x =>
    if x.waiters.isEmpty then s
    else
      let s := updCore s site fun c => setChan c ch { x with waiters := [] }
      x.waiters.foldl (fun s w => sendPkt s { src := .core site, dst := w, cls := .sys, body := .notice (spillTicket ch) }) s

/-- Posts the notices that pool slots or deque entries freed on the listed channels call for, whatever stands in overflow (R126, R133). -/
def wakeChans (s : State) (site : Nat) (chs : List Nat) : State :=
  chs.foldl (fun s ch =>
    match tget (getCore s site).chans ch with
    | some x => if x.kind == .roaming || decide (poolUsed x < x.cap) then wakeWaiters s site ch else s
    | none => s) s

/-- A channel with its queue as given: the channel's quorum pattern absorbs, the channel is marked, and pool slots that absorption frees
wake its senders (R120, R125, R126). -/
def enqueued (s : State) (site ch : Nat) (x : Chan) (qs : List QMsg) : State :=
  let c := getCore s site
  let c := absorb ch (qs.length + 1) (setChan c ch { x with queue := qs })
  let s := setCore s site (markChan c ch)
  match tget c.chans ch with
  | some y => if y.queue.length < x.queue.length then wakeChans s site [ch] else s
  | none => s

/-- A sequenced channel holds a message of the number, in its pool, in overflow or on its way there (R126). -/
def holdsSeq (c : Core) (ch : Nat) (x : Chan) (n : BitVec 16) : Bool :=
  (x.queue.any fun y => y.msg.seq == n) || (x.ovf.any fun e => e.seq == n) ||
    c.spilling.any fun p => p.chan == ch && p.gen == x.gen && (p.come.getD p.out).msg.seq == n

/-- Puts a message into its channel's pool slots or deque, or sends one to overflow for it: the message itself, or the farthest one that
a sequenced channel holds, whose place it takes once that one is written (R126, R128, R132, R133). `by_` hears how a spill ends. -/
def placeIn (s : State) (site ch : Nat) (x : Chan) (q : QMsg) (by_ : Spiller) : Placed :=
  let c := getCore s site
  let spill := fun (out : QMsg) (come : Option QMsg) =>
    if !ringRoom x then Placed.ticket s
    else if c.spilling.isSome then .busy
    else .spilling (startSpill s site ch x out come by_)
  let takes := (quorumOf c ch).any fun p => decide (progCount p.2 < p.2.qn)
  match x.kind with
  | .fifo =>
    if !inOverflow c ch x && (takes && x.queue.isEmpty || decide (poolUsed x < x.cap)) then .ack (enqueued s site ch x (x.queue ++ [q]))
    else spill q none
  | .roaming =>
    if !inOverflow c ch x && decide (dequeUsed c < Config.dequeMax) then
      .ack (setCore s site (markChan { c with deque := c.deque ++ [⟨ch, q⟩] } ch))
    else spill q none
  | .sequenced =>
    let n := q.msg.seq
    if decide (0x8000 ≤ seqDist x n) || holdsSeq c ch x n then .behind s n
    else if takes && seqDist x n == 0 || decide (poolUsed x < x.cap) && !nearerSpilled x n then .ack (enqueued s site ch x (x.queue ++ [q]))
    else match farthest x with
      | none => spill q none
      | some far => if seqDist x n < seqDist x far.msg.seq && !nearerSpilled x n then spill far (some q) else spill q none

/-- Re-arms the nightfall trap of the core's partition when a message other than a nightfall message is placed (R136). -/
def rearm (s : State) (site : Nat) (m : Msg) : State :=
  match (getCore s site).part with
  | some p => if m.kind = 2 ∧ (m.words[0]).toNat % 256 = 0x10 ∧ m.count = 3 then s else updPart s p fun x => { x with armed := true }
  | none => s

/-- A fault report message of the core at `src` to a channel of the core at `site`, its own but for a gang member (R284). -/
def reportMsg (s : State) (src site ch : Nat) (ws : List Word) : Msg :=
  { time := BitVec.ofNat 32 s.time, kind := 2, count := 6, srcCore := coreNumber s src, srcDev := s.devid, chan := ch,
    dstCore := coreNumber s site, dstDev := s.devid, words := words6 ws }

/-- A channel name with OWN = 0 and a device (R138). -/
def chanName (dev core ch : Nat) : Word := BitVec.ofNat 64 (dev + core * 2 ^ 10 + ch * 2 ^ 23)

/-- The drop of a message that is behind its channel or a duplicate there: a SEQDROP report to the channel's own fault channel, by `send`,
or a count in DROPS when the channel has none (R126). -/
def dropSeq (send : State → Nat → List Word → State) (s : State) (site ch : Nat) (n : BitVec 16) : State :=
  let s := updCore s site fun c => countEv c 10
  match tget (getCore s site).chans ch with
  | none => s
  | some x =>
    match x.faultCh with
    | some f => send s f.toNat [6, 0, chanName s.devid (coreNumber s site) ch, 0, 0, BitVec.ofNat 64 n.toNat]
    | none => updCore s site fun c => setChan c ch { x with drops := min (x.drops + 1) (2 ^ 32 - 1) }

/-- The core's NI waits for the notice of a spill into one of its own channels that was refused (R133, R284). -/
def waitFor (c : Core) (ch : Nat) (e : Endpoint) : Core :=
  match tget c.chans ch with
  | some x => if x.waiters.contains e then c else setChan c ch { x with waiters := x.waiters ++ [e] }
  | none => c

/-- Sends a fault report to a channel of the core at `site`: counted when there is none or it is refused, held while another spill is on
its way and when its own is refused (R284). A report that falls behind a sequenced channel is dropped as any message is, with a report of its own; the chain of such reports
ends with the 256th (notes/assumptions/80). -/
def sendReportN : Nat → State → Nat → Nat → Option Nat → List Word → State
  | 0, s, src, _, _, _ => updCore s src fun c => countEv c 12
  | fuel + 1, s, src, site, ch, ws =>
    let lost := updCore s src fun c => countEv c 12
    match ch with
    | none => lost
    | some ch =>
      match tget (getCore s site).chans ch with
      | none => lost
      | some x =>
        let m := reportMsg s src site ch ws
        match placeIn s site ch x { msg := m, arrival := s.time, part := corePart s src } .report with
        | .ack s => rearm s site m
        | .ticket s => updCore s site fun c => waitFor { c with reports := c.reports ++ [m] } ch (.core site)
        | .spilling s => s
        | .busy => updCore s site fun c => { c with reports := c.reports ++ [m] }
        | .behind s n => dropSeq (fun s f ws => sendReportN fuel s site site (some f) ws) s site ch n

def sendReportAs (s : State) (src site : Nat) (ch : Option Nat) (ws : List Word) : State := sendReportN 256 s src site ch ws

/-- A fault report of a core to a channel of its own. -/
def sendReport (s : State) (site : Nat) (ch : Option Nat) (ws : List Word) : State := sendReportAs s site site ch ws

/-- The drop of a message behind its sequence: reported to the channel's own fault channel, or counted (R126). -/
def seqDrop (s : State) (site ch : Nat) (n : BitVec 16) : State := dropSeq (fun s f ws => sendReport s site (some f) ws) s site ch n

/-- What the destination answers to a message (R146, R147). -/
inductive Delivery
  | ack (s : State)
  | refused (s : State) (code : Nat)
  | ticket (s : State) (t : BitVec 16)
  | spilling (s : State)
  | busy
  deriving DecidableEq, Repr

/-- The checks of R146 that concern the channel; `part` is the sender's partition, and `own` says that PEER and CODE do not apply
(R284, R211). -/
def refusal (s : State) (site : Nat) (m : Msg) (part : Nat) (own : Bool) : Option Nat :=
  let c := getCore s site
  if c.part.any fun p => (getPart s p).gone then some 6
  else match tget c.chans m.chan with
    | none => some 2
    | some x =>
      if !own && !x.peer && part != fwPart && c.part != some part then some 3
      else if !own && m.kind == 1 && !x.code then some 4
      else if m.gang && !(c.pats.any fun p => p.2.gang != 0 && p.2.terms.contains m.chan) then some 5
      else none

/-- A message at its destination core (R146, R147, R303). `src` waits when its spill is refused, `by_` hears how a spill ends. -/
def deliver (s : State) (site : Nat) (m : Msg) (part : Nat) (own : Bool) (src : Endpoint) (by_ : Spiller) : Delivery :=
  let c := getCore s site
  match refusal s site m part own with
  | some code => .refused s code
  | none =>
    match tget c.chans m.chan with
    | none => .refused s 2
    | some x =>
      match placeIn s site m.chan x { msg := m, arrival := s.time, part := part } by_ with
      | .ack s => .ack (rearm s site m)
      | .behind s n => .ack (seqDrop s site m.chan n)
      | .ticket s => .ticket (updCore s site fun c => waitFor c m.chan src) (spillTicket m.chan)
      | .spilling s => .spilling s
      | .busy => .busy

/-- A replayable activation of the core still holds messages of a sequenced channel (R304). -/
def pausedChan (x : Chan) : Bool := x.kind == .sequenced && x.held + x.heldParts != 0

/-- One term of an ordinary or quorum pattern can be met (R121). A quorum pattern with REPLAY or TWIN waits while its second slot still
holds a fired partial (R125; notes/assumptions/79). -/
def termReady (c : Core) (p : Pat) (ch : Nat) : Bool :=
  match tget c.chans ch with
  | none => false
  | some x =>
    if p.qn ≠ 0 then (!p.done.isEmpty || progCount p == p.qn) && !pausedChan x && !p.held
    else match x.kind with
      | .fifo => !x.queue.isEmpty
      | .sequenced => (x.queue.any fun q => q.msg.seq == x.nextSeq) && !pausedChan x
      | .roaming => c.deque.any fun d => d.chan == ch

def satisfiable (c : Core) (p : Pat) : Bool := p.terms.all (termReady c p)

/-- Pattern indices 0 to 63 in the order a channel is served (R120, R123). -/
def patOrder (c : Core) (ch : Nat) : List Nat :=
  if c.rotate.getLsbD 0 then
    match tget c.chans ch with
    | some x => (List.range 64).map fun i => (x.last + 1 + i) % 64
    | none => List.range 64
  else List.range 64

/-- The newest entry of a channel in the deque, and the deque without it (R128). -/
def takeNewest (d : List DeqEnt) (ch : Nat) : Option (DeqEnt × List DeqEnt) :=
  match d.reverse.find? fun e => e.chan == ch with
  | some e => some (e, (d.reverse.erase e).reverse)
  | none => none

/-- What firing collects, term by term. -/
structure Take where
  core : Core
  terms : List (Nat × Vector Word 6) := []
  held : List Held := []
  msgs : List QMsg := []
  sq : Option (Nat × BitVec 16) := none
  comb : Word := 0
  returned : Bool := false

/-- Takes the message or the partial of one term (R122, R125). -/
def takeTerm (pi : Nat) (p : Pat) (t : Take) (ch : Nat) : Take :=
  let c := t.core
  let keep := p.replay || p.twin
  let ix := t.terms.length
  match tget c.chans ch with
  | none => t
  | some x =>
    let num := fun (n : BitVec 16) => if x.kind = .sequenced ∧ t.sq.isNone then some (ix, n) else t.sq
    let one := fun (q : QMsg) (c : Core) =>
      { t with core := c, terms := t.terms ++ [(q.msg.count, q.msg.words)], msgs := t.msgs ++ [q], sq := num q.msg.seq,
               held := if keep then t.held ++ [{ chan := ch, msgs := [q], part := none, gen := x.gen, roam := x.kind == .roaming }] else t.held,
               returned := t.returned || q.returned }
    let h := if keep then x.held + 1 else x.held
    if p.qn ≠ 0 then
      let (pt, p') := match p.done with
        | d :: ds => (some d, { p with done := ds, held := keep })
        | [] => (p.prog, { p with prog := none, held := keep })
      match pt with
      | none => t
      | some d =>
        let c := setChan { c with pats := tset c.pats pi p' } ch { x with heldParts := if keep then x.heldParts + 1 else x.heldParts }
        { t with core := c, terms := t.terms ++ [(d.count, d.words)], msgs := t.msgs ++ d.lost, sq := num d.seq, comb := d.comb,
                 held := if keep then t.held ++ [{ chan := ch, msgs := [], part := some d, gen := x.gen, pgen := p.gen }] else t.held,
                 returned := t.returned || d.lost.any fun q => q.returned }
    else match x.kind with
      | .fifo =>
        match x.queue with
        | q :: qs => one q (setChan c ch { x with queue := qs, held := h })
        | [] => t
      | .sequenced =>
        match takeSeq x.queue x.nextSeq with
        | some (q, qs) => one q (setChan c ch { x with queue := qs, nextSeq := x.nextSeq + 1, held := h })
        | none => t
      | .roaming =>
        match takeNewest c.deque ch with
        | some (e, d) => one e.qm (setChan { c with deque := d } ch { x with held := h })
        | none => t

/-- Fires a pattern: one atomic step (R122). The ready-queue entry and the core after it. -/
def firePat (c : Core) (pi : Nat) (p : Pat) (served : Nat) : Core × Fired :=
  let t := p.terms.foldl (takeTerm pi p) { core := c }
  let f : Fired :=
    { pat := pi, ch0 := p.terms.headD 0, entry := p.entry, terms := t.terms, comb := if p.qn ≠ 0 then t.comb else 0, sqv := t.sq.isSome,
      sqterm := (t.sq.map fun e => e.1).getD 0, seq := (t.sq.map fun e => e.2).getD 0, quorum := if p.qn = 0 then 1 else p.qn,
      gang := p.gang, replay := p.replay || p.twin, twin := p.twin, held := t.held, returned := t.returned,
      delays := t.msgs.filterMap fun q =>
        if q.msg.kind ≤ 1 then some ⟨q.msg.srcDev, q.msg.srcCore, q.msg.time, q.arrival⟩ else none }
  let c := match tget t.core.chans served with
    | some x => setChan t.core served { x with last := pi }
    | none => t.core
  let c := p.terms.foldl (fun c ch =>
    match tget c.chans ch with
    | some x => absorb ch (x.queue.length + 1) c
    | none => c) c
  (c, f)

end Sys2Proof.Machine
end

