-- ==== Sys2Proof/Machine/Ops.lean ====
section
/-! DEFINITION. Machine/Ops.lean: the registers of a slot, stalling and retiring (spec/01 R11, R12), the network interface's requests
(spec/05 R77, spec/16 R278), the end of an activation (spec/01 R15, spec/17 R305 to R311), and taking an exception and returning from
it (spec/16 R270 to R275, R291). -/

namespace Sys2Proof.Machine

-- Registers (R8, R49)

/-- X(i): x0 reads as zero. -/
def getX (sl : Slot) (i : XReg) : Word := if i = 0 then 0 else sl.x[i]
/-- SetX(i, v): x0 discards the write. -/
def setX (sl : Slot) (i : XReg) (v : Word) : Slot := if i = 0 then sl else { sl with x := sl.x.set i v }
/-- Mask(i): m0 reads as all ones. -/
def getM (sl : Slot) (i : MReg) : Mask32 := if i = 0 then BitVec.allOnes 32 else sl.m[i]
/-- m0 discards the write. -/
def setM (sl : Slot) (i : MReg) (v : Mask32) : Slot := if i = 0 then sl else { sl with m := sl.m.set i v }
def getV (sl : Slot) (i : VReg) : Lanes := sl.v[i]
def setV (sl : Slot) (i : VReg) (v : Lanes) : Slot := { sl with v := sl.v.set i v }
def pendingX (sl : Slot) (i : XReg) : Bool := i != 0 && sl.pendX.getLsbD i.val
def pendingV (sl : Slot) (i : VReg) : Bool := sl.pendV.getLsbD i.val
def bit32 (i : Nat) : BitVec 32 := BitVec.ofNat 32 (2 ^ i)
def setPendX (sl : Slot) (i : XReg) (b : Bool) : Slot :=
  if i = 0 then sl else { sl with pendX := if b then sl.pendX ||| bit32 i.val else sl.pendX &&& ~~~ bit32 i.val }
def setPendV (sl : Slot) (i : VReg) (b : Bool) : Slot :=
  { sl with pendV := if b then sl.pendV ||| bit32 i.val else sl.pendV &&& ~~~ bit32 i.val }

-- Stalling and retiring

/-- The slot is skipped this time; the instruction issues again later (R11). `ws` names the requests it waits for (R297). -/
def stallOn (s : State) (ws : List Nat) : Res :=
  .next (updCur s fun sl =>
    { sl with mode := .stalled, waits := ws, twinWait := .none, stallAt := if sl.mode = .stalled then sl.stallAt else s.cycle })
def stall (s : State) : Res := stallOn s []
/-- A twin waits for its partner (R309, R310). -/
def stallTwin (s : State) (w : TwinWait) : Res :=
  .next (updCur s fun sl =>
    { sl with mode := .stalled, waits := [], twinWait := w, stallAt := if sl.mode = .stalled then sl.stallAt else s.cycle })

/-- Requests of the current activation that satisfy p, by uid. -/
def ownReqs (s : State) (p : Req → Bool) : List Nat :=
  ((curCore s).reqs.filter fun r => r.slot == s.cur.2 && r.act == (curSlot s).actId && p r).map fun r => r.uid

/-- The request loads one of the registers. -/
def loadsOne (rs : List XReg) (vs : List VReg) (r : Req) : Bool :=
  match r.dest with
  | .x a _ _ => rs.contains a
  | .v a _ _ => vs.contains a
  | .none => false

/-- Goes on only when none of the registers awaits a load (R11, R12). -/
def needX (s : State) (rs : List XReg) (k : Slot → Res) : Res :=
  if rs.any (pendingX (curSlot s)) then stallOn s (ownReqs s (loadsOne rs [])) else k (curSlot s)
def needXV (s : State) (rs : List XReg) (vs : List VReg) (k : Slot → Res) : Res :=
  if rs.any (pendingX (curSlot s)) || vs.any (pendingV (curSlot s)) then stallOn s (ownReqs s (loadsOne rs vs)) else k (curSlot s)

/-- StreamIndex and StreamAddr (R49). -/
def streamIndex (a : Nat) : Int := (a / 128 : Nat) * 56 + (((a % 128 : Nat) : Int) - 16) / 2
def streamAddr (k : Int) : Word := wordOf (k / 56 * 128 + 16 + 2 * (k % 56))
/-- The halfword n places on in stream order (R21, R81), modulo 2^64: only register targets are checked against global virtual space, so
sequential flow and a relative transfer may carry the pc out of it; the line is then asked for at the home its low 57 bits name, where
R17 would have the pc global always (notes/assumptions/77). -/
def streamStep (pc : Word) (n : Int) : Word := streamAddr (streamIndex pc.toNat + n)

/-- The fingerprint after the words of one retirement (R310). -/
def foldPrint (f : Word) (ws : List Word) : Word := ws.foldl (fun f w => f.rotateLeft 5 ^^^ w) f

/-- dbgact names the activation, or FILT is off (R320, R321). -/
def dbgMatch (c : Core) (id : BitVec 48) : Bool :=
  !c.dbgctl.getLsbD 3 ||
    (match bits c.dbgact 48 2 with
     | 0 => id.toNat == bits c.dbgact 0 48
     | 1 => id.toNat / 2 ^ 24 == bits c.dbgact 24 24
     | 2 => id.toNat / 2 ^ 26 == bits c.dbgact 26 22
     | _ => false)

/-- The slot runs in supervisor mode. A control core's slots never do: they run in firmware mode, their handlers too (R269). -/
def inSup (c : Core) (sl : Slot) : Bool := sl.sup && !c.ctrl

/-- A retirement in user mode owes a STEP (R319). -/
def owesStep (c : Core) (k : Fin 4) (sl : Slot) : Bool :=
  c.stepCsr.getLsbD 2 && bits c.stepCsr 0 2 == k.val && !sl.sup && !c.ctrl && dbgMatch c sl.actId

/-- Retires the instruction with the next pc given: the result words enter the fingerprint (R310), the count rises (R325). A STEP still
owed when a late event was taken in its place stays owed until the slot is back in user mode (R275, R319; notes/assumptions/78). -/
def retireTo (s : State) (pc : Word) (ws : List Word) : State :=
  updCurCore s fun c =>
    let sl := c.slots[s.cur.2]
    let sl := { sl with pc := pc, mode := .run, retired := sl.retired + 1, fprint := foldPrint sl.fprint ws,
                        folds := sl.folds + ws.length, stepOwed := sl.stepOwed || owesStep c s.cur.2 sl }
    countEv { c with slots := c.slots.set s.cur.2 sl } 0
/-- Retires and falls through to the next instruction. -/
def retire (s : State) (ws : List Word) : State :=
  retireTo s (streamStep (curSlot s).pc (curSlot s).ilen) ws

/-- Writes an x register and retires: the shape of every instruction whose one result is an x register. -/
def retireX (s : State) (a : XReg) (v : Word) : State := retire (updCur s fun sl => setX sl a v) [v]

-- Trace (R322)

/-- Writes one trace record: event and pattern or cause field, activation id, pc, tval (R322). -/
def traceRec (s : State) (site : Nat) (ev f : Nat) (id : BitVec 48) (pc : Word) (tv : Nat) : State :=
  let c := getCore s site
  let cap := 0x10000 * 2 ^ bits c.dbgctl 12 4 / 32
  let a := BitVec.ofNat 64 (bits c.dbgctl 16 41 * 2 ^ 16 + c.traceN % cap * 32)
  let bs := leBytes 8 (ev + f % 256 * 2 ^ 8 + id.toNat * 2 ^ 16) ++ leBytes 8 s.time ++ leBytes 8 pc.toNat ++
    leBytes 8 (c.traceN % 2 ^ 32 + tv % 2 ^ 32 * 2 ^ 32)
  let s := updCore s site fun c => { c with traceN := c.traceN + 1 }
  sendBulk s site .trace a (.write bs)

/-- The trace record of an event of a slot, when tracing is on and dbgctl lets it through (R322). -/
def traceAct (s : State) (site ev f : Nat) (act : BitVec 48) (pc : Word) (tv : Nat) : State :=
  let c := getCore s site
  if c.dbgctl.getLsbD 1 && dbgMatch c act then traceRec s site ev f act pc tv else s
def trace (s : State) (site : Nat) (k : Fin 4) (ev f : Nat) (pc : Word) (tv : Nat) : State :=
  traceAct s site ev f (getSlot s site k).actId pc tv

def patOf (sl : Slot) : Nat := (sl.fired.map fun f => f.pat).getD 0

-- Fault reports (R284, R285)

/-- The fault channel of the pattern that started an activation (R116). -/
def faultChan (c : Core) (sl : Slot) : Option Nat :=
  match sl.fired with
  | none => none
  | some f =>
    match tget c.chans f.ch0 with
    | some x => x.faultCh.map fun b => b.toNat
    | none => none

/-- The fields of a fault report. -/
structure Report where
  kind : Nat
  cause : Nat := 0
  tval : Word := 0
  epc : Word := 0
  tseq : Nat := 0
  word5 : Word := 0

/-- Sends a report of an activation. A gang member's goes to the channel of the lead's pattern; of twins the primary reports, and an
UNREPLAYABLE of the secondary is the primary's report too. -/
def reportOf (s : State) (site : Nat) (sl : Slot) (r : Report) : State :=
  let home := ((sl.fired.bind fun f => f.lead).bind (siteOf s)).getD site
  let send := fun (src home : Nat) => sendReportAs s src home (faultChan (getCore s home) sl)
    [BitVec.ofNat 64 (r.kind + r.cause * 2 ^ 8 + patOf sl * 2 ^ 16), BitVec.ofNat 64 sl.actId.toNat, r.tval, r.epc,
      BitVec.ofNat 64 r.tseq, r.word5]
  match sl.twin with
  | some (.secondary p) => if r.kind = 9 then send p p else s
  | _ => send site home
/-- Sends a report of the activation in a slot. -/
def report (s : State) (site : Nat) (k : Fin 4) (r : Report) : State := reportOf s site (getSlot s site k) r

/-- tseq naming a request (R288). -/
def tseqOf (n : Nat) : Nat := 2 ^ 16 + n % 2 ^ 16

-- Requests of the NI

/-- The NI holds ordered requests to a home behind a ticket, a burst or a failure that is still being reported (R278). -/
def holding (c : Core) (h : Endpoint) : Bool :=
  (c.reqs.any fun r => r.ordered && r.home == h &&
    (match r.status with
     | .ticketed _ => true
     | .bounced _ => true
     | .flying => r.last
     | .held => false)) || c.tickets.toList.any fun e => e.state == .failed && e.hold && e.home == h

/-- TICKET.FAILED traps that slots and parked activations still owe. -/
def owedFailures (c : Core) : List Nat :=
  ((c.slots.toList.flatMap fun sl => sl.due) ++ c.away.flatMap fun a => a.ctx.due).filterMap fun d =>
    if d.cause = 0x13 then some d.uid else none

/-- Every request of a snapshot has completed; one whose ticket failed completes with its trap (R143, R216). -/
def snapDone (c : Core) (snap : List Nat) : Bool :=
  !(c.reqs.any fun r => snap.contains r.uid) && !(owedFailures c).any snap.contains

/-- Nothing that a request must follow is outstanding: its snapshot (R143, R216), the loads before an outbox (R189). -/
def unheld (c : Core) (r : Req) : Bool := snapDone c r.snap && !c.reqs.any fun q => r.loads.contains q.uid

/-- The device and the core that a message goes to; none for a request to memory. -/
def msgTarget (r : Req) : Option (Nat × Nat) :=
  match r.op with
  | .msg m => some (m.dstDev, m.dstCore)
  | _ => none
/-- Two requests go to one home: at a landing, where the cores of every peer of the port are reached, to one core of a peer or both to
memory (R143, R171). -/
def sameHome (q r : Req) : Bool :=
  q.home == r.home && (match r.home with | .landing _ => msgTarget q == msgTarget r | _ => true)

/-- A request may leave the NI now (R143, R182, R278). -/
def mayGo (c : Core) (r : Req) : Bool :=
  unheld c r && (!r.ordered || (!holding c r.home && !c.reqs.any fun q => q.uid < r.uid && q.ordered && sameHome q r && q.status == .held))

def reqPkt (s : State) (site : Nat) (r : Req) : ReqPkt :=
  { uid := r.uid, seq := BitVec.ofNat 16 r.seqn,
    op := (match r.op with | .msg m => .msg { m with time := BitVec.ofNat 32 s.time } | o => o),
    addr := r.addr, ordered := r.ordered, head := r.head, last := r.last, part := r.part, winbase := r.winbase,
    srcCore := coreNumber s site, slot := r.slot, act := r.act }

/-- How a source NI reaches a logical number (R339, R340, R382): a site of its own die, the entry landing of another die, or
nowhere. -/
inductive Route
  | direct (site : Nat)
  | entry (landing : Nat)
  | nowhere
  deriving DecidableEq, Repr

def routeTo (s : State) (site lc : Nat) : Route :=
  let c := getCore s site
  if 0x1FF0 ≤ lc ∧ lc < 0x1FF4 then
    (if (getDie s (lc - 0x1FF0)).dark then .nowhere else .direct (ctrlSite s (lc - 0x1FF0)))
  else if 0x1FF4 ≤ lc then .nowhere
  else
    match numberSite s (siteDie site) c.mapVer lc with
    | some x => .direct x
    | none =>
      match dieOfNumber (basesAt s c.baseVer) lc with
      | some d => if d = siteDie site then .nowhere else .entry (entryLanding site lc d)
      | none => .nowhere

/-- The class of a request packet (R332). -/
def reqCls (op : ROp) : Cls :=
  match op with
  | .msg m => if m.kind = 2 ∨ m.kind = 4 then .sys else .req
  | _ => .req

/-- The logical core a request goes to, if it goes to a core. -/
def dstNumber (r : Req) : Option Nat :=
  match r.op with
  | .msg m => some m.dstCore
  | _ => if space r.addr = 0xF then some (meshCore r.addr) else none

/-- Puts one request on its way; a number that leads nowhere is refused NOCORE at the source (R340, R382). -/
def launch (s : State) (site : Nat) (r : Req) : State :=
  let put := fun (dst : Endpoint) (b : Body) =>
    sendPkt s { src := .core site, dst := dst, cls := reqCls r.op, body := b }
  let p := reqPkt s site r
  match r.home, (if r.phys then none else dstNumber r) with
  | .core t, some lc =>
    match routeTo s site lc with
    | .direct x => put (.core x) (.req p)
    | .entry l => put (.landing l) (.entryReq lc p)
    | .nowhere =>
      if t = site then put (.core t) (.req p)
      else sendPkt s { src := .core t, dst := .core site, cls := .rsp, body := .answer r.uid (.refusePerm 1) }
  | h, _ => put h (.req p)

def setReq (c : Core) (r : Req) : Core := { c with reqs := c.reqs.map fun q => if q.uid = r.uid then r else q }

/-- Sends every held request that may go, oldest first (R143, R278). -/
def pumpList (site : Nat) : List Req → State → State
  | [], s => s
  | r :: rs, s =>
    let c := getCore s site
    if !c.halted && mayGo c r then
      let r := { r with status := .flying, snap := [], loads := [] }
      pumpList site rs (launch (setCore s site (setReq c r)) site r)
    else pumpList site rs s

def pump (s : State) (site : Nat) : State :=
  pumpList site ((getCore s site).reqs.filter fun r => r.status == .held) s

/-- Takes requests into the replay buffer or load table and sends what may go. They share one sequence number (R77, R144). -/
def injectAll (s : State) (site : Nat) (rs : List Req) : State :=
  let c := getCore s site
  let c := { c with nextSeq := c.nextSeq + 1, nextUid := c.nextUid + rs.length,
                    reqs := c.reqs ++ rs.zipIdx.map fun e => { e.1 with uid := c.nextUid + e.2, seqn := c.nextSeq, status := .held } }
  pump (setCore s site c) site

/-- The home of a message by its device and logical core: its core, or the landing of the port toward the peer (R342). -/
def msgHome (s : State) (site dev lc : Nat) : Endpoint :=
  if dev = s.devid then
    match siteOf s lc with
    | some x => .core x
    | none => .core Config.nSites
  else .landing (landingOfPort ((s.devid + dev) % 16))

/-- Home(a) of an address outside the own scratchpad (R49, R171). -/
def homeOf (s : State) (a : Word) : Endpoint :=
  match space a with
  | 0 => .ferry (homeFerry a)
  | 0xE => .landing (landingOfPort ((s.devid + fabricPeer a) % 16))
  | _ => match siteOf s (meshCore a) with
    | some x => .core x
    | none => .core Config.nSites

/-- The uncompleted requests of a slot that a SEND.R waits for: those that count in L or S (R143). -/
def snapshotLS (c : Core) (k : Fin 4) (act : BitVec 48) : List Nat :=
  (c.reqs.filter fun r => r.slot == k && r.act == act && (r.cntL || r.cntS)).map fun r => r.uid
/-- Those an output TREL or a SUBSCR waits for: stores and atomics (R216). -/
def snapshotS (c : Core) (k : Fin 4) (act : BitVec 48) : List Nat :=
  (c.reqs.filter fun r => r.slot == k && r.act == act && r.cntS && (match r.op with | .msg _ => false | _ => true)).map fun r => r.uid

/-- A request of the current slot, before it has numbers. -/
def mkReq (s : State) (op : ROp) (addr : Word) (home : Endpoint) (ordered : Bool) (dest : RDest) (l st e : Bool) : Req :=
  let sl := curSlot s
  { uid := 0, seqn := 0, slot := s.cur.2, act := sl.actId, op := op, addr := addr, home := home, ordered := ordered, dest := dest,
    cntL := l, cntS := st, cntE := e, status := .held, part := corePart s s.cur.1, winbase := sl.winbase, retAt := sl.retired + 1 }

/-- Replay-buffer entries in use: requests that count in S, one for each sequence number (R7, R144). -/
def replayUsed (c : Core) : Nat := ((c.reqs.filter fun r => r.cntS).map fun r => r.seqn).dedup.length

/-- A table entry of the NI stands for a ticket of a home. -/
def tabled (c : Core) (t : BitVec 16) (h : Endpoint) : Bool :=
  c.tickets.toList.any fun e => e.state != .free && e.ticket == t && e.home == h
/-- A request waits on a ticket that has no entry of its own. -/
def untabled (c : Core) (r : Req) : Bool :=
  match r.status with
  | .ticketed t => !tabled c t r.home
  | _ => false
/-- A fill or a BULK access to a global address waits on a ticket that has no entry of its own. -/
def untabledAt (c : Core) (a : Word) (st : ReqStatus) : Bool :=
  match st with
  | .ticketed t => !tabled c t (.ferry (homeFerry a))
  | _ => false
/-- The NI takes no new remote request: all 16 entries are in use and a ticket stands outside the table (R278). -/
def niFull (c : Core) : Bool :=
  c.tickets.toList.all (fun e => e.state != .free) &&
    ((c.reqs.any (untabled c) || c.fills.any fun f => untabledAt c (BitVec.ofNat 64 f.line) f.status) ||
      c.bulks.any fun b => untabledAt c b.addr b.status)
/-- 256 instructions have retired since the slot issued its oldest unacknowledged remote request (R282). -/
def skidFull (c : Core) (k : Fin 4) : Bool :=
  let sl := c.slots[k]
  c.reqs.any fun r => r.slot == k && r.act == sl.actId && !r.killed && (r.cntL || r.cntS) && decide (r.retAt + Config.skidMax ≤ sl.retired)

-- Activations wherever they are

/-- The slot holds a running activation. -/
def runnable (sl : Slot) : Bool :=
  match sl.mode with
  | .run => true
  | .stalled => true
  | _ => false

/-- The context of the activation is in a spill frame (R297). -/
def parked (c : Core) (k : Fin 4) (act : BitVec 48) : Bool := c.away.any fun a => a.slot == k && a.ctx.actId == act

/-- Changes an activation's context wherever it is: its slot, or a spill frame (R79, R298). -/
def updAct (c : Core) (k : Fin 4) (act : BitVec 48) (f : Slot → Slot) : Core :=
  if parked c k act then { c with away := c.away.map fun a => if a.slot = k ∧ a.ctx.actId = act then { a with ctx := f a.ctx } else a }
  else if c.slots[k].actId = act then { c with slots := c.slots.set k (f c.slots[k]) }
  else c

def actSlot (c : Core) (k : Fin 4) (act : BitVec 48) : Slot :=
  match c.away.find? fun a => a.slot == k && a.ctx.actId == act with
  | some a => a.ctx
  | none => if c.slots[k].actId = act then c.slots[k] else {}

def selfOf (s : State) (site : Nat) (k : Fin 4) : Member := ⟨site, k, (getSlot s site k).actId⟩
def memberSlot (s : State) (m : Member) : Slot := actSlot (getCore s m.site) m.slot m.act
def updMember (s : State) (m : Member) (f : Slot → Slot) : State := updCore s m.site fun c => updAct c m.slot m.act f

/-- The activation has not ended: it is in its slot or in a spill frame. -/
def memberRuns (s : State) (m : Member) : Bool :=
  let c := getCore s m.site
  parked c m.slot m.act || (c.slots[m.slot].actId == m.act && runnable c.slots[m.slot])

/-- The activations started together with that of a slot which have not ended, itself among them (R130, R308). -/
def partners (s : State) (site : Nat) (k : Fin 4) : List Member :=
  let g := (getSlot s site k).group
  if g.isEmpty then [selfOf s site k] else g.filter (memberRuns s)

/-- The activation that holds the messages of the firing: the lead's or the primary's (R122, R130, R308). -/
def holderOf (s : State) (site : Nat) (k : Fin 4) : Member := (getSlot s site k).group.headD (selfOf s site k)

-- The held messages of an activation

/-- The channel that a held message came from, unless it has been cleared since (R152). -/
def heldChan (c : Core) (h : Held) : Option Chan := (tget c.chans h.chan).filter fun x => x.gen == h.gen

/-- The second slot of the quorum pattern a held partial came from is free again (R125). -/
def freePart (c : Core) (h : Held) : Core :=
  if c.pats.any fun p => p.2.gen == h.pgen then
    { c with pats := c.pats.map fun p => if p.2.gen = h.pgen then (p.1, { p.2 with held := false }) else p }
  else c

/-- The hold of an activation on its messages ends without redelivery (R122, R306). A channel that the hold paused is examined again
(R304). -/
def freeHeldIn (c : Core) (h : Held) : Core :=
  match h.part, heldChan c h with
  | some _, some x => markChan (setChan (freePart c h) h.chan { x with heldParts := x.heldParts - 1 }) h.chan
  | some _, none => freePart c h
  | none, some x =>
    let c := setChan c h.chan { x with held := x.held - 1 }
    if x.kind = .sequenced then markChan c h.chan else c
  | none, none => if h.roam then { c with strayDeque := c.strayDeque - 1 } else c

/-- Messages come back to their channels with the returned mark and are examined again; a quorum pattern that names the channel absorbs
them in their turn (R307, R125). What came from a channel or quorum pattern cleared since is discarded with it (R152;
notes/assumptions/79). -/
def returnHeldIn (c : Core) (h : Held) : Core :=
  let c := freeHeldIn c h
  match heldChan c h with
  | none => c
  | some x =>
    match h.part with
    | some d =>
      let d := { d with lost := d.lost.map fun q => { q with returned := true } }
      { c with pats := c.pats.map fun p => if p.2.gen = h.pgen then (p.1, { p.2 with done := p.2.done ++ [d] }) else p }
    | none =>
      let ms := h.msgs.map fun q => { q with returned := true }
      let c := match x.kind with
        | .fifo => setChan c h.chan { x with queue := ms ++ x.queue }
        | .sequenced =>
          setChan c h.chan { x with queue := ms ++ x.queue, nextSeq := (ms.head?.map fun q => q.msg.seq).getD x.nextSeq }
        | .roaming => { c with deque := c.deque ++ ms.map fun q => ⟨h.chan, q⟩ }
      markChan (absorb h.chan (ms.length + x.queue.length + 1) c) h.chan

def heldOf (sl : Slot) : List Held := (sl.fired.map fun f => f.held).getD []

/-- Drops the record of held messages of a slot. -/
def noHeld (sl : Slot) : Slot := { sl with fired := sl.fired.map fun f => { f with held := [] } }

/-- A deque entry that comes free serves every roaming channel (R128, R133). -/
def roamingOf (c : Core) (hs : List Held) : List Nat :=
  if hs.any fun h => h.roam then (c.chans.filter fun e => e.2.kind == .roaming).map fun e => e.1 else []

def freeHeld (s : State) (m : Member) : State :=
  let hs := heldOf (memberSlot s m)
  let s := updCore s m.site fun c => updAct (hs.foldl freeHeldIn c) m.slot m.act noHeld
  wakeChans s m.site ((hs.map fun h => h.chan) ++ roamingOf (getCore s m.site) hs)

def returnHeld (s : State) (m : Member) : State :=
  let hs := heldOf (memberSlot s m)
  let s := updCore s m.site fun c => updAct (hs.foldl returnHeldIn c) m.slot m.act noHeld
  wakeChans s m.site (hs.map fun h => h.chan)

-- Irrevocable operations and the outbox (R304 to R306)

/-- The requests an outbox entry becomes (R189, R306). Each waits in the NI for the loads of the activation that are still out, since they
are performed before every buffered request (R189); a SEND.R waits for the loads of its snapshot and for the requests released before
it (R143). -/
def outReqs (s : State) (m : Member) (o : OutReq) : List Req :=
  let c := getCore s m.site
  let mine := fun (p : Req → Bool) => (c.reqs.filter fun r => r.slot == m.slot && r.act == m.act && p r).map fun r => r.uid
  let base : Req :=
    { uid := 0, seqn := 0, slot := m.slot, act := m.act, op := o.op, addr := o.addr, home := .host, ordered := o.ordered, dest := .none,
      cntL := false, cntS := true, cntE := false, status := .held, part := corePart s m.site, winbase := o.winbase,
      retAt := o.retAt, loads := mine fun r => r.cntL,
      snap := (match o.op with | .msg x => if x.rel then o.snapReads ++ mine fun r => r.cntS else [] | _ => []) }
  match o.op, o.rect with
  | .msg x, some sites =>
    sites.map fun y => { base with op := .msg { x with dstCore := coreNumber s y }, home := .core y, phys := true }
  | .msg x, none => [{ base with home := msgHome s m.site x.dstDev x.dstCore }]
  | _, _ => [{ base with home := homeOf s o.addr }]

/-- What an activation injects when its outbox is released: nothing of a twin secondary (R309). -/
def outboxOf (sl : Slot) : List OutReq :=
  match sl.twin with
  | some (.secondary _) => []
  | _ => sl.outbox

/-- Injects the outbox in issue order; each request takes an S count (R305, R306). -/
def releaseOutbox (s : State) (m : Member) : State :=
  let os := outboxOf (memberSlot s m)
  let s := updMember s m fun sl => { sl with outbox := [], replayable := false, cntS := sl.cntS + os.length }
  os.foldl (fun s o =>
    let rs := outReqs s m o
    if rs.isEmpty then updMember s m fun sl => { sl with cntS := sl.cntS - 1 } else injectAll s m.site rs) s

/-- The outbox of an activation can be injected: S counts and replay-buffer entries for all of it, and an NI that takes requests (R7, R77,
R278). -/
def memberRoom (s : State) (m : Member) : Bool :=
  let c := getCore s m.site
  let sl := memberSlot s m
  let n := (outboxOf sl).length
  n == 0 || (!niFull c && decide (sl.cntS + n ≤ 64) && decide (replayUsed c + n ≤ Config.replayMax))

/-- The activation is a twin secondary. -/
def isSecondary (sl : Slot) : Bool :=
  match sl.twin with
  | some (.secondary _) => true
  | _ => false

/-- What an activation's release releases: the members of its gang give up their replay together, since the messages are freed once for
all of them (notes/assumptions/81). A twin secondary's release is its own alone (R309). -/
def releaseSet (s : State) (site : Nat) (k : Fin 4) : List Member :=
  if isSecondary (getSlot s site k) then [selfOf s site k] else partners s site k

/-- There is room for every outbox that a release injects. -/
def outboxRoom (s : State) (site : Nat) (k : Fin 4) : Bool := (releaseSet s site k).all (memberRoom s)

/-- The slot has nothing to release, or what it releases has room; otherwise it stalls on its posted requests (R11, R306). -/
def needOutbox (s : State) (k : State → Res) : Res :=
  if (curSlot s).replayable && !outboxRoom s s.cur.1 s.cur.2 then stallOn s (ownReqs s fun r => r.cntS) else k s

/-- The replayable bit clears, the outbox is injected, the held messages are freed (R306). -/
def release (s : State) (site : Nat) (k : Fin 4) : State :=
  if (getSlot s site k).replayable then
    let t := (releaseSet s site k).foldl releaseOutbox s
    if isSecondary (getSlot s site k) then t else freeHeld t (holderOf s site k)
  else s

/-- A twin has not exchanged fingerprints at its present retirement count (R310). -/
def twinBehind (sl : Slot) : Bool := sl.twin.isSome && sl.exchanged != some sl.retired

/-- The result of the primary's operation goes to the secondary of the same activation (R309). -/
def tellTwin (s : State) (p : Nat) (k : Fin 4) (act : BitVec 48) (v fp : Word) : State :=
  updMember s ⟨p, k, act⟩ fun q => { q with results := q.results ++ [(v, fp)] }

/-- Performs an irrevocable operation after the release of R306. A twin first exchanges fingerprints; the secondary does not perform
the operation but takes the primary's result into `dest` and does what the instruction does inside the slot, `side` (R309, R310). The
twins' fingerprints agree before the operation, so the secondary takes the primary's after it. An operation that stalls has not
issued, and releases nothing. -/
def irrevocable (s : State) (dest : XReg) (side : State → State) (k : State → Res) : Res :=
  needOutbox s fun s =>
  let sl := curSlot s
  match sl.twin with
  | none =>
    match k (release s s.cur.1 s.cur.2) with
    | .next t => if (curSlot t).mode = .stalled ∧ (curSlot t).strictReq = none then stallOn s (curSlot t).waits else .next t
    | o => o
  | some (.primary p) =>
    if twinBehind sl then stallTwin s .exchange
    else
      match k (release s s.cur.1 s.cur.2) with
      | .next t =>
        let sl' := curSlot t
        if sl'.mode = .stalled ∧ sl'.strictReq = none then stallOn s sl'.waits
        else if pendingX sl' dest || sl'.strictReq.isSome then
          .next (updCurCore t fun c =>
            { c with reqs := c.reqs.map fun r => if r.uid + 1 = c.nextUid then { r with tell := some sl'.fprint } else r })
        else if sl'.retired = sl.retired then .next t
        else .next (tellTwin t p s.cur.2 sl.actId (getX sl' dest) sl'.fprint)
      | o => o
  | some (.secondary _) =>
    if twinBehind sl then stallTwin s .exchange
    else match sl.results with
      | [] => stallTwin s .result
      | r :: rest =>
        let s := side (updCur s fun sl => setX { sl with results := rest, replayable := false, outbox := [] } dest r.1)
        .next (updCur (retire s []) fun sl => { sl with fprint := r.2 })

-- The end of an activation

/-- An activation's requests complete without effect on it (R307). -/
def killReqs (c : Core) (k : Fin 4) (act : BitVec 48) : Core :=
  { c with reqs := c.reqs.map fun r => if r.slot = k ∧ r.act = act then { r with killed := true } else r }

/-- Adds one message to the delay table (R323). -/
def addDelay (endNs startNs : Nat) (c : Core) (d : DelayMsg) : Core :=
  let upd := fun (e : DelayEnt) =>
    { e with count := min (e.count + 1) (2 ^ 32 - 1), transit := min (e.transit + (BitVec.ofNat 32 d.arrival - d.time).toNat) (2 ^ 64 - 1),
             queue := min (e.queue + (startNs - d.arrival)) (2 ^ 64 - 1), run := min (e.run + (endNs - startNs)) (2 ^ 64 - 1) }
  if c.delay.any fun e => e.dev == d.dev && e.core == d.core then
    { c with delay := c.delay.map fun e => if e.dev = d.dev ∧ e.core = d.core then upd e else e }
  else if c.delay.length < 63 then { c with delay := c.delay ++ [upd ⟨d.dev, d.core, 0, 0, 0, 0⟩] }
  else { c with others := some (upd (c.others.getD ⟨1023, 8191, 0, 0, 0, 0⟩)) }

/-- Delay accounting at the end of an activation; a twin counts on the primary only (R323). -/
def accountOf (s : State) (m : Member) : State :=
  let c := getCore s m.site
  let sl := memberSlot s m
  match sl.fired, sl.twin with
  | _, some (.secondary _) => s
  | some f, _ => if c.dbgctl.getLsbD 7 then updCore s m.site fun c => f.delays.foldl (addDelay s.time sl.startNs) c else s
  | none, _ => s
def account (s : State) (site : Nat) (k : Fin 4) : State := accountOf s (selfOf s site k)

/-- Reports the late events of a closing slot in place of their traps (R146, R279, R281). -/
def reportDue (s : State) (site : Nat) (k : Fin 4) (d : Due) : State :=
  report s site k
    { kind := if d.cause = 0x13 then 4 else 3, cause := d.cause.toNat, tval := d.tval, tseq := tseqOf d.seqn,
      word5 := if d.req = 1 ∧ d.cause ≠ 0x13 then d.tval else 0 }

/-- The slot unbinds its streams and moves to CLOSING (R156). -/
def closeSlot (s : State) (site : Nat) (k : Fin 4) : State :=
  let ds := (getSlot s site k).due
  let s := ds.foldl (fun s d => reportDue s site k d) s
  setSlot s site k fun sl =>
    { sl with mode := .closing, stallAt := s.cycle, streams := Vector.replicate 4 none, due := [], stepOwed := false, strictReq := none,
              strictNext := none }

/-- The access writes or reads a page of the spill or the restore in progress. -/
def forSpill (k : BulkKind) : Bool := match k with | .spillPage _ => true | _ => false
def forRestore (k : BulkKind) : Bool := match k with | .restorePage _ => true | _ => false

/-- What a parked activation waited for has completed (R298). -/
def awayReady (c : Core) (a : Away) : Bool :=
  !(c.reqs.any fun r => a.waits.contains r.uid) && !c.fills.any fun f => a.waits.contains f.uid

/-- Parked activations that are ready and not yet in the ready queue. -/
def returning (c : Core) : List Away :=
  c.away.filter fun a =>
    awayReady c a && !(c.ready.contains (.resume a.slot a.frame)) && !(c.restoring.any fun m => m.slot == a.slot && m.frame == a.frame)

/-- Ready activations enter the ready queue at its head while it has room (R127, R298). -/
def pushResumes (c : Core) : Core :=
  (returning c).foldl (fun c a =>
    if c.ready.length < Config.readyMax then { c with ready := .resume a.slot a.frame :: c.ready } else c) c

/-- An activation in a spill frame is gone: its frame is free, a restore of it stops, and the entry it had of the ready queue is free for another
that is ready to return (R127, R298). -/
def dropParked (c : Core) (k : Fin 4) (act : BitVec 48) : Core :=
  match c.away.find? fun a => a.slot == k && a.ctx.actId == act with
  | none => c
  | some a =>
    let back := c.restoring.any fun m => m.slot == k && m.frame == a.frame
    pushResumes
    { c with away := c.away.filter fun b => b.frame != a.frame, ready := c.ready.filter fun e => e != .resume k a.frame,
             bulks := if back then c.bulks.filter fun b => !forRestore b.kind else c.bulks,
             restoring := if back then none else c.restoring,
             slots := if back then c.slots.set k { c.slots[k] with mode := .free } else c.slots }

/-- An activation is killed: its outbox is dropped and its outstanding requests complete without effect on it (R307, R15). -/
def dropMember (s : State) (m : Member) : State :=
  let s := updCore s m.site fun c => killReqs c m.slot m.act
  if parked (getCore s m.site) m.slot m.act then updCore s m.site fun c => dropParked c m.slot m.act
  else closeSlot (setSlot s m.site m.slot fun sl => { sl with outbox := [], replayable := false, due := [] }) m.site m.slot

/-- The trace record of an activation that is killed (R322). -/
def traceKill (s : State) (m : Member) : State := traceAct s m.site 4 (patOf (memberSlot s m)) m.act (memberSlot s m).pc 0

/-- Ends a replayable activation so that it runs again, and with it those started with it: outboxes dropped, requests without effect,
messages returned (R307, R157). -/
def redeliver (s : State) (site : Nat) (k : Fin 4) : State :=
  let ms := partners s site k
  let h := holderOf s site k
  let s := (ms.filter fun m => m != selfOf s site k).foldl traceKill s
  ms.foldl dropMember (returnHeld s h)

/-- The firing can run again: no message of it was returned before, and every activation it started still runs with its bit set (R307;
notes/assumptions/81). -/
def firesAgain (s : State) (site : Nat) (k : Fin 4) : Bool :=
  let sl := getSlot s site k
  let ms := partners s site k
  !(sl.fired.map fun f => f.returned).getD false && (sl.group.isEmpty || decide (ms.length = sl.group.length)) &&
    ms.all fun m => (memberSlot s m).replayable

/-- An uncorrectable error that reaches a replayable activation kills it, and with it those started with it (R307). -/
def replayError (s : State) (site : Nat) (k : Fin 4) (cause : Nat) (tval : Word) : State :=
  if firesAgain s site k then redeliver (traceKill s (selfOf s site k)) site k
  else
    let ms := partners s site k
    let h := holderOf s site k
    let s := report s site k { kind := 9, cause := cause, tval := tval, epc := (getSlot s site k).pc }
    let s := ms.foldl (fun s m => traceKill (accountOf s m) m) s
    ms.foldl dropMember (freeHeld s h)

/-- Ends an activation as KILL with X(A) = 0 would, without its report (R271, R272). -/
def endQuiet (s : State) (site : Nat) (k : Fin 4) : State :=
  let s := account s site k
  let s := setSlot (freeHeld s (selfOf s site k)) site k fun sl => { sl with outbox := [], replayable := false }
  closeSlot (trace s site k 4 (patOf (getSlot s site k)) (getSlot s site k).pc 0) site k

/-- Ends an activation after a report of its own (R271, R272). -/
def endBy (s : State) (site : Nat) (k : Fin 4) (r : Report) : State := endQuiet (report s site k r) site k

-- Taking an exception and returning

/-- What a trap records (R270, R273). -/
structure TrapInfo where
  cause : BitVec 8
  tval : Word := 0
  epc : Word
  seqn : Option Nat := none
  late : Bool := false
  exact : Bool := false
  req : BitVec 2 := 3
  deriving DecidableEq, Repr

def trapTseq (t : TrapInfo) : BitVec 17 :=
  match t.seqn with
  | some n => BitVec.ofNat 17 (tseqOf n)
  | none => 0

/-- A trap is taken in a slot (R270 to R272). On a control core PM and MODE become 1 and the handler runs in firmware mode, which is not
supervisor mode: a trap there is no double trap (R269). A double trap without a handler is reported as DOUBLE: no rule orders R271 and R272
(notes/assumptions/93). -/
def takeTrap (s : State) (site : Nat) (k : Fin 4) (t : TrapInfo) : State :=
  let c := getCore s site
  let sl := c.slots[k]
  let tq := (trapTseq t).toNat
  if inSup c sl && !sl.nest then
    endBy s site k { kind := 8, cause := t.cause.toNat, tval := t.tval, epc := t.epc, tseq := tq }
  else if c.tvec = 0 then
    endBy s site k { kind := 7, cause := t.cause.toNat, tval := t.tval, epc := t.epc, tseq := tq }
  else
    let s := trace s site k 3 t.cause.toNat t.epc t.tval.toNat
    setSlot s site k fun sl =>
      { sl with mode := .run, cause := t.cause, tval := t.tval, epc := t.epc, tseq := trapTseq t, treq := t.req, exact := t.exact,
                late := t.late, nest := false, pm := sl.sup || c.ctrl, sup := true, pc := c.tvec + 16,
                strictReq := none, strictNext := none }

/-- Raises a cause precisely at the current instruction: nothing of the instruction takes effect (R49, R270). -/
def trap (s : State) (cause : BitVec 8) (tval : Word) : Res :=
  .next (takeTrap s s.cur.1 s.cur.2 { cause := cause, tval := tval, epc := (curSlot s).pc })

def cILLEGAL : BitVec 8 := 0x01
def cBADPREFIX : BitVec 8 := 0x02
def cBADLINE : BitVec 8 := 0x03
def cBADTARGET : BitVec 8 := 0x04
def cMISALIGN : BitVec 8 := 0x05
def cBADSPACE : BitVec 8 := 0x06
def cBADWINDOW : BitVec 8 := 0x07
def cBADPLANE : BitVec 8 := 0x08
def cPRIV : BitVec 8 := 0x09
def cMXGEOM : BitVec 8 := 0x0A
def cSTREAM : BitVec 8 := 0x0B
def cLOCALUE : BitVec 8 := 0x10
def cREFPERM : BitVec 8 := 0x11
def cREFUE : BitVec 8 := 0x12
def cTKFAIL : BitVec 8 := 0x13
def cDENIED : BitVec 8 := 0x14
def cBREAK : BitVec 8 := 0x18
def cSTEP : BitVec 8 := 0x19
def cSOFT : BitVec 8 := 0x1A

/-- An uncorrectable error is taken as a trap although the pattern is a REPLAY or TWIN pattern: its bit is clear (R307). -/
def unreplayable (s : State) (site : Nat) (k : Fin 4) (cause : Nat) (tval epc : Word) (tseq : Nat) : State :=
  if ((getSlot s site k).fired.map fun f => f.replay).getD false then
    report s site k { kind := 9, cause := cause, tval := tval, epc := epc, tseq := tseq }
  else s

/-- A local access met an uncorrectable word: LOCALUE, or the end of a replayable activation (R14, R274, R307). -/
def localUE (s : State) (off : Nat) : Res :=
  let sl := curSlot s
  if sl.replayable then .next (replayError s s.cur.1 s.cur.2 0x10 (BitVec.ofNat 64 off))
  else trap (unreplayable s s.cur.1 s.cur.2 0x10 (BitVec.ofNat 64 off) sl.pc 0) cLOCALUE (BitVec.ofNat 64 off)

/-- The mode a slot runs in lets it run supervisor instructions: supervisor mode, or firmware mode on a control core (R269, R286). -/
def privileged (s : State) : Bool := (curSlot s).sup || (curCore s).ctrl

/-- A code address may be reached: global virtual space, even, outside a header (R83). -/
def badPc (t : Word) : Option (BitVec 8) :=
  if space t ≠ 0 ∨ bits t 57 3 ≠ 0 then some cBADSPACE
  else if t.getLsbD 0 ∨ bits t 0 7 < 16 then some cBADTARGET
  else none

def findLine (c : Core) (a : Nat) : Option CLine := c.icache.find? fun l => l.addr == a / 128 * 128
def lineOff (t : Word) : Nat := (bits t 0 7 - 16) / 2

end Sys2Proof.Machine
end

