-- ==== Sys2Proof/Machine/Flags.lean ====
section
/-! DEFINITION. Machine/Flags.lean: fexc and the generator as an instruction's roundings leave them (spec/04 R57 to R60), and the
operations that scalar and vector instructions share. -/

namespace Sys2Proof.Machine

/-- The roundings of an instruction start from the slot's generator with no flag raised. -/
def envOf (sl : Slot) : FEnv := { lfsr := sl.lfsr, fl := 0 }

/-- fexc gathers the flags raised, and the generator keeps its new state (R57, R59). -/
def putEnv (sl : Slot) (e : FEnv) : Slot := { sl with fexc := sl.fexc ||| BitVec.ofNat 5 e.fl, lfsr := e.lfsr }

/-- Raises flags without a rounding. -/
def raise (e : FEnv) (fl : Nat) : FEnv := { e with fl := e.fl ||| fl }

/-- The format of a page-1 width (R85). -/
def fmtOf : FWidth → FFmt
  | .f32 => fp32
  | .f64 => fp64
  | .bf16 => bf16
  | .f16 => fp16
def fmtE : E8 → FFmt
  | .e4m3 => e4m3
  | .e5m2 => e5m2

/-- The bits an operand of a width takes from its register (R85). -/
def opBits (f : FFmt) (w : Word) : Nat := w.toNat % (2 * f.signBit)
def opVal (f : FFmt) (w : Word) : FVal := valOf f (opBits f w)

/-- The arithmetic operations that round once (R87, R95). -/
inductive FOp | add | sub | mul | div | sqrt | fma | fms | fnma | fnms
  deriving DecidableEq, Repr

/-- The exact result of an operation on x = C, y = B, z = A (R87); rd is the mode .rd. -/
def fExact (op : FOp) (rd : Bool) (x y z : FVal) : ExRes :=
  match op with
  | .add => exAdd rd x y
  | .sub => exAdd rd x y.neg
  | .mul => exMul x y
  | .div => exDiv x y
  | .sqrt => exSqrt y
  | .fma => exFma rd false false x y z
  | .fms => exFma rd false true x y z
  | .fnma => exFma rd true true x y z
  | .fnms => exFma rd true false x y z

/-- One operation with its one rounding. -/
def fArith (f : FFmt) (op : FOp) (m : RMod) (x y z : Nat) (e : FEnv) : Nat × FEnv :=
  roundOne f m (fExact op (m.rnd == .rd) (valOf f x) (valOf f y) (valOf f z)) e

/-- The functions of R68. -/
inductive FFun | exp2 | log2 | rcp | rsq | tanh | sigm
  deriving DecidableEq, Repr

def fnExact (op : FFun) (x : FVal) : ExRes :=
  match op with
  | .exp2 => exExp2 x
  | .log2 => exLog2 x
  | .rcp => exRcp x
  | .rsq => exRsq x
  | .tanh => exTanh x
  | .sigm => exSigm x

/-- An ordered comparison raises NV on a NaN (R60, R88). -/
def fLess (f : FFmt) (x y : Nat) (e : FEnv) : Bool × FEnv :=
  let a := valOf f x
  let b := valOf f y
  (fvLt a b, if a.isNan || b.isNan then raise e fNV else e)
def fLessEq (f : FFmt) (x y : Nat) (e : FEnv) : Bool × FEnv :=
  let a := valOf f x
  let b := valOf f y
  (fvLe a b, if a.isNan || b.isNan then raise e fNV else e)

end Sys2Proof.Machine
end

