-- ==== Sys2Proof/Machine/Operands.lean ====
section
/-! DEFINITION. Machine/Operands.lean: the operand forms: address checks (spec/05 R76, spec/06 R103), local and remote addresses
(R77), vector sources and destinations with their streams (spec/06 R108 to R112), and the issue of a remote request (R77, R192). -/

namespace Sys2Proof.Machine

/-- The fields of an address that must be zero are zero (R76 steps 1, 2). -/
def badFields (ea : Word) : Bool :=
  match space ea with
  | 0 => bits ea 57 3 != 0
  | 0xE => bits ea 56 4 != 0
  | 0xF => bits ea 48 12 != 0 || bits ea 24 11 != 0 || bits ea 19 1 != 0
  | _ => true

/-- The core field of a mesh address names the issuing core or a core of its partition; firmware is not checked (R76 step 3, R377). -/
def coreReachable (s : State) (ea : Word) : Bool :=
  meshCore ea == 0x1FFF || (curCore s).ctrl ||
    (match (curCore s).part with
     | some p => inPart s p (meshCore ea)
     | none => false)

/-- Steps 1 to 4 of R76. -/
def check14 (s : State) (ea : Word) : Option (BitVec 8) :=
  if badFields ea then some cBADSPACE
  else if space ea = 0xF then
    if !coreReachable s ea then some cBADSPACE
    else if 14 ≤ meshWin ea then some cBADWINDOW
    else none
  else none

/-- Step 5 of R76: RAW, global and fabric addresses are multiples of n. -/
def check5 (ea : Word) (n : Nat) : Option (BitVec 8) :=
  if (space ea ≠ 0xF ∨ meshWin ea = 0) ∧ ea.toNat % n ≠ 0 then some cMISALIGN else none

/-- The rules of R169 for a scalar access of n bytes through windows 1 to 13. `sized` says that the form is .sw, .nw, .w or .d. -/
def check6 (ea : Word) (n : Nat) (sized : Bool) : Option (BitVec 8) :=
  if space ea ≠ 0xF then none
  else
    let w := meshWin ea
    if w = 0 then none
    else if isPlane w then some cBADPLANE
    else if !sized then some cBADWINDOW
    else
      let o := meshOff ea
      if w = 11 then (if o % (if n = 8 then 4 else 2) ≠ 0 then some cMISALIGN else none)
      else if (w = 9 ∨ w = 10 ∨ w = 13) ∧ n = 8 ∧ o % 2 ≠ 0 then some cMISALIGN
      else none

/-- Every check of an LD or ST (R76). -/
def checkScalar (s : State) (ea : Word) (n : Nat) (sized : Bool) : Option (BitVec 8) :=
  (check14 s ea) <|> (check5 ea n) <|> (check6 ea n sized)

/-- Offsets of the frame of a slot (R9). -/
def inFrame (k : Fin 4) (off : Nat) : Bool := decide (0x7C000 + k.val * 0x1000 ≤ off ∧ off < 0x7D000 + k.val * 0x1000)

/-- The primary's site of a twin secondary. -/
def primaryOf (sl : Slot) : Option Nat :=
  match sl.twin with
  | some (.secondary p) => some p
  | _ => none

/-- The address names the issuing core itself (R77). To a twin secondary, whose coreid reads the primary's number, the primary's number
names it too (R309; notes/assumptions/82). -/
def isOwn (s : State) (ea : Word) : Bool :=
  space ea == 0xF &&
    (meshCore ea == 0x1FFF || meshCore ea == coreNumber s s.cur.1 || (primaryOf (curSlot s)).any fun p => meshCore ea == coreNumber s p)

/-- The site whose scratchpad an own offset names: the primary's for a twin secondary outside its slot frame (R309). Such an access is
performed there in one step, as the primary performs its own (notes/assumptions/82). -/
def spadSite (s : State) (off : Nat) : Nat :=
  if inFrame s.cur.2 off then s.cur.1 else (primaryOf (curSlot s)).getD s.cur.1

/-- The site whose channels, patterns, tile table and chain an instruction sees: the primary's for a twin secondary, which sets none of
its own (R309; notes/assumptions/82). -/
def ownSite (s : State) : Nat := (primaryOf (curSlot s)).getD s.cur.1
def ownCore (s : State) : Core := getCore s (ownSite s)

/-- The primary has performed the irrevocable operation at which a secondary stands, or may: the fingerprints have agreed, and the
secondary only takes the result (R309, R310). -/
def takesResult (s : State) : Bool := isSecondary (curSlot s) && !twinBehind (curSlot s)

/-- A local address check of a descriptor or record: n bytes through RAW, a multiple of 8 (R148). -/
def checkRecord (s : State) (ea : Word) (n : Nat) : Option (BitVec 8) :=
  match check14 s ea with
  | some e => some e
  | none =>
    if !isOwn s ea then some cBADSPACE
    else if meshWin ea ≠ 0 then some cBADWINDOW
    else if ea.toNat % 8 ≠ 0 then some cMISALIGN
    else if 0x80000 < meshOff ea + n then some cBADSPACE
    else none

/-- Puts a changed current core back. -/
def putCur (s : State) (c : Core) : State := setCore s s.cur.1 c

-- Streams

/-- The stream of v28 to v31, when bound. -/
def streamOf (sl : Slot) (r : VReg) : Option Stream :=
  if h : 28 ≤ r.val then sl.streams[(⟨r.val - 28, by omega⟩ : Fin 4)] else none

/-- The fault of one stream register as the instruction uses it (R112): DIRECTION 3 before OVERRUN 2. -/
def streamFault1 (sl : Slot) (srcs dsts loads : List VReg) (r : VReg) : Option Nat :=
  match streamOf sl r with
  | none => none
  | some t =>
    if (srcs.contains r && t.write) || (dsts.contains r && !t.write) || loads.contains r then some 3
    else if (srcs.contains r || dsts.contains r) && decide (t.count ≤ t.pos) then some 2
    else none

/-- tval of the stream trap an instruction raises, if any: the lowest register at fault (R112). `loads` are the A operands of VINS
and vector loads. -/
def streamFault (sl : Slot) (srcs dsts loads : List VReg) : Option Word :=
  [(28 : VReg), 29, 30, 31].findSome? fun r =>
    (streamFault1 sl srcs dsts loads r).map fun k => BitVec.ofNat 64 (r.val * 256 + k)

/-- Where element k of a stream lies (R110). -/
def streamElem (t : Stream) (k : Nat) : ElemAt := elemAt (meshWin t.base) (meshOff t.base) ((k : Int) * t.stride)

/-- An access to the own scratchpad at an offset as one step: the result and the state after it, or the uncorrectable word. -/
def ownSpad {α : Type} (s : State) (off : Nat) (f : Core → SpadRes α) : Except Nat (α × State) :=
  let site := spadSite s off
  match f (getCore s site) with
  | .error k => .error k
  | .ok (a, c) => .ok (a, setCore s site c)

/-- The value of a vector source: a bound read stream gives its next 32 elements, zeros past COUNT (R111). Every element below COUNT is
read whatever the lane mask, so an uncorrectable word under an inactive lane is met: R94 and R111 leave open whether the element of an
inactive lane is accessed (notes/assumptions/76). -/
def readSource (s : State) (sl : Slot) (r : VReg) : Except Nat (Lanes × State) :=
  match streamOf sl r with
  | none => .ok (sl.v[r], s)
  | some t =>
    let ls := (List.finRange 32).filter fun l => decide (t.pos + l.val < t.count)
    match ownSpad s (meshOff t.base) fun c =>
        readLanesAt c (mx4ScaleOff sl.winbase) (meshWin t.base) (ls.map fun l => (l, streamElem t (t.pos + l.val))) with
    | .error k => .error k
    | .ok (vs, s) => .ok (putLanes (Vector.replicate 32 0) vs, s)

def readSources (s : State) (sl : Slot) : List VReg → Except Nat (List Lanes × State)
  | [] => .ok ([], s)
  | r :: rs =>
    match readSource s sl r with
    | .error k => .error k
    | .ok (v, s) =>
      match readSources s sl rs with
      | .error k => .error k
      | .ok (vs, s) => .ok (v :: vs, s)

/-- Every bound stream an instruction names moves on once (R111). -/
def consume (sl : Slot) (rs : List VReg) : Slot :=
  { sl with streams := Vector.ofFn fun i : Fin 4 =>
      match sl.streams[i] with
      | some t => if rs.any (fun r => r.val == 28 + i.val) then some { t with pos := min (t.pos + 32) t.count } else some t
      | none => none }

/-- Stores lanes to a bound write stream: lane l to element POS + l, lanes past COUNT dropped (R111). -/
def storeStream (c : Core) (sl : Slot) (t : Stream) (ls : List (Fin 32 × Nat)) : SpadRes Unit :=
  let ls := ls.filter fun e => decide (t.pos + e.1.val < t.count)
  writeLanesAt c (mx4ScaleOff sl.winbase) (meshWin t.base) (ls.map fun e => (e.2, streamElem t (t.pos + e.1.val)))

/-- Some store of a write stream, of the lanes it writes, falls outside the slot frame, which makes it irrevocable (R306). -/
def streamOutside (k : Fin 4) (t : Stream) (ls : List (Fin 32 × Nat)) : Bool :=
  ls.any fun l =>
    let e := streamElem t (t.pos + l.1.val)
    decide (t.pos + l.1.val < t.count) && !(inFrame k e.off && inFrame k (e.off + e.len - 1))

/-- The words of a vector result: lane pairs (R310). -/
def vecWords (v : Lanes) : List Word :=
  (List.finRange 16).map fun i =>
    BitVec.ofNat 64 ((v[(⟨2 * i.val, by omega⟩ : Fin 32)]).toNat + (v[(⟨2 * i.val + 1, by omega⟩ : Fin 32)]).toNat * 2 ^ 32)

/-- Performs a local store: at once when it stays in the slot frame, otherwise irrevocably (R306). -/
def localStore (s : State) (inside : Bool) (side : State → State) (k : State → Res) : Res :=
  if inside then k s else irrevocable s 0 side k

/-- Goes on with what a scratchpad access found, or takes the uncorrectable error (R14). -/
def orUE {α : Type} (s : State) (r : Except Nat (α × State)) (k : α → State → Res) : Res :=
  match r with
  | .error off => localUE s off
  | .ok (a, s) => k a s

/-- Goes on with an access to the own scratchpad at an offset, or takes the uncorrectable error (R14). -/
def withSpad {α : Type} (s : State) (off : Nat) (f : Core → SpadRes α) (k : α → State → Res) : Res := orUE s (ownSpad s off f) k

/-- Writes lanes to a vector destination: the register, or the elements of a bound write stream (R94, R111), whose lane pairs
are folded as those of a register (R310; notes/assumptions/82). -/
def writeDest (s : State) (names : List VReg) (a : VReg) (ls : List (Fin 32 × Nat)) (e : FEnv) : Res :=
  let sl := curSlot s
  match streamOf sl a with
  | none =>
    let v := putLanes sl.v[a] ls
    .next (retire (updCur s fun sl => setV (putEnv (consume sl names) e) a v) (vecWords v))
  | some t =>
    let side := fun s => updCur s fun sl => putEnv (consume sl names) e
    localStore s (!streamOutside s.cur.2 t ls) side fun s =>
      withSpad s (meshOff t.base) (fun c => storeStream c sl t ls) fun _ s =>
        .next (retire (side s) (vecWords (putLanes (Vector.replicate 32 0) ls)))

/-- A vector instruction from vector sources to a vector destination: f gets the sources and the old destination and gives the lanes
written. -/
def vecOp (s : State) (xs : List XReg) (srcs : List VReg) (a : VReg)
    (f : Slot → List Lanes → FEnv → List (Fin 32 × Nat) × FEnv) : Res :=
  needXV s xs (a :: srcs) fun sl =>
    match streamFault sl srcs [a] [] with
    | some tv => trap s cSTREAM tv
    | none =>
      orUE s (readSources s sl srcs) fun vs s =>
        let r := f sl vs (envOf sl)
        writeDest s (a :: srcs) a r.1 r.2

-- Remote requests

/-- What an instruction did before it found that it stalls is undone: it has not issued, whether it waits for requests, for room or for its
twin (R11, R111, R309). -/
def orStay (s : State) (r : Res) : Res :=
  match r with
  | .next t =>
    if (curSlot t).mode = .stalled ∧ (curSlot t).strictReq = none then
      (match (curSlot t).twinWait with
       | .none => stallOn s (curSlot t).waits
       | w => stallTwin s w)
    else .next t
  | o => o

/-- A remote request issues only when the counters it raises and the NI have room (R77, R192, R11, R278). -/
def roomFor (s : State) (l st : Bool) : Bool :=
  let c := curCore s
  let sl := curSlot s
  (!l || decide (sl.cntL < 31)) && (!st || (decide (sl.cntS < 64) && decide (replayUsed c < Config.replayMax))) && !niFull c

/-- Stalls for want of room; a counter at its limit waits on the requests it counts (R11, R297). -/
def stallRoom (s : State) (l st : Bool) : Res :=
  stallOn s (ownReqs s fun r => (l && (curSlot s).cntL == 31 && r.cntL) || (st && (curSlot s).cntS == 64 && r.cntS))

/-- After a request is taken: the instruction does what it does inside the slot, `side`, and retires; under STRICT it waits at itself for
completion, and the streams it consumes move on only then (R111, R283). -/
def afterRemote (s : State) (ws : List Word) (side : State → State := id) : Res :=
  let sl := curSlot s
  if sl.strict then
    let next := (curSlot (side s)).streams
    .next (updCurCore s fun c =>
      let sl := { sl with mode := SlotMode.stalled, waits := [], strictReq := some (c.nextSeq - 1), strictNext := some next, twinWait := .none,
                            fprint := foldPrint sl.fprint ws, folds := sl.folds + ws.length }
      { c with slots := c.slots.set s.cur.2 sl })
  else .next (retire (side s) ws)

/-- Counts and pending bits of a request at issue (R77). -/
def raiseFor (sl : Slot) (r : Req) : Slot :=
  let sl := { sl with cntL := sl.cntL + boolBit r.cntL, cntS := sl.cntS + boolBit r.cntS, cntE := sl.cntE + boolBit r.cntE }
  match r.dest with
  | .x a _ _ => setPendX sl a true
  | .v a _ _ => setPendV sl a true
  | .none => sl

/-- The places a request's instruction keeps in the fingerprint for the data words of the answer (R310). -/
def dataPlaces (d : RDest) : List Word :=
  match d with
  | .none => []
  | .x _ _ _ => [0]
  | .v _ _ _ => List.replicate 16 0

/-- A request with the places of its data words, which come after the words `ws`. -/
def placed (s : State) (r : Req) (ws : List Word) : Req :=
  { r with foldEnd := (curSlot s).folds + (ws ++ dataPlaces r.dest).length }

/-- Issues one request that counts as it says, or stalls (R77, R104, R192). -/
def sendReq (s : State) (r : Req) (ws : List Word) (side : State → State := id) : Res :=
  if roomFor s r.cntL r.cntS then
    afterRemote (injectAll (updCur s fun sl => raiseFor sl r) s.cur.1 [placed s r ws]) (ws ++ dataPlaces r.dest) side
  else stallRoom s r.cntL r.cntS

/-- A load-like request (R77). -/
def loadReq (s : State) (op : ROp) (addr : Word) (ordered : Bool) (dest : RDest) : Res :=
  sendReq s (mkReq s op addr (homeOf s addr) ordered dest true false false) [addr]

/-- A posted request: buffered in the outbox of a replayable activation, irrevocable when that is full, otherwise sent (R305, R306).
Only the primary of a twin performs it once the bit is clear (R309). `side` is what the instruction does inside the slot. -/
def postReq (s : State) (op : ROp) (addr : Word) (ordered : Bool) (ws : List Word) (side : State → State := id) : Res :=
  let sl := curSlot s
  let go := fun s => sendReq s (mkReq s op addr (homeOf s addr) ordered .none false true false) (addr :: ws) side
  if sl.replayable then
    if sl.outbox.length < Config.outboxMax then
      .next (retire (updCur (side s) fun sl =>
        { sl with outbox := sl.outbox ++ [{ op := op, addr := addr, ordered := ordered, winbase := sl.winbase, retAt := sl.retired + 1,
                                            snapReads := [], rect := none }] })
        (addr :: ws))
    else irrevocable s 0 side go
  else match sl.twin with
    | some (.secondary _) => .next (retire (side s) (addr :: ws))
    | _ => go s

end Sys2Proof.Machine
end

