-- ==== Sys2Proof/Machine/NiOps.lean ====
section
/-! DEFINITION. Machine/NiOps.lean: what the network interface does with answers: the ticket table, bursts, completion, refusals
(spec/16 R276 to R281, spec/17 R298, R307, R309). -/

namespace Sys2Proof.Machine

def reqPage (a : Word) : Word := BitVec.ofNat 64 (a.toNat / 4096 * 4096)

/-- The first entry of the ticket table that satisfies p. -/
def findTicket (c : Core) (p : TicketEnt → Bool) : Option (Fin 16) := (List.finRange 16).find? fun i => p c.tickets[i]

/-- Records a ticket that is no bounce (R278): a request of a burst reopens its entry, a further request joins, otherwise a FREE entry
is taken; without one the ticket stands in the request alone. -/
def recordTicket (c : Core) (t : BitVec 16) (h : Endpoint) (burst : Option (BitVec 16)) (page : Word) (seqn : Nat) (slot : Fin 4) : Core :=
  let e : TicketEnt := { state := .opened, ticket := t, home := h, page := page, seqn := seqn, slot := slot }
  match findTicket c fun x => x.state == .opened && x.ticket == t && x.home == h with
  | some _ => c
  | none =>
    match findTicket c fun x => x.state == .replaying && x.home == h && burst == some x.ticket with
    | some i => { c with tickets := c.tickets.set i e }
    | none =>
      match findTicket c fun x => x.state == .free with
      | some i => { c with tickets := c.tickets.set i e }
      | none => c

/-- A burst has ended with the answer to its last ordered request: an entry still REPLAYING for it is free (R278). -/
def endBurst (c : Core) (r : Req) : Core :=
  match r.burst, r.last with
  | some t, true =>
    (match findTicket c fun x => x.state == .replaying && x.hold && x.ticket == t && x.home == r.home with
     | some i => { c with tickets := c.tickets.set i {} }
     | none => c)
  | _, _ => c

/-- Something sent again in the burst of a ticket of a home is not yet answered. -/
def burstLeft (c : Core) (t : BitVec 16) (h : Endpoint) : Bool :=
  let mine := fun (b : Option (BitVec 16)) (e : Endpoint) (st : ReqStatus) => b == some t && e == h && st == .flying
  (c.reqs.any fun r => mine r.burst r.home r.status) || (c.fills.any fun f => mine f.burst (.ferry (homeFerry (BitVec.ofNat 64 f.line))) f.status) ||
    c.bulks.any fun b => mine b.burst (.ferry (homeFerry b.addr)) b.status

/-- A burst without ordered requests has ended once all of it is answered: its entry is free (R278; notes/assumptions/22). -/
def settleBursts (c : Core) : Core :=
  { c with tickets := eachOf c.tickets fun e => if e.state = .replaying ∧ e.hold = false ∧ burstLeft c e.ticket e.home = false then {} else e }

/-- A ticket answer to a request, counted (R278, R325). A bounce whose burst has already left waits to be sent after it. -/
def ticketReq (c : Core) (now : Nat) (r : Req) (t : BitVec 16) (h : Endpoint) (follow : Bool) : Core :=
  let base := { r with head := false, last := false, burst := none, ticketAt := now }
  if follow then
    let st := if c.tickets.toList.any fun e => e.state == .opened && e.ticket == t && e.home == h then ReqStatus.bounced t
      else if c.reqs.any fun q => q.home == h && q.status == .ticketed t then .bounced t else .held
    endBurst (countEv (setReq c { base with status := st }) 3) r
  else
    let c := recordTicket c t h r.burst (reqPage r.addr) r.seqn r.slot
    endBurst (countEv (setReq c { base with status := .ticketed t, home := h }) 2) r

/-- Takes a request of the current slot into the replay buffer as one that is on its way: the state and the request (R145). -/
def addFlying (s : State) (site : Nat) (r : Req) : State × Req :=
  let c := getCore s site
  let r := { r with uid := c.nextUid, seqn := c.nextSeq, status := .flying }
  (setCore s site { c with nextSeq := c.nextSeq + 1, nextUid := c.nextUid + 1, reqs := c.reqs ++ [r] }, r)

/-- The same as one that waits on a ticket. -/
def addTicketed (s : State) (site : Nat) (r : Req) (t : BitVec 16) : State :=
  let y := addFlying s site r
  updCore y.1 site fun c => ticketReq c s.cycle y.2 t r.home false

/-- Ordered requests still held for a home, up to the first SEND.R whose snapshot is open (R278). -/
def heldPrefix (c : Core) : List Req → List Req
  | [] => []
  | r :: rs => if unheld c r then r :: heldPrefix c rs else []

/-- Ordered requests to a home are held behind the ticket: an ordered request waits on it, or one has failed with it and is still being
reported (R278). -/
def holdsBy (c : Core) (t : BitVec 16) (h : Endpoint) : Bool :=
  (c.reqs.any fun r => r.ordered && r.home == h && (r.status == .ticketed t || r.status == .bounced t)) ||
    c.tickets.toList.any fun e => e.state == .failed && e.hold && e.ticket == t && e.home == h

/-- The ordered requests that wait on a ticket of a home, whether ticketed, bounced or held, in injection order, and the unordered ones
(R278). -/
def waitingOn (c : Core) (t : BitVec 16) (h : Endpoint) : List Req × List Req :=
  let waits := fun (r : Req) => r.home == h && (r.status == .ticketed t || r.status == .bounced t)
  let held := heldPrefix c (c.reqs.filter fun r => r.ordered && r.home == h && r.status == .held)
  ((c.reqs.filter fun r => r.ordered && waits r) ++ (if holdsBy c t h then held else []), c.reqs.filter fun r => !r.ordered && waits r)

/-- The ordered requests of a burst, in injection order, and the unordered ones. A halted NI adds no request that it holds (R300). -/
def burstOf (c : Core) (t : BitVec 16) (h : Endpoint) : List Req × List Req :=
  let w := waitingOn c t h
  (if c.halted then w.1.filter fun r => r.status != .held else w.1, w.2)

/-- Marks the first request HEAD and the last ordered one LAST; a single request carries both marks. -/
def markBurst (t : BitVec 16) (ord un : List Req) : List Req :=
  let n := ord.length
  let f := fun (r : Req) (head last : Bool) => { r with status := ReqStatus.flying, snap := [], loads := [], head := head, last := last, burst := some t }
  ord.zipIdx.map (fun e => f e.1 (e.2 == 0) (e.2 + 1 == n)) ++
    un.zipIdx.map (fun e => f e.1 (n == 0 && e.2 == 0) (n == 0 && un.length == 1))

/-- The replay burst of a ticket of a home (R278): the entry is REPLAYING until the burst has ended, or FREE after a failure. -/
def sendBurst (s : State) (site : Nat) (t : BitVec 16) (h : Endpoint) : State :=
  let c := getCore s site
  let (ord, un) := burstOf c t h
  let rs := markBurst t ord un
  let c := match findTicket c fun x => x.state != .free && x.ticket == t && x.home == h with
    | some i =>
      let e : TicketEnt := if c.tickets[i].state == .failed then {} else { c.tickets[i] with state := .replaying, hold := !ord.isEmpty }
      { c with tickets := c.tickets.set i e }
    | none => c
  let c := if rs.isEmpty then c else countEv c 4
  let s := setCore s site (rs.foldl setReq c)
  updCore (pump (rs.foldl (fun s r => launch s site r) s) site) site settleBursts

/-- An ordered request to a home is in flight outside a burst: its answer comes before the burst is sent. -/
def flyingTo (c : Core) (h : Endpoint) : Bool := c.reqs.any fun r => r.ordered && r.home == h && r.status == .flying

/-- The counts a request leaves when it ends: a SENDM's S only with its last copy (R144). -/
def lowerCounts (c : Core) (r : Req) (sl : Slot) : Slot :=
  let lastCopy := !c.reqs.any fun q => q.seqn == r.seqn
  { sl with cntL := sl.cntL - boolBit r.cntL, cntS := sl.cntS - (if lastCopy then boolBit r.cntS else 0), cntE := sl.cntE }

def clearPend (r : Req) (sl : Slot) : Slot :=
  match r.dest with
  | .x a _ _ => setPendX sl a false
  | .v a _ _ => setPendV sl a false
  | .none => sl

/-- The value an answer leaves in its register (R77, R104, R192). -/
def putAnswer (r : Req) (a : Answer) (sl : Slot) : Slot :=
  match r.dest, a with
  | .x i n sgn, .data bs => setX sl i (if sgn then sextN (leNat bs) (8 * n) else zextN (leNat bs) (8 * n))
  | .x i n sgn, .old w => setX sl i (if sgn then sextN w.toNat (8 * n) else zextN w.toNat (8 * n))
  | .v i act _, .lanes d => setV sl i (putLanes sl.v[i] ((laneList act).map fun l => (l, (d[l]).toNat)))
  | _, _ => sl

/-- The words of the result that an answer brings, as its slot holds it, in the order the fingerprint folds them (R310). -/
def answerWords (r : Req) (a : Answer) (sl : Slot) : List Word :=
  match r.dest, a with
  | .x _ n sgn, .data bs => [if sgn then sextN (leNat bs) (8 * n) else zextN (leNat bs) (8 * n)]
  | .x _ n sgn, .old w => [if sgn then sextN w.toNat (8 * n) else zextN w.toNat (8 * n)]
  | .v i _ _, .lanes _ => vecWords sl.v[i]
  | _, _ => []

/-- The data words of a remote request take the places in the fingerprint that its instruction kept for them at its retirement (R310;
notes/assumptions/82). -/
def foldAnswer (r : Req) (a : Answer) (sl : Slot) : Slot :=
  { sl with fprint := sl.fprint ^^^ (foldPrint 0 (answerWords r a sl)).rotateLeft (5 * (sl.folds - r.foldEnd)) }

/-- A request leaves the NI: its entry, its counts, its pending bit; a burst that ends frees its ticket entry; the twin secondary
gets the result, with the fingerprint its primary had after the operation; held requests may go (R77, R278, R309). `f` is what its answer
does to the activation, `ws` the result words it brings. -/
def endReq (s : State) (site : Nat) (r : Req) (f : Slot → Slot) (ws : List Word := []) : State :=
  let c := getCore s site
  let c := { c with reqs := c.reqs.filter fun q => q.uid != r.uid }
  let c := endBurst c r
  let c := updAct c r.slot r.act fun sl => let sl := clearPend r (lowerCounts c r sl); if r.killed then sl else f sl
  let s := setCore s site c
  let s := match r.tell, (actSlot c r.slot r.act).twin with
    | some fp, some (.primary p) =>
      let v := match r.dest with | .x a _ _ => getX (actSlot c r.slot r.act) a | _ => 0
      if r.killed then s else tellTwin s p r.slot r.act v (fp ^^^ foldPrint 0 ws)
    | _, _ => s
  pump s site

/-- An answer that carries a value completes its request: the value, its place in the fingerprint (R77, R310), and what `g` adds. -/
def valueReq (s : State) (site : Nat) (r : Req) (a : Answer) (g : Slot → Slot := id) : State :=
  endReq s site r (fun sl => g (foldAnswer r a (putAnswer r a sl)))
    (answerWords r a (putAnswer r a (actSlot (getCore s site) r.slot r.act)))

/-- The REQ field of an event that concerns a request (R273). -/
def reqField (r : Req) : BitVec 2 := match r.op with | .msg _ => 1 | _ => 0

/-- The ticket that a request waits on by itself. -/
def ownTicket (r : Req) : Option (BitVec 16 × Endpoint) :=
  match r.status with
  | .ticketed t => some (t, r.home)
  | _ => none

/-- A refusal or a failed ticket is due to the activation that issued the request; a CLOSING slot reports it instead (R146, R279,
R281). For an activation in a spill frame it is held until the restore (R298). -/
def dueReq (s : State) (site : Nat) (r : Req) (cause : BitVec 8) (tval : Word) : State :=
  let c := getCore s site
  let sl := actSlot c r.slot r.act
  let d : Due :=
    { uid := r.uid, seqn := r.seqn, cause := cause, tval := tval, req := reqField r, late := true, retAt := r.retAt, ticket := ownTicket r,
      strictAt := if sl.strictReq = some r.seqn then some sl.pc else none }
  let closing := sl.mode == .closing && !parked c r.slot r.act
  let s := endReq s site r fun sl => if closing then sl else { sl with due := sl.due ++ [d] }
  if closing && !r.killed then reportDue s site r.slot d else s

/-- Every request that failed with the ticket has been reported: no slot and no parked activation still owes its trap (R279). -/
def failureTold (c : Core) (t : BitVec 16) (h : Endpoint) : Bool :=
  !((c.slots.toList.flatMap fun sl => sl.due) ++ c.away.flatMap fun a => a.ctx.due).any fun d => d.ticket == some (t, h)

/-- The late event of a slot that R275 takes first: the oldest request's. -/
def oldestDue (ds : List Due) : Option Due :=
  ds.foldl (fun r d =>
    match r with
    | none => some d
    | some b => if d.seqn < b.seqn then some d else r) none

-- Failures (R279)

/-- The hold of a source at a home ends when a failure left it no ordered request to send again. -/
def dropHold (s : State) (h src : Endpoint) (t : BitVec 16) : State :=
  let go := fun (l : List SrcEnt) => l.filter fun e => !(e.src == src && e.ticket == t)
  match h with
  | .ferry f => let x := getFerry s f; setFerry s f { x with srcs := go x.srcs }
  | .core x => updCore s x fun c => { c with srcs := go c.srcs }
  | .landing l => let x := getPort s (portOfLanding l); setPort s (portOfLanding l) { x with srcs := go x.srcs }
  | _ => s

/-- Sends the rest of the burst behind a failed ticket as a new burst (R278). -/
def resendRest (s : State) (site : Nat) (t : BitVec 16) (h : Endpoint) : State :=
  sendBurst (if (burstOf (getCore s site) t h).1.isEmpty then dropHold s h (.core site) t else s) site t h

/-- Each FAILED entry whose failed requests have all been reported becomes FREE, and the rest of its burst is sent again (R278). -/
def settleFailed (s : State) (site : Nat) : State :=
  (getCore s site).tickets.toList.foldl (fun s e =>
    if e.state = .failed ∧ failureTold (getCore s site) e.ticket e.home then resendRest s site e.ticket e.home else s) s

end Sys2Proof.Machine
end

