-- ==== Sys2Proof/Machine/ChanCfg.lean ====
section
/-! DEFINITION. Machine/ChanCfg.lean: configuring channels and patterns (spec/08 R148 to R154, spec/07 R115 to R118, R125). -/

namespace Sys2Proof.Machine

/-- Bits lo to lo + w − 1 of a descriptor. -/
def fld (d lo w : Nat) : Nat := d / 2 ^ lo % 2 ^ w

def kindOf (n : Nat) : ChanKind := match n with | 0 => .fifo | 1 => .sequenced | _ => .roaming
def kindCode (k : ChanKind) : Nat := match k with | .fifo => 0 | .sequenced => 1 | .roaming => 2

/-- Pool slots a valid quorum pattern reserves (R125). -/
def patReserve (p : Pat) : Nat := if p.qn = 0 then 0 else if p.replay || p.twin then 2 else 1
/-- Capacity taken by channels and by the reserved slots of partials (R116, R125). -/
def poolTaken (c : Core) : Nat := c.chans.foldl (fun n e => n + e.2.cap) 0 + c.pats.foldl (fun n e => n + patReserve e.2) 0

/-- Status of CHSET: the lowest code that applies (R149). -/
def chsetStatus (c : Core) (user : Bool) (i d : Nat) : Nat :=
  let kind := fld d 112 2
  let cap := fld d 96 10
  if 255 < i then 1
  else if d / 2 ^ 152 ≠ 0 ∨ fld d 117 11 ≠ 0 ∨ fld d 106 6 ≠ 0 ∨ kind = 3 ∨ (kind ≠ 1 ∧ fld d 128 16 ≠ 0) ∨ (kind = 2 ∧ cap ≠ 0) then 2
  else if (tget c.chans i).isSome then 3
  else if kind ≠ 2 ∧ (cap = 0 ∨ 512 < cap ∨ Config.poolSlots < poolTaken c + cap) then 4
  else if fld d 57 7 ≠ 0 ∨ fld d 0 6 ≠ 0 ∨ (fld d 0 64 ≠ 0 ∧ fld d 64 32 = 0) then 5
  else if fld d 115 1 = 1 ∧ user then 6
  else 0

/-- The channel an accepted CHSET sets up (R150). -/
def chanOf (d : Nat) : Chan :=
  { kind := kindOf (fld d 112 2), cap := fld d 96 10, peer := fld d 114 1 == 1, code := fld d 115 1 == 1,
    faultCh := if fld d 116 1 = 1 then some (BitVec.ofNat 8 (fld d 144 8)) else none, faultRaw := BitVec.ofNat 8 (fld d 144 8),
    ovfBase := BitVec.ofNat 64 d, ovfSize := fld d 64 32, nextSeq := BitVec.ofNat 16 (fld d 128 16) }

/-- An accepted CHSET on a core (R150). -/
def putChan (c : Core) (i d : Nat) : Core := { setChan c i { chanOf d with gen := c.nextGen } with nextGen := c.nextGen + 1 }

/-- The descriptor of a channel with its current NEXTSEQ (R151). -/
def chanDesc (x : Chan) : Nat :=
  x.ovfBase.toNat + x.ovfSize * 2 ^ 64 + x.cap * 2 ^ 96 + kindCode x.kind * 2 ^ 112 + boolBit x.peer * 2 ^ 114 + boolBit x.code * 2 ^ 115 +
    boolBit x.faultCh.isSome * 2 ^ 116 + x.nextSeq.toNat * 2 ^ 128 + x.faultRaw.toNat * 2 ^ 144

/-- CHGET state, the four doublewords of bytes 32 to 63 (R151): OVFHEAD is the entry that returns next, OVFTAIL the entry that the next
spill writes. -/
def chanState (c : Core) (ch : Nat) (x : Chan) : Nat :=
  let deq := if x.kind = .roaming then (c.deque.filter fun e => e.chan == ch).length + x.held else 0
  let pool := if x.kind = .roaming then 0 else poolUsed x
  ((nextReturn x).map fun e => e.ix).getD (spillIx x) + spillIx x * 2 ^ 32 + 2 ^ 64 + pool * 2 ^ 71 + deq * 2 ^ 81 + x.last * 2 ^ 88 + x.ovf.length * 2 ^ 96 + x.drops * 2 ^ 128

/-- A configuration instruction that reads a 32-byte descriptor, irrevocable, and writes a status to A (R148, R149, R306). -/
def configSet (a c b : XReg) (f : Nat → Nat → State → Nat × State) (s : State) : Res :=
  needX s [a, c, b] fun sl =>
    let ea := getX sl b
    match checkRecord s ea 32 with
    | some e => trap s e ea
    | none =>
      withSpad s (meshOff ea) (fun co => spadRead co [(meshOff ea, 32)] fun m => readLE m (meshOff ea) 32) fun d s =>
        irrevocable s a id fun s =>
          let r := f (getX sl c).toNat d s
          .next (retireX r.2 a (BitVec.ofNat 64 r.1))

/-- A configuration instruction without an address. -/
def configClr (a c : XReg) (f : Nat → State → Nat × State) (s : State) : Res :=
  needX s [a, c] fun sl =>
    irrevocable s a id fun s =>
      let r := f (getX sl c).toNat s
      .next (retireX r.2 a (BitVec.ofNat 64 r.1))

/-- A configuration instruction that writes a record of n bytes; f gives the status and the record, or none to write nothing. -/
def configGet (a c b : XReg) (n : Nat) (f : Core → Nat → Nat × Option Nat) (s : State) : Res :=
  needX s [a, c, b] fun sl =>
    let ea := getX sl b
    match checkRecord s ea n with
    | some e => trap s e ea
    | none =>
      let r := f (ownCore s) (getX sl c).toNat
      match r.2 with
      | none => .next (retireX s a (BitVec.ofNat 64 r.1))
      | some v =>
        withSpad s (meshOff ea) (fun co => spadWrite co [] [(meshOff ea, n)] fun m => writeLE m (meshOff ea) n v) fun _ s =>
          .next (retireX s a (BitVec.ofNat 64 r.1))

/-- CHSET (R150). -/
def execChset (a c b : XReg) (s : State) : Res :=
  configSet a c b (fun i d s =>
    let st := chsetStatus (curCore s) (!privileged s) i d
    (st, if st = 0 then updCurCore s fun co => putChan co i d else s)) s

/-- CHGET (R151). -/
def execChget (a c b : XReg) (s : State) : Res :=
  configGet a c b 64 (fun co i =>
    if 255 < i then (1, none)
    else match tget co.chans i with
      | none => (7, some 0)
      | some x => (0, some (chanDesc x + chanState co i x * 2 ^ 256))) s

/-- Deque entries have come free: roaming channels whose senders wait may be tried again (R133). -/
def roamingChans (c : Core) : List Nat := (c.chans.filter fun e => e.2.kind == .roaming).map fun e => e.1

/-- The deque entries that activations hold of a channel stay theirs when it is cleared (R152). -/
def strayOf (c : Core) (i : Nat) : Core :=
  match tget c.chans i with
  | some x => if x.kind = .roaming then { c with strayDeque := c.strayDeque + x.held } else c
  | none => c

/-- An accepted CHCLR: its messages are discarded, its waiting senders get their notices (R152). -/
def clearChan (s : State) (site i : Nat) : State :=
  let s := wakeWaiters s site i
  let s := updCore s site fun c =>
    { strayOf c i with chans := tdel c.chans i, marked := c.marked.filter fun m => m != i, deque := c.deque.filter fun e => e.chan != i }
  wakeChans s site (roamingChans (getCore s site))

/-- CHCLR (R152). -/
def execChclr (a c : XReg) (s : State) : Res :=
  configClr a c (fun i s =>
    let co := curCore s
    if 255 < i then (1, s)
    else if co.pats.any fun p => p.2.terms.contains i then (3, s)
    else if (tget co.chans i).isNone then (7, s)
    else (0, clearChan s s.cur.1 i)) s

-- Patterns

/-- The channels of a descriptor's terms. -/
def patTerms (d : Nat) : List Nat := (List.range (fld d 34 2 + 1)).map fun k => fld d (8 * k) 8
def combOf (n : Nat) : Comb := match n with | 1 => .add | 2 => .or | 3 => .max | 4 => .fadd | _ => .none

/-- Ranks of the members of a gang beside the lead (R117, R130). -/
def gangRanks (g : Nat) : List Nat := match g with | 1 => [1] | 2 => [2] | 3 => [1, 2, 3] | _ => []
/-- The twin partner of a site: the core of the next rank (R308). -/
def twinPartner (site : Nat) : Nat := clusterSite (siteCluster site) (siteRank site + 1)

/-- The pattern an accepted PATSET sets up (R153). -/
def patOfDesc (d : Nat) : Pat :=
  { raw := leBytes 32 d, terms := patTerms d, qn := if fld d 36 12 = 0 then 0 else fld d 36 12 + 1, comb := combOf (fld d 48 3),
    replay := fld d 52 1 == 1, twin := fld d 53 1 == 1, gang := fld d 54 2, entry := BitVec.ofNat 64 (fld d 64 64) }

/-- Another valid pattern shares a channel against R118. -/
def quorumClash (c : Core) (i : Nat) (q : Bool) (ts : List Nat) : Bool :=
  c.pats.any fun p => p.1 != i && (q || p.2.qn != 0) && p.2.terms.any ts.contains

/-- Status of PATSET: the lowest code that applies (R149). -/
def patsetStatus (s : State) (site i d : Nat) : Nat :=
  let c := getCore s site
  let p := patOfDesc d
  let kind := fun ch => (tget c.chans ch).map fun x : Chan => x.kind
  let roams := p.terms.any fun ch => kind ch == some .roaming
  let old := match tget c.pats i with | some o => patReserve o | none => 0
  if 63 < i then 1
  else if d / 2 ^ 128 ≠ 0 ∨ fld d 56 8 ≠ 0 ∨ fld d 51 1 ≠ 0 ∨ fld d 32 2 ≠ 0 ∨ 4 < fld d 48 3 ∨
      fld d (8 * p.terms.length) (32 - 8 * p.terms.length) ≠ 0 then 2
  else if patReserve p ≠ 0 ∧ Config.poolSlots < poolTaken c - old + patReserve p then 4
  else if p.terms.any fun ch => (kind ch).isNone then 7
  else if p.terms.dedup.length ≠ p.terms.length then 8
  else if (p.qn ≠ 0 ∧ p.terms.length ≠ 1) ∨ (p.comb ≠ .none ∧ p.qn = 0) ∨
      (p.comb = .fadd ∧ (p.terms.any fun ch => kind ch != some .sequenced)) ∨ quorumClash c i (p.qn != 0) p.terms then 9
  else if roams ∧ (p.terms.length ≠ 1 ∨ p.qn ≠ 0 ∨ (c.pats.any fun o => o.1 != i && o.2.terms.any p.terms.contains)) then 10
  else if p.twin ∧ (p.gang ≠ 0 ∨ !(getPart s (corePart s site)).twins ∨ siteRank site % 2 = 1 ∨
      (tget s.failed (twinPartner site)).isSome) then 11
  else if p.gang ≠ 0 ∧ (siteRank site ≠ 0 ∨
      (gangRanks p.gang).any fun r => (tget s.failed (clusterSite (siteCluster site) r)).isSome) then 12
  else if fld d 121 7 ≠ 0 ∨ fld d 64 7 ≠ 0 then 13
  else 0

/-- A pattern goes. -/
def clearPat (c : Core) (i : Nat) : Core := { c with pats := tdel c.pats i }

/-- An accepted PATSET: the pattern replaces any earlier one, takes in what its channel queues, and marks its channels (R125, R153). -/
def setPat (c : Core) (i d : Nat) : Core :=
  let p := { patOfDesc d with gen := c.nextGen }
  let c := clearPat c i
  let c := { c with pats := tset c.pats i p, nextGen := c.nextGen + 1 }
  p.terms.foldl (fun c ch =>
    let c := match tget c.chans ch with
      | some x => absorb ch (x.queue.length + 1) c
      | none => c
    markChan c ch) c

/-- An accepted PATSET on a core; pool slots that its channels free wake their senders (R133, R153). -/
def putPat (s : State) (site i d : Nat) : State := wakeChans (updCore s site fun co => setPat co i d) site (patTerms d)

/-- PATSET (R153). -/
def execPatset (a c b : XReg) (s : State) : Res :=
  configSet a c b (fun i d s =>
    let st := patsetStatus s s.cur.1 i d
    (st, if st = 0 then putPat s s.cur.1 i d else s)) s

/-- PATCLR (R153). -/
def execPatclr (a c : XReg) (s : State) : Res :=
  configClr a c (fun i s =>
    if 63 < i then (1, s)
    else if (tget (curCore s).pats i).isNone then (14, s)
    else (0, updCurCore s fun co => clearPat co i)) s

/-- PATGET (R153). -/
def execPatget (a c b : XReg) (s : State) : Res :=
  configGet a c b 32 (fun co i =>
    if 63 < i then (1, none)
    else match tget co.pats i with
      | none => (14, none)
      | some p => (0, some (leNat p.raw))) s

end Sys2Proof.Machine
end

