-- ==== Sys2Proof/Machine/NetOps.lean ====
section
/-! DEFINITION. Machine/NetOps.lean: taking a packet off the network (spec/20 R331, R332, R336), messages at a core as a home
(spec/16 R278, spec/17 R303), activations returning from spill frames (spec/17 R298), and starting a body (spec/01 R8 to R10). -/

namespace Sys2Proof.Machine

/-- The packet in place k of the network, when it may arrive next: all of it is there, and everything before it on its lane has arrived. -/
def arriving (s : State) (k : Nat) : Option Packet :=
  match nth s.net k with
  | none => none
  | some p => if !landed s p || (s.net.take k).any (sameLane p) then none else some p

/-- Takes the packet in place k off the network, and its flits out of the buffers. -/
def consumePkt (s : State) (k : Nat) : State :=
  let s := match nth s.net k with
    | some p => freeFlits s p
    | none => s
  { s with net := s.net.eraseIdx k }

/-- Sends the answer of a home. -/
def answerTo (s : State) (home dst : Endpoint) (uid : Nat) (a : Answer) : State :=
  sendPkt s { src := home, dst := dst, cls := .rsp, body := .answer uid a }

/-- The partition of a core is dark, and not being torn down (R303, R359). -/
def darkCore (s : State) (site : Nat) : Bool := (getCore s site).part.any fun p => (getPart s p).dark && !(getPart s p).gone

/-- The source that a spill under way keeps waiting for its answer (R132). -/
def spillSource (p : Spill) : Option Endpoint :=
  match p.by_ with
  | .source src _ => some src
  | _ => none

/-- A request waits at a core: its number has moved on, the switch marker of its source is still to come (R300), or an earlier message
of its source is being spilled (R182). -/
def waitsAt (c : Core) (src : Endpoint) (r : ReqPkt) : Bool :=
  (tget c.fwd (reqNumber r)).isSome || c.awaitMark.contains src || c.spilling.any fun p => spillSource p == some src

-- Activations in spill frames

def settleAway (s : State) (site : Nat) : State :=
  if (getCore s site).away.isEmpty then s else updCore s site pushResumes

-- Slots and the head of the ready queue

/-- The lowest free slot. -/
def freeSlot (c : Core) : Option (Fin 4) := (List.finRange 4).find? fun k => c.slots[k].mode == .free

/-- The entry that starts next and the queue without it: a returning activation whose slot is busy lets later entries pass (R298). -/
def headEntry (c : Core) : List ReadyEnt → Option (ReadyEnt × List ReadyEnt)
  | [] => none
  | .resume k f :: rest =>
    if c.slots[k].mode = .free then some (.resume k f, rest)
    else match headEntry c rest with
      | some (e, r) => some (e, .resume k f :: r)
      | none => none
  | .start f :: rest => some (.start f, rest)

/-- The firing at the head of a core's ready queue. -/
def headStart (c : Core) : Option Fired :=
  match headEntry c c.ready with
  | some (.start f, _) => some f
  | _ => none

/-- The matcher and the starting of bodies run on the core. -/
def coreRuns (s : State) (site : Nat) : Bool :=
  let c := getCore s site
  working s site && !c.halted && !c.boot

-- Starting a body

/-- Register x3 (R9). -/
def actInfo (f : Fired) (rank : Nat) : Word :=
  BitVec.ofNat 64 (f.pat % 64 + f.terms.length * 2 ^ 6 + rank * 2 ^ 9 + f.quorum * 2 ^ 11 + f.seq.toNat * 2 ^ 24 + f.sqterm * 2 ^ 40 +
    boolBit f.sqv * 2 ^ 42)

/-- Register values at body start (R8, R10). -/
def startRegs (f : Fired) (k : Fin 4) (rank : Nat) : Vector Word 32 :=
  Vector.ofFn fun i : Fin 32 =>
    match i.val with
    | 2 => frameBaseAddr k
    | 3 => actInfo f rank
    | 4 => f.comb
    | n =>
      if n < 8 then 0
      else match nth f.terms ((n - 8) / 6) with
        | some t => if (n - 8) % 6 < t.1 then (nth t.2.toList ((n - 8) % 6)).getD 0 else 0
        | none => 0

/-- The seed of the stochastic generator: the two halves of word 0 of term 0, the pattern index and a constant, 1 in place of 0 (R57). -/
def lfsrSeed (w0 : Word) (pat : Nat) : BitVec 32 :=
  let v := BitVec.ofNat 32 w0.toNat ^^^ BitVec.ofNat 32 (w0.toNat / 2 ^ 32) ^^^ BitVec.ofNat 32 (pat * 2 ^ 26) ^^^ 0x2545F491#32
  if v = 0 then 1 else v

/-- The global activation id (R313). -/
def actIdOf (s : State) (site : Nat) (k : Fin 4) (serial : BitVec 24) : BitVec 48 :=
  let core := if (getCore s site).ctrl then 0xFFC + siteDie site else coreNumber s site % 4096
  BitVec.ofNat 48 (s.devid % 1024 * 2 ^ 38 + core * 2 ^ 26 + k.val * 2 ^ 24 + serial.toNat)

/-- The slot of a body at its start. The trap CSRs keep their values, tstatus.NEST among them (R10 names no value for them;
notes/assumptions/39). -/
def startSlot (s : State) (old : Slot) (site : Nat) (k : Fin 4) (f : Fired) (rank : Nat) : Slot :=
  let xs := startRegs f k rank
  let serial := old.serial + 1
  { mode := .run, x := xs, pc := f.entry + 16, cause := old.cause, tval := old.tval, epc := old.epc, tseq := old.tseq, treq := old.treq,
    exact := old.exact, late := old.late, nest := old.nest, pm := old.pm, lfsr := lfsrSeed xs[8] f.pat, actId := actIdOf s site k serial,
    serial := serial, fired := some f, replayable := f.replay, startNs := s.time }

/-- Starts a body in a slot, with its trace record (R10, R322). -/
def startBody (s : State) (site : Nat) (k : Fin 4) (f : Fired) (rank : Nat) : State :=
  let s := setSlot s site k fun old => startSlot s old site k f rank
  trace s site k 1 f.pat (f.entry + 16) 0

/-- Starts a body of twins in a slot of both cores: one activation with the primary's id, under which both start records stand (R308, R309,
R322). -/
def startTwins (s : State) (prim sec : Nat) (k : Fin 4) (fp fs : Fired) : State :=
  let s := setSlot s prim k fun old => startSlot s old prim k fp 0
  let id := (getSlot s prim k).actId
  let g : List Member := [⟨prim, k, id⟩, ⟨sec, k, id⟩]
  let s := setSlot s prim k fun sl => { sl with twin := some (.primary sec), group := g }
  let s := setSlot s sec k fun old =>
    { startSlot s old sec k fs 0 with twin := some (.secondary prim), actId := id, group := g }
  trace (trace s prim k 1 fp.pat (fp.entry + 16) 0) sec k 1 fs.pat (fs.entry + 16) 0

-- The send order at a core as a home

/-- A home that is a core bounces an ordered request behind a hold of its source (R278). -/
def coreHold (c : Core) (src : Endpoint) (r : ReqPkt) : Option SrcEnt :=
  if r.ordered && !r.head then c.srcs.find? fun e => e.src == src && e.hold else none

/-- HEAD makes the source's entry ACTIVE; requests with .rlx neither create nor obey a HOLD (R278). -/
def coreHead (s : State) (site : Nat) (src : Endpoint) (r : ReqPkt) : State :=
  if r.ordered && r.head then updCore s site fun c => { c with srcs := markHead c.srcs src } else s

/-- LAST has been performed: the source's entry goes (R278). -/
def coreLast (s : State) (site : Nat) (src : Endpoint) (r : ReqPkt) : State :=
  if r.ordered && r.last then updCore s site fun c => { c with srcs := dropSource c.srcs src } else s

/-- The ticket of a core for a message, with the hold of an ordered one. None while the source table has no room (R277, R278). -/
def coreTicket (s : State) (site : Nat) (src : Endpoint) (r : ReqPkt) (t : BitVec 16) : Option State :=
  if !r.ordered then some s
  else (holdSource (getCore s site).srcs src true t).map fun l => updCore s site fun c => { c with srcs := l }

/-- A message of a home's own partition or of a peer at a core: bounced, refused, placed or ticketed, or answered when its spill has
ended. None while the source table has no room for a new source, and while the NI writes another spill (R146, R147, R277, R278). -/
def messageAt (s : State) (site : Nat) (src : Endpoint) (r : ReqPkt) (m : Msg) (by_ : Spiller) : Option (State × Option Answer) :=
  match coreHold (getCore s site) src r with
  | some e => some (s, some (.ticket e.ticket true))
  | none =>
    if (getCore s site).spilling.isSome then none
    else
      let s := coreHead s site src r
      let hold := fun (s : State) (t : BitVec 16) => (coreTicket s site src r t).map fun s => (s, some (Answer.ticket t false))
      if darkCore s site then
        match (getCore s site).part with
        | some p => hold (updPart s p fun x => { x with spills := x.spills ++ [(site, src, spillTicket m.chan)] }) (spillTicket m.chan)
        | none => none
      else if m.dstCore ≠ coreNumber s site ∧ (getCore s site).part.all (fun p => !(getPart s p).gone) then
        some (coreLast s site src r, some (.refusePerm 1))
      else match deliver s site m r.part (match src with | .ferry _ => true | _ => false) src by_ with
        | .ack s => some (coreLast s site src r, some .ack)
        | .refused s code => some (coreLast s site src r, some (.refusePerm code))
        | .ticket s t => hold s t
        | .spilling t => (coreTicket s site src r 0).map fun _ => (t, none)
        | .busy => none

/-- The answer to a message at a core. The placing of a discovery reply ends it (R381). -/
def answerMsg (s : State) (site : Nat) (src : Endpoint) (r : ReqPkt) (m : Msg) (a : Answer) : State :=
  let s := match src, a with
    | .core x, .ack =>
      let d := getDie s (siteDie site)
      if m.srcCore = 0x1FFE ∧ (getCore s site).ctrl then setDie s (siteDie site) { d with flooding := d.flooding.filter fun y => y != x } else s
    | _, _ => s
  answerTo s (.core site) src r.uid a

/-- A message of the network at its core, once it is off the network: placed or answered, or none while it waits. -/
def messageIn (s : State) (site : Nat) (src : Endpoint) (r : ReqPkt) (m : Msg) : Option State :=
  (messageAt s site src r m (.source src r)).map fun y =>
    match y.2 with
    | some a => answerMsg y.1 site src r m a
    | none => y.1

-- Messages of the SYS class that wait in the NI (R337)

/-- The waiting messages with one more. One that a vacated site has forwarded comes before those that came directly, which are younger
(R300). -/
def joinInbox (l : List SysWait) (w : SysWait) : List SysWait :=
  if w.fwd then (l.filter fun e => e.fwd) ++ [w] ++ l.filter fun e => !e.fwd else l ++ [w]

/-- A message of the SYS class that cannot be placed yet is taken off the network while the NI has one of its four places (R337;
notes/assumptions/94). -/
def sinkSys (s : State) (pkt site : Nat) (w : SysWait) : State :=
  if reqCls w.req.op == .sys && decide ((getCore s site).inbox.length < Config.sysReserve) then
    updCore (consumePkt s pkt) site fun c => { c with inbox := joinInbox c.inbox w }
  else s

/-- A message must wait in the NI behind an earlier one of its source. -/
def inboxHolds (c : Core) (w : SysWait) : Bool := reqCls w.req.op == .sys && c.inbox.any fun e => e.src == w.src && (e.fwd || !w.fwd)

/-- A message that has come to its core waits: for the switch marker of its source, unless it was forwarded before it (R300), for a spill, or
behind an earlier one. -/
def messageWaits (c : Core) (w : SysWait) : Bool :=
  (if w.fwd then c.spilling.any fun p => spillSource p == some w.src else waitsAt c w.src w.req) || inboxHolds c w

/-- A message at its core, off the network or out of the NI: placed, answered, or left to its spill; none while it waits. -/
def takeMessage (s : State) (site : Nat) (w : SysWait) : Option State :=
  if messageWaits (getCore s site) w then none
  else match w.req.op with
    | .msg m => messageIn s site w.src w.req m
    | _ => none

/-- A message that the network brings to its core: it is taken, or waits in the NI if it is of the SYS class, or stays (R337). -/
def messageComes (s : State) (pkt site : Nat) (w : SysWait) : State :=
  (takeMessage (consumePkt s pkt) site w).getD (sinkSys s pkt site w)

/-- The messages that wait in the NI are placed as far as they can be, those of one source in their order. -/
def drainInbox (s : State) (site : Nat) : State :=
  (getCore s site).inbox.foldl (fun s w =>
    let c := getCore s site
    if c.inbox.find? (fun x => x.src == w.src) != some w then s
    else (takeMessage (setCore s site { c with inbox := c.inbox.filter fun x => x.src != w.src }) site w).elim s fun t =>
      updCore t site fun d => { d with inbox := c.inbox.erase w }) s

end Sys2Proof.Machine
end

