-- ==== Sys2Proof/Machine/TileOps.lean ====
section
/-! DEFINITION. Machine/TileOps.lean: the tile table: placement of a tile's groups (spec/12 R198, R199), the status word (R200), and the
changes of a berth's state that instructions, ferries and commands share (R201, R202, R204). -/

namespace Sys2Proof.Machine

/-- Group size of a window in bytes (R198). -/
def tileGB (w : Nat) : Nat :=
  match w with
  | 0 => 128 | 1 => 64 | 2 => 32 | 3 => 32 | 4 => 64 | 5 => 64 | 6 => 128 | 7 => 128
  | 8 => 16 | 9 => 32 | 10 => 32 | 11 => 64 | 12 => 16 | _ => 32
/-- The window keeps an exponent area (R198). -/
def tileHasExp (w : Nat) : Bool := decide (1 ≤ w ∧ w ≤ 8)
/-- The element format a window takes (R198). -/
def tileFmt (w : Nat) : Nat :=
  match w with
  | 8 => 3 | 9 => 4 | 10 => 5 | 11 => 6 | 12 => 2 | 13 => 1 | w => w
/-- Element size in memory in half bytes, by format (R198). -/
def fmtHalf (f : Nat) : Nat :=
  match f with
  | 0 => 8 | 1 => 2 | 2 => 1 | 3 => 1 | 4 => 2 | 5 => 2 | 6 => 4 | _ => 8

/-- Offset of group g of row i, and of its exponent or scale byte (R199). -/
def groupOff (t : Tile) (i g : Nat) : Nat := t.off + i * t.rstride + g * tileGB t.win
def groupExp (t : Tile) (i g : Nat) : Nat := t.off + t.rows * t.rstride + i * t.groups + g

def getTile (c : Core) (n : Nat) : Option Tile := tget c.tiles n
def setTile (c : Core) (n : Nat) (t : Tile) : Core := { c with tiles := tset c.tiles n t }
def updTile (s : State) (site n : Nat) (f : Tile → Tile) : State :=
  updCore s site fun c =>
    match getTile c n with
    | some t => setTile c n (f t)
    | none => c

def bstateCode (b : BState) : Nat := match b with | .empty => 0 | .filling => 1 | .ready => 2 | .draining => 3

/-- The tile status word (R200). -/
def tileStatus (t : Option Tile) : Word :=
  match t with
  | none => 4
  | some t =>
    BitVec.ofNat 64 (bstateCode t.state + boolBit t.output * 2 ^ 3 + boolBit (t.pin != 0) * 2 ^ 4 + boolBit t.dest * 2 ^ 5 +
      boolBit t.relp * 2 ^ 6 + boolBit t.fault * 2 ^ 7 + boolBit t.subv * 2 ^ 8 +
      (if t.subv then t.rpos * 2 ^ 9 + t.handle * 2 ^ 16 else 0) + t.tnum * 2 ^ 32)

/-- Ready for an instruction that names it. -/
def tileReady (t : Tile) : Bool := t.state == .ready && !t.relp

/-- The end of a release: EMPTY for an input berth, DRAINING for an output berth (R201, R202). -/
def freeBerth (t : Tile) : Tile :=
  if t.output then { t with state := .draining, relp := false }
  else { t with state := .empty, relp := false, fault := false, failAddr := 0 }

/-- TREL on a berth (R201, R202, R204); `snap` names the requests the ferry's next accesses follow (R216). -/
def releaseBerth (t : Tile) (snap : List Nat) : Tile :=
  if tileReady t then
    let t := { t with relSnap := snap }
    if t.pin = 0 then freeBerth t else { t with relp := true }
  else t

/-- One matrix read of a berth ends (R204, R236). -/
def unpin (t : Tile) : Tile :=
  let t := { t with pin := t.pin - 1 }
  if t.pin = 0 && t.relp then freeBerth t else t

/-- The tile's bytes of one group as ranges: planes or codes, and its exponent or scale byte. -/
def groupRanges (t : Tile) (i g : Nat) : List (Nat × Nat) :=
  (groupOff t i g, tileGB t.win) :: if tileHasExp t.win then [(groupExp t i g, 1)] else []

/-- The scale byte of a code byte in a tile group: that of the group (R199). -/
def tileScale (t : Tile) (i g : Nat) : Nat → Nat := fun _ => groupExp t i g

end Sys2Proof.Machine
end

