-- ==== Sys2Proof/Machine/Tile.lean ====
section
/-! DEFINITION. Machine/Tile.lean: the berth and ferry instructions (spec/12 R217 to R223). -/

namespace Sys2Proof.Machine

/-- A TSET base is a local mesh address through window 0 to 13 at a multiple of 16 (R197, R218). -/
def tsetBase (s : State) (site : Nat) (a : Word) : Bool :=
  !badFields a && space a == 0xF && (meshCore a == 0x1FFF || meshCore a == coreNumber s site) && decide (meshWin a < 14) && meshOff a % 16 == 0

/-- The tile a descriptor gives (R197, R198). -/
def tileOf (d : Nat) : Tile :=
  let a := BitVec.ofNat 64 d
  { win := meshWin a, off := meshOff a, rows := fld d 64 8 + 1, groups := fld d 72 8 + 1, rstride := fld d 96 19,
    output := fld d 128 1 == 1 }

/-- First offset past a tile (R199). -/
def tileEnd (t : Tile) : Nat := t.off + t.rows * t.rstride + if tileHasExp t.win then t.rows * t.groups else 0

/-- An entry TSET may not set again: moving, attached, pinned, a destination or being released (R218). -/
def tileInUse (t : Option Tile) : Bool :=
  match t with
  | some o => o.state == .filling || o.state == .draining || o.subv || o.pin != 0 || o.dest || o.relp
  | none => false

/-- Status of TSET: the lowest code that applies (R218). -/
def tsetStatus (s : State) (site i d : Nat) : Nat :=
  let t := tileOf d
  if 63 < i then 1
  else if fld d 129 127 ≠ 0 ∨ fld d 115 13 ≠ 0 ∨ fld d 80 16 ≠ 0 then 2
  else if tileInUse (getTile (getCore s site) i) then 3
  else if !tsetBase s site (BitVec.ofNat 64 d) then 4
  else if t.rstride % 16 ≠ 0 ∨ t.rstride < t.groups * tileGB t.win ∨ Config.frameBase < tileEnd t then 5
  else if t.output ∧ isPlane t.win then 6
  else 0

/-- TSET (R218). -/
def execTset (a c b : XReg) (s : State) : Res :=
  configSet a c b (fun i d s =>
    let st := tsetStatus s s.cur.1 i d
    (st, if st = 0 then updCurCore s fun co => setTile co i (tileOf d) else s)) s

/-- The requests a ferry's next accesses to a released berth follow (R216): every uncompleted request of the core for an input
berth, the slot's stores and atomics for an output berth. -/
def trelSnap (s : State) (t : Tile) : List Nat :=
  if t.output then snapshotS (curCore s) s.cur.2 (curSlot s).actId else (curCore s).reqs.map fun r => r.uid

/-- TREL: the status word before the effect, then the release (R219, R204). -/
def execTrel (a : XReg) (t : TileIx) (s : State) : Res :=
  needX s [a] fun _ =>
    irrevocable s a id fun s =>
      let e := getTile (curCore s) t.val
      let s := match e with
        | some x => updTile s s.cur.1 t.val fun y => releaseBerth y (trelSnap s x)
        | none => s
      .next (retireX s a (tileStatus e))

/-- TSTAT (R219). -/
def execTstat (a : XReg) (t : TileIx) (s : State) : Res :=
  needX s [a] fun _ => .next (retireX s a (tileStatus (getTile (ownCore s) t.val)))

/-- The condition of TWAIT (R220). -/
def condMet (cond : TileCond) (t : Tile) : Bool :=
  match cond with
  | .ready => tileReady t
  | .empty => t.state == .empty

/-- TWAIT (R220). -/
def execTwait (t : TileIx) (cond : TileCond) (s : State) : Res :=
  match getTile (ownCore s) t.val with
  | none => trap s cMXGEOM (BitVec.ofNat 64 t.val)
  | some e =>
    if condMet cond e then .next (retire s []) else stall s

-- Subscriptions

/-- The fields of a subscription descriptor (R205). -/
def subDesc (d : Nat) : SubDesc :=
  { base := BitVec.ofNat 64 d, xbase := BitVec.ofNat 64 (fld d 64 64), rpitch := fld d 128 24, tcount := fld d 152 24,
    flagv := fld d 176 16, s1 := signedN (fld d 192 32) 32, s2 := signedN (fld d 224 32) 32, s3 := signedN (fld d 256 32) 32,
    c1 := fld d 288 16, c2 := fld d 304 16, c3 := fld d 368 16, rfirst := fld d 320 6, rlen := fld d 326 7, output := fld d 333 1 == 1,
    fmt := fld d 334 4, gather := fld d 338 1 == 1, dcount := fld d 339 1 == 1, dbase := fld d 340 1 == 1, nv := fld d 341 1 == 1,
    nchan := fld d 342 8, klen := fld d 352 13, idxaddr := BitVec.ofNat 64 (fld d 384 64), defaddr := BitVec.ofNat 64 (fld d 448 64) }

/-- A tensor address lies in space 0x0, or 0xE for output (R205). -/
def tensorSpace (a : Word) (output : Bool) : Bool := !badFields a && (space a == 0 || (output && space a == 0xE))
/-- The alignment of R206 for a format. -/
def fmtAlign (f : Nat) : Nat := if f = 2 ∨ f = 3 then 16 else max 1 (fmtHalf f / 2)

/-- BASE and XBASE as the descriptor or the deferred record gives them (R206, R209, R221). XBASE is held to the alignment of BASE
(notes/assumptions/85). -/
def baseOk (q : SubDesc) : Bool := tensorSpace q.base q.output && q.base.toNat % fmtAlign q.fmt == 0
def xbaseOk (q : SubDesc) : Bool :=
  if q.fmt = 3 then tensorSpace q.xbase q.output && q.xbase.toNat % fmtAlign q.fmt == 0 else q.xbase == 0

/-- The ring's entries, when all are set and of one shape, role and free of a subscription (R206, R221). -/
def ringOk (c : Core) (q : SubDesc) : Option Tile :=
  match getTile c q.rfirst with
  | none => none
  | some t =>
    if (List.range q.rlen).all fun k =>
      (match getTile c (q.rfirst + k) with
       | some e => e.win == t.win && e.rows == t.rows && e.groups == t.groups && e.output == q.output && !e.subv
       | none => false) then some t
    else none

/-- Status of SUBSCR before it is sent: the lowest code that applies (R221). -/
def subscrStatus (c : Core) (d : Nat) : Nat :=
  let q := subDesc d
  let mult := fun (v : Int) => v % fmtAlign q.fmt == 0
  if fld d 365 3 ≠ 0 ∨ fld d 350 2 ≠ 0 ∨ 8 ≤ q.fmt then 1
  else if q.rlen = 0 ∨ 64 < q.rfirst + q.rlen then 2
  else match ringOk c q with
    | none => 2
    | some t =>
      if tileFmt t.win ≠ q.fmt ∨ (q.output ∧ isPlane t.win) then 3
      else if !(if q.dbase then q.base == 0 && q.xbase == 0 else baseOk q && xbaseOk q) ||
          !(mult q.rpitch && mult q.s1 && mult q.s2 && mult q.s3) ||
          !(if q.gather then tensorSpace q.idxaddr false && q.idxaddr.toNat % 4 == 0 else q.idxaddr == 0) ||
          !(if q.dcount || q.dbase then tensorSpace q.defaddr false && q.defaddr.toNat % 8 == 0 else q.defaddr == 0) then 4
      else if q.c1 = 0 ∨ q.c2 = 0 ∨ q.c3 = 0 ∨ t.groups * 32 < q.klen then 5
      else 0

/-- The refusal word of SUBSCR (R221). -/
def subscrRefusal (code : Nat) : Word := BitVec.ofNat 64 (2 ^ 63 + code)

/-- Takes an engine request, which STRICT does not hold (R283). -/
def engineReq (s : State) (r : Req) (ws : List Word) : Res :=
  if roomFor s r.cntL r.cntS then .next (retire (injectAll (updCur s fun sl => raiseFor sl r) s.cur.1 [placed s r ws]) (ws ++ dataPlaces r.dest))
  else stallRoom s r.cntL r.cntS

/-- SUBSCR (R221): sent to the nearest ferry of the die with the snapshot of R216. -/
def execSubscr (a b : XReg) (s : State) : Res :=
  needX s [a, b] fun sl =>
    let ea := getX sl b
    match checkRecord s ea 64 with
    | some e => trap s e ea
    | none =>
      withSpad s (meshOff ea) (fun co => spadRead co [(meshOff ea, 64)] fun m => readBytes m (meshOff ea) 64) fun bs s =>
        irrevocable s a id fun s =>
          let d := leNat bs
          let st := subscrStatus (curCore s) d
          if st ≠ 0 then .next (retireX s a (subscrRefusal st))
          else if 16 ≤ (curSlot s).cntE then stall s
          else match getTile (curCore s) (subDesc d).rfirst with
            | none => .next (retireX s a (subscrRefusal 2))
            | some t =>
              let snap := snapshotS (curCore s) s.cur.2 (curSlot s).actId
              let f := (ferriesByDistance s.cur.1).headD 0
              engineReq s (mkReq s (.subscr t.win t.rows t.groups snap bs) 0 (.ferry f) false (.x a 8 false) false false true) [ea]

/-- A request to the ferry a handle names (R222). -/
def handleReq (s : State) (a : XReg) (h : Word) (op : ROp) : Res :=
  engineReq s (mkReq s op 0 (.ferry (bits h 9 7)) true (.x a 8 false) true false false) [h]

/-- UNSUB (R222), irrevocable (R306). -/
def execUnsub (a b : XReg) (s : State) : Res :=
  needX s [a, b] fun sl =>
    let h := getX sl b
    if bits h 16 48 ≠ 0 then trap s cBADSPACE h
    else irrevocable s a id fun s => handleReq s a h (.unsub h)

/-- FSTAT (R222). -/
def execFstat (a b : XReg) (s : State) : Res :=
  needX s [a, b] fun sl =>
    let h := getX sl b
    if bits h 16 48 ≠ 0 then trap s cBADSPACE h else handleReq s a h (.fstat h)

end Sys2Proof.Machine
end

