-- ==== Sys2Proof/Machine/FerryOps.lean ====
section
/-! DEFINITION. Machine/FerryOps.lean: subscriptions at a ferry: the segments of a tile (spec/12 R206, R212), writing a row into its berth
(R207, R208), completion in ring order (R201 to R203, R210, R213), and notices (R211). -/

namespace Sys2Proof.Machine

def getSub (s : State) (f e : Nat) : Option Sub := tget (getFerry s f).subs e
def setSub (s : State) (f e : Nat) (u : Sub) : State :=
  let x := getFerry s f
  setFerry s f { x with subs := tset x.subs e u }

/-- The handle of a subscription (R210). -/
def handleOf (f gen e : Nat) : Nat := f % 128 * 2 ^ 9 + gen % 8 * 2 ^ 6 + e % 64
/-- The subscription has ended (R210). -/
def subEnded (u : Sub) : Bool := u.state == .done || u.state == .failed || u.state == .cancelled
/-- Site of the subscribing core. -/
def subSite (s : State) (u : Sub) : Nat := (siteOf s u.lcore).getD Config.nSites

-- Notices (R211)

/-- Sends the first notice of each subscription that is not already on its way or held. -/
def sendNotes (s : State) (f : Nat) : State :=
  let x := getFerry s f
  x.notes.foldl (fun s n =>
    let first := ((getFerry s f).notes.find? fun m => m.handle == n.handle).any fun m => m.uid == n.uid
    if first && !n.flying && n.ticket.isNone then
      let x := getFerry s f
      let m := { n.msg with time := BitVec.ofNat 32 s.time }
      let s := setFerry s f { x with notes := x.notes.map fun o => if o.uid = n.uid then { o with flying := true, msg := m } else o }
      match siteOf s m.dstCore with
      | none => s
      | some site =>
        sendPkt s { src := .ferry f, dst := .core site, cls := .req,
                    body := .req { uid := n.uid, seq := 0, op := .msg m, addr := 0, ordered := false, head := false, last := false,
                                   part := n.part, winbase := 0, srcCore := 0x1FFD, slot := 0, act := 0 } }
    else s) s

/-- Queues a notice of a subscription: event, tile number, berth, word 1. -/
def addNote (s : State) (f e : Nat) (u : Sub) (event tnum berth : Nat) (w1 : Word) : State :=
  if u.d.nv then
    let x := getFerry s f
    let h := handleOf f u.gen e
    let m : Msg :=
      { kind := 3, count := 2, srcCore := 0x1FFD, srcDev := s.devid, chan := u.d.nchan, dstCore := u.lcore, dstDev := s.devid,
        words := words6 [BitVec.ofNat 64 (berth + event * 2 ^ 8 + h * 2 ^ 16 + tnum % 2 ^ 24 * 2 ^ 32), w1] }
    sendNotes (setFerry s f
      { x with notes := x.notes ++ [{ uid := x.nextNote, handle := h, part := u.part, msg := m }], nextNote := x.nextNote + 1 }) f
  else s

/-- A notice leaves the ferry: acknowledged, or refused and counted (R211, R223). -/
def noteGone (s : State) (f : Nat) (n : Note) (refused : Bool) : State :=
  let x := getFerry s f
  let s := setFerry s f { x with notes := x.notes.filter fun o => o.uid != n.uid }
  let e := n.handle % 64
  let s := match getSub s f e with
    | some u => if refused ∧ handleOf f u.gen e = n.handle then setSub s f e { u with drops := u.drops + 1 } else s
    | none => s
  sendNotes s f

/-- The answer to a notice. -/
def noteAnswer (s : State) (f : Nat) (n : Note) (src : Endpoint) (a : Answer) : State :=
  match a with
  | .ack => noteGone s f n false
  | .ticket t _ =>
    let x := getFerry s f
    setFerry s f { x with notes := x.notes.map fun o => if o.uid = n.uid then { o with flying := false, ticket := some (t, src) } else o }
  | _ => noteGone s f n true

def findNote (s : State) (f uid : Nat) : Option Note := (getFerry s f).notes.find? fun n => n.uid == uid && n.flying

-- The end of a subscription

/-- E falls for the activation that subscribed, and for no later one (R15, R221). -/
def lowerE (s : State) (site : Nat) (k : Fin 4) (act : BitVec 48) : State :=
  updCore s site fun c => updAct c k act fun sl => { sl with cntE := sl.cntE - 1 }

/-- A subscription ends: its berths are detached, FILLING ones become EMPTY, the final notice goes out, E falls (R210, R211, R213,
R222). -/
def endSub (s : State) (f e : Nat) (u : Sub) (st : SubState) (event : Nat) (addr : Word) : State :=
  let site := subSite s u
  let h := handleOf f u.gen e
  let s := setSub s f e { u with state := st, jobs := [], fixups := [], defTicket := none }
  let s := (List.range u.d.rlen).foldl (fun s k =>
    updTile s site (u.d.rfirst + k) fun t =>
      if t.subv ∧ t.handle = h then { t with subv := false, state := if t.state = .filling then .empty else t.state } else t) s
  lowerE (addNote s f e u event u.tdone 0 addr) site u.slot u.act

-- Segments

/-- Valid elements of a row (R206). -/
def rowElems (u : Sub) : Nat := if u.d.klen = 0 then u.groups * 32 else u.d.klen
/-- Bytes of a row in memory, and the blocks of 32 that hold one of its elements. -/
def rowBytes (u : Sub) : Nat := (rowElems u * fmtHalf u.d.fmt + 1) / 2
def rowBlocks (u : Sub) : Nat := (rowElems u + 31) / 32

/-- Cuts n bytes at an address at the 4 KiB boundaries: offset, address, length (R212). -/
def pieces : Nat → Word → Nat → Nat → List (Nat × Word × Nat)
  | 0, _, _, _ => []
  | fuel + 1, a, off, n =>
    if n ≤ off then []
    else
      let b := a + BitVec.ofNat 64 off
      let k := min (n - off) (4096 - b.toNat % 4096)
      (off, b, k) :: pieces fuel a (off + k) n

def segsOf (kind : SegKind) (row : Nat) (a : Word) (n : Nat) : List Seg :=
  (pieces (n / 4096 + 2) a 0 n).map fun p => { id := 0, kind := kind, row := row, off := p.1, addr := p.2.1, len := p.2.2 }

/-- Address of tile t (R206). -/
def tileBase (d : SubDesc) (t : Nat) : Word :=
  d.base + wordOf ((t % d.c1 : Nat) * d.s1 + (t / d.c1 % d.c2 : Nat) * d.s2 + (t / (d.c1 * d.c2) % d.c3 : Nat) * d.s3)

/-- The segments of the rows of a tile; rows with index 0xFFFFFFFF have none (R206, R208). The difference b - BASE is taken modulo 2^64 and
shifted logically, for a row below BASE too, where the spec does not say (notes/assumptions/85). -/
def rowSegs (u : Sub) (t : Nat) (idx : Nat → Option Nat) : List Seg :=
  let l := (List.range u.rows).flatMap fun r =>
    match idx r with
    | none => []
    | some i =>
      let a := tileBase u.d t + BitVec.ofNat 64 (i * u.d.rpitch)
      segsOf .row r a (rowBytes u) ++
        (if u.d.fmt = 3 then segsOf .scale r (u.d.xbase + BitVec.ofNat 64 ((a - u.d.base).toNat / 16)) (rowBlocks u) else [])
  l.zipIdx.map fun e => { e.1 with id := e.2 }

def segKey (kind : SegKind) (row off : Nat) : Nat :=
  (match kind with | .index => 2 | .row => 0 | .scale => 1) * 2 ^ 48 + row * 2 ^ 16 + off

/-- The index of a row in a gathered tile. -/
def rowIndex (j : TileJob) (r : Nat) : Option Nat :=
  let v := readLE j.stage (segKey .index 0 (4 * r)) 4
  if v = 0xFFFFFFFF then none else some v

/-- A segment of the row is still to come. -/
def rowOpen (u : Sub) (j : TileJob) (r : Nat) : Bool :=
  (j.segs.any fun g => g.row == r) || (j.flying.any fun g => g.2.row == r) || u.fixups.any fun x => x.tile == j.tile && x.seg.row == r

/-- Every segment of the tile is done (R201, R202). -/
def jobDone (u : Sub) (j : TileJob) : Bool :=
  j.indexed && j.segs.isEmpty && j.flying.isEmpty && !u.fixups.any fun x => x.tile == j.tile

def berthOf (u : Sub) (t : Nat) : Nat := u.d.rfirst + t % u.d.rlen

def setJob (u : Sub) (j : TileJob) : Sub := { u with jobs := u.jobs.map fun i => if i.tile = j.tile then j else i }

-- Writing a row into its berth (R207, R208)

/-- Element k of a staged row; elements from n on are zero codes. -/
def stagedElem (u : Sub) (j : TileJob) (r k : Nat) : Nat :=
  if rowElems u ≤ k then 0
  else
    let h := fmtHalf u.d.fmt
    if h = 1 then
      let b := (readByte j.stage (segKey .row r (k / 2))).toNat
      if k % 2 = 1 then b / 16 else b % 16
    else readLE j.stage (segKey .row r (k * (h / 2))) (h / 2)

/-- The scale byte of group g of a row. -/
def stagedScale (u : Sub) (j : TileJob) (r g : Nat) : Nat :=
  if rowElems u ≤ 32 * g then 0x20 else (readByte j.stage (segKey .scale r g)).toNat

/-- Bytes of group g of a row in a natural window. -/
def naturalGroup (u : Sub) (j : TileJob) (r g : Nat) (empty : Bool) : List Byte :=
  let h := fmtHalf u.d.fmt
  let el := fun (k : Nat) => if empty then 0 else stagedElem u j r (32 * g + k)
  if h = 1 then (List.range 16).map fun i => BitVec.ofNat 8 (el (2 * i) + el (2 * i + 1) * 16)
  else (List.range 32).flatMap fun k => leBytes (h / 2) (el k)

/-- Stores one group of a row through the berth's window. -/
def fillGroup (u : Sub) (t : Tile) (j : TileJob) (r g : Nat) (empty : Bool) (c : Core) : SpadRes Unit :=
  let o := groupOff t r g
  let x := groupExp t r g
  if isPlane t.win then
    let lanes := (List.range 32).map fun k =>
      stagedElem u j r (32 * g + k) + if t.win = 3 ∧ k = 0 then stagedScale u j r g * 256 else 0
    let enc := if empty then (0, List.replicate 32 (0 : Int)) else planeWrite t.win lanes
    spadWrite c [] [(o, 4 * planeDepth t.win), (x, 1)] fun m => storeGroup m t.win o x enc
  else
    let bs := naturalGroup u j r g empty
    let sc := if empty then 0x20 else stagedScale u j r g
    spadWrite c [] ((o, bs.length) :: if t.win = 8 then [(x, 1)] else []) fun m =>
      let m := writeBytes m o bs
      if t.win = 8 then writeByte m x (BitVec.ofNat 8 sc) else m

/-- Stores the groups of a row in order, up to the first uncorrectable word (R213). -/
def fillRow (u : Sub) (t : Tile) (j : TileJob) (r : Nat) (empty : Bool) (c : Core) : Core × Option Nat :=
  (List.range t.groups).foldl (fun a g =>
    match a.2 with
    | some _ => a
    | none =>
      match fillGroup u t j r g empty a.1 with
      | .ok (_, c) => (c, none)
      | .error k => (a.1, some k)) (c, none)

-- Progress in ring order (R203, R213)

/-- Segments of a subscription that are on their way. -/
def flyingSegs (u : Sub) : Nat := (u.jobs.map fun j => j.flying.length).sum
/-- The tile, or an earlier one in ring order, has failed. -/
def tileFailed (u : Sub) (t : Nat) : Bool := u.fail.any fun x => decide (x.1 ≤ t)

/-- A tile fails; an earlier failure in ring order stands. Nothing more of it or of later tiles is sent, and what comes back for them is
not written to a berth; the writes of an output ring that are out are still awaited (R213, R215). -/
def failTile (u : Sub) (t : Nat) (addr : Word) : Sub :=
  if tileFailed u t then u
  else
    { u with
      fail := some (t, addr), fixups := u.fixups.filter fun x => decide (x.tile < t),
      jobs := u.jobs.filterMap fun j => if j.tile < t then some j else if u.d.output then some { j with segs := [] } else none }

/-- The oldest unfinished tile turns over its berth while it is done: notices and berths go in tile order (R201 to R203). An input
subscription that UNSUB has stopped ends with the segments it has sent, an output one with the berths in hand (R222). The berth of a failed
tile gets no TILE notice of its own beside the FAILED one: the spec does not say (notes/assumptions/85). -/
def advanceSub (f e : Nat) : Nat → State → State
  | 0, s => s
  | fuel + 1, s =>
    match getSub s f e with
    | none => s
    | some u =>
      if u.state ≠ .active then s
      else if u.stopping ∧ u.d.output = false then (if flyingSegs u = 0 then endSub s f e u .cancelled 3 0 else s)
      else
        let t := u.tdone
        let b := berthOf u t
        let site := subSite s u
        match u.fail with
        | some (ft, addr) =>
          if ft = t then
            if u.d.output ∧ flyingSegs u ≠ 0 then s
            else
            let s := updTile s site b fun x =>
              if u.d.output then { x with state := .empty, tnum := t } else { x with state := .ready, tnum := t, fault := true, failAddr := addr }
            endSub s f e u .failed 2 addr
          else match u.jobs.find? fun j => j.tile == t && jobDone u j with
            | some _ => advanceSub f e fuel (turnBerth s f e u t b site)
            | none => s
        | none =>
          match u.jobs.find? fun j => j.tile == t && jobDone u j with
          | some _ =>
            let s := turnBerth s f e u t b site
            match getSub s f e with
            | some v =>
              if v.tdone = v.tcount ∧ v.stopping = false then endSub s f e v .done 1 0 else advanceSub f e fuel s
            | none => s
          | none => if u.stopping ∧ u.jobs = [] then endSub s f e u .cancelled 3 0 else s
where
  /-- The berth of a finished tile turns READY or returns EMPTY, with its notice. -/
  turnBerth (s : State) (f e : Nat) (u : Sub) (t b site : Nat) : State :=
    let v := { u with tdone := t + 1, jobs := u.jobs.filter fun j => j.tile != t }
    let s := setSub s f e v
    let s := updTile s site b fun x => { x with state := if u.d.output then .empty else .ready, tnum := t }
    addNote s f e v 0 t b 0

def advance (s : State) (f e : Nat) : State :=
  match getSub s f e with
  | some u => advanceSub f e (u.jobs.length + 2) s
  | none => s

/-- Writes the rows of an input tile that have become complete; the first write turns the berth FILLING (R201). -/
def writeRows (s : State) (f e t : Nat) (rows : List Nat) : State :=
  rows.foldl (fun s r =>
    match getSub s f e with
    | none => s
    | some u =>
      match u.jobs.find? fun j => j.tile == t with
      | none => s
      | some j =>
        if u.d.output || rowOpen u j r || u.state != .active then s
        else
          let site := subSite s u
          let b := berthOf u t
          match getTile (getCore s site) b with
          | none => s
          | some x =>
            let y := fillRow u x j r (u.d.gather && (rowIndex j r).isNone) (getCore s site)
            let s := updTile (setCore s site y.1) site b fun x => { x with state := .filling, tnum := t }
            match y.2 with
            | some k => setSub s f e (failTile u t (meshAddr u.lcore 0 (k % 2 ^ 19)))
            | none => s) s

/-- A segment of a tile is done: its bytes are staged, the index list gives the rows; the first segment of a row turns an input berth
FILLING, and complete rows are written (R201, R206, R212). -/
def segDone (s : State) (f e t : Nat) (g : Seg) (bs : List Byte) : State :=
  match getSub s f e with
  | none => s
  | some u =>
    match u.jobs.find? fun j => j.tile == t with
    | none => s
    | some j =>
      if tileFailed u t then advance s f e
      else
        let j := { j with stage := writeBytes j.stage (segKey g.kind g.row g.off) bs }
        let u := setJob u j
        if g.kind = .index then
          if j.indexed = false ∧ j.segs = [] ∧ j.flying = [] ∧ (u.fixups.any fun x => x.tile == t) = false then
            let j := { j with indexed := true, segs := rowSegs u t (rowIndex j) }
            let s := setSub s f e (setJob u j)
            advance (writeRows s f e t ((List.range u.rows).filter fun r => (rowIndex j r).isNone)) f e
          else advance (setSub s f e u) f e
        else
          let s := setSub s f e u
          let s := if u.d.output then s else updTile s (subSite s u) (berthOf u t) fun x => { x with state := .filling, tnum := t }
          advance (writeRows s f e t [g.row]) f e

/-- A segment fails: the tile fails with its address (R213). -/
def segFailed (s : State) (f e t : Nat) (addr : Word) : State :=
  match getSub s f e with
  | none => s
  | some u => advance (setSub s f e (failTile u t addr)) f e

-- Sending segments (R212)

/-- The segments a subscription may send now, with their tiles, oldest tile first. -/
def pendingSegs (u : Sub) : List (Nat × Seg) := u.jobs.flatMap fun j => j.segs.map fun g => (j.tile, g)

/-- Changes the job of a tile. -/
def updJob (s : State) (f e t : Nat) (g : TileJob → TileJob) : State :=
  match getSub s f e with
  | some u => setSub s f e { u with jobs := u.jobs.map fun j => if j.tile = t then g j else j }
  | none => s

/-- The scratchpad offset of a segment of an output tile. -/
def segOff (t : Tile) (g : Seg) : Nat :=
  (match g.kind with | .scale => groupExp t g.row 0 | _ => groupOff t g.row 0) + g.off

/-- The home of a segment: a ferry, or the landing toward the peer of a fabric address (R212, R343). -/
def segHome (s : State) (g : Seg) : Endpoint :=
  if space g.addr = 0xE then .landing (landingOfPort ((s.devid + fabricPeer g.addr) % 16)) else .ferry (homeFerry g.addr)

/-- A segment leaves on the BULK class, to be read, or written with the bytes given (R212, R188). -/
def flySeg (s : State) (f e : Nat) (u : Sub) (t : Nat) (g : Seg) (op : ROp) : State :=
  let x := getFerry s f
  let s := updJob (setFerry s f { x with nextNote := x.nextNote + 1 }) f e t fun j =>
    { j with segs := j.segs.filter fun y => y != g, flying := j.flying ++ [(x.nextNote, g)] }
  sendPkt s
    { src := .ferry f, dst := segHome s g, cls := .bulk,
      body := .req { uid := x.nextNote, seq := 0, op := op, addr := g.addr, ordered := false, head := false, last := false, part := u.part,
                     winbase := 0, srcCore := 0x1FFD, slot := u.slot, act := 0 } }

/-- Sends one segment; of an output tile its bytes are read from the berth first, and an uncorrectable word fails the tile (R207, R213). -/
def sendSeg (s : State) (f e : Nat) (u : Sub) (t : Nat) (g : Seg) : State :=
  if u.d.output ∧ g.kind ≠ .index then
    let site := subSite s u
    match getTile (getCore s site) (berthOf u t) with
    | none => s
    | some x =>
      let o := segOff x g
      match spadRead (getCore s site) [(o, g.len)] fun m => readBytes m o g.len with
      | .error k => segFailed s f e t (meshAddr u.lcore 0 k)
      | .ok (bs, c) => flySeg (setCore s site c) f e u t g (.write bs)
  else flySeg s f e u t g (.read g.len)

/-- A subscription sends its segments in order while its core runs; those on their way and its fix-up entries together are at most 16, so
that each has an entry to go to (R212; notes/assumptions/85). -/
def sendSegs (f e : Nat) : Nat → State → State
  | 0, s => s
  | fuel + 1, s =>
    match getSub s f e with
    | none => s
    | some u =>
      if u.state ≠ .active ∨ (u.stopping ∧ u.d.output = false) ∨ Config.fixupMax ≤ flyingSegs u + u.fixups.length ∨
          coreRuns s (subSite s u) = false then s
      else match pendingSegs u with
        | [] => s
        | (t, g) :: _ => sendSegs f e fuel (sendSeg s f e u t g)

/-- An input subscription that UNSUB has stopped ends once nothing of it is on its way; a segment that came back with a ticket, or while the core
did not run, is not sent again (R222; notes/assumptions/85). -/
def endStopped (s : State) (f e : Nat) : State :=
  match getSub s f e with
  | some u => if u.stopping ∧ u.d.output = false ∧ coreRuns s (subSite s u) then advance s f e else s
  | none => s

def pumpSegs (s : State) (f e : Nat) : State := sendSegs f e Config.fixupMax (endStopped s f e)
/-- Every subscription of a ferry sends what it may. -/
def pumpFerry (s : State) (f : Nat) : State := (getFerry s f).subs.foldl (fun s e => pumpSegs s f e.1) s

/-- The segment that a packet of a ferry stands for: entry, tile, segment. -/
def findSeg (x : Ferry) (uid : Nat) : Option (Nat × Nat × Seg) :=
  x.subs.findSome? fun e => e.2.jobs.findSome? fun j => (j.flying.find? fun g => g.1 == uid).map fun g => (e.1, j.tile, g.2)

/-- A segment waits on a ticket (R212). -/
def fixSeg (s : State) (f e t : Nat) (g : Seg) (w : BitVec 16) (h : Nat) : State :=
  match getSub s f e with
  | some u => if tileFailed u t then advance s f e else setSub s f e { u with fixups := u.fixups ++ [⟨w, h, t, g⟩] }
  | none => s

/-- What a segment's home answered (R212, R213). A segment that comes back while the core does not run is sent again once it does (R214). -/
def segResult (s : State) (f e t : Nat) (g : Seg) (h : Endpoint) (a : Answer) : State :=
  let held := (getSub s f e).any fun u => !coreRuns s (subSite s u) && !tileFailed u t
  match a, h with
  | .ticket w _, .ferry n => fixSeg s f e t g w n
  | a, _ =>
    if held then updJob s f e t fun j => { j with segs := g :: j.segs }
    else match a with
      | .data bs => segDone s f e t g bs
      | .ack => segDone s f e t g []
      | _ => segFailed s f e t g.addr

/-- The answer to a packet of a ferry for a segment; one for a segment that is gone has no effect. -/
def segAnswer (s : State) (f uid : Nat) (h : Endpoint) (a : Answer) : State :=
  match findSeg (getFerry s f) uid with
  | none => s
  | some (e, t, g) =>
    let s := updJob s f e t fun j => { j with flying := j.flying.filter fun y => y.1 != uid }
    pumpSegs (segResult s f e t g h a) f e

/-- A failed deferred read ends the subscription at once (R209, R213). -/
def failDeferred (s : State) (f e : Nat) (addr : Word) : State :=
  match getSub s f e with
  | none => s
  | some u => endSub s f e u .failed 2 addr

-- Requests of cores to a ferry, in pair order with its other requests (R222, R278)

/-- Performs an ordered request at a ferry unless its source is held; HEAD and LAST as R278 says. -/
def ferryOrdered (s : State) (f : Nat) (src : Endpoint) (r : ReqPkt) (k : State → State × Answer) : State × Answer :=
  let x := getFerry s f
  match (if r.ordered && !r.head then x.srcs.find? fun e => e.src == src && e.hold else none) with
  | some e => (s, .ticket e.ticket true)
  | none =>
    let s := if r.ordered && r.head then setFerry s f { x with srcs := markHead x.srcs src } else s
    let y := k s
    if r.ordered && r.last then
      let x := getFerry y.1 f
      (setFerry y.1 f { x with srcs := dropSource x.srcs src }, y.2)
    else y

/-- The subscription a handle names at a ferry for a partition: its entry, or 1 STALE, 2 NOTOWN (R222). -/
def ownSub (s : State) (f part : Nat) (h : Word) : Except Nat (Nat × Sub) :=
  let e := bits h 0 6
  match getSub s f e with
  | none => .error 1
  | some u =>
    if u.gen % 8 ≠ bits h 6 3 then .error 1
    else if u.part ≠ part then .error 2
    else .ok (e, u)

-- Notices of homes

/-- The words of a deferred record that a subscription reads (R209). -/
def deferredWords (u : Sub) : List Word :=
  (if u.d.dcount then [u.d.defaddr + 8] else []) ++ (if u.d.dbase then [u.d.defaddr + 16] else []) ++
    if u.d.dbase && u.d.fmt == 3 then [u.d.defaddr + 24] else []

/-- The word whose deferred read waits on a home. -/
def deferredAt (u : Sub) (h : Nat) : Word :=
  if u.state = .waiting then u.d.defaddr else ((deferredWords u).find? fun a => homeFerry a == h).getD u.d.defaddr

/-- A fix-up that waits on a ticket of a home. -/
def onTicket (x : Fixup) (t : BitVec 16) (h : Endpoint) : Bool := x.ticket == t && h == .ferry x.home

/-- A subscription after a replay notice: its segments are to be sent again, its deferred read is free (R212, R209). -/
def replaySub (u : Sub) (t : BitVec 16) (h : Endpoint) : Sub :=
  let back := u.fixups.filter fun x => onTicket x t h
  { u with fixups := u.fixups.filter fun x => !onTicket x t h,
           jobs := u.jobs.map fun j => { j with segs := ((back.filter fun x => x.tile == j.tile).map fun x => x.seg) ++ j.segs },
           defTicket := u.defTicket.filter fun d => !(d.1 == t && h == .ferry d.2) }

/-- A replay notice at a ferry: fix-ups, deferred reads and held notices go on (R209, R211, R212). -/
def ferryReplay (s : State) (f : Nat) (t : BitVec 16) (h : Endpoint) : State :=
  let x := getFerry s f
  pumpFerry (sendNotes (setFerry s f
    { x with subs := x.subs.map fun e => (e.1, replaySub e.2 t h),
             notes := x.notes.map fun n => if n.ticket = some (t, h) then { n with ticket := none } else n }) f) f

/-- A failure notice at a ferry: the tiles and deferred reads that waited on the page fail; a notice refused GONE is dropped (R213,
R211, R359). -/
def ferryFailure (s : State) (f : Nat) (t : BitVec 16) (h : Endpoint) : State :=
  let s := (getFerry s f).subs.foldl (fun s e =>
    let u := e.2
    let s := match u.defTicket with
      | some (w, g) => if w = t ∧ h = .ferry g then failDeferred s f e.1 (deferredAt u g) else s
      | none => s
    (u.fixups.filter fun x => onTicket x t h).foldl (fun s x => segFailed s f e.1 x.tile x.seg.addr) s) s
  pumpFerry (((getFerry s f).notes.filter fun n => n.ticket == some (t, h)).foldl (fun s n => noteGone s f n true) s) f

end Sys2Proof.Machine
end

