-- ==== Sys2Proof/Machine/FabricOps.lean ====
section
/-! DEFINITION. Machine/FabricOps.lean: a landing toward its peers: requests of this device on their way out, and requests of peers
performed here (spec/20 R342 to R347, spec/10 R172). -/

namespace Sys2Proof.Machine

def updPort (s : State) (p : Nat) (f : Port → Port) : State := setPort s p (f (getPort s p))

-- Records (R344)

/-- The operation code of an operation, and its W field. -/
def opCode (op : ROp) : Nat × Nat :=
  match op with
  | .read _ => (1, 0)
  | .write _ => (2, 0)
  | .vread _ b => (if b then 1 else 3, 0)
  | .vwrite _ _ => (4, 0)
  | .amo o n _ _ =>
    ((match o with
      | .add => 0x10 | .and => 0x11 | .or => 0x12 | .xor => 0x13 | .min => 0x14 | .max => 0x15 | .swap => 0x16 | .cas => 0x17
      | .fadd => 0x18 | .fadd64 => 0x19 | .minn => 0x1A | .maxn => 0x1B),
     match o with | .fadd => 0 | .fadd64 => 0 | _ => if n = 8 then 0 else 1)
  | .vadd t _ _ => (0x1C, match t with | .f32 => 0 | .s32 => 1 | .n32 => 2)
  | .vaddi t _ _ _ => (0x1D, match t with | .f32 => 0 | .s32 => 1 | .n32 => 2)
  | _ => (0, 0)

def laneBytes (d : Lanes) : List Byte := d.toList.flatMap fun l : Lane => leBytes 4 l.toNat
def padTo (n : Nat) (b : List Byte) : List Byte := (b ++ List.replicate (n - b.length) 0).take n

/-- Operand c of a record, operand d, and the bytes that follow byte 31. -/
def opOperands (op : ROp) : Nat × Nat × List Byte :=
  match op with
  | .read n => (n, 0, [])
  | .write bs => (bs.length, 0, padTo 128 bs)
  | .vread act b => (if b then 4 else act.toNat, 0, [])
  | .vwrite act d => (act.toNat, 0, laneBytes d)
  | .amo o _ c d => (c.toNat, if o = .cas then d.toNat else 0, [])
  | .vadd _ act d => (act.toNat, 0, laneBytes d)
  | .vaddi _ act idx d => (act.toNat, 0, laneBytes d ++ idx.toList.flatMap fun l : Lane => leBytes 2 (l.toNat % 2 ^ 16))
  | _ => (0, 0, [])

/-- An operation record of 32, 160 or 224 bytes (R344). -/
def opRecord (r : ReqPkt) : List Byte :=
  let (c, w) := opCode r.op
  let (x, d, data) := opOperands r.op
  leBytes 8 (c + w * 2 ^ 8 + r.seq.toNat * 2 ^ 16 + r.srcCore % 2 ^ 13 * 2 ^ 32 + boolBit r.head * 2 ^ 45 + boolBit r.last * 2 ^ 46) ++
    leBytes 8 (fabricOff r.addr) ++ leBytes 8 x ++ leBytes 8 d ++ data

/-- The 80 bytes of a message write (R343). -/
def messageWrite (r : ReqPkt) (m : Msg) : List Byte :=
  msgBytes m ++ leBytes 16 (r.seq.toNat + boolBit r.head * 2 ^ 16 + boolBit r.last * 2 ^ 17)
/-- The UALink address of a message: region 0x1, core and channel. -/
def messageAddr (m : Msg) : Word := BitVec.ofNat 64 (2 ^ 60 + m.dstCore % 2 ^ 13 * 2 ^ 14 + m.chan % 256 * 2 ^ 6)

/-- A request on a port: address, bytes read, bytes written, and the lanes it writes where not all of them. -/
structure UlReq where
  addr : Word
  read : Nat := 0
  bytes : List Byte := []
  mask : Option Mask32 := none
  deriving DecidableEq, Repr

/-- The region-0x0 requests of a relaxed access: one, but a write of more than 256 bytes goes in pieces (R104, R343). -/
def relaxedTx (r : ReqPkt) : List UlReq :=
  let a := BitVec.ofNat 64 (fabricOff r.addr)
  match r.op with
  | .read n => [{ addr := a, read := n }]
  | .write bs =>
    (List.range ((bs.length + 255) / 256)).map fun i => { addr := a + BitVec.ofNat 64 (256 * i), bytes := (bs.drop (256 * i)).take 256 }
  | .vread _ b => [{ addr := a, read := if b then 4 else 128 }]
  | .vwrite act d => [{ addr := a, bytes := laneBytes d, mask := if act = BitVec.allOnes 32 then none else some act }]
  | _ => []

/-- A result record (R344). -/
def resultBytes (status seq srccore ticket : Nat) (value : Word) (data : List Byte) : List Byte :=
  leBytes 8 (status + seq % 2 ^ 16 * 2 ^ 16 + srccore % 2 ^ 13 * 2 ^ 32 + ticket % 2 ^ 16 * 2 ^ 48) ++ leBytes 8 value.toNat ++ data

-- Requests of this device at its landing

/-- Puts a request on a port. -/
def portTx (s : State) (p dev : Nat) (q : UlReq) : State :=
  updPort s p fun x =>
    { x with tx := x.tx ++ [{ dev := dev, tag := x.nextTag, addr := q.addr, read := q.read, bytes := q.bytes, mask := q.mask }] }

/-- The port refuses requests for a peer (R347). -/
def peerDown (x : Port) (dev : Nat) : Bool := !x.up || x.downDevs.contains dev

/-- The device a request at a landing goes to. -/
def reqDev (r : ReqPkt) : Nat := match r.op with | .msg m => m.dstDev | _ => fabricPeer r.addr
/-- How a landing refuses a request whose peer is down: NOCORE for a message (R347). -/
def downAnswer (op : ROp) : Answer := .refusePerm (match op with | .msg _ => 1 | _ => 0)

/-- The core number by which a result names the request: the one its record or its header carries (R344). -/
def recordCore (r : ReqPkt) : Nat := match r.op with | .msg m => m.srcCore | _ => r.srcCore

/-- Sends a request of this device to its peer and keeps it until it is answered (R342, R343). -/
def toPeer (s : State) (p : Nat) (src : Endpoint) (r : ReqPkt) : State :=
  let x := getPort s p
  let dev := reqDev r
  let relaxed := !r.ordered && (match r.op with | .read _ => true | .write _ => true | .vread _ _ => true | .vwrite _ _ => true | _ => false)
  let txs := match r.op with
    | .msg m => [{ addr := messageAddr m, bytes := messageWrite r m : UlReq }]
    | _ => if relaxed then relaxedTx r else [{ addr := BitVec.ofNat 64 (2 * 2 ^ 60), bytes := opRecord r }]
  let o : LOut :=
    { tag := x.nextTag, src := src, uid := r.uid, dev := dev, srccore := recordCore r, seq := r.seq, op := r.op, last := r.ordered && r.last,
      region0 := relaxed, left := txs.length, sentAt := s.time }
  let s := txs.foldl (fun s q => portTx s p dev q) (setPort s p { x with outs := x.outs ++ [o] })
  updPort s p fun x => { x with nextTag := x.nextTag + 1 }

/-- A request at its landing: refused while the peer is down, bounced behind a hold of its source, or sent on (R278, R346, R347). -/
def landingPerform (s : State) (l : Nat) (src : Endpoint) (r : ReqPkt) : State × Option Answer :=
  let p := portOfLanding l
  let x := getPort s p
  if peerDown x (reqDev r) then
    (if r.ordered && r.last then setPort s p { x with srcs := dropSource x.srcs src } else s, some (downAnswer r.op))
  else match (if r.ordered && !r.head then x.srcs.find? fun e => e.src == src && e.hold else none) with
    | some e => (s, some (.ticket e.ticket true))
    | none => (toPeer (if r.ordered && r.head then setPort s p { x with srcs := markHead x.srcs src } else s) p src r, none)

/-- An outstanding request of a port ends. -/
def outGone (s : State) (p : Nat) (o : LOut) : State :=
  updPort s p fun x =>
    { x with outs := x.outs.filter fun q => q.tag != o.tag, srcs := if o.last then dropSource x.srcs o.src else x.srcs }

/-- The answer of a landing to a source of this device. -/
def landingAnswer (s : State) (l : Nat) (src : Endpoint) (uid : Nat) (a : Answer) : State := answerTo s (.landing l) src uid a

/-- Every outstanding request for a peer, or for all peers of a port, is refused; sources that wait on the landing's tickets send again
and are refused as later requests are (R347). -/
def refuseOuts (s : State) (p : Nat) (dev : Option Nat) : State :=
  let l := landingOfPort p
  let mine := fun (d : Nat) => match dev with | some v => v == d | none => true
  let outs := (getPort s p).outs.filter fun o => mine o.dev
  let s := outs.foldl (fun s o => landingAnswer (outGone s p o) l o.src o.uid (downAnswer o.op)) s
  let ts := (getPort s p).ltickets.filter fun t => mine t.2.dev
  let s := updPort s p fun x => { x with ltickets := x.ltickets.filter fun t => !mine t.2.dev }
  ts.foldl (fun s t => t.2.sources.foldl (fun s src =>
    sendPkt s { src := .landing l, dst := src, cls := .sys, body := .notice (BitVec.ofNat 16 ((128 + l) * 256 + t.1)) }) s) s

-- Requests of peers at this device

/-- The partition number that stands for partition 0 of another device; its others follow. -/
def peerPart : Nat := 1001

/-- The export window check of R346: the address in the owner's space and the owner. It holds the offset of the first byte alone against
the window's size; R176 names only the offset (notes/assumptions/92). -/
def windowCheck (s : State) (dev part xoff : Nat) (rd wr at_ : Bool) : Option (Nat × Nat) :=
  match tget s.windows (xoff / 2 ^ 40 % 64) with
  | none => none
  | some w =>
    let o := xoff % 2 ^ 40
    if w.size = 0 ∨ dev < w.idev0 ∨ w.idev1 < dev ∨ (w.ipart ≠ 63 ∧ w.ipart ≠ part) ∨ (rd && !w.rd) = true ∨ (wr && !w.wr) = true ∨
        (at_ && !w.at_) = true ∨ w.size * 4096 ≤ o then none
    else some (w.base + o, w.ownpart)

/-- The operation of a record, when it is well formed (R344). Fields that must be zero, and those its operation does not use, are ignored
(R5). -/
def recordOp (b : List Byte) : Option ROp :=
  let d0 := leNat (b.take 8)
  let x := leNat ((b.drop 8).take 8)
  let c := leNat ((b.drop 16).take 8)
  let d := leNat ((b.drop 24).take 8)
  let code := d0 % 256
  let w := d0 / 256 % 4
  let n := c % 256
  let act : Mask32 := BitVec.ofNat 32 c
  let lanes : Lanes := Vector.ofFn fun i : Fin 32 => BitVec.ofNat 32 (leNat ((b.drop (32 + 4 * i.val)).take 4))
  let idx : Lanes := Vector.ofFn fun i : Fin 32 => BitVec.ofNat 32 (leNat ((b.drop (160 + 2 * i.val)).take 2))
  let ty : Option VTy := match w with | 0 => some .f32 | 1 => some .s32 | 2 => some .n32 | _ => none
  let len := match code with | 2 => 160 | 4 => 160 | 0x1C => 160 | 0x1D => 224 | _ => 32
  if b.length ≠ len then none
  else
    let amo := fun (o : AmoOp) =>
      if w < 2 ∧ x % (if w = 0 then 8 else 4) = 0 then some (ROp.amo o (if w = 0 then 8 else 4) (BitVec.ofNat 64 c)
        (if o = .cas then BitVec.ofNat 64 d else 0))
      else none
    let vec := fun (o : VTy → ROp) (al : Nat) => if x % al = 0 then ty.map o else none
    match code with
    | 1 => if n = 0 ∨ 128 < n ∨ 4096 < x % 4096 + n then none else some (.read n)
    | 2 => if n = 0 ∨ 128 < n ∨ 4096 < x % 4096 + n then none else some (.write ((b.drop 32).take n))
    | 3 => if x % 128 = 0 then some (.vread act false) else none
    | 4 => if x % 128 = 0 then some (.vwrite act lanes) else none
    | 0x10 => amo .add | 0x11 => amo .and | 0x12 => amo .or | 0x13 => amo .xor
    | 0x14 => amo .min | 0x15 => amo .max | 0x16 => amo .swap | 0x17 => amo .cas
    | 0x18 => if w = 0 ∧ x % 4 = 0 then some (.amo .fadd 4 (BitVec.ofNat 64 c) 0) else none
    | 0x19 => if w = 0 ∧ x % 8 = 0 then some (.amo .fadd64 8 (BitVec.ofNat 64 c) 0) else none
    | 0x1A => amo .minn | 0x1B => amo .maxn
    | 0x1C => vec (fun t => .vadd t act lanes) 128
    | 0x1D => vec (fun t => .vaddi t act idx lanes) 4096
    | _ => none

/-- The window permissions an operation needs (R345). -/
def opPerms (op : ROp) : Bool × Bool × Bool :=
  match op with
  | .read _ => (true, false, false)
  | .vread _ _ => (true, false, false)
  | .write _ => (false, true, false)
  | .vwrite _ _ => (false, true, false)
  | _ => (false, false, true)

/-- The hold of a requesting device's core at a landing (R344). -/
def peerHold (x : Port) (dev core : Nat) : Option (BitVec 16) :=
  (x.peerSrcs.find? fun e => e.dev == dev && e.core == core && e.hold).map fun e => e.ticket
def dropPeer (x : Port) (dev core : Nat) : Port := { x with peerSrcs := x.peerSrcs.filter fun e => !(e.dev == dev && e.core == core) }
def holdPeer (x : Port) (dev core : Nat) (t : BitVec 16) : Port :=
  let x := dropPeer x dev core
  { x with peerSrcs := x.peerSrcs ++ [{ dev := dev, core := core, hold := true, ticket := t }] }
def updPeer (x : Port) (dev core : Nat) (f : PeerSrc → PeerSrc) : Port :=
  { x with peerSrcs := x.peerSrcs.map fun e => if e.dev = dev ∧ e.core = core then f e else e }
def headPeer (x : Port) (dev core : Nat) : Port := updPeer x dev core fun e => { e with hold := false }

/-- Sends a result record to a device (R344). -/
def sendResult (s : State) (p dev status : Nat) (seq : Nat) (core ticket : Nat) (value : Word) (data : List Byte) : State :=
  portTx s p dev { addr := BitVec.ofNat 64 (3 * 2 ^ 60), bytes := resultBytes status seq core ticket value data }

/-- The result of an answer at the home: status, value, data. -/
def resultOf (a : Answer) : Nat × Word × List Byte :=
  match a with
  | .data bs => (0, 0, bs)
  | .lanes d => (0, 0, laneBytes d)
  | .old w => (0, w, [])
  | .ack => (0, 0, [])
  | .refuseUE => (9, 0, [])
  | _ => (8, 0, [])

/-- Performs an operation of a peer at the home of the window's address, or tickets it (R346). None while the home has no room. -/
def peerPerform (s : State) (l part va : Nat) (op : ROp) : Option (State × Except (BitVec 16) Answer) :=
  let f := va / 2 ^ 12 % 128
  match translate s f part va (opNeed op) with
  | .noFrame => some (s, .ok (.refusePerm 0))
  | .deny => some (s, .ok (.refusePerm 0))
  | .pa n => let y := memAccess s n op; some (hostBus y.1 part va n op, .ok y.2)
  | .miss pasid =>
    match openTicket s f part pasid va (opNeed op) (.landing l) false with
    | none => none
    | some (s, t) => some (s, .error t)

/-- The bytes of a region-0x0 access, piece by piece, when every piece can be performed (R343). -/
def peerBytes (s : State) (l part : Nat) (acc : UaAccess) : List (Nat × Word × Nat) → Option (State × Except (BitVec 16) (List Byte × Bool))
  | [] => some (s, .ok ([], true))
  | (off, a, n) :: rest =>
    let op := match acc with
      | .write bs => ROp.write ((bs.drop off).take n)
      | .writeLanes act bs => .vwrite act (Vector.ofFn fun i : Fin 32 => BitVec.ofNat 32 (leNat ((bs.drop (4 * i.val)).take 4)))
      | _ => .read n
    match peerPerform s l part a.toNat op with
    | none => none
    | some (s, .error t) => some (s, .error t)
    | some (s, .ok r) =>
      match r with
      | .data bs =>
        match peerBytes s l part acc rest with
        | some (s, .ok (more, ok)) => some (s, .ok (bs ++ more, ok))
        | o => o
      | .ack => peerBytes s l part acc rest
      | _ => some (s, .ok ([], false))

def accLen (acc : UaAccess) : Nat :=
  match acc with
  | .read n => n
  | .write bs => bs.length
  | .writeLanes _ bs => bs.length
  | .atomic bs => bs.length
/-- The forms region 0x0 takes: reads and writes of 1 to 256 bytes; a write of lanes is 128 bytes at a multiple of 128 (notes/assumptions/87).
An atomic is refused (R343). -/
def accOk (addr : Word) (acc : UaAccess) : Bool :=
  match acc with
  | .atomic _ => false
  | .writeLanes _ bs => bs.length == 128 && bits addr 0 7 == 0
  | acc => decide (1 ≤ accLen acc ∧ accLen acc ≤ 256)

/-- Completes a peer's region-0x0 access. -/
def complete (s : State) (p dev : Nat) (addr : Word) (st : UaStatus) : State :=
  updPort s p fun x => { x with tx := x.tx ++ [{ dev := dev, tag := 0, addr := addr, status := some st }] }

/-- A peer's region-0x0 access: performed, refused, or held until its page is serviced (R343, R346). None while the home has no room. -/
def peerAccess (s : State) (p dev part : Nat) (addr : Word) (acc : UaAccess) : Option State :=
  let isRead := match acc with | .read _ => true | _ => false
  if !accOk addr acc then some (complete s p dev addr .refusedPerm)
  else match windowCheck s dev part (addr.toNat) isRead (!isRead) false with
    | none => some (complete s p dev addr .refusedPerm)
    | some (va, own) =>
      match peerBytes s (landingOfPort p) own acc (pieces 3 (BitVec.ofNat 64 va) 0 (accLen acc)) with
      | none => none
      | some (s, .error t) => some (updPort s p fun x => { x with waits := x.waits ++ [⟨dev, part, addr, acc, some t⟩] })
      | some (s, .ok (_, false)) => some (complete s p dev addr .refusedPerm)
      | some (s, .ok (bs, true)) => some (complete s p dev addr (if isRead then .data bs else .done))

end Sys2Proof.Machine
end

