-- ==== Sys2Proof/Machine/FabricEv.lean ====
section
/-! DEFINITION. Machine/FabricEv.lean: what reaches a UALink port and an entry landing (spec/20 R333, R339, R343 to R347). -/

namespace Sys2Proof.Machine

-- Requests of peers

/-- Answers a request of a peer with one result record, and keeps the hold of its source: a miss holds, LAST once performed ends it
(R344, R278). -/
def peerAnswer (s : State) (p dev core seq : Nat) (last : Bool) (st : Nat) (t : BitVec 16) (value : Word) (data : List Byte) : State :=
  let s :=
    if st = 0x10 then updPort s p fun x => holdPeer x dev core t
    else if st = 0x11 then updPort s p fun x => updPeer x dev core fun e => { e with bounced := true }
    else if last then updPort s p fun x => dropPeer x dev core
    else s
  sendResult s p dev st seq core t.toNat value data

/-- Goes on with a request of a peer that is not behind a hold of its source; a HEAD makes the entry ACTIVE (R344, R278). -/
def peerOrdered (s : State) (p dev core seq : Nat) (head last : Bool) (k : State → Option State) : Option State :=
  match peerHold (getPort s p) dev core, head with
  | some t, false => some (peerAnswer s p dev core seq last 0x11 t 0 [])
  | _, true => k (updPort s p fun x => headPeer x dev core)
  | none, false => k s

/-- The site of a logical core by the maps that a landing has installed, and for a core of another die by those of the landing there that
resolves the number (R339). -/
def landingFinds (s : State) (l lc : Nat) : Option Nat :=
  let die := l / 16
  let ver := fun (n : Nat) => (getDie s (n / 16)).landVer[Fin.ofNat 16 n]
  if 0x1FF0 ≤ lc ∧ lc < 0x1FF4 then (if (getDie s (lc - 0x1FF0)).dark then none else some (ctrlSite s (lc - 0x1FF0)))
  else if 0x1FF4 ≤ lc then none
  else match numberSite s die (ver l) lc with
    | some x => some x
    | none =>
      match dieOfNumber (basesAt s (getDie s die).landBase[Fin.ofNat 16 l]) lc with
      | some b => if b = die then none else numberSite s b (ver (entryFrom (endpointCode 3 die 0 (l % 16)) die lc b)) lc
      | none => none

/-- A message of a peer at its core: status and ticket, or none when its spill has begun and its end decides (R343, R146). None while its home
has no room. -/
def peerMessage (s : State) (l part : Nat) (m : Msg) (by_ : Spiller) : Option (State × Option (Nat × BitVec 16)) :=
  match landingFinds s l m.dstCore with
  | none => some (s, some (1, 0))
  | some site =>
    let r : ReqPkt :=
      { uid := 0, seq := 0, op := .msg m, addr := 0, ordered := false, head := false, last := false, part := peerPart + part, winbase := 0,
        srcCore := m.srcCore, slot := 0, act := 0 }
    (messageAt s site (.landing l) r m by_).map fun y =>
      (y.1, y.2.map fun a =>
        match a with
        | .ack => (0, 0)
        | .ticket t _ => (0x10, t)
        | .refusePerm code => (code, 0)
        | _ => (1, 0))

/-- A message write that a landing has accepted (R343, R344). -/
def peerMessageWrite (s : State) (port dev part : Nat) (addr : Word) (bytes : List Byte) : Option State :=
  let m := { msgOf bytes with srcDev := dev }
  let link := leNat (bytes.drop 64)
  let seq := link % 2 ^ 16
  let last := link / 2 ^ 17 % 2 == 1
  peerOrdered s port dev m.srcCore seq (link / 2 ^ 16 % 2 == 1) last fun s =>
    if m.dstDev ≠ s.devid ∨ m.dstCore ≠ bits addr 14 13 ∨ m.chan ≠ bits addr 6 8 then some (peerAnswer s port dev m.srcCore seq last 1 0 0 [])
    else (peerMessage s (landingOfPort port) part m (.peer port dev m.srcCore seq last)).map fun r =>
      match r.2 with
      | some (st, t) => peerAnswer r.1 port dev m.srcCore seq last st t 0 []
      | none => r.1

/-- The window check and the performing of an operation of a peer: status, ticket, value, data (R344, R346). None while the home has no
room. -/
def peerOperation (s : State) (l dev part xoff : Nat) (op : ROp) : Option (State × Nat × BitVec 16 × Word × List Byte) :=
  let q := opPerms op
  match windowCheck s dev part xoff q.1 q.2.1 q.2.2 with
  | none => some (s, 8, 0, 0, [])
  | some (va, own) =>
    match peerPerform s l own va op with
    | none => none
    | some (s, .error t) => some (s, 0x10, t, 0, [])
    | some (s, .ok a) => let r := resultOf a; some (s, r.1, 0, r.2.1, r.2.2)

/-- An operation record that a landing has accepted (R344, R346). -/
def peerRecord (s : State) (port dev part : Nat) (bytes : List Byte) : Option State :=
  let d := leNat (bytes.take 8)
  let seq := d / 2 ^ 16 % 2 ^ 16
  let core := d / 2 ^ 32 % 2 ^ 13
  let last := d / 2 ^ 46 % 2 == 1
  peerOrdered s port dev core seq (d / 2 ^ 45 % 2 == 1) last fun s =>
    match recordOp bytes with
    | none => some (peerAnswer s port dev core seq last 8 0 0 [])
    | some op =>
      (peerOperation s (landingOfPort port) dev part (leNat ((bytes.drop 8).take 8)) op).map fun r =>
        peerAnswer r.1 port dev core seq last r.2.1 r.2.2.1 r.2.2.2.1 r.2.2.2.2

/-- Performs or forwards a request of a peer. None while a home has no room for it. -/
def peerTry (s : State) (p : Nat) (q : PeerReq) : Option State :=
  match q.ask with
  | .message bs => peerMessageWrite s p q.dev q.part q.addr bs
  | .record bs => peerRecord s p q.dev q.part bs
  | .access acc => peerAccess s p q.dev q.part q.addr acc
  | .refused => some s

/-- The request's turn has come among those of its peer's landing (R342). -/
def peerTurn (x : Port) (q : PeerReq) : Bool := decide (q.order ≤ (tget x.inNext q.dev).getD 0)
/-- The request has been performed or forwarded: the next one of its peer has its turn. -/
def peerGone (x : Port) (q : PeerReq) : Port :=
  { x with early := x.early.erase q, inNext := tset x.inNext q.dev (max ((tget x.inNext q.dev).getD 0) (q.order + 1)) }

/-- Performs the requests of peers in the order their landings sent them, as far as the homes have room (R342). -/
def drainPeers (p : Nat) : Nat → State → State
  | 0, s => s
  | fuel + 1, s =>
    match (getPort s p).early.findSome? fun q => if peerTurn (getPort s p) q then (peerTry s p q).map fun t => (q, t) else none with
    | none => s
    | some (q, t) => drainPeers p fuel (updPort t p fun x => peerGone x q)

/-- Tries again the accesses of peers whose page has been serviced (R343). -/
def retryWaits (s : State) (p : Nat) : State :=
  ((getPort s p).waits.filter fun w => w.ticket.isNone).foldl (fun s w =>
    (peerAccess (updPort s p fun x => { x with waits := x.waits.erase w }) p w.dev w.part w.addr w.acc).getD s) s

-- Tickets of a landing (R346)

/-- The landing's own ticket for a ticket of a peer, made or joined for a source (R346). -/
def landingTicket (x : Port) (l dev : Nat) (t : BitVec 16) (src : Endpoint) : Option (Port × BitVec 16) :=
  let word := fun (i : Nat) => BitVec.ofNat 16 ((128 + l) * 256 + i)
  match x.ltickets.find? fun e => e.2.dev == dev && e.2.peer == t with
  | some (i, e) =>
    let e := if e.sources.contains src then e else { e with sources := e.sources ++ [src] }
    some ({ x with ltickets := tset x.ltickets i e }, word i)
  | none =>
    (findFrom (fun i => (tget x.ltickets i).isNone) Config.pageRecs 0).map fun i =>
      ({ x with ltickets := tset x.ltickets i { dev := dev, peer := t, sources := [src] } }, word i)

/-- MISS or FOLLOW: the source's request waits on the landing's ticket, and its later ordered requests are bounced (R346, R278). None
while the landing's tables are full. -/
def missed (s : State) (p : Nat) (o : LOut) (t : BitVec 16) (follow : Bool) : Option State :=
  let l := landingOfPort p
  let s := outGone s p { o with last := false }
  match landingTicket (getPort s p) l o.dev t o.src with
  | none => none
  | some (x, w) =>
    (holdSource x.srcs o.src true w).map fun srcs =>
      landingAnswer (setPort s p { x with srcs := srcs }) l o.src o.uid (.ticket w follow)

/-- REPLAY or FAILED: relayed to the sources that wait on the landing's ticket, and kept for those whose MISS still waits for room (R346). -/
def relayNotice (s : State) (p dev : Nat) (t : BitVec 16) (ok : Bool) : State :=
  let l := landingOfPort p
  let hit := fun (e : LTicket) => e.dev == dev && e.peer == t
  let x := getPort s p
  let ts := x.ltickets.filter fun e => hit e.2
  let tags := (x.outs.filter fun o => o.dev == dev).map fun o => o.tag
  let s := setPort s p
    { x with ltickets := x.ltickets.filter fun e => !hit e.2,
             misses := x.misses.map fun m => if m.ticket = t ∧ tags.contains m.tag then { m with told := some ok } else m }
  ts.foldl (fun s e =>
    let w := BitVec.ofNat 16 ((128 + l) * 256 + e.1)
    e.2.sources.foldl (fun s src =>
      sendPkt s { src := .landing l, dst := src, cls := .sys, body := if ok then .notice w else .failure w }) s) s

/-- Enters the misses that have waited, as far as there is room. -/
def retryMisses (s : State) (p : Nat) : State :=
  (getPort s p).misses.foldl (fun s m =>
    let gone := fun (s : State) => updPort s p fun x => { x with misses := x.misses.erase m }
    match (getPort s p).outs.find? fun o => o.tag == m.tag with
    | none => gone s
    | some o =>
      match missed s p o m.ticket m.follow with
      | none => s
      | some s =>
        match m.told with
        | some ok => relayNotice (gone s) p o.dev m.ticket ok
        | none => gone s) s

/-- A landing goes on with everything that may have room now. -/
def settlePort (s : State) (p : Nat) : State :=
  let s := retryWaits (retryMisses s p) p
  drainPeers p (getPort s p).early.length s

/-- A request of a peer comes in (R342). -/
def peerArrives (s : State) (p : Nat) (q : PeerReq) : Res := .next (settlePort (updPort s p fun x => { x with early := x.early ++ [q] }) p)

/-- A notice of a home reaches a landing: held region-0x0 accesses are tried again or fail, and every device with a source held on the
ticket gets REPLAY or FAILED (R343, R344). A hold behind which nothing was bounced ends with the failure. -/
def landingNotice (s : State) (l : Nat) (t : BitVec 16) (ok : Bool) : State :=
  let p := portOfLanding l
  let ws := (getPort s p).waits.filter fun w => w.ticket == some t
  let devs := (((getPort s p).peerSrcs.filter fun e => e.hold && e.ticket == t).map fun e => e.dev).dedup
  let s := updPort s p fun x =>
    { x with waits := if ok then x.waits.map fun w => if w.ticket = some t then { w with ticket := none } else w
                      else x.waits.filter fun w => w.ticket != some t,
             peerSrcs := x.peerSrcs.filter fun e => ok || !e.hold || e.ticket != t || e.bounced }
  let s := if ok then s else ws.foldl (fun s w => complete s p w.dev w.addr .ticketFailed) s
  settlePort (devs.foldl (fun s d => sendResult s p d (if ok then 0x12 else 0x13) 0 0 t.toNat 0 []) s) p

-- The events of peers' requests

/-- UALINK_MESSAGE_WRITE: completed as it is accepted, and delivered in its turn (R342, R343, R344). -/
def execUalinkMessageWrite (port : Nat) (src : UaSender) (order : Nat) (w : UaWrite) (s : State) : Res :=
  let bad := space w.addr != 1 || w.bytes.length != 80
  peerArrives (complete s port src.dev w.addr (if bad then .refusedPerm else .done)) port
    ⟨src.dev, src.part, order, w.addr, if bad then .refused else .message w.bytes⟩

/-- OPERATION_RECORD: completed as it is accepted, and performed in its turn (R342, R344, R346). -/
def execOperationRecord (port : Nat) (src : UaSender) (order : Nat) (bytes : List Byte) (s : State) : Res :=
  let addr := BitVec.ofNat 64 (2 * 2 ^ 60)
  let bad := bytes.length != 32 && bytes.length != 160 && bytes.length != 224
  peerArrives (complete s port src.dev addr (if bad then .refusedPerm else .done)) port
    ⟨src.dev, src.part, order, addr, if bad then .refused else .record bytes⟩

/-- UALINK_READ_WRITE: a region-0x0 access in its turn; every other region, or form, is refused with an error completion (R343). -/
def execUalinkReadWrite (port : Nat) (src : UaSender) (order : Nat) (addr : Word) (acc : UaAccess) (s : State) : Res :=
  if space addr = 0 then peerArrives s port ⟨src.dev, src.part, order, addr, .access acc⟩
  else peerArrives (complete s port src.dev addr .refusedPerm) port ⟨src.dev, src.part, order, addr, .refused⟩

-- Results for requests of this device

/-- The answer to a request that the peer has performed. -/
def doneAnswer (op : ROp) (value : Word) (data : List Byte) : Answer :=
  match op with
  | .read n => .data (padTo n data)
  | .vread act b =>
    .lanes (Vector.ofFn fun l : Fin 32 =>
      if act.getLsbD l.val then BitVec.ofNat 32 (leNat ((data.drop (if b then 0 else 4 * l.val)).take 4)) else 0)
  | .amo _ _ _ _ => .old value
  | _ => .ack

/-- A result for an outstanding request. -/
def resultFor (s : State) (p : Nat) (o : LOut) (st : Nat) (t : BitVec 16) (value : Word) (data : List Byte) : State :=
  let ans := fun (a : Answer) => landingAnswer (outGone s p o) (landingOfPort p) o.src o.uid a
  if st = 0 then ans (doneAnswer o.op value data)
  else if st < 8 then ans (.refusePerm st)
  else if st = 8 then ans (.refusePerm 0)
  else if st = 9 then ans .refuseUE
  else if st = 0x10 ∨ st = 0x11 then
    let follow := st == 0x11
    (missed s p o t follow).getD (updPort s p fun x => { x with misses := x.misses ++ [⟨o.tag, t, follow, none⟩] })
  else s

/-- RESULT_RECORD (R344, R346). -/
def execResultRecord (port dev : Nat) (bytes : List Byte) (s : State) : Res :=
  let addr := BitVec.ofNat 64 (3 * 2 ^ 60)
  if bytes.length < 16 ∨ 144 < bytes.length then .next (complete s port dev addr .refusedPerm)
  else
    let s := complete s port dev addr .done
    let d := leNat (bytes.take 8)
    let st := d % 256
    let t := BitVec.ofNat 16 (d / 2 ^ 48)
    if st = 0x12 ∨ st = 0x13 then .next (settlePort (relayNotice s port dev t (st == 0x12)) port)
    else
      let o := (getPort s port).outs.find? fun o =>
        o.dev == dev && o.seq == BitVec.ofNat 16 (d / 2 ^ 16) && o.srccore % 2 ^ 13 == d / 2 ^ 32 % 2 ^ 13 && !o.region0
      match o with
      | some o => .next (settlePort (resultFor s port o st t (BitVec.ofNat 64 (leNat ((bytes.drop 8).take 8))) (bytes.drop 16)) port)
      | none => .next s

/-- The answer to a region-0x0 request, all of whose completions have come: the first error, or its data (R343). -/
def relaxedAnswer (o : LOut) (st : UaStatus) : Option Answer :=
  let isRead := match o.op with | .read _ => true | .vread _ _ => true | _ => false
  match o.err.getD st with
  | .ticketFailed => some .failed
  | .refusedPerm => some (.refusePerm 0)
  | .data bs => if isRead then some (doneAnswer o.op 0 bs) else none
  | .done => if isRead then none else some .ack

/-- The status is an error. -/
def uaError (st : UaStatus) : Bool := match st with | .ticketFailed => true | .refusedPerm => true | _ => false

/-- UALINK_COMPLETION: a region-0x0 request completes; an error status becomes a failed ticket or a refusal, once the peer has answered
every piece of the request (R343, R386). -/
def execUalinkCompletion (port dev tag : Nat) (status : UaStatus) (s : State) : Res :=
  match (getPort s port).outs.find? fun o => o.tag == tag && o.dev == dev && o.region0 with
  | none => .next s
  | some o =>
    match relaxedAnswer o status with
    | none => .next s
    | some a =>
      if 1 < o.left then
        let e := o.err <|> (if uaError status then some status else none)
        .next (updPort s port fun x => { x with outs := x.outs.map fun q => if q.tag = o.tag then { q with left := q.left - 1, err := e } else q })
      else .next (settlePort (landingAnswer (outGone s port o) (landingOfPort port) o.src o.uid a) port)

-- The link

/-- LINK_DOWN: every outstanding request of the port is refused, and later ones are until the port is up; the holds of its peers end
with the requests behind them (R347). -/
def execLinkDown (port : Nat) (s : State) : Res :=
  .next (refuseOuts (updPort s port fun x => { x with up := false, peerSrcs := [], waits := [], inNext := [], early := [], misses := [] }) port none)

/-- UALINK_TIMEOUT: a request of the peer has had no answer within the firmware limit (R347). -/
def execUalinkTimeout (port dev : Nat) (s : State) : Res :=
  if (getPort s port).outs.any fun o => o.dev == dev && decide (o.sentAt + s.linkLimit ≤ s.time) then
    .next (refuseOuts (updPort s port fun x => { x with downDevs := dev :: x.downDevs.filter fun d => d != dev }) port (some dev))
  else .next s

/-- LINK_UP: firmware reports the port up again (R347). -/
def execLinkUp (port : Nat) (s : State) : Res := .next (updPort s port fun x => { x with up := true, downDevs := [] })

/-- ENTRY_LANDING: the entry landing of a die translates a logical number by the map it has installed, or refuses NOCORE (R339). The
packet keeps its place among those of its source and goes on from where it came in (R336). -/
def execEntryLanding (pkt : Nat) (s : State) : Res :=
  match arriving s pkt with
  | some p =>
    match p.dst, p.body with
    | .landing l, .entryReq lc r =>
      let die := l / 16
      match numberSite s die ((getDie s die).landVer[(Fin.ofNat 16 l)]) lc with
      | some site =>
        let q := { p with dst := .core site, body := .req r, wire := .queued, start := some (entrySite s p) }
        .next { freeFlits s p with net := s.net.set pkt q }
      | none => .next (answerTo (consumePkt s pkt) p.dst p.src r.uid (.refusePerm 1))
    | _, _ => .next s
  | none => .next s

end Sys2Proof.Machine
end

