-- ==== Sys2Proof/Machine/DieOps.lean ====
section
/-! DEFINITION. Machine/DieOps.lean: the firmware CSRs of a die: discovery, the logical map and the die bases (spec/22 R380 to R382). -/

namespace Sys2Proof.Machine

/-- The self-test code of a site (R381). -/
def testCode (s : State) (site : Nat) : Nat := (tget s.failed site).getD 0

/-- The routers that the discovery flood goes to from the router of a site with the counts it has there: from row 0 east and south, from
every other row south only; with the counts it brings them (R381). -/
def floodOn (x row col : Nat) : List (Nat × Nat × Nat) :=
  (if row = 0 ∧ siteCol x < 31 then [(x + 1, row, col + 1)] else []) ++ (if siteRow x < 31 then [(x + 32, row + 1, col)] else [])

/-- The discovery reply of a site to channel ch of its die's control core, with the coordinates of its router (R381). -/
def discReply (s : State) (die ch site : Nat) : Req :=
  let m : Msg := { kind := 2, count := 1, srcCore := 0x1FFE, srcDev := s.devid, chan := ch, dstCore := 0x1FF0 + die, dstDev := s.devid,
                   words := words6 [BitVec.ofNat 64 ((tget s.routers site).getD 0 / 4 + testCode s site * 2 ^ 16)] }
  { uid := 0, seqn := 0, slot := 0, act := 0, op := .msg m, addr := 0, home := .core (ctrlSite s die), ordered := true, phys := true,
    dest := .none, cntL := false, cntS := false, cntE := false, status := .held, part := fwPart, winbase := 0, retAt := 0 }

/-- The sites of a die but its control core. -/
def dieSites (s : State) (die : Nat) : List Nat :=
  ((List.range 1024).map fun i => die * 1024 + i).filter fun x => x != ctrlSite s die

/-- The discovery flood at the router of a site: it sets its coordinates from the counts and its DIE from the control core's, passes the packet
of TYPE 12 on over the link to each next router, and its site replies unless it is the control core's (R381). -/
def floodAt (s : State) (x row col : Nat) : State :=
  let die := siteDie x
  let s := { s with routers := tset s.routers x (endpointCode 0 die row col) }
  let s := (floodOn x row col).foldl (fun s y =>
    sendPkt s { src := .core x, dst := .core y.1, cls := .sys, body := .flood y.2.1 y.2.2 }) s
  if x = ctrlSite s die then s else injectAll s x [discReply s die (bits (getDie s die).disc 0 8) x]

/-- A write of DISC: the flood starts at router (0, 0) with both counts 0; ignored while replies are outstanding (R381). -/
def discStart (s : State) (die : Nat) (v : Word) : State :=
  let d := getDie s die
  if d.flooding.isEmpty then floodAt (setDie s die { d with disc := v &&& 0xFF, flooding := dieSites s die }) (die * 1024) 0 0 else s

/-- A write of MAPW stages an entry (R380, R382). -/
def mapStage (s : State) (die : Nat) (v : Word) : State :=
  let d := getDie s die
  if bits v 16 10 < 1023 then setDie s die { d with staged := tset d.staged (bits v 16 10) (bits v 0 10) } else s

/-- The recipients of a die's map: every working core NI and landing of the die (R382). -/
def mapRecipients (s : State) (die : Nat) : List Endpoint :=
  ((((List.range 1024).map fun i => die * 1024 + i).filter (working s)).map Endpoint.core) ++
    (List.range 16).map fun i => Endpoint.landing (16 * die + i)

/-- Broadcasts the staged map (R382). -/
def mapCommitNow (s : State) (die : Nat) (v : Word) : State :=
  let d := getDie s die
  let sites := (List.range (bits v 16 10)).map fun i => (tget d.staged i).map fun x => die * 1024 + x
  let rs := mapRecipients s die
  let s := setDie s die { d with commits := d.commits ++ [⟨bits v 0 13, sites⟩], mapWait := rs }
  let n := d.commits.length + 1
  rs.foldl (fun s r => sendPkt s { src := .core (ctrlSite s die), dst := r, cls := .sys, body := .mapCommit die n }) s

/-- A write of MAPGO; one that comes before the notice of the previous one waits for it (R382). -/
def mapGo (s : State) (die : Nat) (v : Word) : State :=
  let d := getDie s die
  let v := v &&& 0xFF03FF1FFF
  if d.mapQueue.isEmpty then mapCommitNow (setDie s die { d with mapgo := v, mapQueue := [v] }) die v
  else setDie s die { d with mapgo := v, mapQueue := d.mapQueue ++ [v] }

/-- A write of DIEBASE, broadcast to every NI and landing of the package (R380). -/
def dieBaseWrite (s : State) (src : Nat) (v : Word) : State :=
  let s := { s with bases := s.bases ++ [v &&& 0x1FFF1FFF1FFF1FFF] }
  let n := s.bases.length
  let rs := ((List.range Config.nSites).filter (working s)).map Endpoint.core ++ (List.range 64).map Endpoint.landing
  rs.foldl (fun s r => sendPkt s { src := .core src, dst := r, cls := .sys, body := .dieBase n }) s

/-- The boot CSRs as CSRR reads them (R380). -/
def dieCsr (s : State) (die n : Nat) : Word :=
  match n with
  | 0x820 => (getDie s die).disc
  | 0x821 => 0
  | 0x822 => (getDie s die).mapgo
  | _ => basesAt s s.bases.length
/-- The boot CSRs as a write by the control core changes them. -/
def dieCsrWrite (s : State) (site n : Nat) (v : Word) : State :=
  let die := siteDie site
  match n with
  | 0x820 => discStart s die v
  | 0x821 => mapStage s die v
  | 0x822 => mapGo s die v
  | _ => dieBaseWrite s site v

end Sys2Proof.Machine
end

