-- ==== Sys2Proof/Machine/Csr.lean ====
section
/-! DEFINITION. Machine/Csr.lean: the control and status registers and the CSR instructions (spec/16 R286 to R289, spec/18 R313, R318
to R325, spec/22 R380). -/

namespace Sys2Proof.Machine

/-- The CSR number is listed (R286, R380); firmware numbers count as listed outside firmware mode, where they trap PRIV. -/
def csrListed (ctrl : Bool) (n : Nat) : Bool :=
  decide (n = 0x002 ∨ (0x010 ≤ n ∧ n ≤ 0x014) ∨ n = 0x020 ∨ n = 0x021 ∨ n = 0x030 ∨ n = 0x040 ∨ n = 0x050 ∨ (0x100 ≤ n ∧ n ≤ 0x105) ∨
    n = 0x110 ∨ n = 0x120 ∨ n = 0x130 ∨ n = 0x140 ∨ n = 0x150 ∨ (0x200 ≤ n ∧ n ≤ 0x23F) ∨ (0x300 ≤ n ∧ n ≤ 0x302) ∨
    (0x400 ≤ n ∧ n ≤ 0x7FF)) ||
  (if ctrl then decide (0x820 ≤ n ∧ n ≤ 0x823) else decide (0x800 ≤ n))
/-- Read-only CSRs (R286). -/
def csrReadOnly (n : Nat) : Bool :=
  decide ((0x010 ≤ n ∧ n ≤ 0x014) ∨ n = 0x020 ∨ n = 0x021 ∨ n = 0x030 ∨ (0x200 ≤ n ∧ n ≤ 0x23F))
/-- CSRs of core or cluster scope, whose writes are irrevocable (R286, R306). -/
def csrShared (n : Nat) : Bool := decide (n = 0x104 ∨ 0x110 ≤ n)

/-- The access checks of R286: the cause an access traps with, if any. -/
def csrCheck (ctrl sup : Bool) (n : Nat) (write : Bool) : Option (BitVec 8) :=
  if !csrListed ctrl n then some cILLEGAL
  else if write && csrReadOnly n then some cILLEGAL
  else if ctrl then none
  else if 0x800 ≤ n ∨ (0x100 ≤ n ∧ !sup) then some cPRIV
  else none

/-- tstatus (R287). -/
def tstatusOf (sl : Slot) : Nat :=
  boolBit sl.sup + boolBit sl.pm * 2 + boolBit sl.nest * 4 + boolBit sl.late * 8 + boolBit sl.exact * 16 + sl.treq.toNat * 32

/-- cnt (R286). -/
def cntOf (sl : Slot) : Nat := sl.cntL % 64 + sl.cntS % 128 * 2 ^ 8 + sl.cntE % 32 * 2 ^ 16 + sl.cntM % 32 * 2 ^ 24

/-- A field of a delay table entry (R324). -/
def delayField (sel : Nat) (e : Option DelayEnt) : Nat :=
  match e with
  | none => 0
  | some d =>
    match sel with
    | 0 => 2 ^ 63 + d.dev % 1024 * 2 ^ 53 + d.core % 8192 * 2 ^ 40 + d.count
    | 1 => d.transit
    | 2 => d.queue
    | _ => d.run
/-- Entry k of the delay table: 63 is "others" (R323). -/
def delayEntry (c : Core) (k : Nat) : Option DelayEnt := if k = 63 then c.others else nth c.delay k

/-- An event counter; an id the table does not list reads UNAV (R325). -/
def eventRead (c : Core) (e : Nat) : Word := if h : e < 18 then (c.events[e]).setWidth 64 else 0x8000000000000000#64

/-- The logical number coreid reads: a twin secondary's is the primary's (R309). -/
def coreidOf (s : State) (site : Nat) (sl : Slot) : Nat :=
  match sl.twin with
  | some (.secondary p) => coreNumber s p
  | _ => coreNumber s site

/-- The value of a CSR in a slot of a core (R286). -/
def csrRead (s : State) (site : Nat) (k : Fin 4) (n : Nat) : Word :=
  let c := getCore s site
  let sl := c.slots[k]
  let x := getCluster s (siteCluster site)
  match n with
  | 0x002 => sl.fexc.setWidth 64
  | 0x010 => sl.actId.setWidth 64
  | 0x011 => BitVec.ofNat 64 (patOf sl)
  | 0x012 => BitVec.ofNat 64 k.val
  | 0x013 => BitVec.ofNat 64 (coreidOf s site sl)
  | 0x014 => BitVec.ofNat 64 s.devid
  | 0x020 => BitVec.ofNat 64 s.time
  | 0x021 => BitVec.ofNat 64 s.cycle
  | 0x030 => BitVec.ofNat 64 (cntOf sl)
  | 0x040 => BitVec.ofNat 64 (boolBit sl.strict)
  | 0x050 => sl.winbase
  | 0x100 => sl.cause.setWidth 64
  | 0x101 => sl.tval
  | 0x102 => sl.epc
  | 0x103 => sl.tseq.setWidth 64
  | 0x104 => c.tvec
  | 0x105 => BitVec.ofNat 64 (tstatusOf sl)
  | 0x110 => c.rotate
  | 0x120 => x.lease.setWidth 64
  | 0x130 => c.stealdom
  | 0x140 => c.spill
  | 0x150 => x.adptab
  | 0x300 => c.dbgctl
  | 0x301 => c.dbgact
  | 0x302 => c.stepCsr
  | n =>
    if n < 0x300 then BitVec.ofNat 64 (delayField (bits c.dbgctl 4 2) (delayEntry c (n - 0x200)))
    else if n < 0x800 then eventRead c (n - 0x400)
    else dieCsr s (siteDie site) n

/-- A write of dbgctl: DCLR clears the delay table (R321). -/
def dbgctlSet (c : Core) (v : Word) : Core :=
  let c := { c with dbgctl := v &&& 0x01FFFFFFFFFFFFBE }
  if v.getLsbD 6 then { c with delay := [], others := none } else c

/-- Writes a CSR of slot scope: bits a layout marks as zero are ignored (R5, R287, R288). -/
def csrSlotWrite (sl : Slot) (n : Nat) (v : Word) : Slot :=
  match n with
  | 0x002 => { sl with fexc := v.setWidth 5 }
  | 0x040 => { sl with strict := v.getLsbD 0 }
  | 0x050 => { sl with winbase := v &&& winbaseMask }
  | 0x100 => { sl with cause := v.setWidth 8 }
  | 0x101 => { sl with tval := v }
  | 0x102 => { sl with epc := v }
  | 0x103 => { sl with tseq := v.setWidth 17 }
  | 0x105 =>
    { sl with pm := v.getLsbD 1, nest := v.getLsbD 2, late := v.getLsbD 3, exact := v.getLsbD 4, treq := (v >>> 5).setWidth 2 }
  | _ => sl

/-- Writes a CSR of core scope. -/
def csrCoreWrite (c : Core) (n : Nat) (v : Word) : Core :=
  match n with
  | 0x104 => { c with tvec := v &&& 0x01FFFFFFFFFFFF80 }
  | 0x110 => { c with rotate := v &&& 1 }
  | 0x130 => { c with stealdom := v &&& 0xFFFF }
  | 0x140 => { c with spill := v &&& 0x01FFFFFFFFFFFFFF }
  | 0x300 => dbgctlSet c v
  | 0x301 => { c with dbgact := v &&& 0x0003FFFFFFFFFFFF }
  | 0x302 => { c with stepCsr := v &&& 7 }
  | n =>
    if h : 0x400 ≤ n ∧ n < 0x412 then { c with events := c.events.set (n - 0x400) (v.setWidth 63) (by omega) }
    else c

/-- Writes a CSR (R286, R289). -/
def csrWrite (s : State) (site : Nat) (k : Fin 4) (n : Nat) (v : Word) : State :=
  if n = 0x120 then
    let x := getCluster s (siteCluster site)
    setCluster s (siteCluster site) { x with lease := v.setWidth 8 }
  else if n = 0x150 then
    let x := getCluster s (siteCluster site)
    setCluster s (siteCluster site) { x with adptab := v &&& 0x01FFFFFFFFFFFFE0 }
  else if 0x800 ≤ n then dieCsrWrite s site n v
  else if csrShared n then updCore s site fun c => csrCoreWrite c n v
  else setSlot s site k fun sl => csrSlotWrite sl n v

/-- tval of an ILLEGAL access: two prefixes, page 7, the base word (R45). -/
def csrTval (f : Nat) (a : XReg) (n : Nat) : Word :=
  BitVec.ofNat 64 (2 * 2 ^ 25 + 7 * 2 ^ 16 + a.val % 16 * 2 ^ 7 + n % 16 * 2 ^ 3 + f)

/-- Goes on with a CSR access that passes the checks, or traps (R286). -/
def csrAccess (s : State) (f : Nat) (a : XReg) (csr : BitVec 12) (write : Bool) (k : State → Res) : Res :=
  match csrCheck (curCore s).ctrl (curSlot s).sup csr.toNat write with
  | some e => trap s e (if e = cILLEGAL then csrTval f a csr.toNat else 0)
  | none => k s

/-- Writes a CSR as one step of the slot, irrevocably when it is shared (R289, R306). -/
def csrPut (s : State) (n : Nat) (v : Word) : Res :=
  let go := fun (s : State) => Host.Outcome.next (retire (csrWrite s s.cur.1 s.cur.2 n v) [])
  if csrShared n then irrevocable s 0 id go else go s

/-- CSRR (R289). -/
def execCsrr (a : XReg) (csr : BitVec 12) (s : State) : Res :=
  csrAccess s 0 a csr false fun s => needX s [a] fun _ => .next (retireX s a (csrRead s s.cur.1 s.cur.2 csr.toNat))

/-- CSRW (R289). -/
def execCsrw (a : XReg) (csr : BitVec 12) (s : State) : Res :=
  csrAccess s 1 a csr true fun s => needX s [a] fun sl => csrPut s csr.toNat (getX sl a)

/-- CSRSET: with A = 0 it writes nothing (R289). -/
def execCsrset (a : XReg) (csr : BitVec 12) (s : State) : Res :=
  csrAccess s 2 a csr true fun s =>
    if a = 0 then .next (retire s [])
    else needX s [a] fun sl => csrPut s csr.toNat (csrRead s s.cur.1 s.cur.2 csr.toNat ||| getX sl a)

/-- CSRCLR: with A = 0 it writes nothing (R289). -/
def execCsrclr (a : XReg) (csr : BitVec 12) (s : State) : Res :=
  csrAccess s 3 a csr true fun s =>
    if a = 0 then .next (retire s [])
    else needX s [a] fun sl => csrPut s csr.toNat (csrRead s s.cur.1 s.cur.2 csr.toNat &&& ~~~ getX sl a)

end Sys2Proof.Machine
end

