-- ==== Sys2Proof/Machine/Hash.lean ====
section
/-! DEFINITION. Machine/Hash.lean: SHAKE256 (FIPS 202) and SLH-DSA-SHAKE-256s (FIPS 205), its verification and its signing, the two
standards that spec/21 R364 and R370 name (notes/assumptions/10). -/

namespace Sys2Proof.Machine

-- The permutation of SHAKE256 over 25 words of 64 bits; the word of column x and plane y has index x + 5 y

abbrev Sponge := Vector (BitVec 64) 25

def wordAt (w : Sponge) (x y : Nat) : BitVec 64 := w[Fin.ofNat 25 (x % 5 + 5 * (y % 5))]

/-- A sponge given by columns and planes. -/
def spongeOf (f : Nat → Nat → BitVec 64) : Sponge := Vector.ofFn fun i => f (i.val % 5) (i.val / 5)

/-- The exclusive or of the five words of a column. -/
def column (w : Sponge) (x : Nat) : BitVec 64 := (List.range 5).foldl (fun p y => p ^^^ wordAt w x y) 0

/-- Adds to every word the parities of the columns beside it, one of them turned by a bit. -/
def mixColumns (w : Sponge) : Sponge :=
  let side := Vector.ofFn fun x : Fin 5 => column w (x.val + 4) ^^^ (column w (x.val + 1)).rotateLeft 1
  spongeOf fun x y => wordAt w x y ^^^ side[Fin.ofNat 5 x]

/-- Moves word (x, y) to (y, 2x + 3y), turned by the triangular number of its place on that walk, which starts at (1, 0) and passes
every word but (0, 0), which stays. -/
def turnAlong (w : Sponge) : Nat → Nat → Nat → Nat → Sponge
  | 0, _, _, _ => spongeOf fun _ _ => wordAt w 0 0
  | n + 1, t, x, y =>
    let y' := (2 * x + 3 * y) % 5
    (turnAlong w n (t + 1) y y').set! (y + 5 * y') ((wordAt w x y).rotateLeft (t * (t + 1) / 2 % 64))

/-- Every word against the two after it in its plane. -/
def mixPlanes (w : Sponge) : Sponge := spongeOf fun x y => wordAt w x y ^^^ (~~~ wordAt w (x + 1) y &&& wordAt w (x + 2) y)

/-- The step of the feedback register x^8 + x^6 + x^5 + x^4 + 1. -/
def feedback (r : BitVec 8) : BitVec 8 := (r <<< 1) ^^^ (if r.msb then 0x71 else 0)

/-- Seven outputs of the register, set at the bits 2^j - 1 of a round's constant, and the register after them. -/
def roundBits : Nat → Nat → BitVec 8 → BitVec 64 × BitVec 8
  | 0, _, r => (0, r)
  | n + 1, j, r =>
    let (k, r') := roundBits n (j + 1) (feedback r)
    (k ||| (if r.getLsbD 0 then BitVec.twoPow 64 (2 ^ j - 1) else 0), r')

/-- n rounds, with the register that their constants come from. -/
def spongeRounds : Nat → BitVec 8 → Sponge → Sponge
  | 0, _, w => w
  | n + 1, r, w =>
    let (k, r) := roundBits 7 0 r
    let w := mixPlanes (turnAlong (mixColumns w) 24 1 1 0)
    spongeRounds n r (w.set 0 (w[0] ^^^ k))

def permute (w : Sponge) : Sponge := spongeRounds 24 1 w

-- SHAKE256: 136 bytes at a time, domain bits 1111

/-- Takes one piece of 136 bytes into the sponge. -/
def takeIn (w : Sponge) (b : List Byte) : Sponge :=
  permute (spongeOf fun x y =>
    let p := 8 * (x + 5 * y)
    wordAt w x y ^^^ (if p < 136 then BitVec.ofNat 64 (leNat ((b.drop p).take 8)) else 0))

def takeAll : Nat → Sponge → List Byte → Sponge
  | 0, w, _ => w
  | n + 1, w, b => takeAll n (takeIn w (b.take 136)) (b.drop 136)

/-- The last piece's fill: the domain bits with the first bit of the padding, and its last bit at the end of the piece. -/
def shakePad (m : List Byte) : List Byte :=
  let z := 135 - m.length % 136
  if z = 0 then m ++ [0x9F] else m ++ 0x1F :: List.replicate (z - 1) 0 ++ [0x80]

def giveOut : Nat → Sponge → List Byte
  | 0, _ => []
  | n + 1, w => ((w.toList.take 17).flatMap fun v : BitVec 64 => leBytes 8 v.toNat) ++ giveOut n (permute w)

/-- SHAKE256 with an output of n bytes. -/
def shakeN (n : Nat) (m : List Byte) : List Byte :=
  let p := shakePad m
  (giveOut (n / 136 + 1) (takeAll (p.length / 136) (Vector.replicate 25 0) p)).take n

/-- SHAKE256 with a 64-byte output (R364). -/
def shake256 (m : List Byte) : List Byte := shakeN 64 m

-- SLH-DSA-SHAKE-256s: n 32, h 64, d 8, h' 8, a 14, k 22, w 16, m 47

/-- The n bytes of a number, most significant first. -/
def beBytes (n v : Nat) : List Byte := (leBytes n v).reverse
def beNat (b : List Byte) : Nat := leNat b.reverse

/-- An address: layer, tree, type, and its three last words. -/
def slhAdrs (layer tree typ w1 w2 w3 : Nat) : List Byte :=
  beBytes 4 layer ++ beBytes 12 tree ++ beBytes 4 typ ++ beBytes 4 w1 ++ beBytes 4 w2 ++ beBytes 4 w3

/-- The functions F, H and T: a 32-byte hash of the public seed, an address and a message. -/
def slhHash (seed adrs m : List Byte) : List Byte := shakeN 32 (seed ++ adrs ++ m)

/-- The first `out` numbers of b bits of a byte string, most significant first. -/
def slhDigits (x : List Byte) (b out : Nat) : List Nat :=
  let v := beNat x
  (List.range out).map fun i => v / 2 ^ (8 * x.length - b * (i + 1)) % 2 ^ b

/-- The i-th string of 32 bytes. -/
def slhNode (b : List Byte) (i : Nat) : List Byte := (b.drop (32 * i)).take 32

/-- From a leaf to the root: node by node with the strings beside the path. `adrs` gives the address for a height and an index. -/
def slhClimb (seed : List Byte) (adrs : Nat → Nat → List Byte) : List (List Byte) → Nat → Nat → List Byte → List Byte
  | [], _, _, node => node
  | s :: auth, height, ix, node =>
    let up := slhHash seed (adrs (height + 1) (ix / 2)) (if ix % 2 = 0 then node ++ s else s ++ node)
    slhClimb seed adrs auth (height + 1) (ix / 2) up

/-- The digest of a signed message: 39 bytes for the FORS trees, the number of the tree and of its leaf. -/
def slhDigest (rand seed root m : List Byte) : List Byte × Nat × Nat :=
  let d := shakeN 47 (rand ++ seed ++ root ++ 0 :: 0 :: m)
  (d.take 39, beNat ((d.drop 39).take 7), beNat (d.drop 46))

/-- The address of a FORS node. -/
def forsAdrs (tree leaf height i : Nat) : List Byte := slhAdrs 0 tree 3 leaf height i

/-- The public key that a FORS signature leads to. -/
def forsKey (seed sig md : List Byte) (tree leaf : Nat) : List Byte :=
  let roots := (slhDigits md 14 22).zipIdx.flatMap fun e =>
    let ix := e.2 * 2 ^ 14 + e.1
    let part := (sig.drop (e.2 * 15 * 32)).take (15 * 32)
    let adrs := forsAdrs tree leaf
    slhClimb seed adrs ((List.range 14).map fun j => slhNode part (j + 1)) 0 ix (slhHash seed (adrs 0 ix) (slhNode part 0))
  slhHash seed (slhAdrs 0 tree 4 leaf 0 0) roots

/-- A hash chain of n steps from step i. -/
def wotsChain (seed : List Byte) (adrs : Nat → List Byte) : Nat → Nat → List Byte → List Byte
  | 0, _, x => x
  | n + 1, i, x => wotsChain seed adrs n (i + 1) (slhHash seed (adrs i) x)

/-- The 67 digits of a 32-byte message: 64 of its own and 3 of the checksum. -/
def wotsDigits (m : List Byte) : List Nat :=
  let ds := slhDigits m 4 64
  ds ++ slhDigits (beBytes 2 ((ds.foldl (fun n d => n + (15 - d)) 0) * 16)) 4 3

/-- The compressed ends of the chains: a WOTS+ public key. -/
def wotsEnds (seed ends : List Byte) (layer tree leaf : Nat) : List Byte := slhHash seed (slhAdrs layer tree 1 leaf 0 0) ends

/-- The public key that a WOTS+ signature of a 32-byte message leads to. -/
def wotsKey (seed sig m : List Byte) (layer tree leaf : Nat) : List Byte :=
  let ds := wotsDigits m
  let ends := ds.zipIdx.flatMap fun e => wotsChain seed (slhAdrs layer tree 0 leaf e.2) (15 - e.1) e.1 (slhNode sig e.2)
  wotsEnds seed ends layer tree leaf

/-- The address of a node of an XMSS tree. -/
def xmssAdrs (layer tree height i : Nat) : List Byte := slhAdrs layer tree 2 0 height i

/-- The root that an XMSS signature leads to: 67 chains and 8 strings beside the path. -/
def xmssRoot (seed sig m : List Byte) (layer tree leaf : Nat) : List Byte :=
  slhClimb seed (xmssAdrs layer tree) ((List.range 8).map fun j => slhNode sig (67 + j)) 0 leaf
    (wotsKey seed sig m layer tree leaf)

/-- The root of the hypertree, layer by layer. -/
def hyperRoot (seed sig : List Byte) : Nat → Nat → Nat → Nat → List Byte → List Byte
  | 0, _, _, _, node => node
  | n + 1, layer, tree, leaf, node =>
    hyperRoot seed sig n (layer + 1) (tree / 2 ^ 8) (tree % 2 ^ 8) (xmssRoot seed ((sig.drop (layer * 75 * 32)).take (75 * 32)) node layer tree leaf)

/-- A signature of SLH-DSA-SHAKE-256s over a message with an empty context verifies under a public key of 64 bytes (R364). -/
def slhVerify (key m sig : List Byte) : Bool :=
  let seed := key.take 32
  let root := key.drop 32
  let (md, tree, leaf) := slhDigest (sig.take 32) seed root m
  let fors := forsKey seed ((sig.drop 32).take (330 * 32)) md tree leaf
  key.length == 64 && sig.length == 29792 && hyperRoot seed (sig.drop (331 * 32)) 8 0 tree leaf fors == root

-- Signing (R370)

/-- The function PRF: a secret string of 32 bytes at an address. -/
def slhSecret (seed secret adrs : List Byte) : List Byte := shakeN 32 (seed ++ adrs ++ secret)

/-- The node of a height and an index of a hash tree over `leaf`. -/
def slhTree (seed : List Byte) (adrs : Nat → Nat → List Byte) (leaf : Nat → List Byte) : Nat → Nat → List Byte
  | 0, i => leaf i
  | z + 1, i => slhHash seed (adrs (z + 1) i) (slhTree seed adrs leaf z (2 * i) ++ slhTree seed adrs leaf z (2 * i + 1))

/-- The strings beside the path from leaf ix, n of them. -/
def slhBeside (seed : List Byte) (adrs : Nat → Nat → List Byte) (leaf : Nat → List Byte) (n ix : Nat) : List Byte :=
  (List.range n).flatMap fun j => slhTree seed adrs leaf j (ix / 2 ^ j ^^^ 1)

/-- The FORS signature of a digest: 22 secret strings, each with the 14 strings beside its path. -/
def forsSign (seed secret md : List Byte) (tree leaf : Nat) : List Byte :=
  let value := fun i => slhSecret seed secret (slhAdrs 0 tree 6 leaf 0 i)
  (slhDigits md 14 22).zipIdx.flatMap fun e =>
    let ix := e.2 * 2 ^ 14 + e.1
    value ix ++ slhBeside seed (forsAdrs tree leaf) (fun i => slhHash seed (forsAdrs tree leaf 0 i) (value i)) 14 ix

/-- Chain c of a WOTS+ key, n steps from its secret string. -/
def wotsAt (seed secret : List Byte) (layer tree leaf c n : Nat) : List Byte :=
  wotsChain seed (slhAdrs layer tree 0 leaf c) n 0 (slhSecret seed secret (slhAdrs layer tree 5 leaf c 0))

/-- A leaf of an XMSS tree: the WOTS+ public key of 67 chains. -/
def xmssLeaf (seed secret : List Byte) (layer tree leaf : Nat) : List Byte :=
  wotsEnds seed ((List.range 67).flatMap fun c => wotsAt seed secret layer tree leaf c 15) layer tree leaf

/-- The XMSS signature of a 32-byte message. -/
def xmssSign (seed secret m : List Byte) (layer tree leaf : Nat) : List Byte :=
  ((wotsDigits m).zipIdx.flatMap fun e => wotsAt seed secret layer tree leaf e.2 e.1) ++
    slhBeside seed (xmssAdrs layer tree) (xmssLeaf seed secret layer tree) 8 leaf

/-- The signatures of the hypertree, layer by layer, each over the root of the layer below. -/
def hyperSign (seed secret : List Byte) : Nat → Nat → Nat → Nat → List Byte → List Byte
  | 0, _, _, _, _ => []
  | n + 1, layer, tree, leaf, node =>
    let sig := xmssSign seed secret node layer tree leaf
    sig ++ hyperSign seed secret n (layer + 1) (tree / 2 ^ 8) (tree % 2 ^ 8) (xmssRoot seed sig node layer tree leaf)

/-- The root of the top tree of the hypertree. -/
def slhRoot (seed secret : List Byte) : List Byte := slhTree seed (xmssAdrs 7 0) (xmssLeaf seed secret 7 0) 8 0

/-- A signature of SLH-DSA-SHAKE-256s over a message with an empty context, by a key of two secret strings and a public seed. -/
def slhSign (secret prf seed random m : List Byte) : List Byte :=
  let rand := shakeN 32 (prf ++ random ++ 0 :: 0 :: m)
  let (md, tree, leaf) := slhDigest rand seed (slhRoot seed secret) m
  let fors := forsSign seed secret md tree leaf
  rand ++ fors ++ hyperSign seed secret 8 0 tree leaf (forsKey seed fors md tree leaf)

/-- The 32 bytes of a string of Config. -/
def key32 (k : BitVec 256) : List Byte := leBytes 32 k.toNat

/-- The device identity public key: the public seed and the root (R370). -/
def deviceKey : List Byte := key32 Config.keyPublicSeed ++ slhRoot (key32 Config.keyPublicSeed) (key32 Config.keySeed)

/-- A signature with the device identity key, made in step n (R370). -/
def deviceSign (n : Nat) (m : List Byte) : List Byte :=
  slhSign (key32 Config.keySeed) (key32 Config.keyPrf) (key32 Config.keyPublicSeed) (key32 (Config.signRandom n)) m

end Sys2Proof.Machine
end

