-- ==== Sys2Proof/Machine/HostOps.lean ====
section
/-! DEFINITION. Machine/HostOps.lean: messages of the host and their store (spec/21 R353, R354), the attestation report (R370), and
messages that firmware sends. -/

namespace Sys2Proof.Machine

-- The host interface on the network (R352)

/-- A request packet of the host interface; its source code is that of the control core of C0. -/
def hostPkt (uid : Nat) (op : ROp) (addr : Word) (part : Nat) : ReqPkt :=
  { uid := uid, seq := 0, op := op, addr := addr, ordered := false, head := false, last := false, part := part, winbase := 0,
    srcCore := 0x1FFC, slot := 0, act := 0 }

def countDrop (s : State) (vf : Nat) : State := updPart s vf fun p => { p with hdrop := p.hdrop + 1 }
def countRefuse (s : State) (vf : Nat) : State := updPart s vf fun p => { p with hrefuse := p.hrefuse + 1 }

-- Host messages (R353, R354)

def updHost (s : State) (vf uid : Nat) (f : HostMsg → HostMsg) : State :=
  updPart s vf fun p => { p with host := p.host.map fun h => if h.uid = uid then f h else h }
def endHost (s : State) (vf uid : Nat) : State := updPart s vf fun p => { p with host := p.host.filter fun h => h.uid != uid }

/-- Messages of a VF's host store. -/
def storeCount (p : Part) : Nat := (p.host.filter fun h => h.stored).length

/-- Messages of the VF before one, to the same core. -/
def hostAhead (l : List HostMsg) (h : HostMsg) : List HostMsg :=
  (l.takeWhile fun x => x.uid != h.uid).filter fun x => x.msg.dstCore == h.msg.dstCore

/-- A message may be sent: one without the Relaxed Ordering attribute passes no earlier message to its core (R354). -/
def hostMayGo (l : List HostMsg) (h : HostMsg) : Bool := !h.flying && h.ticket.isNone && (h.relaxed || (hostAhead l h).isEmpty)

/-- Puts a host message on the network, as a message of partition n; none where its number is no core's (R353, R339). -/
def sendHost (s : State) (vf : Nat) (h : HostMsg) : Option State :=
  let lc := h.msg.dstCore
  let r := hostPkt h.uid (.msg h.msg) 0 vf
  match routeTo s (ctrlSite s 0) lc with
  | .direct x => some (sendPkt s { src := .host, dst := .core x, cls := .req, body := .req r })
  | .entry l => some (sendPkt s { src := .host, dst := .landing l, cls := .req, body := .entryReq lc r })
  | .nowhere => none

/-- Sends what may go of a VF's messages, oldest first. -/
def hostPump (s : State) (vf : Nat) : State :=
  (getPart s vf).host.foldl (fun s h =>
    if hostMayGo (getPart s vf).host h then
      match sendHost s vf h with
      | some s => updHost s vf h.uid fun h => { h with flying := true }
      | none => countRefuse (endHost s vf h.uid) vf
    else s) s

/-- Keeps a message in the VF's store of 64; without room it is dropped (R354). -/
def storeHost (s : State) (vf uid : Nat) : State :=
  if storeCount (getPart s vf) < 64 then updHost s vf uid fun h => { h with stored := true } else countDrop (endHost s vf uid) vf

/-- Messages that may not pass a stored one are kept behind it in the store (R354). -/
def storeBehind (s : State) (vf : Nat) : State :=
  (getPart s vf).host.foldl (fun s h =>
    if !h.relaxed && !h.flying && !h.stored && (hostAhead (getPart s vf).host h).any (fun x => x.stored) then storeHost s vf h.uid else s) s

/-- A host message arrives (R353, R354). -/
def hostArrive (s : State) (vf : Nat) (m : Msg) (relaxed : Bool) : State :=
  let h : HostMsg := { uid := s.hostUid, msg := m, relaxed := relaxed }
  hostPump (storeBehind (updPart { s with hostUid := s.hostUid + 1 } vf fun p => { p with host := p.host ++ [h] }) vf) vf

/-- A host message is answered: placed, refused and counted, or kept in the store by a ticket (R354, R133). -/
def hostMsgAnswer (s : State) (vf : Nat) (h : HostMsg) (home : Endpoint) (a : Answer) : State :=
  match a with
  | .ack => hostPump (endHost s vf h.uid) vf
  | .ticket t _ =>
    let s := updHost s vf h.uid fun h => { h with flying := false, ticket := some (t, home) }
    hostPump (storeBehind (if h.stored then s else storeHost s vf h.uid) vf) vf
  | _ => hostPump (countRefuse (endHost s vf h.uid) vf) vf

/-- The VF and the message of a packet of the host interface. -/
def hostMsgOf (s : State) (uid : Nat) : Option (Nat × HostMsg) :=
  s.parts.findSome? fun e => (e.2.host.find? fun h => h.uid == uid && h.flying).map fun h => (e.1, h)

/-- An answer reaches the host interface: for a message, or for a read through BAR4, whose completion goes to the host (R352). Nothing waits
for the answer to a write. -/
def hostAnswer (s : State) (uid : Nat) (home : Endpoint) (a : Answer) : State :=
  match hostMsgOf s uid with
  | some (vf, h) => hostMsgAnswer s vf h home a
  | none =>
    match s.bar4.find? fun e => e.1 == uid with
    | some e =>
      { s with bar4 := s.bar4.filter fun x => x.1 != uid, out := s.out ++ [.bar4Data e.2 (match a with | .data bs => bs | _ => [])] }
    | none => s

/-- Accesses through BAR4 go to the homes of the addressed frames, one request for each 4 KiB piece (R352). -/
def bar4Send (s : State) (off : Nat) (acc : HostAccess) : State :=
  let n := match acc with | .read n => n | .write bs => bs.length
  (pieces (n / 4096 + 2) (BitVec.ofNat 64 off) 0 n).foldl (fun s p =>
    let uid := s.hostUid
    let op := match acc with | .read _ => ROp.read p.2.2 | .write bs => .write ((bs.drop p.1).take p.2.2)
    let s := { s with hostUid := uid + 1, bar4 := match acc with | .read _ => s.bar4 ++ [(uid, off + p.1)] | .write _ => s.bar4 }
    sendPkt s { src := .host, dst := .ferry (homeFerry p.2.1), cls := .req, body := .req (hostPkt uid op p.2.1 fwPart) }) s

-- Attestation (R370)

/-- The bytes of the report before the signature. -/
def reportHead (s : State) (vf : Nat) : List Byte :=
  let p := getPart s vf
  let im := p.image.getD { dp := [], dn := [], version := 0, rbc := 0 }
  padTo 32 p.nonce ++ padTo 64 (shake256 deviceKey) ++ padTo 64 (shake256 s.nv.firmware) ++ padTo 64 im.dp ++ padTo 64 im.dn ++
    leBytes 4 im.version ++ leBytes 4 im.rbc ++ leBytes 2 (s.devid % 1024) ++ leBytes 1 vf ++ leBytes 5 0
where
  padTo (n : Nat) (b : List Byte) : List Byte := (b ++ List.replicate (n - b.length) 0).take n

/-- The attestation report, signed with the device identity key over SHAKE256 of its first 304 bytes (R370). -/
def attReport (s : State) (vf : Nat) : List Byte :=
  let h := reportHead s vf
  h ++ deviceSign s.stepNo (shake256 h)

/-- How writing a list of bytes through the homes ends; one that waits does so on a ticket, or for room at a home. -/
inductive WriteRes
  | done (s : State)
  | refused (s : State)
  | waits (s : State) (t : Option (BitVec 16 × Endpoint))
  deriving DecidableEq, Repr

/-- Writes bytes at a global address of a partition, page by page, as firmware does. -/
def homeWrite (part : Nat) (src : Endpoint) : Nat → Word → List Byte → State → WriteRes
  | 0, _, _, s => .done s
  | fuel + 1, a, bs, s =>
    if bs.isEmpty then .done s
    else
      let n := min bs.length (4096 - a.toNat % 4096)
      match bulkAccess s part a src (.write (bs.take n)) with
      | .done s .ack => homeWrite part src fuel (a + BitVec.ofNat 64 n) (bs.drop n) s
      | .done s _ => .refused s
      | .ticketed s t => .waits s (some (t, .ferry (homeFerry a)))
      | .refused => .refused s
      | .wait => .waits s none

/-- An attestation ends. -/
def attEnd (s : State) (vf : Nat) : State := updPart s vf fun p => { p with attgo := false, attRep := [], attWait := none }

/-- Firmware writes the report; ATTGO reads 0 after it. A page that is ticketed is written at its notice, and where a home has no room
firmware tries again. -/
def attWrite (s : State) (vf : Nat) : State :=
  let p := getPart s vf
  if !p.attgo then s
  else match homeWrite vf .host (p.attRep.length / 4096 + 2) p.attaddr p.attRep s with
    | .waits s t => updPart s vf fun p => { p with attWait := t }
    | .done s => attEnd s vf
    | .refused s => attEnd s vf

/-- A notice reaches the host interface: the messages and the attestations that wait on its ticket go on (R354, R370). -/
def hostNotice (s : State) (t : BitVec 16) (home : Endpoint) : State :=
  s.parts.foldl (fun s e =>
    let vf := e.1
    let s := updPart s vf fun p => { p with host := p.host.map fun h => if h.ticket = some (t, home) then { h with ticket := none } else h }
    let s := hostPump s vf
    if (getPart s vf).attWait = some (t, home) then attWrite s vf else s) s

/-- A failure notice at the host interface: messages on its ticket are refused GONE and counted, a report that cannot be written ends
(R359, R354, R370). -/
def hostFailure (s : State) (t : BitVec 16) (home : Endpoint) : State :=
  s.parts.foldl (fun s e =>
    let vf := e.1
    let s := ((getPart s vf).host.filter fun h => h.ticket == some (t, home)).foldl (fun s h => countRefuse (endHost s vf h.uid) vf) s
    let s := hostPump s vf
    if (getPart s vf).attWait = some (t, home) then attEnd s vf else s) s

-- Firmware messages

/-- A message that firmware on the control core of a die sends. -/
def fwMsg (s : State) (die kind : Nat) (dev core ch : Nat) (rel : Bool) (ws : List Word) : Msg :=
  { kind := kind, count := ws.length, rel := rel, srcCore := 0x1FF0 + die, srcDev := s.devid, chan := ch, dstCore := core, dstDev := dev,
    words := words6 ws }

/-- Sends a message from the NI of a control core; it belongs to no activation. -/
def fwSend (s : State) (die : Nat) (m : Msg) : State :=
  let site := ctrlSite s die
  injectAll s site
    [{ uid := 0, seqn := 0, slot := 0, act := 0, op := .msg m, addr := 0, home := msgHome s site m.dstDev m.dstCore, ordered := true,
       dest := .none, cntL := false, cntS := false, cntE := false, status := .held, part := fwPart, winbase := 0, retAt := 0 }]

/-- Sends a message to a channel name (R138). -/
def fwSendTo (s : State) (die kind : Nat) (name : Word) (rel : Bool) (ws : List Word) : State :=
  let own := name.getLsbD 31
  fwSend s die (fwMsg s die kind (if own then s.devid else bits name 0 10) (bits name 10 13) (bits name 23 8) rel ws)

/-- The partition of the core that sent a message. -/
def senderPart (s : State) (m : Msg) : Option Nat :=
  if m.srcDev = s.devid then (siteOf s m.srcCore).bind fun x => (getCore s x).part else none

/-- Takes the oldest message of a channel of a core; senders that wait on a spill into it are woken. -/
def popMsg (s : State) (site ch : Nat) : Option (QMsg × State) :=
  match tget (getCore s site).chans ch with
  | some x =>
    match x.queue with
    | q :: qs => some (q, wakeChans (updCore s site fun c => setChan c ch { x with queue := qs }) site [ch])
    | [] => none
  | none => none

-- Loads (R366)

/-- A notice for a load that waits on a ticket: it goes on, or fails. -/
def loadNotice (s : State) (site : Nat) (t : BitVec 16) (home : Endpoint) (ok : Bool) : State :=
  let hit := fun (w : LoadWait) => w.ticket == t && w.home == home && ctrlSite s w.die == site
  { s with loads := if ok then s.loads.filter fun w => !hit w else s.loads.map fun w => if hit w then { w with failed := true } else w }

end Sys2Proof.Machine
end

