-- ==== Sys2Proof/Machine/MatOps.lean ====
section
/-! DEFINITION. Machine/MatOps.lean: the matrix array: what a block reads and folds, the chain of an accumulator slot, the adapter unit
and its cache, the queue (spec/13 R226 to R245). -/

namespace Sys2Proof.Machine

-- Values

/-- PlaneValue(q, D, P) (R49). -/
def planeValue (q : Int) (d p : Nat) : Int :=
  if d ≤ p then q else (q / 2 ^ (d - p) + q / 2 ^ (d - p - 1) % 2) * 2 ^ (d - p)

/-- A finite exact result as a value; a sticky part does not occur here. -/
def exactVal : Exact → FVal
  | .nan => .nan
  | .inf s => .inf s
  | .zero s => .num s 0 0
  | .real s m e _ => .num s m e

/-- x + y exactly, with its flags. -/
def fvAdd (x y : FVal) : FVal × Nat :=
  let r := exAdd false x y
  (exactVal r.v, r.fl)

/-- v × 2^e as a value. -/
def fvInt (v e : Int) : FVal := .num (decide (v < 0)) v.natAbs e

/-- RoundA40 (R49): the pattern and the flags. -/
def a40Round (x : ExRes) : A40 × Nat :=
  let r := roundRne a40 x
  (BitVec.ofNat 40 r.bits, r.fl)
def a40Val (x : A40) : FVal := valOf a40 x.toNat
def a40Nan : A40 := BitVec.ofNat 40 a40.nanBits

/-- The exact sum of products of two lists of values: a zero sum is −0 only when every product is −0 (R54, R60). -/
def fvDot : List (FVal × FVal) → Option FVal → Nat → FVal × Nat
  | [], acc, fl => (acc.getD (.num false 0 0), fl)
  | (x, y) :: r, acc, fl =>
    let p := fvMul x y
    match acc with
    | none => fvDot r (some p.1) (fl ||| p.2)
    | some a => let s := fvAdd a p.1; fvDot r (some s.1) (fl ||| p.2 ||| s.2)

-- Reading a block

/-- The elements of group b of A row i as the array reads them, NaN throughout a NaN group (R226). -/
def aElems (m : Mem) (t : Tile) (p i b : Nat) : List FVal :=
  let d := planeDepth t.win
  let x := (readByte m (groupExp t i b)).toNat
  let ps := readPlanes m (groupOff t i b) d
  (List.range 32).map fun j => if x = 255 then .nan else fvInt (planeValue (planeInt d ps j) d p) ((x : Int) - 127 - (d - 2))

/-- The integer of a finite value over an exponent not above its own. -/
def overExp (e : Int) (v : FVal) : Int :=
  match v with
  | .num s m k => (if s then -1 else 1) * (m : Int) * 2 ^ (k - e).toNat
  | _ => 0
def expOf (v : FVal) : Int := match v with | .num _ _ k => k | _ => 0

/-- A group of A elements: NaN with any NaN among them, or integers over the lowest exponent. -/
def planeSide (vs : List FVal) : Side :=
  if vs.any (fun v => !fvFinite v) then .nan
  else
    let e := (vs.map expOf).foldl min ((vs.map expOf).headD 0)
    .ints (vs.map (overExp e)) e

/-- Group b of A row i (R226). -/
def aSide (m : Mem) (ue : List Nat) (t : Tile) (p i b : Nat) : Side :=
  if (ueOfRead ue (groupRanges t i b)).isSome then .poison else planeSide (aElems m t p i b)

/-- The raw code of element k of a natural group. -/
def rawCode (m : Mem) (w o k : Nat) : Nat :=
  let e := elemAt w o (k : Int)
  let raw := readLE m e.off e.len
  if elemHalf w = 1 then (if e.hi then raw / 16 else raw % 16) else raw

/-- The exact value of an element of a floating window 8 to 11 (R168). -/
def decVal (w scale code : Nat) : FVal :=
  match w with
  | 8 => blockVal scale code
  | 9 => valOf e4m3 code
  | 10 => valOf e5m2 code
  | _ => valOf bf16 code

/-- Aligned significands of a block of floating values (R227). -/
def alignBlock (vs : List FVal) : Side :=
  if vs.any (fun v => !fvFinite v) then .nan
  else
    match (vs.filter fvNonzero).map fvTop with
    | [] => .ints (vs.map fun _ => 0) 0
    | t :: ts =>
      let emax := ts.foldl max t
      .ints (vs.map fun v => roundInt v (22 - emax)) (emax - 22)

/-- The elements of group b of B row j (R227). -/
def bElems (m : Mem) (t : Tile) (j b : Nat) : List FVal :=
  (List.range 32).map fun k =>
    let c := rawCode m t.win (groupOff t j b) k
    if 12 ≤ t.win then fvInt (signedN c (if t.win = 12 then 4 else 8)) 0 else decVal t.win (readByte m (groupExp t j b)).toNat c
/-- A group of B elements: the integers of the windows 12 and 13, or aligned significands. -/
def naturalSide (t : Tile) (vs : List FVal) : Side := if 12 ≤ t.win then .ints (vs.map (overExp 0)) 0 else alignBlock vs
/-- Group b of B row j (R227). -/
def bSide (m : Mem) (ue : List Nat) (t : Tile) (j b : Nat) : Side :=
  if (ueOfRead ue (groupRanges t j b)).isSome then .poison else naturalSide t (bElems m t j b)

def dotInt : List Int → List Int → Int
  | x :: xs, y :: ys => x * y + dotInt xs ys
  | _, _ => 0

/-- The fold of one block into one element (R228): the element, its flags, and whether it was poisoned. -/
def foldElem (x : A40) (bad : Bool) (a b : Side) : A40 × Nat × Bool :=
  let x := if bad then a40Nan else x
  match a, b with
  | .ints va ea, .ints vb eb =>
    let r := a40Round (exAdd false (a40Val x) (fvInt (dotInt va vb) (ea + eb)))
    (r.1, r.2, bad)
  | a, b => (a40Nan, if a = .nan ∨ b = .nan then fNV else 0, decide (a = .poison ∨ b = .poison) || bad)

/-- Element key in an accumulator slot. -/
def accKey (i j : Nat) : Nat := i * 256 + j
def accGet (a : Acc) (k : Nat) : A40 := (tget a.elems k).getD 0
/-- Stores an element; +0 is the unlisted one. Its check bits are fresh. -/
def accSet (a : Acc) (k : Nat) (v : A40) : Acc :=
  { a with elems := if v = 0 then tdel a.elems k else tset a.elems k v, ue := a.ue.filter fun x => x != k }

/-- One block folds into every element of an m × n shape: the slot after it and the count of poisoned elements. -/
def foldBlock (a : Acc) (as_ bs : List Side) : Acc × Nat :=
  as_.zipIdx.foldl (fun r ai =>
    bs.zipIdx.foldl (fun r bj =>
      let k := accKey ai.2 bj.2
      let e := foldElem (accGet a k) (a.ue.contains k) ai.1 bj.1
      let c := accSet r.1 k e.1
      ({ c with flags := c.flags ||| e.2.1, poison := c.poison || e.2.2 }, r.2 + boolBit e.2.2)) r) (a, 0)

-- Racing stores (R237)

/-- Element k of those a command reads in this step: as it stood at issue, or as it stands now (R237; notes/assumptions/12). -/
def raced {α : Type} (s : State) (k : Nat) (old new : α) : α := if Config.freeRace (s.stepNo * 2 ^ 16 + k) then old else new
def racedList {α : Type} (s : State) (k : Nat) (old new : List α) : List α := (old.zip new).zipIdx.map fun e => raced s (k + e.2) e.1.1 e.1.2

/-- A group of A, and of B, whose stores may race the command that was issued with the scratchpad as in `view` (R237). -/
def racedA (s : State) (view : Mem) (c : Core) (t : Tile) (p i b : Nat) : Side :=
  if (ueOfRead c.spadUE (groupRanges t i b)).isSome then .poison
  else planeSide (racedList s (32 * i) (aElems view t p i b) (aElems c.spad t p i b))
def racedB (s : State) (view : Mem) (c : Core) (t : Tile) (j b : Nat) : Side :=
  if (ueOfRead c.spadUE (groupRanges t j b)).isSome then .poison
  else naturalSide t (racedList s (4096 + 32 * j) (bElems view t j b) (bElems c.spad t j b))
/-- The 4-byte words of a tile at the offsets given. -/
def racedWords (s : State) (view : Mem) (c : Core) (k : Nat) (os : List Nat) : List Nat :=
  racedList s k (os.map fun o => readLE view o 4) (os.map fun o => readLE c.spad o 4)

-- The chain (R233)

/-- Chain shape as the checks of a command see it: open or not, and M, N, COLB. -/
structure ChainShape where
  opened : Bool
  m : Nat
  n : Nat
  colb : Nat
  deriving DecidableEq, Repr

def chainOf (a : Acc) : ChainShape := ⟨a.opened, a.m, a.n, a.colb⟩

/-- The shape a queued command leaves. -/
def chainNext (h : ChainShape) (q : MCmd) : ChainShape :=
  match q.kind with
  | .mxm =>
    let h := if q.acc then h else ⟨true, q.m, q.n, q.colb⟩
    if q.fin then { h with opened := false } else h
  | .mxd => { h with opened := false }
  | .mxz => { h with opened := false }
  | .adpinv => h

/-- The shape the core's earlier commands will leave (R234). -/
def chainAhead (c : Core) : ChainShape := c.mq.foldl chainNext (chainOf c.acc)

-- The cluster

def coreCluster (site : Nat) : Nat := siteCluster site
/-- The cores of a cluster by rank. -/
def rankCore (s : State) (cl r : Nat) : Core := getCore s (clusterSite cl r)
def updRank (s : State) (cl r : Nat) (f : Core → Core) : State := updCore s (clusterSite cl r) f
def updAcc (s : State) (cl r : Nat) (f : Acc → Acc) : State := updRank s cl r fun c => { c with acc := f c.acc }
def updHead (c : Core) (f : MCmd → MCmd) : Core :=
  { c with mq := match c.mq with | q :: qs => f q :: qs | [] => [] }
def ranks : List Nat := [0, 1, 2, 3]

-- Adapters (R240 to R244)

/-- A table entry (R240). -/
structure AdpEntry where
  abase : Nat
  bbase : Nat
  alpha : FVal
  kblk : Nat
  nblk : Nat
  rank : Nat
  deriving DecidableEq, Repr

/-- The entry in 32 bytes; none when it is invalid (R243). -/
def adpEntry (bs : List Byte) : Option AdpEntry :=
  let d := leNat bs
  let f := fun lo w => d / 2 ^ lo % 2 ^ w
  let okAddr := fun (a : Nat) => decide (a / 2 ^ 57 = 0 ∧ a % 2 = 0)
  if f 210 46 ≠ 0 ∨ f 160 16 ≠ 0 ∨ f 192 16 = 0 ∨ f 176 16 = 0 then none
  else if !okAddr (f 0 64) || !okAddr (f 64 64) then none
  else some ⟨f 0 64, f 64 64, valOf fp32 (f 128 32), f 176 16, f 192 16, 8 * 2 ^ f 208 2⟩

def findTag (x : Cluster) (t : ATag) : Option (List Byte) := (x.cache.find? fun l => l.tag == t).map fun l => l.bytes
/-- The entry of an id, when its line is there. -/
def cachedEntry (x : Cluster) (id : Nat) : Option (Option AdpEntry) := (findTag x (.entry id)).map adpEntry

/-- The BF16 element at index k of a line. -/
def bfAt (bs : List Byte) (k : Nat) : FVal := valOf bf16 (leNat ((bs.drop (2 * k)).take 2))

def tagId : ATag → Nat
  | .entry i => i
  | .aSide i _ => i
  | .bSide i _ => i

/-- Row i of a chain takes part in the adapter term. -/
def adpRow (a : Acc) (i : Nat) : Bool := ((nth a.ids i).getD 0) != 0 && !a.failed.contains i

/-- ADPFAIL for a row: its replays are dropped, its term is +0 (R243). -/
def failRow (a : Acc) (i : Nat) : Acc :=
  if a.failed.contains i then a
  else { a with failed := a.failed ++ [i], replay := a.replay.filter fun e => e.row != i, u := a.u.filter fun e => e.1 / 64 != i }

/-- One update of a row's u (R241). -/
def updateU (a : Acc) (e : ReplayEnt) (r : Nat) (seg : List Byte) : Acc :=
  (List.range r).foldl (fun a t =>
    let d := fvDot ((e.vals.zipIdx).map fun v => (v.1, bfAt seg (v.2 * r + t))) none 0
    let s := exAdd false (a40Val ((tget a.u (e.row * 64 + t)).getD 0)) d.1
    let y := a40Round s
    { a with u := tset a.u (e.row * 64 + t) y.1, flags := a.flags ||| d.2 ||| s.fl ||| y.2 }) a

/-- What the cache holds for the first waiting block of a row. -/
inductive RowStep | wait | fail | go (r : Nat) (seg : List Byte)
  deriving DecidableEq, Repr

def rowStep (x : Cluster) (a : Acc) (e : ReplayEnt) : RowStep :=
  let id := (nth a.ids e.row).getD 0
  match cachedEntry x id with
  | none => .wait
  | some none => .fail
  | some (some n) =>
    if n.kblk ≤ e.kb ∨ n.nblk ≤ a.colb then .fail
    else match findTag x (.aSide id e.kb) with
      | none => .wait
      | some seg => .go n.rank seg

/-- Applies the waiting blocks of every row in ascending order as far as the cache allows (R241, R242). -/
def replayGo (x : Cluster) : List ReplayEnt → List Nat → Acc → Acc
  | [], _, a => a
  | e :: es, held, a =>
    if held.contains e.row || !adpRow a e.row then replayGo x es held a
    else match rowStep x a e with
      | .wait => replayGo x es (e.row :: held) a
      | .fail => replayGo x es held (failRow a e.row)
      | .go r seg =>
        let a := updateU a e r seg
        replayGo x es held { a with replay := a.replay.erase e }

def replayAll (x : Cluster) (a : Acc) : Acc := replayGo x a.replay [] a

/-- Rows whose entry is there and invalid, or whose COLB lies outside it, fail (R243). -/
def failInvalid (x : Cluster) (a : Acc) : Acc :=
  (List.range a.ids.length).foldl (fun a i =>
    if adpRow a i then
      match cachedEntry x ((nth a.ids i).getD 0) with
      | some none => failRow a i
      | some (some n) => if n.nblk ≤ a.colb then failRow a i else a
      | none => a
    else a) a

/-- The lines an open chain needs and the cache lacks (R242). -/
def needTags (x : Cluster) (a : Acc) : List ATag :=
  if !a.opened then []
  else
    (List.range a.ids.length).flatMap fun i =>
      if adpRow a i then
        let id := (nth a.ids i).getD 0
        match cachedEntry x id with
        | none => [.entry id]
        | some _ =>
          ((ATag.bSide id a.colb) :: (a.replay.filter fun e => e.row == i).map fun e => ATag.aSide id e.kb).filter fun t =>
            (findTag x t).isNone
      else []

/-- The ranges of a line in global memory (R240). -/
def lineRanges (x : Cluster) (table : Word) : ATag → List (Nat × Nat)
  | .entry id => [(bits table 5 52 * 32 + 32 * id, 32)]
  | .aSide id kb =>
    match cachedEntry x id with
    | some (some n) => [(n.abase + 64 * n.rank * kb, 64 * n.rank)]
    | _ => []
  | .bSide id colb =>
    match cachedEntry x id with
    | some (some n) => (List.range n.rank).map fun t => (n.bbase + 2 * (t * 256 * n.nblk + 256 * colb), 512)
    | _ => []

/-- The pieces of a range within 4 KiB pages (R212). -/
def splitPages : Nat → Nat → Nat → List (Nat × Nat)
  | 0, _, _ => []
  | fuel + 1, a, n => if n = 0 then [] else let k := min n (4096 - a % 4096); (a, k) :: splitPages fuel (a + k) (n - k)

/-- A piece of a fetch for the core of a rank leaves for its home, on the BULK class (R242). -/
def flyPiece (s : State) (cl r : Nat) (p : APiece) : State :=
  let site := clusterSite cl r
  sendPkt s
    { src := .adapter cl, dst := .ferry (homeFerry p.addr), cls := .bulk,
      body := .req { uid := p.uid, seq := 0, op := .read p.len, addr := p.addr, ordered := false, head := false, last := false,
                     part := corePart s site, winbase := 0, srcCore := coreNumber s site, slot := 0, act := 0 } }

/-- Starts the fetch of a line for the core of a rank. -/
def startFetch (s : State) (cl r : Nat) (tag : ATag) : State :=
  let x := getCluster s cl
  let ps := ((lineRanges x (rankCore s cl r).acc.adptab tag).flatMap fun g => splitPages (g.2 / 4096 + 2) g.1 g.2).zipIdx.map fun e =>
    ({ uid := x.nextUid + e.2, addr := BitVec.ofNat 64 e.1.1, len := e.1.2 } : APiece)
  if ps.isEmpty then s
  else
    let s := setCluster s cl
      { x with nextUid := x.nextUid + ps.length, fetches := x.fetches ++ [{ tag := tag, core := r, pieces := ps }] }
    ps.foldl (fun s p => flyPiece s cl r p) s

/-- Asks for the missing lines of every chain that is not stopped by dusk, once each (R242, R301). -/
def wantLines (s : State) (cl : Nat) : State :=
  ranks.foldl (fun s r =>
    if (rankCore s cl r).halted then s
    else (needTags (getCluster s cl) (rankCore s cl r).acc).foldl (fun s t =>
      if (getCluster s cl).fetches.any fun f => f.tag == t then s else startFetch s cl r t) s) s

/-- An open chain of the cluster uses a line: the entry of a latched id, its B side for the chain's COLB, or the A side of a block that waits
in the chain's replay list (R242, R244). -/
def lineUsed (s : State) (cl : Nat) (t : ATag) : Bool :=
  ranks.any fun r =>
    let a := (rankCore s cl r).acc
    a.opened &&
      (List.range a.ids.length).any fun i =>
        adpRow a i && (nth a.ids i).getD 0 == tagId t &&
          (match t with
           | .entry _ => true
           | .bSide _ colb => colb == a.colb
           | .aSide _ kb => a.replay.any fun e => e.row == i && e.kb == kb)

/-- Removes the lines that ADPINV marked and no chain uses any more (R244). -/
def dropLines (s : State) (cl : Nat) : State :=
  let x := getCluster s cl
  setCluster s cl { x with cache := x.cache.filter fun l => !l.drop || lineUsed s cl l.tag }

/-- Bytes in the cache. -/
def cacheSize (ls : List ALine) : Nat := ls.foldl (fun n l => n + l.bytes.length) 0
/-- The line used least recently among those no open chain uses. -/
def lruLine (s : State) (cl : Nat) (ls : List ALine) : Option ALine :=
  ls.foldl (fun r l =>
    if lineUsed s cl l.tag then r
    else match r with
      | none => some l
      | some b => if l.used < b.used then some l else some b) none
/-- The cache as lines that no open chain uses give way, least recently used first, until at most `cap` bytes stand in it (R244). The lines in
use stay when they alone are more than that: the spec does not say what gives way then (notes/assumptions/86). -/
def evictLines (s : State) (cl cap : Nat) : Nat → List ALine → List ALine
  | 0, ls => ls
  | fuel + 1, ls =>
    if cacheSize ls ≤ cap then ls
    else match lruLine s cl ls with
      | some l => evictLines s cl cap fuel (ls.filter fun y => y.tag != l.tag)
      | none => ls

/-- Installs the line of a fetch all of whose pieces have come, replacing lines that no chain uses, least recently used first (R244). A line for
which the lines in use leave no room in the 512 KiB of the cache waits in its fetch until there is room: the spec names no line that would
give way (R2; notes/assumptions/86). The line of a fetch that ADPINV overtook is discarded. -/
def installFetch (s : State) (cl : Nat) (f : AFetch) : State :=
  let x := getCluster s cl
  let bs := f.pieces.flatMap fun p => p.data.getD []
  let rest := x.fetches.filter fun g => g.tag != f.tag
  if f.discard then setCluster s cl { x with fetches := rest }
  else
    let ls := evictLines s cl (Config.adpCache - bs.length) x.cache.length x.cache
    if cacheSize ls + bs.length ≤ Config.adpCache then
      setCluster s cl { x with fetches := rest, cache := ls ++ [{ tag := f.tag, bytes := bs, used := s.stepNo }] }
    else s

/-- Every piece of a fetch has come. -/
def fetchWhole (f : AFetch) : Bool := f.pieces.all fun p => p.data.isSome

/-- Lines that have come enter the cache as far as there is room. -/
def installFetches (s : State) (cl : Nat) : State := ((getCluster s cl).fetches.filter fetchWhole).foldl (fun s f => installFetch s cl f) s

-- The queue (R238, R247, R250)

/-- Replay entries of a command: those of its chain blocks. -/
def cmdReplays (a : Acc) (q : MCmd) : Bool := a.replay.any fun e => decide (q.kpos0 ≤ e.kb ∧ e.kb < q.kpos0 + q.kb)

/-- The read of the A tile ends when the last block has entered the array and no replay entry of the command remains (R236). -/
def endARead (c : Core) : Core :=
  c.mq.foldl (fun c q =>
    if q.apin && q.started && decide (q.kb ≤ q.blk + 1) && !cmdReplays c.acc q then
      let c := match getTile c q.at_ with
        | some t => setTile c q.at_ (unpin t)
        | none => c
      { c with mq := c.mq.map fun y => if y.started ∧ y.kpos0 = q.kpos0 ∧ y.apin then { y with apin := false } else y }
    else c) c

/-- A command leaves the queue: M falls in the slot that issued it (R238). -/
def popCmd (c : Core) : Core :=
  match c.mq with
  | [] => c
  | q :: qs => updAct { c with mq := qs } q.slot q.act fun sl => { sl with cntM := sl.cntM - 1 }

/-- Commands at the head that are complete without a drain leave in order. -/
def popDone : Nat → Core → Core
  | 0, c => c
  | fuel + 1, c =>
    match c.mq with
    | q :: _ =>
      if q.kind = .mxm ∧ !q.fin ∧ q.folded ∧ !cmdReplays c.acc q then popDone fuel (popCmd c) else c
    | [] => c

/-- The entry and the B segment of every adapter row are there, or the row has failed (R242). -/
def bReady (x : Cluster) (a : Acc) : Bool :=
  (List.range a.ids.length).all fun i =>
    !adpRow a i || ((cachedEntry x ((nth a.ids i).getD 0)).isSome && (findTag x (.bSide ((nth a.ids i).getD 0) a.colb)).isSome)

/-- The head command is ready to drain (R250). -/
def drainReady (x : Cluster) (c : Core) : Bool :=
  match c.mq with
  | q :: _ => (q.kind == .mxd || (q.kind == .mxm && q.fin && q.folded && !cmdReplays c.acc q)) && bReady x c.acc
  | [] => false

/-- The lines that the replays applied between two stands of a slot have used. -/
def usedTags (a b : Acc) : List ATag :=
  (a.replay.filter fun e => !b.replay.contains e && adpRow b e.row).flatMap fun e =>
    let id := (nth a.ids e.row).getD 0
    [.entry id, .aSide id e.kb]

/-- Lines of the cache are used now: what replacement goes by (R244, R267; notes/assumptions/86). -/
def touchTags (s : State) (cl : Nat) (ts : List ATag) : State :=
  if ts.isEmpty then s
  else
    let x := getCluster s cl
    setCluster s cl { x with cache := x.cache.map fun l => if ts.contains l.tag then { l with used := s.stepNo } else l }

/-- What moves on at a core: replays, A reads, completed commands, a drain that has become ready. -/
def settleCore (x : Cluster) (now : Nat) (c : Core) : Core :=
  let c := if c.acc.opened then { c with acc := replayAll x (failInvalid x c.acc) } else c
  let c := popDone 16 (endARead c)
  if drainReady x c then updHead c fun q => { q with readyAt := some (q.readyAt.getD now) } else c

/-- After anything that moves the cluster on: lines that have come, what follows at each core that dusk has not stopped, and the fetches it
needs. -/
def settle (s : State) (cl : Nat) : State :=
  let s := installFetches s cl
  let s := ranks.foldl (fun s r =>
    let c := rankCore s cl r
    if c.halted then s
    else
      let d := settleCore (getCluster s cl) s.stepNo c
      touchTags (setCore s (clusterSite cl r) d) cl (usedTags c.acc d.acc)) s
  wantLines s cl

end Sys2Proof.Machine
end

