-- ==== Sys2Proof/Machine/SpadOps.lean ====
section
/-! DEFINITION. Machine/SpadOps.lean: atomics and vector adds on a scratchpad, by a local instruction or at the owner of a mesh address
(spec/11 R192 to R194). -/

namespace Sys2Proof.Machine

/-- A scalar atomic on n bytes at an offset, one step: the old value (R192). -/
def spadAmo (c : Core) (op : AmoOp) (n o : Nat) (cw dw : Word) : SpadRes Nat :=
  match spadRead c [(o, n)] fun m => readLE m o n with
  | .error k => .error k
  | .ok (old, c) =>
    if op = .cas ∧ old ≠ cw.toNat % 2 ^ (8 * n) then .ok (old, c)
    else
      match spadWrite c [] [(o, n)] fun m => writeLE m o n (amoNew op n old cw dw) with
      | .error k => .error k
      | .ok (_, c) => .ok (old, c)

/-- The words a vector add names, from an offset: lane and offset, signed (R193). -/
def addWords (o : Nat) (act : Mask32) (idx : Option Lanes) : List (Fin 32 × Int) :=
  (laneList act).map fun l =>
    (l, (o : Int) + 4 * (match idx with
      | some v => signedN (v[l]).toNat 32
      | none => (l.val : Int)))

/-- Adds lanes into words one after the other, as one step (R194). -/
def spadAdds (c : Core) (t : VTy) (ws : List (Fin 32 × Int)) (data : Lanes) : SpadRes Unit :=
  let rs := ws.map fun e => (e.2.toNat, 4)
  spadWrite c rs rs fun m =>
    ws.foldl (fun m e => writeLE m e.2.toNat 4 (vaddNew t (readLE m e.2.toNat 4) (data[e.1]).toNat)) m

end Sys2Proof.Machine
end

