-- ==== Sys2Proof/Machine/DrainOps.lean ====
section
/-! DEFINITION. Machine/DrainOps.lean: drain programs: their checks, their micro-operations on A40 patterns, the conversions of OUT and
the commit of a group (spec/14 R250 to R263). -/

namespace Sys2Proof.Machine

-- Images (R249, R252, R258)

/-- A micro-op from its word. -/
def microOp (w : Nat) : MicroOp :=
  { op := w / 2 ^ 26 % 64, dst := w / 2 ^ 23 % 8, s1 := w / 2 ^ 18 % 32, s2 := w / 2 ^ 13 % 32, s3 := w / 2 ^ 8 % 32, md := w % 256 }

def imgWord (bs : List Byte) (i : Nat) : Nat := leNat ((bs.drop (4 * i)).take 4)
def imgConst (bs : List Byte) (i : Nat) : Nat := leNat ((bs.drop (128 + 8 * i)).take 8)

/-- Operation codes with a name of their own below. -/
def opEND : Nat := 23
def opOUT : Nat := 21
def opACCW : Nat := 20
def opRACC : Nat := 22
def opRND : Nat := 18

/-- Sources an operation uses, and whether it writes DST (R254). -/
def opUses (op : Nat) : Nat × Bool :=
  match op with
  | 0 | 7 | 8 | 12 | 13 | 14 | 15 | 16 | 17 | 18 => (1, true)
  | 1 | 2 | 3 | 5 | 6 | 9 | 10 => (2, true)
  | 4 | 11 | 19 => (3, true)
  | 20 | 21 | 22 => (1, false)
  | _ => (0, false)

/-- The field rules of R254 to R256. -/
def opFieldsOk (o : MicroOp) : Bool :=
  let u := opUses o.op
  decide (o.op ≤ 23) && (u.2 || o.dst == 0) && (decide (1 ≤ u.1) || o.s1 == 0) && (decide (2 ≤ u.1) || o.s2 == 0) &&
    (decide (3 ≤ u.1) || o.s3 == 0) &&
    (if o.op = opRND then decide (o.md / 64 = 0 ∧ o.md / 8 % 8 ≤ 4 ∧ o.md % 8 ≤ 3)
     else if o.op = opOUT then decide (o.md < 8)
     else o.md == 0)

/-- The micro-ops of an image up to its first END. -/
def progOps (ws : List Nat) : List MicroOp :=
  match ws with
  | [] => []
  | w :: r => if (microOp w).op = opEND then [microOp w] else microOp w :: progOps r

def opCount (ops : List MicroOp) (op : Nat) : Nat := (ops.filter fun o => o.op == op).length

/-- The rules of R258. -/
def progOk (bs : List Byte) : Bool :=
  let ws := (List.range 32).map (imgWord bs)
  let ops := progOps ws
  ops.any (fun o => o.op == opEND) && ops.all opFieldsOk && (ws.drop ops.length).all (fun w => w == 0) &&
    decide (opCount ops opOUT ≤ 1 ∧ opCount ops opACCW ≤ 1 ∧ opCount ops opRACC ≤ 1)

/-- The must-be-zero parts of an image are zero (R249). -/
def imgZeros (bs : List Byte) : Bool :=
  ((List.range 12).all fun i => decide (imgConst bs i < 2 ^ 40)) && (bs.drop 224).all fun b => b == 0

def drainImg (bs : List Byte) : DrainImg :=
  { ops := progOps ((List.range 32).map (imgWord bs)), consts := (List.range 12).map fun i => BitVec.ofNat 40 (imgConst bs i) }

/-- A source code is read by the program. -/
def usesSrc (p : DrainImg) (lo hi : Nat) : Bool :=
  p.ops.any fun o =>
    let n := (opUses o.op).1
    ((List.range n).map fun k => match k with | 0 => o.s1 | 1 => o.s2 | _ => o.s3).any fun c => decide (lo ≤ c ∧ c ≤ hi)
def hasOp (p : DrainImg) (op : Nat) : Bool := p.ops.any fun o => o.op == op
/-- The modifier of the program's OUT, 0 without one. -/
def outMod (p : DrainImg) : Nat := ((p.ops.find? fun o => o.op == opOUT).map fun o => o.md).getD 0

-- Micro-operations on A40 patterns (R254, R255)

def a40Neg (x : A40) : A40 := x ^^^ 0x8000000000#40
def a40IsNan (x : A40) : Bool := (a40Val x).isNan
def a40One : A40 := BitVec.ofNat 40 (511 * 2 ^ 29)

/-- MIN and MAX by R53: two NaNs give the canonical NaN (R51, R254; notes/assumptions/26). -/
def a40Min (x y : A40) : A40 := BitVec.ofNat 40 (minBits a40 x.toNat y.toNat)
def a40Max (x y : A40) : A40 := BitVec.ofNat 40 (maxBits a40 x.toNat y.toNat)

/-- The target of RND: a format, or none for integral (R255). -/
def rndFmt (n : Nat) : Option FFmt :=
  match n with
  | 1 => some fp32 | 2 => some bf16 | 3 => some e4m3 | 4 => some e5m2 | _ => none
def rndMode (n : Nat) : Rnd := match n with | 0 => .rne | 1 => .rz | 2 => .rd | _ => .ru

/-- RND (R255). -/
def drainRnd (md : Nat) (x : A40) : A40 × Nat :=
  let mode := rndMode (md % 8)
  match a40Val x with
  | .nan => (a40Nan, 0)
  | .inf _ => (x, 0)
  | .num s m e =>
    if m = 0 then (x, 0)
    else
      let q : Int := match rndFmt (md / 8 % 8) with
        | some f => max (e + Nat.log2 m) f.emin - f.frac
        | none => 0
      let t := roundUnits mode 0 s m e false q
      let r := roundWith a40 ⟨mode, false⟩ 0 (exOk (.num s t.1 q))
      let uf := match rndFmt (md / 8 % 8) with
        | some f => if t.2 && isTiny f mode 0 s m e false then fUF else 0
        | none => 0
      (BitVec.ofNat 40 r.bits, (if t.2 then fNX else 0) ||| uf ||| r.fl)

/-- A micro-op that writes DST: its result and flags (R254). -/
def drainOp (o : MicroOp) (x y z : A40) : A40 × Nat :=
  let vx := a40Val x
  let vy := a40Val y
  let fn := fun (f : FFun) => a40Round (fnExact f vx)
  match o.op with
  | 0 => (x, 0)
  | 1 => a40Round (exAdd false vx vy)
  | 2 => a40Round (exAdd false vx vy.neg)
  | 3 => a40Round (exMul vx vy)
  | 4 => a40Round (exFma false false false vx vy (a40Val z))
  | 5 => (a40Min x y, 0)
  | 6 => (a40Max x y, 0)
  | 7 => (if vx.isNan then x else x &&& 0x7FFFFFFFFF#40, 0)
  | 8 => (if vx.isNan then x else a40Neg x, 0)
  | 9 => (if fvLt vx vy then a40One else 0, if vx.isNan || vy.isNan then fNV else 0)
  | 10 => (if fvEq vx vy then a40One else 0, 0)
  | 11 =>
    (match a40Val z with
     | .num _ 0 _ => y
     | _ => x, 0)
  | 12 => fn .exp2
  | 13 => fn .log2
  | 14 => fn .rcp
  | 15 => fn .rsq
  | 16 => fn .tanh
  | 17 => fn .sigm
  | 18 => drainRnd o.md x
  | _ => (a40Min (a40Max x y) z, 0)

/-- What a program does with one element. -/
structure ElemOut where
  out : Option A40 := none
  accw : Option A40 := none
  racc : Option A40 := none
  fl : Nat := 0
  deriving DecidableEq, Repr

/-- Runs the program on one element: `env` lists the sources by code (R251, R253). DZ is not a drain flag. -/
def runProg : List MicroOp → List A40 → ElemOut → ElemOut
  | [], _, r => r
  | o :: os, env, r =>
    let x := (nth env o.s1).getD 0
    if o.op = opEND then r
    else if o.op = opACCW then runProg os env { r with accw := some x }
    else if o.op = opOUT then runProg os env { r with out := some x }
    else if o.op = opRACC then runProg os env { r with racc := some x }
    else
      let y := drainOp o x ((nth env o.s2).getD 0) ((nth env o.s3).getD 0)
      runProg os (setNth env o.dst y.1) { r with fl := r.fl ||| (y.2 &&& (fNV ||| fOF ||| fUF ||| fNX)) }

/-- An FP32 pattern taken exactly into A40 (R253). -/
def f32ToA40 (b : Nat) : A40 := (a40Round (exOk (valOf fp32 b))).1

-- Conversions of OUT (R256)

/-- Bytes of an element of OFMT 0 to 3 (R232). -/
def outSize (ofmt : Nat) : Nat := match ofmt with | 0 => 4 | 1 => 2 | _ => 1
def outFmt (ofmt : Nat) : FFmt := match ofmt with | 0 => fp32 | 1 => bf16 | 2 => e4m3 | _ => e5m2
/-- The destination window of OFMT (R232). -/
def outWin (ofmt : Nat) : Nat := match ofmt with | 0 => 0 | 1 => 11 | 2 => 9 | 3 => 10 | _ => 8

def outBits (ofmt : Nat) (sat : Bool) (x : A40) : Nat × Nat :=
  let r := roundWith (outFmt ofmt) ⟨.rne, sat || ofmt == 2⟩ 0 (exOk (a40Val x))
  (r.bits, r.fl &&& (fNV ||| fOF ||| fNX))

/-- The MX4 scale byte from a ROWV pattern, with its flags. -/
def outScale (b : Nat) : Nat × Nat :=
  match valOf fp32 b with
  | .nan => (0x3F, fNV)
  | .inf s => (if s then 0 else 255, fNX)
  | .num s m e =>
    let t := roundUnits .rne 0 s m e false 0
    let v : Int := if s then -(t.1 : Int) else t.1
    let c := min (max v 0) 255
    (c.toNat, if t.2 || c != v then fNX else 0)

-- The commit of a group (R260, R261)

/-- A narrow write to the destination; an uncorrectable word keeps its error, and the drain is poisoned (R263). -/
def putDst (c : Core) (off n v : Nat) : Core :=
  match spadWrite c [] [(off, n)] fun m => writeLE m off n v with
  | .ok (_, c) => c
  | .error _ => countEv { c with acc := { c.acc with poison := true } } 15

/-- A 4-bit code into its half of a byte. -/
def putCode (c : Core) (off : Nat) (hi : Bool) (v : Nat) : Core :=
  match spadWrite c [] [(off, 1)] fun m =>
      let old := (readByte m off).toNat
      writeByte m off (BitVec.ofNat 8 (if hi then v * 16 + old % 16 else old / 16 * 16 + v)) with
  | .ok (_, c) => c
  | .error _ => countEv { c with acc := { c.acc with poison := true } } 15

def orFlags (c : Core) (fl : Nat) : Core := { c with acc := { c.acc with flags := c.acc.flags ||| fl } }

/-- The adapter term of an element (R241): +0 for a row without one. -/
def adpTerm (x : Cluster) (a : Acc) (i j : Nat) : A40 × Nat :=
  if !adpRow a i then (0, 0)
  else
    let id := (nth a.ids i).getD 0
    match cachedEntry x id, findTag x (.bSide id a.colb) with
    | some (some n), some b =>
      let d := fvDot ((List.range n.rank).map fun t => (a40Val ((tget a.u (i * 64 + t)).getD 0), bfAt b (t * 256 + j))) none 0
      let p := fvMul n.alpha d.1
      let y := a40Round ⟨p.1.exact, 0⟩
      (y.1, d.2 ||| p.2 ||| y.2)
    | _, _ => (0, 0)

/-- The status byte of a row (R241). -/
def rowStat (a : Acc) (i : Nat) : A40 :=
  let v := (nth a.stat i).getD 0 % 128 + if a.failed.contains i then 128 else 0
  (a40Round (exOk (intVal v))).1

/-- The aux pattern of register k for index i, +0 without an aux tile. -/
def auxAt (l : List (List Nat)) (k i : Nat) : Nat := (nth ((nth l k).getD []) i).getD 0

/-- The sources of an element by code (R253). -/
def elemEnv (p : DrainImg) (d : DrainRun) (a : Acc) (acc adp : A40) (i j : Nat) : List A40 :=
  List.replicate 8 0 ++ [acc, adp, rowStat a i, 0] ++ ((List.range 4).map fun k => f32ToA40 (auxAt d.rowv k i)) ++
    ((List.range 4).map fun k => f32ToA40 (auxAt d.colv k j)) ++ p.consts

/-- One active element: its conversions are written and its flags raised; the row's sum and maximum take RACC (R256, R257). -/
def commitElem (x : Cluster) (p : DrainImg) (q : MCmd) (t : Tile) (d : DrainRun) (i : Nat) (r : Core × (A40 × A40)) (j : Nat) :
    Core × (A40 × A40) :=
  let c := r.1
  let a := c.acc
  let k := accKey i j
  let bad := a.ue.contains k && usesSrc p 8 8
  let c := if bad then countEv { c with acc := { a with poison := true } } 15 else c
  let adp := adpTerm x a i j
  let e := runProg p.ops (elemEnv p d a (if bad then a40Nan else accGet a k) adp.1 i j) {}
  let c := orFlags c (e.fl ||| (adp.2 &&& (fNV ||| fOF ||| fUF ||| fNX)))
  let c := match e.out with
    | none => c
    | some v =>
      let base := t.off + i * t.rstride
      if q.ofmt < 4 then
        let o := outBits q.ofmt (outMod p / 4 % 2 == 1) v
        orFlags (putDst c (base + j * outSize q.ofmt) (outSize q.ofmt) o.1) o.2
      else
        let sc := outScale (auxAt d.rowv (outMod p % 4) i)
        let c := if j % 32 = 0 then orFlags (putDst c (groupExp t i (j / 32)) 1 sc.1) sc.2 else c
        let o := blockEncode sc.1 (a40Val v)
        orFlags (putCode c (base + j / 2) (j % 2 == 1) o.1) o.2
  let c := match e.accw with
    | none => c
    | some v => { c with acc := accSet c.acc k v }
  match e.racc with
  | none => (c, r.2)
  | some v =>
    let s := exAdd false (a40Val r.2.1) (a40Val v)
    let y := a40Round s
    (orFlags c (s.fl ||| y.2), (y.1, a40Max r.2.2 v))

def a40NegZero : A40 := 0x8000000000#40
def a40NegInf : A40 := BitVec.ofNat 40 (a40.signed true a40.infBits)

/-- One row of a group. -/
def commitRow (x : Cluster) (p : DrainImg) (q : MCmd) (t : Tile) (d : DrainRun) (c : Core) (i : Nat) : Core × (A40 × A40) :=
  (List.range c.acc.n).foldl (commitElem x p q t d i) (c, (a40NegZero, a40NegInf))

/-- The rows of a group (R260). -/
def groupRows (m g : Nat) : List Nat := [2 * g, 2 * g + 1].filter fun i => decide (i < m)

/-- The row tails a program with RACC leaves (R257). -/
def putTails (t : Tile) (sums : List (A40 × A40)) (c : Core) : Core :=
  sums.zipIdx.foldl (fun c e =>
    let o := t.off + e.2 * t.rstride + t.groups * tileGB t.win
    let f := fun (v : A40) => (roundRne fp32 (exOk (a40Val v))).bits
    putDst (putDst c o 4 (f e.1.1)) (o + 4) 4 (f e.1.2)) c

end Sys2Proof.Machine
end

