-- ==== Sys2Proof/Machine/Matrix.lean ====
section
/-! DEFINITION. Machine/Matrix.lean: the matrix instructions (spec/13 R230 to R235, R246 to R249, spec/14 R258, R259). -/

namespace Sys2Proof.Machine

/-- The fields of the two words of MXM and MXD (R230, R231), before the slot, the activation and the shape are filled in. -/
def mxFields (kind : MKind) (w1 w2 : Word) : MCmd :=
  { kind := kind, slot := 0, act := 0, pat := 0, at_ := bits w1 0 6, bt := bits w1 6 6, dst := bits w1 12 6, aux := bits w1 18 6,
    adp := bits w1 24 6, p := bits w2 0 5 + 1, kb := (if kind = .mxm then bits w2 5 3 + 1 else 0), acc := w2.getLsbD 8, fin := w2.getLsbD 9,
    dslot := bits w2 10 4, ofmt := bits w2 14 3, auxv := w2.getLsbD 17, adpv := w2.getLsbD 18, colb := bits w2 24 8 }

/-- The tiles a command reads, in the order A, B, aux, adapter (R235). -/
def mxSources (q : MCmd) : List Nat :=
  (if q.kind = .mxm then [q.at_, q.bt] else []) ++ (if q.auxv then [q.aux] else []) ++
    (if q.kind = .mxm ∧ q.adpv then [q.adp] else [])
/-- The tiles it uses, in the order A, B, destination, aux, adapter (R234). -/
def mxTiles (q : MCmd) : List Nat :=
  (if q.kind = .mxm then [q.at_, q.bt] else []) ++ (if q.fin then [q.dst] else []) ++ (if q.auxv then [q.aux] else []) ++
    (if q.kind = .mxm ∧ q.adpv then [q.adp] else [])

/-- The destination breaks R225, R232 or R259 (code 5). An OFMT of 5 to 7 asks for no window, and breaks code 9 alone (R234). -/
def mxDstBad (x : Cluster) (q : MCmd) (t : Tile) (m n : Nat) : Bool :=
  match (nth x.progs.toList q.dslot).getD none with
  | none => true
  | some p =>
    !t.output || (decide (q.ofmt ≤ 4) && t.win != outWin q.ofmt) || decide (t.rows < m) || decide (t.groups * 32 < n) ||
      (hasOp p opRACC && decide (t.rstride < t.groups * tileGB t.win + 8)) ||
      (outMod p % 4 != 0 && q.ofmt != 4) ||
      ((usesSrc p 12 19 || q.ofmt == 4) && !q.auxv)

/-- The FIELDS rules (R234 code 9, R247). -/
def mxFieldsBad (q : MCmd) (w1 w2 : Word) : Bool :=
  bits w1 30 34 != 0 || bits w2 32 32 != 0 || bits w2 19 5 != 0 || decide (4 < q.ofmt) || (!q.adpv && q.adp != 0) ||
    (!q.auxv && q.aux != 0) || (!q.fin && q.dst != 0) || (q.auxv && !q.fin) || (q.adpv && q.acc) ||
    (q.kind == .mxd && (bits w1 0 12 != 0 || bits w2 0 9 != 0 || !q.fin || q.adpv || q.colb != 0))

/-- One MXGEOM check: the code and the tile, when it fails. -/
abbrev MxCheck := Option (Nat × Nat)

/-- The MXGEOM check of a command: the first code that fails, with its tile (R234). -/
def mxCheck (c : Core) (x : Cluster) (q : MCmd) (w1 w2 : Word) : MxCheck :=
  let tile := fun (n : Nat) => (getTile c n).getD { win := 0, off := 0, rows := 0, groups := 0, rstride := 0, output := false }
  let h := chainAhead c
  let a := tile q.at_
  let b := tile q.bt
  let mm := q.kind == .mxm
  let m := if mm then a.rows else h.m
  let n := if mm then b.rows else h.n
  match (mxTiles q).find? fun t => (getTile c t).isNone with
  | some t => some (1, t)
  | none =>
    if mm && (!isPlane a.win || decide (128 < a.rows)) then some (2, q.at_)
    else if mm && (!decide (8 ≤ b.win ∧ b.win ≤ 13) || decide (256 < b.rows)) then some (3, q.bt)
    else if mm && decide (a.groups < q.kb) then some (4, q.at_)
    else if mm && decide (b.groups < q.kb) then some (4, q.bt)
    else if q.fin && mxDstBad x q (tile q.dst) m n then some (5, q.dst)
    else if q.auxv && ((tile q.aux).win != 0 || decide ((tile q.aux).rows < 8) || decide ((tile q.aux).groups < 8)) then some (6, q.aux)
    else if mm && q.adpv && ((tile q.adp).win != 0 || decide ((tile q.adp).rows < m)) then some (7, q.adp)
    else if (!mm || q.acc) && !h.opened then some (8, 0)
    else if mm && q.acc && (h.m != m || h.n != n || h.colb != q.colb) then some (8, 0)
    else if mxFieldsBad q w1 w2 then some (9, 0)
    else none

/-- tval of an MXGEOM trap (R234). -/
def mxTval (e : Nat × Nat) : Word := BitVec.ofNat 64 (e.1 + e.2 * 256)

/-- A command enters the core's queue: M rises (R235). -/
def enqueue (s : State) (q : MCmd) : State :=
  let s := updCurCore s fun c =>
    let sl := c.slots[s.cur.2]
    let q := { q with slot := s.cur.2, act := sl.actId, pat := patOf sl, view := c.spad }
    { c with mq := c.mq ++ [q], slots := c.slots.set s.cur.2 { sl with cntM := sl.cntM + 1 } }
  settle (retire s []) (coreCluster s.cur.1)

/-- The counter and the queue have room (R235). -/
def mqRoom (s : State) : Bool := decide ((curSlot s).cntM < 16) && decide ((curCore s).mq.length < Config.mqMax)

/-- The issue of MXM and MXD after the checks: pins on the sources, DEST on the destination (R235). -/
def mxIssue (q : MCmd) (s : State) : Res :=
  let s := updCurCore s fun c =>
    let c := (mxSources q).foldl (fun c t =>
      match getTile c t with
      | some e => setTile c t { e with pin := e.pin + 1 }
      | none => c) c
    if q.fin then
      match getTile c q.dst with
      | some e => setTile c q.dst { e with dest := true }
      | none => c
    else c
  .next (enqueue s q)

/-- Performs an irrevocable engine command, or the free form at once (R306). -/
def engineOp (s : State) (irr : Bool) (k : State → Res) : Res := if irr then irrevocable s 0 id k else k s

/-- MXM and MXD: checks, readiness, failed sources, then the issue (R234, R235, R213). A twin secondary checks against the primary's tiles
and chain and starts nothing (R309; notes/assumptions/82). -/
def mxCommand (kind : MKind) (a b : XReg) (s : State) : Res :=
  needX s [a, b] fun sl =>
    let w1 := getX sl a
    let w2 := getX sl b
    let q := mxFields kind w1 w2
    let c := ownCore s
    let x := getCluster s (coreCluster s.cur.1)
    let irr := kind == .mxd || q.acc || q.fin
    if irr && takesResult s then irrevocable s 0 id fun s => .next s
    else match mxCheck c x q w1 w2 with
      | some e => trap s cMXGEOM (mxTval e)
      | none =>
        let srcs := (mxSources q).filterMap (getTile c)
        let dstOk := match getTile c q.dst with
          | some t => t.state == .empty && !t.dest
          | none => true
        if !srcs.all tileReady || (q.fin && !dstOk) || !mqRoom s then stall s
        else match srcs.find? fun t => t.fault with
          | some t => trap s cTKFAIL t.failAddr
          | none =>
            let h := chainAhead c
            let m := if kind = .mxm then ((getTile c q.at_).map fun t => t.rows).getD 0 else h.m
            let n := if kind = .mxm then ((getTile c q.bt).map fun t => t.rows).getD 0 else h.n
            if !irr && isSecondary sl then .next (retire s [])
            else engineOp s irr (mxIssue { q with m := m, n := n, apin := kind == .mxm })

def execMxm (a b : XReg) (s : State) : Res := mxCommand .mxm a b s
def execMxd (a b : XReg) (s : State) : Res := mxCommand .mxd a b s

/-- MXZ is queued; it takes effect at the head (R247, R233). -/
def execMxz (s : State) : Res :=
  if isSecondary (curSlot s) then irrevocable s 0 id fun s => .next s
  else if !mqRoom s then stall s
  else irrevocable s 0 id fun s => .next (enqueue s { kind := .mxz, slot := 0, act := 0, pat := 0 })

/-- ADPINV is queued with its id (R247); by the primary of twins alone (notes/assumptions/82). -/
def execAdpinv (b : XReg) (s : State) : Res :=
  needX s [b] fun sl =>
    let v := getX sl b
    if bits v 16 47 ≠ 0 then trap s cBADSPACE v
    else if isSecondary sl then .next (retire s [])
    else if !mqRoom s then stall s
    else .next (enqueue s { kind := .adpinv, slot := 0, act := 0, pat := 0, id := bits v 0 16, all := v.getLsbD 63 })

/-- The status word of the accumulator slot (R248). -/
def mxstatWord (c : Core) : Word :=
  let a := c.acc
  BitVec.ofNat 64 (a.flags % 32 &&& (fNV ||| fOF ||| fUF ||| fNX)) ||| BitVec.ofNat 64 (boolBit a.poison * 2 ^ 11 + boolBit a.opened * 2 ^ 12 +
    min a.kpos 255 * 2 ^ 16 + min a.failed.length 255 * 2 ^ 24 + min a.replay.length 255 * 2 ^ 32 + c.mq.length % 256 * 2 ^ 40)

/-- MXSTAT (R248). -/
def execMxstat (a : XReg) (s : State) : Res := needX s [a] fun _ => .next (retireX s a (mxstatWord (ownCore s)))

/-- A queued or running command of the cluster names the program slot with FIN = 1 (R249). -/
def slotBusy (s : State) (cl i : Nat) : Bool :=
  ranks.any fun r => (rankCore s cl r).mq.any fun q => (q.kind == .mxm || q.kind == .mxd) && q.fin && q.dslot == i

/-- Status of DRNLD on a cluster: the lowest code that applies (R249). -/
def drnldStatus (s : State) (cl i : Nat) (bs : List Byte) : Nat :=
  if 15 < i then 1
  else if !imgZeros bs then 2
  else if !progOk bs then 3
  else if slotBusy s cl i then 4
  else 0

/-- An accepted DRNLD. -/
def loadDrain (s : State) (cl i : Nat) (bs : List Byte) : State :=
  let x := getCluster s cl
  setCluster s cl { x with progs := x.progs.set (Fin.ofNat 16 i) (some (drainImg bs)) }

/-- DRNLD (R249). -/
def execDrnld (a c b : XReg) (s : State) : Res :=
  needX s [a, c, b] fun sl =>
    let ea := getX sl b
    match checkRecord s ea 256 with
    | some e => trap s e ea
    | none =>
      withSpad s (meshOff ea) (fun co => spadRead co [(meshOff ea, 256)] fun m => readBytes m (meshOff ea) 256) fun bs s =>
        irrevocable s a id fun s =>
          let i := (getX sl c).toNat
          let cl := coreCluster s.cur.1
          let st := drnldStatus s cl i bs
          let s := if st = 0 then loadDrain s cl i bs else s
          .next (retireX s a (BitVec.ofNat 64 st))

end Sys2Proof.Machine
end

