-- ==== Sys2Proof/Machine/Exit.lean ====
section
/-! DEFINITION. Machine/Exit.lean: ending an activation (spec/08 R156, R157). -/

namespace Sys2Proof.Machine

/-- An instruction that ends its activation retires: it owes no STEP and the pc stays (R319). -/
def retireEnd (s : State) (ws : List Word) : State :=
  let s := retireTo s (curSlot s).pc ws
  updCur s fun sl => { sl with stepOwed := false }

/-- A twin ends only after its last exchange (R310). -/
def atEnd (s : State) (k : State → Res) : Res := if twinBehind (curSlot s) then stallTwin s .exchange else k s

/-- EXIT: the outbox is released, the slot unbinds its streams and closes (R156, R306). It stalls while the NI has no room for the outbox
(R11). -/
def execExit (s : State) : Res :=
  atEnd s fun s => needOutbox s fun s =>
    let site := s.cur.1
    let k := s.cur.2
    let s := account (release s site k) site k
    let s := trace s site k 2 (patOf (curSlot s)) (curSlot s).pc 0
    .next (closeSlot (retireEnd s []) site k)

/-- EXITF: a replayable activation runs again; otherwise a report of kind EXITF carries X(A) (R157). -/
def execExitf (a : XReg) (s : State) : Res :=
  needX s [a] fun sl =>
    atEnd s fun s =>
      let site := s.cur.1
      let k := s.cur.2
      let s := trace s site k 2 (patOf sl) sl.pc 0
      if sl.replayable then .next (redeliver (retireEnd s []) site k)
      else
        let s := account (report s site k { kind := 1, word5 := getX sl a }) site k
        .next (closeSlot (retireEnd s []) site k)

end Sys2Proof.Machine
end

