-- ==== Sys2Proof/Machine/Branch.lean ====
section
/-! DEFINITION. Machine/Branch.lean: branches, calls and returns (spec/05 R80 to R83, spec/01 R20 to R23). -/

namespace Sys2Proof.Machine

/-- Asks the home of a line for it, unless a fill is already in flight; the slot stalls on the fill (R23). -/
def requestLine (s : State) (line : Nat) (w : FillWait) : State :=
  let c := curCore s
  if c.fills.any fun f => f.line == line && !f.discard then
    putCur s { c with fills := c.fills.map fun f =>
      if f.line = line ∧ f.discard = false ∧ f.waiters.contains w = false then { f with waiters := f.waiters ++ [w] } else f }
  else
    let addr := BitVec.ofNat 64 line
    let f : Fill := { line := line, uid := c.nextUid, status := .flying, waiters := [w] }
    let s := putCur s { c with fills := c.fills ++ [f], nextUid := c.nextUid + 1 }
    sendPkt s { src := .core s.cur.1, dst := .ferry (homeFerry addr), cls := .req,
                body := .req { uid := f.uid, seq := 0, op := .line, addr := addr, ordered := false, head := false, last := false,
                               part := corePart s s.cur.1, winbase := 0, srcCore := coreNumber s s.cur.1, slot := s.cur.2, act := 0 } }

/-- Looks up the line of a pc the slot reaches; a miss starts its fill and stalls the slot (R11, R22). A hit becomes the line used
last: every lookup is a use, that of a slot which then stalls too (R22 does not say what a use is; notes/assumptions/77). `xfer` marks
a taken transfer. -/
def withLine (s : State) (a : Nat) (xfer : Option (Option Word)) (k : CLine → State → Res) : Res :=
  match findLine (curCore s) a with
  | none =>
    let sl := curSlot s
    stall (requestLine s (a / 128 * 128) { slot := s.cur.2, act := sl.actId, at_ := sl.pc, reach := BitVec.ofNat 64 a, xfer := xfer })
  | some l =>
    k l (updCurCore s fun c => { c with icache := c.icache.map fun x => if x.addr = l.addr then { x with used := s.stepNo } else x })

/-- A taken transfer to t (R83). `reg` says that the target comes from a register; `link` is the return address a call writes. A relative
target outside global virtual space is not checked: steps 1 and 2 of R83 name register targets only (notes/assumptions/77). -/
def transfer (s : State) (t : Word) (reg : Bool) (link : Option Word) : Res :=
  match (if reg then badPc t else none) with
  | some e => trap s e t
  | none =>
    withLine s t.toNat (some link) fun l s =>
      let go := fun (_ : Unit) =>
        match link with
        | some r => retireTo (updCur s fun sl => setX sl 1 r) t [r]
        | none => retireTo s t []
      if !l.ok then .next (go ())
      else if l.target.getLsbD (lineOff t) then .next (go ())
      else trap s cBADTARGET t

/-- The return address of a call (R81). -/
def returnAddr (sl : Slot) : Word := streamStep sl.pc sl.ilen

/-- BC (R80). -/
def condBranch (a b : XReg) (dist : Int) (p : Word → Word → Bool) (s : State) : Res :=
  needX s [a, b] fun sl =>
    if p (getX sl a) (getX sl b) then transfer s (streamStep sl.pc dist) false none
    else .next (retire s [])

def execBcEq (a b : XReg) (dist : Int) (s : State) : Res := condBranch a b dist (fun x y => x == y) s
def execBcNe (a b : XReg) (dist : Int) (s : State) : Res := condBranch a b dist (fun x y => x != y) s
def execBcLt (a b : XReg) (dist : Int) (s : State) : Res := condBranch a b dist (fun x y => decide (x.toInt < y.toInt)) s
def execBcGe (a b : XReg) (dist : Int) (s : State) : Res := condBranch a b dist (fun x y => decide (y.toInt ≤ x.toInt)) s
def execBcLtn (a b : XReg) (dist : Int) (s : State) : Res := condBranch a b dist (fun x y => decide (x.toNat < y.toNat)) s
def execBcGen (a b : XReg) (dist : Int) (s : State) : Res := condBranch a b dist (fun x y => decide (y.toNat ≤ x.toNat)) s
def execBr (dist : Int) (s : State) : Res := transfer s (streamStep (curSlot s).pc dist) false none
/-- CALL writes x1 (R81), and so waits for a pending x1. -/
def execCall (dist : Int) (s : State) : Res :=
  needX s [1] fun sl => transfer s (streamStep sl.pc dist) false (some (returnAddr sl))
def execJr (b : XReg) (s : State) : Res := needX s [b] fun sl => transfer s (getX sl b) true none
def execCallr (b : XReg) (s : State) : Res := needX s [b, 1] fun sl => transfer s (getX sl b) true (some (returnAddr sl))
def execRet (s : State) : Res := needX s [1] fun sl => transfer s (getX sl 1) true none

end Sys2Proof.Machine
end

