-- ==== Sys2Proof/WellFormed.lean ====
section
/-! DEFINITION. WellFormed.lean: which instructions the encoding of spec/03 can hold, and which agents an event can name. -/

namespace Sys2Proof

/-- v fits a signed field of w bits (R74). -/
def fitsSigned (v : Int) (w : Nat) : Bool :=
  if w = 0 then v == 0 else decide (-(2 : Int) ^ (w - 1) ≤ v) && decide (v < (2 : Int) ^ (w - 1))

/-- A register number a field without a REG prefix can hold (R35). -/
def lowReg (r : XReg) : Bool := r.val < 16

/-- Page 1 takes FP16 in FCVT.FF only (R85). -/
def FWidth.scalar (w : FWidth) : Bool := w != .f16

/-- RND only where the type is .f32 (R93). -/
def rndOk (t : VTy) (r : Rnd) : Bool := t == .f32 || r == .rne

/-- RND and SAT only where the type is .f32 (R93: VDIV, VFMA, VFMS, VFNMA, VFNMS). -/
def rmodOk (t : VTy) (m : RMod) : Bool := t == .f32 || (m.rnd == .rne && !m.sat)

/-- The last payload register of a send is at most x31 (R139). -/
def payloadOk (b : XReg) (n : Fin 7) : Bool := b.val + n.val ≤ 32

def siteOk (s : Nat) : Bool := s < 4096
def dieOk (d : Nat) : Bool := d < 4
def ferryOk (f : Nat) : Bool := f < 128
def clusterOk (c : Nat) : Bool := c < 1024
/-- Every die in service has at least 1,000 working cores (R2). -/
def powerOk (failed : List (Nat × Nat)) (dark : List Nat) : Bool :=
  (List.range 4).all fun d => dark.contains d || decide (((failed.filter fun e => e.1 / 1024 == d).map fun e => e.1).dedup.length ≤ 24)
def partOk (p : Nat) : Bool := p < 48
def portOk (p : Nat) : Bool := p < 16

/-- Well-formed: every field within what the encoding holds (spec/03 R35 to R41 and the operand tables of each page). -/
def Instr.wf : Instr → Bool
  | .addi _ _ i | .andi _ _ i | .ori _ _ i | .xori _ _ i => fitsSigned i 39
  | .li _ i => fitsSigned i 43
  | .ldSb _ _ i _ | .ldNb _ _ i _ | .ldSh _ _ i _ | .ldNh _ _ i _ | .ldSw _ _ i _ | .ldNw _ _ i _ | .ldD _ _ i _ => fitsSigned i 36
  | .stB _ _ i _ | .stH _ _ i _ | .stW _ _ i _ | .stD _ _ i _ => fitsSigned i 36
  | .bcEq _ _ d | .bcNe _ _ d | .bcLt _ _ d | .bcGe _ _ d | .bcLtn _ _ d | .bcGen _ _ d => fitsSigned d 36
  | .br d | .call d => fitsSigned d 47
  | .fadd w _ _ _ _ | .fsub w _ _ _ _ | .fmul w _ _ _ _ | .fdiv w _ _ _ _ | .fmin w _ _ _ | .fmax w _ _ _ => w.scalar
  | .fsqrt w _ _ _ | .fma w _ _ _ _ | .fms w _ _ _ _ | .fnma w _ _ _ _ | .fnms w _ _ _ _ => w.scalar
  | .feq w _ _ _ | .flt w _ _ _ | .fle w _ _ _ | .funord w _ _ _ | .fclass w _ _ | .fabs w _ _ | .fneg w _ _ | .fsign w _ _ _ => w.scalar
  | .fcvtF2i w _ _ _ | .fcvtF2n w _ _ _ | .fcvtI2f w _ _ _ | .fcvtN2f w _ _ _ | .fcvtF2e w _ _ _ _ | .fcvtE2f w _ _ _ => w.scalar
  | .vadd t m _ _ _ _ | .vsub t m _ _ _ _ | .vmul t m _ _ _ _ => rndOk t m.rnd
  | .vdiv t m _ _ _ _ | .vfma t m _ _ _ _ | .vfms t m _ _ _ _ | .vfnma t m _ _ _ _ | .vfnms t m _ _ _ _ => rmodOk t m
  | .vabs t _ _ _ | .vneg t _ _ _ => t != .n32
  | .vradd t r _ _ _ | .vscan t r _ _ _ => rndOk t r
  | .vld _ _ i _ _ | .vst _ _ i _ _ | .vldb _ _ i _ _ => fitsSigned i 36
  | .send _ b n | .sendR _ b n | .sendm _ b n _ | .sendg _ b n | .fork _ b n | .sendc _ b n | .sendQ _ b n _ => payloadOk b n
  | .exitf a | .kill a => lowReg a
  | .csrr a _ | .csrw a _ | .csrset a _ | .csrclr a _ => lowReg a
  | .iinv b => lowReg b
  | .tktq a b => lowReg a && lowReg b
  | .discWrite d _ | .mapwWrite d _ | .mapgoWrite d _ | .mapNotice d | .remoteLaunch d | .setcsr d | .getcsr d
  | .iinvService d | .nightch d | .super d | .load d _ | .badservice d => dieOk d
  | .bootCommand s | .bodyStart s | .slotRelease s _ | .snapshotRelease s | .fire s | .steal s | .gangGrant s | .slotSpill s
  | .slotSpillDone s _ | .slotRestore s | .lateTrapTaken s _ | .step s _ | .twinExchange s _ | .blockFold s | .mxzAtHead s
  | .adpinvAtHead s | .migrationStream s | .traceSample s | .dbgctlWrite s _ => siteOk s
  | .overflowReturn s c => siteOk s && decide (c < 256)
  | .migration a b => siteOk a && siteOk b
  | .nightfall p | .dusk p | .partitionHalted p | .dawn p _ | .flr p | .teardownCommand p | .partitionBuild p _ _ _ _ => partOk p
  | .atsResponse f _ _ | .priResponse f _ _ | .ticketLimitExpiry f _ | .atsInvalidation f _ _ _ | .deferredPoll f _ | .deferredRead f _
  | .ferryTileStart f _ | .segmentAnswer f _ _ => ferryOk f
  | .leaseGrant c | .adapterFetch c _ | .drainStart c | .drainGroupCommit c => clusterOk c
  | .hostMessageWrite v _ _ _ | .vfRegisterWrite v _ _ | .hdrop v _ | .hrefuse v _ | .attgo v _ => partOk v
  | .powerOn failed dark => powerOk failed dark
  | .ualinkMessageWrite p _ _ _ | .operationRecord p _ _ _ | .resultRecord p _ _ | .linkDown p | .ualinkTimeout p _ | .linkUp p
  | .ualinkReadWrite p _ _ _ _ | .ualinkCompletion p _ _ _ => portOk p
  | _ => true

end Sys2Proof
end

