-- ==== Sys2Proof/Decode.lean ====
section
/-! DEFINITION. Decode.lean: the decoder of spec/03 (R34 to R48), total on any halfwords and refusing by name, and after it the
encoder, which writes the canonical form of R46. -/

namespace Sys2Proof

/-- Why a halfword chain is refused, with the 28 tval bits of R45. -/
structure DecodeErr where
  cause : DecodeCause
  tval : BitVec 28
  deriving DecidableEq, Repr

/-- The fields of one instruction after its prefix chain is read (R35 to R37). `imms` stands in stream order. -/
structure Fields where
  page : Nat := 0
  mod6 : Nat := 0
  a : Nat := 0
  b : Nat := 0
  c : Nat := 0
  w : Nat := 0
  d : Nat := 0
  x4 : Nat := 0
  imms : List Nat := []
  m : Nat := 0
  f : Nat := 0
  hasReg : Bool := false
  hasExt : Bool := false
  npre : Nat := 0
  deriving DecidableEq, Repr

/-- What the prefixes read so far hold. `rank` is the rank of the last prefix in the canonical order (R37). -/
structure Chain where
  n : Nat := 0
  rank : Nat := 0
  page : Nat := 0
  mod6 : Nat := 0
  a4 : Nat := 0
  b4 : Nat := 0
  c : Option Nat := none
  w : Nat := 0
  d : Nat := 0
  x4 : Nat := 0
  imms : List Nat := []
  hasExt : Bool := false
  deriving DecidableEq, Repr

/-- The rank of a prefix by its kind bits [10:9]: PAGE 1, REG 2, EXT 3, IMM 4 (R36, R37). -/
def prefixRank (kind : Nat) : Nat := match kind with | 2 => 1 | 1 => 2 | 3 => 3 | _ => 4

/-- TvalDecode of R49: POS [27:25], MOD6 [24:19], PAGE [18:16], HW [15:0] (R45). -/
def tvalDecode (h n mod6 page : Nat) : BitVec 28 := BitVec.ofNat 28 (n * 2 ^ 25 + mod6 * 2 ^ 19 + page * 2 ^ 16 + h)

/-- The chain with one more prefix (R36). -/
def Chain.add (k : Chain) (h : Nat) : Chain :=
  let kind := h / 512 % 4
  let k := { k with n := k.n + 1, rank := prefixRank kind }
  match kind with
  | 2 => { k with page := h / 64 % 8, mod6 := h % 64 }
  | 1 => { k with a4 := h / 256 % 2, b4 := h / 128 % 2, c := some (h / 4 % 32), w := h % 4 }
  | 3 => { k with d := h / 16 % 32, x4 := h % 16, hasExt := true }
  | _ => { k with imms := k.imms ++ [h % 512] }

/-- The fields once the base word is reached (R34, R35). -/
def Chain.finish (k : Chain) (h : Nat) : Fields :=
  let a := k.a4 * 16 + h / 128 % 16
  { page := k.page, mod6 := k.mod6, a := a, b := k.b4 * 16 + h / 8 % 16, c := k.c.getD a, w := k.w, d := k.d, x4 := k.x4,
    imms := k.imms, m := h / 2048, f := h % 8, hasReg := k.c.isSome, hasExt := k.hasExt, npre := k.n }

/-- Reads the prefix chain (R37). The first prefix that breaks a rule raises BADPREFIX. A chain that runs past the halfwords given
is refused as ILLEGAL with HW 0; no well-formed line holds one (R18). -/
def readChain (k : Chain) : List Half → Except DecodeErr Fields
  | [] => .error ⟨.illegal, tvalDecode 0 k.n k.mod6 k.page⟩
  | hw :: rest =>
    let h := hw.toNat
    if h / 2048 = 31 then
      let r := prefixRank (h / 512 % 4)
      if k.n = 4 ∨ r < k.rank ∨ (r = k.rank ∧ r < 4) then .error ⟨.badPrefix, tvalDecode h k.n k.mod6 k.page⟩
      else readChain (k.add h) rest
    else .ok (k.finish h)

/-- The base word of the fields, for tval (R45). -/
def Fields.base (x : Fields) : Nat := x.m * 2048 + x.a % 16 * 128 + x.b % 16 * 8 + x.f

/-- Immediate assembly of R40, unsigned: the prefix nearest the base word supplies the bits just above the base field. -/
def immNat (wb base : Nat) (imms : List Nat) : Nat := imms.foldl (fun acc i => acc * 512 + i) 0 * 2 ^ wb + base

/-- Immediate assembly of R40 with sign extension. -/
def immInt (wb base : Nat) (imms : List Nat) : Int :=
  let v := immNat wb base imms
  let w := wb + 9 * imms.length
  if v < 2 ^ (w - 1) then v else (v : Int) - 2 ^ w

def xr (n : Nat) : Fin 32 := Fin.ofNat 32 n
def mr (n : Nat) : Fin 8 := Fin.ofNat 8 n
def rndOf (n : Nat) : Rnd := match n with | 0 => .rne | 1 => .rz | 2 => .rd | 3 => .ru | _ => .rs
def widthOf (n : Nat) : FWidth := match n with | 0 => .f32 | 1 => .f64 | 2 => .bf16 | _ => .f16
def vtyOf (n : Nat) : VTy := match n with | 0 => .f32 | 1 => .s32 | _ => .n32
def iwidthOf (n : Nat) : IWidth := match n with | 0 => .b | 1 => .h | _ => .w
def e8Of (n : Nat) : E8 := if n = 0 then .e4m3 else .e5m2
def amoSizeOf (n : Nat) : AmoSize := if n = 0 then .d else .w

/-- MOD6 holds only what the instruction lists: RND, SAT, ORD (R38). -/
def Fields.mods (x : Fields) (rnd sat ord : Bool) : Bool :=
  (if rnd then decide (x.mod6 / 8 ≤ 4) else x.mod6 / 8 == 0) && (sat || x.mod6 / 4 % 2 == 0) &&
    (if ord then decide (x.mod6 % 4 ≤ 1) else x.mod6 % 4 == 0)

def Fields.rnd (x : Fields) : Rnd := rndOf (x.mod6 / 8)
def Fields.rmod (x : Fields) : RMod := ⟨x.rnd, x.mod6 / 4 % 2 == 1⟩
def Fields.rlx (x : Fields) : Bool := x.mod6 % 4 == 1
/-- D and X4 are not used and hold 0 (R39). -/
def Fields.noExt (x : Fields) : Bool := x.d == 0 && x.x4 == 0
def Fields.noImm (x : Fields) : Bool := x.imms.isEmpty
/-- C restates the full A field (R71, R92). -/
def Fields.cA (x : Fields) : Bool := x.c == x.a
def Fields.lane (x : Fields) : MReg := mr x.x4
/-- X4 names a lane mask and D is unused (R39, R92). -/
def Fields.laneOk (x : Fields) : Bool := x.d == 0 && decide (x.x4 < 8)

def only (p : Bool) (i : Instr) : Option Instr := if p then some i else none

/-- TRI, page 0, binary (R71). -/
def dTri (x : Fields) (k : XReg → XReg → XReg → Instr) : Option Instr :=
  only (x.noImm && x.noExt && x.w == 0 && x.mod6 == 0) (k (xr x.a) (xr x.c) (xr x.b))

/-- TRI, page 0, unary (R71). -/
def dUna (x : Fields) (k : XReg → XReg → Instr) : Option Instr :=
  only (x.noImm && x.noExt && x.w == 0 && x.mod6 == 0 && x.cA) (k (xr x.a) (xr x.b))

/-- SEXT and ZEXT take W 00 to 10 (R72). -/
def dExt (x : Fields) (k : IWidth → XReg → XReg → Instr) : Option Instr :=
  only (x.noImm && x.noExt && decide (x.w < 3) && x.mod6 == 0 && x.cA) (k (iwidthOf x.w) (xr x.a) (xr x.b))

/-- RIM: base field F, 0 to 4 IMM prefixes (R41). -/
def dRim (x : Fields) (k : XReg → XReg → Int → Instr) : Option Instr :=
  only (x.noExt && x.w == 0 && x.mod6 == 0 && x.cA) (k (xr x.a) (xr x.b) (immInt 3 x.f x.imms))

/-- SHF: exactly one IMM prefix, IMM9[8:6] = 0 (R73). -/
def dShf (x : Fields) (k : XReg → XReg → Fin 64 → Instr) : Option Instr :=
  match x.imms with
  | [i] => only (x.noExt && x.w == 0 && x.mod6 == 0 && x.cA && decide (i < 64)) (k (xr x.a) (xr x.b) (Fin.ofNat 64 i))
  | _ => none

/-- MEM: .rlx allowed, offset 0 with no prefix (R41, R71). -/
def dMem (x : Fields) (k : XReg → XReg → Int → Bool → Instr) : Option Instr :=
  only (x.noExt && x.w == 0 && x.mods false false true && x.cA) (k (xr x.a) (xr x.b) (immInt 0 0 x.imms) x.rlx)

/-- CBR: 1 to 4 IMM prefixes (R80). -/
def dCbr (x : Fields) (k : XReg → XReg → Int → Instr) : Option Instr :=
  only (x.noExt && x.w == 0 && x.mod6 == 0 && x.cA && !x.noImm) (k (xr x.a) (xr x.b) (immInt 0 0 x.imms))

/-- JMP: distance in A:B:F (R81). -/
def dJmp (x : Fields) (k : Int → Instr) : Option Instr :=
  only (x.noExt && x.w == 0 && x.mod6 == 0 && x.cA && decide (x.a < 16) && decide (x.b < 16))
    (k (immInt 11 (x.a * 128 + x.b * 8 + x.f) x.imms))

/-- JRG: A and C must be 0 (R82). -/
def dJrg (x : Fields) (k : XReg → Instr) : Option Instr :=
  only (x.noExt && x.w == 0 && x.mod6 == 0 && x.a == 0 && x.c == 0 && x.noImm) (k (xr x.b))

/-- BAR: no prefix of any kind, A and B 0 (R84). -/
def dBar (x : Fields) (i : Instr) : Option Instr := only (x.npre == 0 && x.a == 0 && x.b == 0) i

/-- Page 0 of the opcode map (R47). -/
def decPage0 (x : Fields) : Option Instr :=
  match x.m with
  | 1 => match x.f with
    | 0 => dTri x .add | 1 => dTri x .sub | 2 => dTri x .and | 3 => dTri x .or
    | 4 => dTri x .xor | 5 => dTri x .andn | 6 => dTri x .orn | 7 => dTri x .xnor | _ => none
  | 2 => match x.f with
    | 0 => dTri x .shl | 1 => dTri x .shr | 2 => dTri x .sar | 3 => dTri x .rol
    | 4 => dTri x .ror | 5 => dTri x .min | 6 => dTri x .max | 7 => dTri x .minn | _ => none
  | 3 => match x.f with
    | 0 => dTri x .mul | 1 => dTri x .mulh | 2 => dTri x .mulhn | 3 => dTri x .div
    | 4 => dTri x .divn | 5 => dTri x .rem | 6 => dTri x .remn | 7 => dTri x .maxn | _ => none
  | 4 => match x.f with
    | 0 => dTri x .seq | 1 => dTri x .sne | 2 => dTri x .slt | 3 => dTri x .sltn | 4 => dTri x .sle | 5 => dTri x .slen
    | 6 => only (x.noImm && x.x4 == 0 && x.w == 0 && x.mod6 == 0) (.sel (xr x.a) (xr x.c) (xr x.b) (xr x.d))
    | _ => none
  | 5 => match x.f with
    | 0 => dUna x .clz | 1 => dUna x .ctz | 2 => dUna x .popc | 3 => dUna x .brev | 4 => dUna x .bswap
    | 5 => dExt x .sext | 6 => dExt x .zext | 7 => dUna x .mov | _ => none
  | 6 => dRim x .addi
  | 7 => only (x.noExt && x.w == 0 && x.mod6 == 0 && x.cA && decide (x.b < 16)) (.li (xr x.a) (immInt 7 (x.b * 8 + x.f) x.imms))
  | 8 => dRim x .andi
  | 9 => dRim x .ori
  | 10 => dRim x .xori
  | 11 => match x.f with | 0 => dShf x .shli | 1 => dShf x .shri | 2 => dShf x .sari | 3 => dShf x .rori | _ => none
  | 12 => match x.f with
    | 0 => dMem x .ldSb | 1 => dMem x .ldNb | 2 => dMem x .ldSh | 3 => dMem x .ldNh | 4 => dMem x .ldSw | 5 => dMem x .ldNw
    | 6 => dMem x .ldD | _ => none
  | 13 => match x.f with | 0 => dMem x .stB | 1 => dMem x .stH | 2 => dMem x .stW | 3 => dMem x .stD | _ => none
  | 14 => match x.f with
    | 0 => dCbr x .bcEq | 1 => dCbr x .bcNe | 2 => dCbr x .bcLt | 3 => dCbr x .bcGe | 4 => dCbr x .bcLtn | 5 => dCbr x .bcGen | _ => none
  | 15 => dJmp x .br
  | 16 => dJmp x .call
  | 17 => match x.f with
    | 0 => dJrg x .jr | 1 => dJrg x .callr
    | 2 => if x.b = 0 then dJrg x (fun _ => .ret) else none
    | _ => none
  | 30 => match x.f with | 0 => dBar x .nop | 7 => dBar x .brk | _ => none
  | _ => none

/-- Page 1, rounding, binary (R71, R86). -/
def dFBin (x : Fields) (k : FWidth → RMod → XReg → XReg → XReg → Instr) : Option Instr :=
  only (x.noImm && x.noExt && decide (x.w < 3) && x.mods true true false) (k (widthOf x.w) x.rmod (xr x.a) (xr x.c) (xr x.b))

/-- Page 1, no modifier, binary (R86). -/
def dFBin0 (x : Fields) (k : FWidth → XReg → XReg → XReg → Instr) : Option Instr :=
  only (x.noImm && x.noExt && decide (x.w < 3) && x.mod6 == 0) (k (widthOf x.w) (xr x.a) (xr x.c) (xr x.b))

/-- Page 1, no modifier, unary (R86). -/
def dFUna0 (x : Fields) (k : FWidth → XReg → XReg → Instr) : Option Instr :=
  only (x.noImm && x.noExt && decide (x.w < 3) && x.mod6 == 0 && x.cA) (k (widthOf x.w) (xr x.a) (xr x.b))

/-- Page 1, conversions: unary, X4 unused (R90). -/
def dFCvt (x : Fields) (sat : Bool) (k : FWidth → RMod → XReg → XReg → Instr) : Option Instr :=
  only (x.noImm && x.noExt && decide (x.w < 3) && x.mods true sat false && x.cA) (k (widthOf x.w) x.rmod (xr x.a) (xr x.b))

/-- Page 1 of the opcode map (R47). -/
def decPage1 (x : Fields) : Option Instr :=
  match x.m with
  | 0 => match x.f with
    | 0 => dFBin x .fadd | 1 => dFBin x .fsub | 2 => dFBin x .fmul | 3 => dFBin x .fdiv
    | 4 => dFBin0 x .fmin | 5 => dFBin0 x .fmax | 6 => dFCvt x true .fsqrt | _ => none
  | 1 => match x.f with | 0 => dFBin x .fma | 1 => dFBin x .fms | 2 => dFBin x .fnma | 3 => dFBin x .fnms | _ => none
  | 2 => match x.f with
    | 0 => dFBin0 x .feq | 1 => dFBin0 x .flt | 2 => dFBin0 x .fle | 3 => dFBin0 x .funord
    | 4 => dFUna0 x .fclass | 5 => dFUna0 x .fabs | 6 => dFUna0 x .fneg | 7 => dFBin0 x .fsign | _ => none
  | 3 => match x.f with
    | 0 => dFCvt x false (fun w m a b => .fcvtF2i w m.rnd a b)
    | 1 => dFCvt x false (fun w m a b => .fcvtF2n w m.rnd a b)
    | 2 => dFCvt x true .fcvtI2f
    | 3 => dFCvt x true .fcvtN2f
    | 4 => only (x.noImm && x.d == 0 && decide (x.x4 < 4) && x.mods true true false && x.cA)
        (.fcvtFf (widthOf x.w) (widthOf x.x4) x.rmod (xr x.a) (xr x.b))
    | 5 => only (x.noImm && x.d == 0 && decide (x.x4 < 2) && decide (x.w < 3) && x.mods true true false && x.cA)
        (.fcvtF2e (widthOf x.w) (e8Of x.x4) x.rmod (xr x.a) (xr x.b))
    | 6 => only (x.noImm && x.d == 0 && decide (x.x4 < 2) && decide (x.w < 3) && x.mod6 == 0 && x.cA)
        (.fcvtE2f (widthOf x.w) (e8Of x.x4) (xr x.a) (xr x.b))
    | _ => none
  | _ => none

/-- Page 2, typed, lane mask, RND and SAT where listed (R93). -/
def dVBin (x : Fields) (intSat : Bool) (k : VTy → RMod → VReg → VReg → VReg → MReg → Instr) : Option Instr :=
  only (x.noImm && x.laneOk && decide (x.w < 3) && x.mods (x.w == 0) (intSat || x.w == 0) false)
    (k (vtyOf x.w) x.rmod (xr x.a) (xr x.c) (xr x.b) x.lane)

/-- Page 2, typed, no modifier (R93). -/
def dVBinT (x : Fields) (k : VTy → VReg → VReg → VReg → MReg → Instr) : Option Instr :=
  only (x.noImm && x.laneOk && decide (x.w < 3) && x.mod6 == 0) (k (vtyOf x.w) (xr x.a) (xr x.c) (xr x.b) x.lane)

/-- Page 2, untyped, no modifier (R93). -/
def dVBin0 (x : Fields) (k : VReg → VReg → VReg → MReg → Instr) : Option Instr :=
  only (x.noImm && x.laneOk && x.w == 0 && x.mod6 == 0) (k (xr x.a) (xr x.c) (xr x.b) x.lane)

/-- Page 2, unary with types below `nt`, no modifier. -/
def dVUnaT (x : Fields) (nt : Nat) (k : VTy → VReg → VReg → MReg → Instr) : Option Instr :=
  only (x.noImm && x.laneOk && decide (x.w < nt) && x.mod6 == 0 && x.cA) (k (vtyOf x.w) (xr x.a) (xr x.b) x.lane)

/-- Page 2, unary, untyped, with RND and perhaps SAT (R93). -/
def dVUna (x : Fields) (rnd sat : Bool) (k : RMod → VReg → VReg → MReg → Instr) : Option Instr :=
  only (x.noImm && x.laneOk && x.w == 0 && x.mods rnd sat false && x.cA) (k x.rmod (xr x.a) (xr x.b) x.lane)

/-- Page 2, VRADD and VSCAN (R93). -/
def dVRed (x : Fields) (k : VTy → Rnd → VReg → VReg → MReg → Instr) : Option Instr :=
  only (x.noImm && x.laneOk && decide (x.w < 3) && x.mods (x.w == 0) false false && x.cA)
    (k (vtyOf x.w) x.rnd (xr x.a) (xr x.b) x.lane)

/-- Page 2, compares: A names a mask (R96). -/
def dVCmp (x : Fields) (k : VTy → MReg → VReg → VReg → MReg → Instr) : Option Instr :=
  only (x.noImm && x.laneOk && decide (x.w < 3) && x.mod6 == 0 && decide (x.a < 8))
    (k (vtyOf x.w) (mr x.a) (xr x.c) (xr x.b) x.lane)

/-- Page 2, VLD, VST and VLDB (R92). -/
def dVMem (x : Fields) (k : VReg → XReg → Int → Bool → MReg → Instr) : Option Instr :=
  only (x.laneOk && x.w == 0 && x.mods false false true && x.cA)
    (k (xr x.a) (xr x.b) (immInt 0 0 x.imms) x.rlx x.lane)

/-- Page 2, VLDT and VSTT: exactly one IMM prefix, IMM9[8:6] = 0 (R92). -/
def dVTile (x : Fields) (k : VReg → TileIx → XReg → MReg → Instr) : Option Instr :=
  match x.imms with
  | [i] => only (x.laneOk && x.w == 0 && x.mod6 == 0 && x.cA && decide (i < 64)) (k (xr x.a) (Fin.ofNat 64 i) (xr x.b) x.lane)
  | _ => none

/-- No lane mask, no type, no modifier, no immediate (R92, R148). -/
def Fields.plain (x : Fields) : Bool := x.noImm && x.noExt && x.w == 0 && x.mod6 == 0

/-- Page 2 of the opcode map (R47). -/
def decPage2 (x : Fields) : Option Instr :=
  match x.m with
  | 0 => match x.f with
    | 0 => dVBin x true .vadd | 1 => dVBin x true .vsub | 2 => dVBin x true .vmul
    | 3 => dVBinT x .vmin | 4 => dVBinT x .vmax | 5 => dVBin0 x .vand | 6 => dVBin0 x .vor | 7 => dVBin0 x .vxor | _ => none
  | 1 => match x.f with
    | 0 => dVBin0 x .vshl | 1 => dVBin0 x .vshr | 2 => dVBin0 x .vsar
    | 3 => dVUnaT x 2 .vabs | 4 => dVUnaT x 2 .vneg | 5 => dVBin x false .vdiv | 6 => dVUna x true true .vsqrt | _ => none
  | 2 => match x.f with
    | 0 => dVBin x false .vfma | 1 => dVBin x false .vfms | 2 => dVBin x false .vfnma | 3 => dVBin x false .vfnms | _ => none
  | 3 => match x.f with
    | 0 => dVCmp x .vceq | 1 => dVCmp x .vcne | 2 => dVCmp x .vclt | 3 => dVCmp x .vcle | _ => none
  | 4 => match x.f with
    | 0 => only (x.noImm && decide (x.x4 < 8) && x.w == 0 && x.mod6 == 0 && decide (x.d < 8))
        (.vsel (xr x.a) (xr x.c) (xr x.b) (mr x.d) x.lane)
    | 1 => dVUna x false false (fun _ a b k => .vmov a b k)
    | 2 => dVUna x false false (fun _ a b k => .vbcast a b k)
    | 3 => only x.plain (.vins (xr x.a) (xr x.b) (xr x.c))
    | 4 => only (x.noImm && x.noExt && decide (x.w < 3) && x.mod6 == 0) (.vext (vtyOf x.w) (xr x.a) (xr x.b) (xr x.c))
    | 5 => only (x.noImm && x.laneOk && x.w == 0 && x.mod6 == 0 && x.cA && decide (x.b < 8)) (.viota (xr x.a) (mr x.b) x.lane)
    | 6 => dVBin0 x .vperm
    | _ => none
  | 5 => match x.f with
    | 0 => dVRed x .vradd | 1 => dVUnaT x 3 .vrmin | 2 => dVUnaT x 3 .vrmax
    | 3 => dVUna x false false (fun _ a b k => .vrand a b k) | 4 => dVUna x false false (fun _ a b k => .vror a b k)
    | 5 => dVRed x .vscan | _ => none
  | 6 => match x.f with
    | 0 => dVUna x true true .vexp2 | 1 => dVUna x true true .vlog2 | 2 => dVUna x true true .vrcp
    | 3 => dVUna x true true .vrsq | 4 => dVUna x true true .vtanh | 5 => dVUna x true true .vsigm | _ => none
  | 7 => match x.f with
    | 0 => dVUna x true false (fun m a b k => .vcvtF2s m.rnd a b k)
    | 1 => dVUna x true true .vcvtS2f
    | 2 => dVUna x true false (fun m a b k => .vcvtF2n m.rnd a b k)
    | 3 => dVUna x true true .vcvtN2f
    | 4 => dVUna x true false (fun m a b k => .vcvtFrnd m.rnd a b k)
    | 5 => dVUna x true true .vcvtF2bf | 6 => dVUna x true true .vcvtF2e4 | 7 => dVUna x true true .vcvtF2e5 | _ => none
  | 8 => match x.f with
    | 0 => dVMem x .vld | 1 => dVMem x .vst
    | 2 => only (x.noImm && x.laneOk && x.w == 0 && x.mod6 == 0) (.vldx (xr x.a) (xr x.b) (xr x.c) x.lane)
    | 3 => only (x.noImm && x.laneOk && x.w == 0 && x.mod6 == 0) (.vstx (xr x.a) (xr x.b) (xr x.c) x.lane)
    | 4 => dVMem x .vldb | 5 => dVTile x .vldt | 6 => dVTile x .vstt | _ => none
  | 9 => match x.f with
    | 0 => dMBin x .mand | 1 => dMBin x .mor | 2 => dMBin x .mxor
    | 3 => only (x.plain && x.cA && decide (x.a < 8) && decide (x.b < 8)) (.mnot (mr x.a) (mr x.b))
    | 4 => dMOut x .mpop | 5 => dMOut x .mfirst
    | 6 => only (x.plain && x.cA && decide (x.a < 8)) (.mset (mr x.a) (xr x.b))
    | 7 => dMOut x .mget | _ => none
  | 10 => match x.f with
    | 0 => only (x.plain && decide (28 ≤ x.a)) (.sbind (Fin.ofNat 4 (x.a - 28)) (xr x.b) (xr x.c))
    | 1 => only (x.plain && x.cA && decide (28 ≤ x.a) && x.b == 0) (.sunbind (Fin.ofNat 4 (x.a - 28)))
    | 2 => only (x.plain && x.cA && decide (28 ≤ x.b)) (.srem (xr x.a) (Fin.ofNat 4 (x.b - 28)))
    | _ => none
  | 11 => match x.f with
    | 0 => only (x.plain && x.cA && decide (28 ≤ x.a)) (.bstr (Fin.ofNat 4 (x.a - 28)) (xr x.b))
    | _ => none
  | _ => none
where
  dMBin (x : Fields) (k : MReg → MReg → MReg → Instr) : Option Instr :=
    only (x.plain && decide (x.a < 8) && decide (x.b < 8) && decide (x.c < 8)) (k (mr x.a) (mr x.c) (mr x.b))
  dMOut (x : Fields) (k : XReg → MReg → Instr) : Option Instr :=
    only (x.plain && x.cA && decide (x.b < 8)) (k (xr x.a) (mr x.b))

/-- The send family (R139): word count in X4[2:0], at most 6. -/
def dSend (x : Fields) (k : XReg → XReg → Fin 7 → Instr) : Option Instr :=
  only (x.noImm && x.d == 0 && x.w == 0 && x.mod6 == 0 && x.cA && decide (x.x4 ≤ 6) && decide (x.b + x.x4 ≤ 32))
    (k (xr x.a) (xr x.b) (Fin.ofNat 7 x.x4))

/-- SENDM and SEND.Q, which name a fourth register (R139). -/
def dSendD (x : Fields) (k : XReg → XReg → Fin 7 → XReg → Instr) : Option Instr :=
  only (x.noImm && x.w == 0 && x.mod6 == 0 && x.cA && decide (x.x4 ≤ 6) && decide (x.b + x.x4 ≤ 32))
    (k (xr x.a) (xr x.b) (Fin.ofNat 7 x.x4) (xr x.d))

/-- Only the PAGE prefix is accepted (R46, R156, R157). -/
def Fields.bare (x : Fields) : Bool := x.noImm && !x.hasReg && !x.hasExt && x.mod6 == 0

/-- Page 4 of the opcode map (R47). -/
def decPage4 (x : Fields) : Option Instr :=
  match x.m with
  | 0 => match x.f with
    | 0 => dSend x .send | 1 => dSend x .sendR | 2 => dSendD x .sendm | 3 => dSend x .sendg | 4 => dSend x .fork | 5 => dSend x .sendc
    | 6 => only (x.noImm && x.d == 0 && x.w == 0 && x.mod6 == 0 && x.cA && decide (x.x4 ≤ 6))
        (.sendv (xr x.a) (xr x.b) (Fin.ofNat 7 x.x4))
    | 7 => dSendD x .sendQ | _ => none
  | 1 => match x.f with
    | 0 => only x.plain (.chset (xr x.a) (xr x.c) (xr x.b)) | 1 => only x.plain (.chget (xr x.a) (xr x.c) (xr x.b))
    | 2 => only (x.plain && x.b == 0) (.chclr (xr x.a) (xr x.c)) | _ => none
  | 2 => match x.f with
    | 0 => only x.plain (.patset (xr x.a) (xr x.c) (xr x.b)) | 1 => only (x.plain && x.b == 0) (.patclr (xr x.a) (xr x.c))
    | 2 => only x.plain (.patget (xr x.a) (xr x.c) (xr x.b)) | _ => none
  | 3 => match x.f with
    | 0 => only (x.bare && x.a == 0 && x.b == 0) .exit
    | 1 => only (x.bare && x.b == 0) (.exitf (xr x.a)) | _ => none
  | _ => none
/-- Integer atomics (R190). -/
def dAmo (x : Fields) (k : AmoSize → XReg → XReg → XReg → Instr) : Option Instr :=
  only (x.noImm && x.noExt && decide (x.w < 2) && x.mod6 == 0) (k (amoSizeOf x.w) (xr x.a) (xr x.b) (xr x.c))

/-- Page 5 of the opcode map (R47). -/
def decPage5 (x : Fields) : Option Instr :=
  match x.m with
  | 0 => match x.f with
    | 0 => dAmo x .amoadd | 1 => dAmo x .amoand | 2 => dAmo x .amoor | 3 => dAmo x .amoxor | 4 => dAmo x .amomin | 5 => dAmo x .amomax
    | 6 => dAmo x .amoswap
    | 7 => only (x.noImm && x.x4 == 0 && decide (x.w < 2) && x.mod6 == 0) (.amocas (amoSizeOf x.w) (xr x.a) (xr x.b) (xr x.c) (xr x.d))
    | _ => none
  | 1 => match x.f with
    | 0 => only x.plain (.amofadd (xr x.a) (xr x.b) (xr x.c)) | 1 => only x.plain (.amofadd64 (xr x.a) (xr x.b) (xr x.c))
    | 2 => dAmo x .amominn | 3 => dAmo x .amomaxn
    | 4 => only (x.noImm && x.laneOk && decide (x.w < 3) && x.mod6 == 0 && x.cA) (.vamoadd (vtyOf x.w) (xr x.a) (xr x.b) x.lane)
    | 5 => only (x.noImm && x.laneOk && decide (x.w < 3) && x.mod6 == 0) (.vamoaddi (vtyOf x.w) (xr x.a) (xr x.b) (xr x.c) x.lane)
    | _ => none
  | 2 => match x.imms with
    | [i] => only (!x.hasReg && !x.hasExt && x.mod6 == 0 && decide (i < 32))
        (let v := i * 2048 + x.a * 128 + x.b * 8 + x.f
         .wait (Fin.ofNat 16 v) (Fin.ofNat 16 (v / 16)) (Fin.ofNat 16 (v / 256)) (Fin.ofNat 16 (v / 4096)))
    | _ => none
  | _ => none

/-- TREL and TSTAT: exactly one IMM prefix, IMM9[8:6] = 0, B = 0 (R217). -/
def dTile (x : Fields) (k : XReg → TileIx → Instr) : Option Instr :=
  match x.imms with
  | [i] => only (x.noExt && x.w == 0 && x.mod6 == 0 && x.cA && x.b == 0 && decide (i < 64)) (k (xr x.a) (Fin.ofNat 64 i))
  | _ => none

/-- Page 6 of the opcode map (R47). -/
def decPage6 (x : Fields) : Option Instr :=
  match x.m with
  | 0 => match x.f with
    | 0 => only x.plain (.tset (xr x.a) (xr x.c) (xr x.b)) | 1 => dTile x .trel | 2 => dTile x .tstat
    | 3 => match x.imms with
      | [i] => only (x.noExt && x.w == 0 && x.mod6 == 0 && x.cA && x.a == 0 && x.b == 0 && decide (i < 128))
          (.twait (Fin.ofNat 64 i) (if i < 64 then .ready else .empty))
      | _ => none
    | _ => none
  | 1 => match x.f with
    | 0 => dAB x .subscr | 1 => dAB x .unsub | 2 => dAB x .fstat | _ => none
  | 2 => match x.f with
    | 0 => only (x.plain && x.cA && !x.hasExt) (.mxm (xr x.a) (xr x.b))
    | 1 => only (x.plain && x.cA && x.a == 0 && x.b == 0) .mxz
    | 2 => dAB x .mxd
    | 3 => only (x.plain && x.cA && x.b == 0) (.mxstat (xr x.a))
    | 4 => only x.plain (.drnld (xr x.a) (xr x.c) (xr x.b))
    | 5 => only (x.plain && x.cA && x.a == 0) (.adpinv (xr x.b))
    | _ => none
  | _ => none
where
  dAB (x : Fields) (k : XReg → XReg → Instr) : Option Instr := only (x.plain && x.cA) (k (xr x.a) (xr x.b))

/-- CSR format: exactly one IMM prefix, IMM9[8] = 0, no REG and no EXT (R289). -/
def dCsr (x : Fields) (k : XReg → BitVec 12 → Instr) : Option Instr :=
  match x.imms with
  | [i] => only (!x.hasReg && !x.hasExt && x.mod6 == 0 && decide (i < 256)) (k (xr x.a) (BitVec.ofNat 12 (i * 16 + x.b)))
  | _ => none

/-- Page 7 of the opcode map (R47). -/
def decPage7 (x : Fields) : Option Instr :=
  match x.m with
  | 0 => match x.f with | 0 => dCsr x .csrr | 1 => dCsr x .csrw | 2 => dCsr x .csrset | 3 => dCsr x .csrclr | _ => none
  | 1 =>
    if x.hasReg || x.hasExt || x.mod6 != 0 then none
    else match x.f with
    | 0 => only (decide (x.imms.length ≤ 1)) (.trap (BitVec.ofNat 17 (immNat 8 (x.a * 16 + x.b) x.imms)))
    | 1 => only (x.noImm && x.a == 0 && x.b == 0) .rte
    | 2 => only (x.noImm && x.b == 0) (.kill (xr x.a))
    | 3 => only (x.noImm && x.a == 0) (.iinv (xr x.b))
    | 4 => only x.noImm (.tktq (xr x.a) (xr x.b))
    | _ => none
  | _ => none

/-- The opcode map (R47); an unassigned cell is none (R48). -/
def decodeFields (x : Fields) : Option Instr :=
  match x.page with
  | 0 => decPage0 x | 1 => decPage1 x | 2 => decPage2 x | 4 => decPage4 x | 5 => decPage5 x | 6 => decPage6 x | 7 => decPage7 x
  | _ => none

/-- The decoder (R37, R45): the instruction whose first halfword heads the list, and its length in halfwords. -/
def decode (hs : List Half) : Except DecodeErr (Instr × Nat) :=
  match readChain {} hs with
  | .error e => .error e
  | .ok x =>
    match decodeFields x with
    | some i => .ok (i, x.npre + 1)
    | none => .error ⟨.illegal, tvalDecode x.base x.npre x.mod6 x.page⟩

/-- The halfwords the opcode table numbers as one value: the base word, last in the stream, holds the lowest bits (notes/assumptions/4). -/
def tableHalves (nbits w : Nat) : List Half :=
  (List.range (nbits / 16)).reverse.map fun k => BitVec.ofNat 16 (w / 2 ^ (16 * k))

/-- The instruction the decoder reads from a word numbered as the opcode table numbers it. -/
def decodeTableWord (nbits w : Nat) : Option Instr :=
  match decode (tableHalves nbits w) with
  | .ok (i, _) => some i
  | .error _ => none

/-! ## The encoder -/

def Rnd.code : Rnd → Nat | .rne => 0 | .rz => 1 | .rd => 2 | .ru => 3 | .rs => 4
def FWidth.code : FWidth → Nat | .f32 => 0 | .f64 => 1 | .bf16 => 2 | .f16 => 3
def VTy.code : VTy → Nat | .f32 => 0 | .s32 => 1 | .n32 => 2
def IWidth.code : IWidth → Nat | .b => 0 | .h => 1 | .w => 2
def AmoSize.code : AmoSize → Nat | .d => 0 | .w => 1
def E8.code : E8 → Nat | .e4m3 => 0 | .e5m2 => 1
def RMod.code (m : RMod) : Nat := m.rnd.code * 8 + if m.sat then 4 else 0
def rlxCode (r : Bool) : Nat := if r then 1 else 0

/-- The fewest IMM prefixes, from `least`, whose field of wb + 9n bits holds v (R46). -/
def immCount (v : Int) (wb least : Nat) : Nat :=
  if least = 0 ∧ fitsSigned v wb then 0
  else if fitsSigned v (wb + 9) then 1
  else if fitsSigned v (wb + 18) then 2
  else if fitsSigned v (wb + 27) then 3
  else 4

/-- The n base-512 digits of u, most significant first. -/
def digits512 : Nat → Nat → List Nat
  | 0, _ => []
  | n + 1, u => digits512 n (u / 512) ++ [u % 512]

/-- The base field and the IMM prefixes that hold v (R40). -/
def immFields (v : Int) (wb least : Nat) : Nat × List Nat :=
  let n := immCount v wb least
  let u := (v % (2 : Int) ^ (wb + 9 * n)).toNat
  (u % 2 ^ wb, digits512 n (u / 2 ^ wb))

def eTri (m f : Nat) (a c b : XReg) : Fields := { m := m, f := f, a := a, b := b, c := c }
def eUna (m f : Nat) (a b : XReg) (w : Nat := 0) : Fields := { m := m, f := f, a := a, b := b, c := a, w := w }
def eRim (m : Nat) (a b : XReg) (v : Int) : Fields :=
  let (f, imms) := immFields v 3 0
  { m := m, f := f, a := a, b := b, c := a, imms := imms }
def eShf (f : Nat) (a b : XReg) (n : Fin 64) : Fields := { m := 11, f := f, a := a, b := b, c := a, imms := [n.val] }
def eMem (m f : Nat) (a b : XReg) (v : Int) (rlx : Bool) : Fields :=
  { m := m, f := f, a := a, b := b, c := a, mod6 := rlxCode rlx, imms := (immFields v 0 0).2 }
def eCbr (f : Nat) (a b : XReg) (v : Int) : Fields := { m := 14, f := f, a := a, b := b, c := a, imms := (immFields v 0 1).2 }
def eJmp (m : Nat) (v : Int) : Fields :=
  let (u, imms) := immFields v 11 0
  { m := m, a := u / 128, b := u / 8 % 16, f := u % 8, c := u / 128, imms := imms }
def eF (m f : Nat) (w : FWidth) (mod6 : Nat) (a c b : XReg) (x4 : Nat := 0) : Fields :=
  { page := 1, m := m, f := f, w := w.code, mod6 := mod6, a := a, c := c, b := b, x4 := x4 }
def eV (m f : Nat) (w mod6 a c b : Nat) (k : MReg) (d : Nat := 0) (imms : List Nat := []) : Fields :=
  { page := 2, m := m, f := f, w := w, mod6 := mod6, a := a, c := c, b := b, x4 := k, d := d, imms := imms }
def eS (f : Nat) (a b : Nat) (n : Fin 7) (d : Nat := 0) : Fields := { page := 4, m := 0, f := f, a := a, b := b, c := a, x4 := n, d := d }
def eP (page m f a c b : Nat) (w : Nat := 0) (d : Nat := 0) (x4 : Nat := 0) (imms : List Nat := []) : Fields :=
  { page := page, m := m, f := f, a := a, c := c, b := b, w := w, d := d, x4 := x4, imms := imms }
def eCsr (f : Nat) (a : XReg) (n : BitVec 12) : Fields := eP 7 0 f a a (n.toNat % 16) (imms := [n.toNat / 16])

/-- The fields of an instruction, from the operand tables of the spec. Events have no encoding. -/
def encodeFields : Instr → Option Fields
  | .add a c b => some (eTri 1 0 a c b) | .sub a c b => some (eTri 1 1 a c b) | .and a c b => some (eTri 1 2 a c b)
  | .or a c b => some (eTri 1 3 a c b) | .xor a c b => some (eTri 1 4 a c b) | .andn a c b => some (eTri 1 5 a c b)
  | .orn a c b => some (eTri 1 6 a c b) | .xnor a c b => some (eTri 1 7 a c b)
  | .shl a c b => some (eTri 2 0 a c b) | .shr a c b => some (eTri 2 1 a c b) | .sar a c b => some (eTri 2 2 a c b)
  | .rol a c b => some (eTri 2 3 a c b) | .ror a c b => some (eTri 2 4 a c b) | .min a c b => some (eTri 2 5 a c b)
  | .max a c b => some (eTri 2 6 a c b) | .minn a c b => some (eTri 2 7 a c b)
  | .mul a c b => some (eTri 3 0 a c b) | .mulh a c b => some (eTri 3 1 a c b) | .mulhn a c b => some (eTri 3 2 a c b)
  | .div a c b => some (eTri 3 3 a c b) | .divn a c b => some (eTri 3 4 a c b) | .rem a c b => some (eTri 3 5 a c b)
  | .remn a c b => some (eTri 3 6 a c b) | .maxn a c b => some (eTri 3 7 a c b)
  | .seq a c b => some (eTri 4 0 a c b) | .sne a c b => some (eTri 4 1 a c b) | .slt a c b => some (eTri 4 2 a c b)
  | .sltn a c b => some (eTri 4 3 a c b) | .sle a c b => some (eTri 4 4 a c b) | .slen a c b => some (eTri 4 5 a c b)
  | .sel a c b d => some { eTri 4 6 a c b with d := d }
  | .clz a b => some (eUna 5 0 a b) | .ctz a b => some (eUna 5 1 a b) | .popc a b => some (eUna 5 2 a b)
  | .brev a b => some (eUna 5 3 a b) | .bswap a b => some (eUna 5 4 a b)
  | .sext w a b => some (eUna 5 5 a b w.code) | .zext w a b => some (eUna 5 6 a b w.code) | .mov a b => some (eUna 5 7 a b)
  | .addi a b i => some (eRim 6 a b i)
  | .li a i => let (u, imms) := immFields i 7 0; some { m := 7, a := a, b := u / 8, f := u % 8, c := a, imms := imms }
  | .andi a b i => some (eRim 8 a b i) | .ori a b i => some (eRim 9 a b i) | .xori a b i => some (eRim 10 a b i)
  | .shli a b n => some (eShf 0 a b n) | .shri a b n => some (eShf 1 a b n) | .sari a b n => some (eShf 2 a b n)
  | .rori a b n => some (eShf 3 a b n)
  | .ldSb a b i r => some (eMem 12 0 a b i r) | .ldNb a b i r => some (eMem 12 1 a b i r) | .ldSh a b i r => some (eMem 12 2 a b i r)
  | .ldNh a b i r => some (eMem 12 3 a b i r) | .ldSw a b i r => some (eMem 12 4 a b i r) | .ldNw a b i r => some (eMem 12 5 a b i r)
  | .ldD a b i r => some (eMem 12 6 a b i r)
  | .stB a b i r => some (eMem 13 0 a b i r) | .stH a b i r => some (eMem 13 1 a b i r) | .stW a b i r => some (eMem 13 2 a b i r)
  | .stD a b i r => some (eMem 13 3 a b i r)
  | .bcEq a b d => some (eCbr 0 a b d) | .bcNe a b d => some (eCbr 1 a b d) | .bcLt a b d => some (eCbr 2 a b d)
  | .bcGe a b d => some (eCbr 3 a b d) | .bcLtn a b d => some (eCbr 4 a b d) | .bcGen a b d => some (eCbr 5 a b d)
  | .br d => some (eJmp 15 d) | .call d => some (eJmp 16 d)
  | .jr b => some { m := 17, f := 0, b := b } | .callr b => some { m := 17, f := 1, b := b } | .ret => some { m := 17, f := 2 }
  | .nop => some { m := 30 } | .brk => some { m := 30, f := 7 }
  | .fadd w m a c b => some (eF 0 0 w m.code a c b) | .fsub w m a c b => some (eF 0 1 w m.code a c b)
  | .fmul w m a c b => some (eF 0 2 w m.code a c b) | .fdiv w m a c b => some (eF 0 3 w m.code a c b)
  | .fmin w a c b => some (eF 0 4 w 0 a c b) | .fmax w a c b => some (eF 0 5 w 0 a c b) | .fsqrt w m a b => some (eF 0 6 w m.code a a b)
  | .fma w m a c b => some (eF 1 0 w m.code a c b) | .fms w m a c b => some (eF 1 1 w m.code a c b)
  | .fnma w m a c b => some (eF 1 2 w m.code a c b) | .fnms w m a c b => some (eF 1 3 w m.code a c b)
  | .feq w a c b => some (eF 2 0 w 0 a c b) | .flt w a c b => some (eF 2 1 w 0 a c b) | .fle w a c b => some (eF 2 2 w 0 a c b)
  | .funord w a c b => some (eF 2 3 w 0 a c b) | .fclass w a b => some (eF 2 4 w 0 a a b) | .fabs w a b => some (eF 2 5 w 0 a a b)
  | .fneg w a b => some (eF 2 6 w 0 a a b) | .fsign w a c b => some (eF 2 7 w 0 a c b)
  | .fcvtF2i w r a b => some (eF 3 0 w (r.code * 8) a a b) | .fcvtF2n w r a b => some (eF 3 1 w (r.code * 8) a a b)
  | .fcvtI2f w m a b => some (eF 3 2 w m.code a a b) | .fcvtN2f w m a b => some (eF 3 3 w m.code a a b)
  | .fcvtFf w s m a b => some (eF 3 4 w m.code a a b s.code) | .fcvtF2e w e m a b => some (eF 3 5 w m.code a a b e.code)
  | .fcvtE2f w e a b => some (eF 3 6 w 0 a a b e.code)
  | .vadd t m a c b k => some (eV 0 0 t.code m.code a c b k) | .vsub t m a c b k => some (eV 0 1 t.code m.code a c b k)
  | .vmul t m a c b k => some (eV 0 2 t.code m.code a c b k) | .vmin t a c b k => some (eV 0 3 t.code 0 a c b k)
  | .vmax t a c b k => some (eV 0 4 t.code 0 a c b k) | .vand a c b k => some (eV 0 5 0 0 a c b k)
  | .vor a c b k => some (eV 0 6 0 0 a c b k) | .vxor a c b k => some (eV 0 7 0 0 a c b k)
  | .vshl a c b k => some (eV 1 0 0 0 a c b k) | .vshr a c b k => some (eV 1 1 0 0 a c b k) | .vsar a c b k => some (eV 1 2 0 0 a c b k)
  | .vabs t a b k => some (eV 1 3 t.code 0 a a b k) | .vneg t a b k => some (eV 1 4 t.code 0 a a b k)
  | .vdiv t m a c b k => some (eV 1 5 t.code m.code a c b k) | .vsqrt m a b k => some (eV 1 6 0 m.code a a b k)
  | .vfma t m a c b k => some (eV 2 0 t.code m.code a c b k) | .vfms t m a c b k => some (eV 2 1 t.code m.code a c b k)
  | .vfnma t m a c b k => some (eV 2 2 t.code m.code a c b k) | .vfnms t m a c b k => some (eV 2 3 t.code m.code a c b k)
  | .vceq t a c b k => some (eV 3 0 t.code 0 a c b k) | .vcne t a c b k => some (eV 3 1 t.code 0 a c b k)
  | .vclt t a c b k => some (eV 3 2 t.code 0 a c b k) | .vcle t a c b k => some (eV 3 3 t.code 0 a c b k)
  | .vsel a c b d k => some (eV 4 0 0 0 a c b k d) | .vmov a b k => some (eV 4 1 0 0 a a b k) | .vbcast a b k => some (eV 4 2 0 0 a a b k)
  | .vins a b n => some (eV 4 3 0 0 a n b 0) | .vext t a b n => some (eV 4 4 t.code 0 a n b 0)
  | .viota a b k => some (eV 4 5 0 0 a a b k) | .vperm a c b k => some (eV 4 6 0 0 a c b k)
  | .vradd t r a b k => some (eV 5 0 t.code (r.code * 8) a a b k) | .vrmin t a b k => some (eV 5 1 t.code 0 a a b k)
  | .vrmax t a b k => some (eV 5 2 t.code 0 a a b k) | .vrand a b k => some (eV 5 3 0 0 a a b k) | .vror a b k => some (eV 5 4 0 0 a a b k)
  | .vscan t r a b k => some (eV 5 5 t.code (r.code * 8) a a b k)
  | .vexp2 m a b k => some (eV 6 0 0 m.code a a b k) | .vlog2 m a b k => some (eV 6 1 0 m.code a a b k)
  | .vrcp m a b k => some (eV 6 2 0 m.code a a b k) | .vrsq m a b k => some (eV 6 3 0 m.code a a b k)
  | .vtanh m a b k => some (eV 6 4 0 m.code a a b k) | .vsigm m a b k => some (eV 6 5 0 m.code a a b k)
  | .vcvtF2s r a b k => some (eV 7 0 0 (r.code * 8) a a b k) | .vcvtS2f m a b k => some (eV 7 1 0 m.code a a b k)
  | .vcvtF2n r a b k => some (eV 7 2 0 (r.code * 8) a a b k) | .vcvtN2f m a b k => some (eV 7 3 0 m.code a a b k)
  | .vcvtFrnd r a b k => some (eV 7 4 0 (r.code * 8) a a b k) | .vcvtF2bf m a b k => some (eV 7 5 0 m.code a a b k)
  | .vcvtF2e4 m a b k => some (eV 7 6 0 m.code a a b k) | .vcvtF2e5 m a b k => some (eV 7 7 0 m.code a a b k)
  | .vld a b i r k => some (eV 8 0 0 (rlxCode r) a a b k 0 (immFields i 0 0).2)
  | .vst a b i r k => some (eV 8 1 0 (rlxCode r) a a b k 0 (immFields i 0 0).2)
  | .vldx a b c k => some (eV 8 2 0 0 a c b k) | .vstx a b c k => some (eV 8 3 0 0 a c b k)
  | .vldb a b i r k => some (eV 8 4 0 (rlxCode r) a a b k 0 (immFields i 0 0).2)
  | .vldt a t b k => some (eV 8 5 0 0 a a b k 0 [t.val]) | .vstt a t b k => some (eV 8 6 0 0 a a b k 0 [t.val])
  | .mand a c b => some (eV 9 0 0 0 a c b 0) | .mor a c b => some (eV 9 1 0 0 a c b 0) | .mxor a c b => some (eV 9 2 0 0 a c b 0)
  | .mnot a b => some (eV 9 3 0 0 a a b 0) | .mpop a b => some (eV 9 4 0 0 a a b 0) | .mfirst a b => some (eV 9 5 0 0 a a b 0)
  | .mset a b => some (eV 9 6 0 0 a a b 0) | .mget a b => some (eV 9 7 0 0 a a b 0)
  | .sbind s b c => some (eV 10 0 0 0 (28 + s.val) c b 0) | .sunbind s => some (eV 10 1 0 0 (28 + s.val) (28 + s.val) 0 0)
  | .srem a s => some (eV 10 2 0 0 a a (28 + s.val) 0) | .bstr s b => some (eV 11 0 0 0 (28 + s.val) (28 + s.val) b 0)
  | .send a b n => some (eS 0 a b n) | .sendR a b n => some (eS 1 a b n) | .sendm a b n d => some (eS 2 a b n d)
  | .sendg a b n => some (eS 3 a b n) | .fork a b n => some (eS 4 a b n) | .sendc a b n => some (eS 5 a b n)
  | .sendv a b n => some (eS 6 a b n) | .sendQ a b n d => some (eS 7 a b n d)
  | .chset a c b => some (eP 4 1 0 a c b) | .chget a c b => some (eP 4 1 1 a c b) | .chclr a c => some (eP 4 1 2 a c 0)
  | .patset a c b => some (eP 4 2 0 a c b) | .patclr a c => some (eP 4 2 1 a c 0) | .patget a c b => some (eP 4 2 2 a c b)
  | .exit => some (eP 4 3 0 0 0 0) | .exitf a => some (eP 4 3 1 a a 0)
  | .amoadd z a b c => some (eP 5 0 0 a c b z.code) | .amoand z a b c => some (eP 5 0 1 a c b z.code)
  | .amoor z a b c => some (eP 5 0 2 a c b z.code) | .amoxor z a b c => some (eP 5 0 3 a c b z.code)
  | .amomin z a b c => some (eP 5 0 4 a c b z.code) | .amomax z a b c => some (eP 5 0 5 a c b z.code)
  | .amoswap z a b c => some (eP 5 0 6 a c b z.code) | .amocas z a b c d => some (eP 5 0 7 a c b z.code d)
  | .amofadd a b c => some (eP 5 1 0 a c b) | .amofadd64 a b c => some (eP 5 1 1 a c b)
  | .amominn z a b c => some (eP 5 1 2 a c b z.code) | .amomaxn z a b c => some (eP 5 1 3 a c b z.code)
  | .vamoadd t a b k => some (eP 5 1 4 a a b t.code 0 k) | .vamoaddi t a b c k => some (eP 5 1 5 a c b t.code 0 k)
  | .wait l s e m =>
    let v := m.val * 4096 + e.val * 256 + s.val * 16 + l.val
    some (eP 5 2 (v % 8) (v / 128 % 16) (v / 128 % 16) (v / 8 % 16) (imms := [v / 2048]))
  | .tset a c b => some (eP 6 0 0 a c b) | .trel a t => some (eP 6 0 1 a a 0 (imms := [t.val]))
  | .tstat a t => some (eP 6 0 2 a a 0 (imms := [t.val]))
  | .twait t q => some (eP 6 0 3 0 0 0 (imms := [t.val + if q = .empty then 64 else 0]))
  | .subscr a b => some (eP 6 1 0 a a b) | .unsub a b => some (eP 6 1 1 a a b) | .fstat a b => some (eP 6 1 2 a a b)
  | .mxm a b => some (eP 6 2 0 a a b) | .mxz => some (eP 6 2 1 0 0 0) | .mxd a b => some (eP 6 2 2 a a b)
  | .mxstat a => some (eP 6 2 3 a a 0) | .drnld a c b => some (eP 6 2 4 a c b) | .adpinv b => some (eP 6 2 5 0 0 b)
  | .csrr a n => some (eCsr 0 a n) | .csrw a n => some (eCsr 1 a n) | .csrset a n => some (eCsr 2 a n) | .csrclr a n => some (eCsr 3 a n)
  | .trap i => some (eP 7 1 0 (i.toNat / 16 % 16) (i.toNat / 16 % 16) (i.toNat % 16)
      (imms := if i.toNat < 256 then [] else [i.toNat / 256]))
  | .rte => some (eP 7 1 1 0 0 0) | .kill a => some (eP 7 1 2 a a 0) | .iinv b => some (eP 7 1 3 0 0 b) | .tktq a b => some (eP 7 1 4 a a b)
  | _ => none

/-- The canonical halfwords of fields (R46): each prefix only when its fields differ from the defaults of R35. -/
def assemble (x : Fields) : List Half :=
  (if x.page ≠ 0 ∨ x.mod6 ≠ 0 then [BitVec.ofNat 16 (0xFC00 + x.page * 64 + x.mod6)] else []) ++
  (if 16 ≤ x.a ∨ 16 ≤ x.b ∨ x.c ≠ x.a ∨ x.w ≠ 0 then
    [BitVec.ofNat 16 (0xFA00 + x.a / 16 * 256 + x.b / 16 * 128 + x.c * 4 + x.w)] else []) ++
  (if x.d ≠ 0 ∨ x.x4 ≠ 0 then [BitVec.ofNat 16 (0xFE00 + x.d * 16 + x.x4)] else []) ++
  x.imms.map (fun i => BitVec.ofNat 16 (0xF800 + i)) ++
  [BitVec.ofNat 16 x.base]

/-- The canonical encoding of an instruction (R46); none for an event. -/
def encode (i : Instr) : Option (List Half) := (encodeFields i).map assemble

end Sys2Proof
end

