-- ==== Sys2Proof/Machine/Line.lean ====
section
/-! DEFINITION. Machine/Line.lean: fetch lines: the header and the check of spec/01 R17 to R19, the instruction cache of R22. -/

namespace Sys2Proof.Machine

/-- A halfword is a prefix (R34). -/
def isPrefix (h : Half) : Bool := h.toNat / 2048 == 31

/-- Position after the instruction whose chain starts at i (R43): prefixes, then one base word. -/
def chainEnd : List Half → Nat → Nat
  | [], i => i + 1
  | h :: hs, i => if isPrefix h then chainEnd hs (i + 1) else i + 1

/-- The next set START bit above i, or 56 (R43). -/
def nextStart (start : BitVec 56) (i : Nat) : Nat := (findFrom (fun j => start.getLsbD j) (55 - i) (i + 1)).getD 56

/-- Where the instruction at halfword i ends (R43): BRK at a set START bit runs to the next one. -/
def instrEnd (words : List Half) (start : BitVec 56) (i : Nat) : Nat :=
  if (nth words i).getD 0 = 0xF007 then nextStart start i else chainEnd (words.drop i) i

/-- The lengths decoded from halfword i on place a start exactly at each set START bit, and none runs past halfword 55 (R18). -/
def startsOk (words : List Half) (start : BitVec 56) : Nat → Nat → Bool
  | 0, i => i == 56
  | fuel + 1, i =>
    if i = 56 then true
    else start.getLsbD i && instrEnd words start i == nextStart start i && startsOk words start fuel (instrEnd words start i)

/-- The halfwords of a line. -/
def lineWords (b : List Byte) : List Half :=
  (List.range 56).map fun i => BitVec.ofNat 16 (leNat ((b.drop (16 + 2 * i)).take 2))

/-- The line of 128 bytes at an address, checked (R17 to R19). -/
def lineOf (addr : Nat) (b : List Byte) (used : Nat) : CLine :=
  let lo := leNat (b.take 8)
  let hi := leNat ((b.drop 8).take 8)
  let start := BitVec.ofNat 56 lo
  let target := BitVec.ofNat 56 (lo / 2 ^ 56 + hi % 2 ^ 48 * 2 ^ 8)
  let ws := lineWords b
  { addr := addr, words := ws, start := start, target := target, used := used,
    ok := start.getLsbD 0 && target &&& ~~~ start == 0 && decide (hi / 2 ^ 48 = 1) && startsOk ws start 56 0 }

/-- The set of a line in the instruction cache (R22). -/
def lineSet (addr : Nat) : Nat := addr / 128 % 128

/-- Installs a line: the least recently used of a full set of four goes (R22). Of two lines used in one step the one earlier in the list
counts as the older (notes/assumptions/77). -/
def installLine (c : Core) (l : CLine) : Core :=
  let others := c.icache.filter fun x => x.addr != l.addr
  let set := others.filter fun x => lineSet x.addr == lineSet l.addr
  let oldest := set.foldl (fun (r : Option CLine) x =>
    match r with
    | none => some x
    | some y => if x.used < y.used then some x else r) none
  let keep := if set.length < 4 then others
    else match oldest with
      | some y => others.filter fun x => x.addr != y.addr
      | none => others
  { c with icache := keep ++ [l] }

/-- A line that holds the given halfwords from halfword 0 on and NOPs after them, with START and TARGET at each instruction. -/
def plainLine (addr : Nat) (hs : List Half) : CLine :=
  let ws := (hs ++ List.replicate (56 - hs.length) 0xF000#16).take 56
  let st : BitVec 56 := BitVec.allOnes 56 <<< hs.length ||| 1#56
  { addr := addr, words := ws, start := st, target := st, used := 0, ok := startsOk ws st 56 0 }

end Sys2Proof.Machine
end

