-- ==== Sys2Proof/Machine/Issue.lean ====
section
/-! DEFINITION. Machine/Issue.lean: one issue of a core (spec/01 R11, spec/16 R275), the fetch and decode of the instruction at the
program counter (R19, R45), and the order of the machine's steps (notes/assumptions/2). `ex` performs a decoded instruction or an
event. -/

namespace Sys2Proof.Machine

/-- Time passes between two steps: by amounts the spec leaves open (notes/assumptions/2). -/
def tick (s : State) : State :=
  { s with stepNo := s.stepNo + 1, cycle := s.cycle + Config.freeCycles s.stepNo, time := s.time + Config.freeNs s.stepNo }

/-- The request STRICT waits for has left the NI (R283). -/
def strictDone (c : Core) (n : Nat) : Bool := !c.reqs.any fun r => r.seqn == n

/-- The request STRICT waited for ended in a refusal or a failed ticket, which is raised at its own instruction (R283). -/
def strictRefused (c : Core) (sl : Slot) : Bool :=
  match sl.strictReq with
  | some n => strictDone c n && sl.due.any fun d => d.seqn == n
  | none => false

/-- A late event of the slot can be taken at this boundary (R275). There is no boundary while STRICT waits for a request; a refusal of
that request is raised at once, in supervisor mode too, since nothing after its instruction may issue (R283; notes/assumptions/78). -/
def lateOpen (c : Core) (sl : Slot) : Bool :=
  if sl.strictReq.isSome then strictRefused c sl else !sl.due.isEmpty && (!inSup c sl || sl.nest)

/-- A STEP is taken at this boundary unless a late event comes first (R275); one that a late event displaced waits for user mode. -/
def stepOpen (c : Core) (sl : Slot) : Bool := sl.stepOwed && !inSup c sl && sl.strictReq.isNone && !lateOpen c sl

/-- A twin must exchange fingerprints before it issues again (R310). -/
def twinDue (sl : Slot) : Bool := twinBehind sl && sl.retired != 0 && sl.retired % 1024 == 0

/-- The instruction traps PRIV, or ILLEGAL by its CSR number, when it is reached (R45, R286, R290). -/
def modeTraps (c : Core) (sl : Slot) : Instr → Bool
  | .rte | .kill _ | .iinv _ | .tktq _ _ => !(sl.sup || c.ctrl)
  | .csrr _ n => (csrCheck c.ctrl sl.sup n.toNat false).isSome
  | .csrw _ n | .csrset _ n | .csrclr _ n => (csrCheck c.ctrl sl.sup n.toNat true).isSome
  | _ => false

/-- Fetches, checks and decodes the instruction at the slot's pc and performs it (R19, R44, R45). With 256 instructions retired past the
oldest unacknowledged request it does not issue; the traps of the fetch, the decoder and the mode are raised without that wait (R282,
R45). -/
def fetchExec (ex : Instr → State → Res) (s : State) : Res :=
  let pc := (curSlot s).pc
  withLine s pc.toNat none fun l s =>
    if !l.ok || !l.start.getLsbD (lineOff pc) then trap s cBADLINE (BitVec.ofNat 64 l.addr)
    else match decode (l.words.drop (lineOff pc)) with
      | .error e => ex (.unassignedEncoding e.cause e.tval) s
      | .ok (i, _) =>
        if skidFull (curCore s) s.cur.2 && !modeTraps (curCore s) (curSlot s) i then stall s
        else ex i (updCur s fun sl => { sl with ilen := instrEnd l.words l.start (lineOff pc) - lineOff pc })

/-- What a slot does at its boundary (R275): late events, an owed STEP, then its next instruction. -/
def slotTurn (ex : Instr → State → Res) (site : Nat) (k : Fin 4) (s : State) : Res :=
  let s := { s with cur := (site, k) }
  let c := getCore s site
  let sl := c.slots[k]
  if lateOpen c sl then ex (.lateTrapTaken site k) s
  else if stepOpen c sl then ex (.step site k) s
  else match sl.strictReq with
    | some n =>
      if strictDone c n then
        .next (retire (updCur s fun sl => { sl with strictReq := none, strictNext := none, streams := sl.strictNext.getD sl.streams }) [])
      else stall s
    | none => if twinDue sl then stallTwin s .exchange else fetchExec ex s

/-- The attempt left the slot stalled where it was. -/
def leftStalled (before after : Slot) : Bool := after.mode == .stalled && after.strictReq == before.strictReq

/-- The instruction that a slot issues in its turn: none when the turn takes a late event or a STEP, or completes what STRICT held (R275,
R283, R322). -/
def issuedBy (s : State) (c : Core) (k : Fin 4) : Option Issued :=
  let sl := c.slots[k]
  if lateOpen c sl || stepOpen c sl || sl.strictReq.isSome then none
  else some { slot := k, pat := patOf sl, act := sl.actId, pc := sl.pc, cycle := s.cycle }

/-- Tries the slots in turn: the first that is not stalled issues (R11). -/
def trySlots (ex : Instr → State → Res) (site : Nat) : List (Fin 4) → State → Res
  | [], s => .next (updCore s site fun c => countEv c 1)
  | k :: ks, s =>
    let sl := getSlot s site k
    if runnable sl && !(getCore s site).spillOut.any (fun m => m.slot == k) then
      match slotTurn ex site k s with
      | .next t =>
        if leftStalled sl (getSlot t site k) then trySlots ex site ks t
        else .next (updCore t site fun c => { c with lastIssued := k.val, issued := issuedBy s (getCore s site) k <|> c.issued })
      | o => o
    else trySlots ex site ks s

/-- One issue at a core (R11): nothing on a site that failed, on a dark die, or on a halted core. -/
def issueAt (ex : Instr → State → Res) (site : Nat) (s : State) : Res :=
  let c := getCore s site
  if working s site && !c.halted then
    trySlots ex site [Fin.ofNat 4 (c.lastIssued + 1), Fin.ofNat 4 (c.lastIssued + 2), Fin.ofNat 4 (c.lastIssued + 3),
      Fin.ofNat 4 c.lastIssued] s
  else .next s

/-- One step of the machine: the turn at the head of the agenda, or an issue at the focus when it is empty. -/
def stepWith (ex : Instr → State → Res) (ac : Act → State → State) (s : State) : Res :=
  let s := tick s
  match s.agenda with
  | .event i :: rest => ex i { s with agenda := rest }
  | .issue site :: rest => issueAt ex site { s with agenda := rest }
  | .act a :: rest => .next (ac a { s with agenda := rest })
  | [] => issueAt ex s.focus s

/-- The machine with a line of the given halfwords in the instruction cache of the core in focus, where its slot 0 runs next. Slot 0
runs, the other slots wait their turn, and nothing stands on the agenda. -/
def placeHalves (s : State) (hs : List Half) : State :=
  let c := getCore s s.focus
  let a := (c.slots[(0 : Fin 4)]).pc.toNat / 128 * 128
  let sl := c.slots[(0 : Fin 4)]
  let c := { c with icache := [plainLine a hs], lastIssued := 3, halted := false,
                    slots := c.slots.set 0 { sl with mode := .run, pc := BitVec.ofNat 64 (a + 16), due := [], stepOwed := false, strictReq := none } }
  { setCore s s.focus c with agenda := [] }

/-- The slots' turn order is not the program's concern: the halfwords of a table word are placed for the next issue. -/
def placeTableWord (s : State) (nbits w : Nat) : State := placeHalves s (tableHalves nbits w)

end Sys2Proof.Machine
end

