-- ==== Sys2Proof/Machine/System.lean ====
section
/-! DEFINITION. Machine/System.lean: traps, returns, KILL, IINV, TKTQ (spec/16 R291 to R294), and what a slot takes at a boundary:
late events, an owed STEP, a refused encoding (R275, R281, spec/18 R319, spec/03 R48). -/

namespace Sys2Proof.Machine

/-- TRAP retires, then raises SOFT with epc at the next instruction (R291); it owes no STEP (R319). -/
def execTrap (imm : BitVec 17) (s : State) : Res :=
  let owed := (curSlot s).stepOwed
  let s := updCur (retire s []) fun sl => { sl with stepOwed := owed }
  .next (takeTrap s s.cur.1 s.cur.2 { cause := cSOFT, tval := imm.setWidth 64, epc := (curSlot s).pc })

/-- Goes on in supervisor or firmware mode, or traps PRIV (R45, R290). -/
def needSup (s : State) (k : State → Res) : Res := if privileged s then k s else trap s cPRIV 0

/-- RTE: PC := epc and MODE := PM (R291); the line at epc is checked when it is fetched. -/
def execRte (s : State) : Res :=
  needSup s fun s =>
    let sl := curSlot s
    match badPc sl.epc with
    | some e => trap s e sl.epc
    | none => .next (updCur (retireTo s sl.epc []) fun sl => { sl with sup := sl.pm })

/-- KILL: a replayable activation whose code has bit 0 set runs again; otherwise the activation ends with a report of kind KILL
(R292). -/
def execKill (a : XReg) (s : State) : Res :=
  needSup s fun s =>
    needX s [a] fun sl =>
      let site := s.cur.1
      let k := s.cur.2
      let v := getX sl a
      let s := retireEnd s []
      if sl.replayable && v.getLsbD 0 then .next (redeliver (trace s site k 4 (patOf sl) sl.pc 0) site k)
      else .next (endBy s site k { kind := 2, word5 := v })

/-- Removes a line from an instruction cache; a fill of it in flight is discarded (R293). -/
def dropLine (c : Core) (line : Nat) : Core :=
  { c with icache := c.icache.filter fun l => l.addr != line,
           fills := c.fills.map fun f => if f.line = line then { f with discard := true } else f }

/-- IINV (R293). -/
def execIinv (b : XReg) (s : State) : Res :=
  needSup s fun s =>
    needX s [b] fun sl =>
      let v := getX sl b
      if badFields v || space v != 0 then trap s cBADSPACE v
      else irrevocable s 0 id fun s => .next (retire (updCurCore s fun c => dropLine c (v.toNat / 128 * 128)) [])

def tstateCode (t : TState) : Nat := match t with | .free => 0 | .opened => 1 | .replaying => 2 | .failed => 3

/-- Requests, ticketed, bounced or held, fills and BULK accesses of a core that wait on a ticket of a home (R278, R294). -/
def waitersOf (c : Core) (t : BitVec 16) (h : Endpoint) : Nat :=
  (waitingOn c t h).1.length + (waitingOn c t h).2.length +
    (c.fills.filter fun f => h == .ferry (homeFerry (BitVec.ofNat 64 f.line)) && f.status == .ticketed t).length +
    (c.bulks.filter fun b => h == .ferry (homeFerry b.addr) && b.status == .ticketed t).length

/-- The status word of a ticket entry (R294). -/
def tktqWord (c : Core) (e : TicketEnt) : Word :=
  BitVec.ofNat 64 ((if e.state = .free then 0 else min (waitersOf c e.ticket e.home) 255) + tstateCode e.state * 2 ^ 28 + e.slot.val * 2 ^ 30 +
    e.seqn % 2 ^ 16 * 2 ^ 32 + e.ticket.toNat * 2 ^ 48)

/-- TKTQ (R294). -/
def execTktq (a b : XReg) (s : State) : Res :=
  needSup s fun s =>
    needX s [a, b] fun sl =>
      let v := getX sl b
      if bits v 5 59 ≠ 0 then trap s cBADSPACE v
      else
        let e := (curCore s).tickets[(⟨bits v 0 4, by unfold bits; omega⟩ : Fin 16)]
        .next (retireX s a (if v.getLsbD 4 then e.page else tktqWord (curCore s) e))

-- What a slot takes at a boundary

/-- The event is taken when nothing of the instruction after it can have issued: EXACT (R281, R283). -/
def dueExact (sl : Slot) (d : Due) : Bool := d.strictAt == some sl.pc || sl.retired == d.retAt

/-- The event taken at a boundary: the oldest one due, but in supervisor mode with NEST = 0 only the refusal of the request that STRICT
waited for (R275, R283). -/
def dueNow (c : Core) (sl : Slot) : Option Due :=
  if inSup c sl && !sl.nest then sl.due.find? fun d => sl.strictReq == some d.seqn else oldestDue sl.due

/-- LATE_TRAP_TAKEN: the oldest late event due is taken at the slot's boundary (R275, R281); in a replayable activation REFUSED.UE ends
it (R307). -/
def execLateTrapTaken (site : Nat) (slot : Fin 4) (s : State) : Res :=
  let sl := getSlot s site slot
  if !runnable sl || !lateOpen (getCore s site) sl then .next s
  else match dueNow (getCore s site) sl with
    | none => .next s
    | some d =>
      let s := setSlot s site slot fun sl => { sl with due := sl.due.filter fun x => x.uid != d.uid }
      if d.cause = cREFUE ∧ sl.replayable then .next (replayError s site slot d.cause.toNat d.tval)
      else
        let s := if d.cause = cREFUE then unreplayable s site slot d.cause.toNat d.tval sl.pc (tseqOf d.seqn) else s
        .next (settleFailed (takeTrap s site slot
          { cause := d.cause, tval := d.tval, epc := sl.pc, seqn := some d.seqn, late := d.late, exact := dueExact sl d, req := d.req }) site)

/-- STEP: the trap a retired user-mode instruction owes (R319). -/
def execStep (site : Nat) (slot : Fin 4) (s : State) : Res :=
  let sl := getSlot s site slot
  if runnable sl && stepOpen (getCore s site) sl then
    .next (takeTrap (setSlot s site slot fun sl => { sl with stepOwed := false }) site slot { cause := cSTEP, epc := sl.pc })
  else .next s

/-- UNASSIGNED_ENCODING: the chain at the program counter is refused by the decoder (R48, R37, R45). -/
def execUnassignedEncoding (cause : DecodeCause) (tval : BitVec 28) (s : State) : Res :=
  trap s (match cause with | .badPrefix => cBADPREFIX | .illegal => cILLEGAL) (tval.setWidth 64)

end Sys2Proof.Machine
end

