-- ==== Sys2Proof/Machine/Loader.lean ====
section
/-! DEFINITION. Machine/Loader.lean: code images: their form (spec/21 R362 to R364), the portable code and its translation (R367, R368),
and making one resident (R366, R369, R388). -/

namespace Sys2Proof.Machine

-- The image (R362, R363)

structure ImgSec where
  typ : Nat
  off : Nat
  len : Nat
  origin : Nat
  deriving DecidableEq, Repr

/-- An image taken apart. -/
structure Img where
  commit : Bool
  rbc : Nat
  version : Nat
  imageId : BitVec 32
  signer : Nat
  body : List Byte               -- bytes 0 to SIGOFF - 1, which the signature covers
  sig : List Byte
  key : List Byte
  code : List Byte
  entries : List Nat
  data : List Byte               -- the data area (R388)
  spads : List (Nat × List Byte)
  relocs : List Nat
  recs : List (Nat × Nat × List Byte)   -- type, index, descriptor
  deriving DecidableEq, Repr

def slice (b : List Byte) (o n : Nat) : List Byte := (b.drop o).take n
def word8 (b : List Byte) (o : Nat) : Nat := leNat (slice b o 8)
def word4 (b : List Byte) (o : Nat) : Nat := leNat (slice b o 4)

/-- Bytes of an image whose signature starts at SIGOFF. -/
def imgSize (sigoff : Nat) : Nat := sigoff + 29792 + 64
/-- SIGOFF of a header. -/
def imgSigoff (h : List Byte) : Nat := word8 h 24

/-- The header fields have the values the format asks for. -/
def headerOk (h : List Byte) : Bool :=
  let d0 := word8 h 0
  let d2 := word8 h 16
  let n := d2 / 2 ^ 32 % 2 ^ 16
  decide (d0 % 2 ^ 32 = 0x584F4449 ∧ d0 / 2 ^ 32 % 2 ^ 16 = 1 ∧ d0 / 2 ^ 48 = 0 ∧ d2 / 2 ^ 49 = 0 ∧ 1 ≤ n ∧ n ≤ 64 ∧
    leNat (slice h 40 24) = 0 ∧ imgSigoff h % 8 = 0 ∧ 64 + 16 * n ≤ imgSigoff h)

/-- The section table. -/
def imgSecs (h : List Byte) (b : List Byte) : List ImgSec :=
  (List.range (word8 h 16 / 2 ^ 32 % 2 ^ 16)).map fun i =>
    let lo := word8 b (64 + 16 * i)
    { typ := lo % 2 ^ 8, off := word8 b (72 + 16 * i), len := lo / 2 ^ 32, origin := lo / 2 ^ 8 % 2 ^ 24 }

/-- Bytes of a record of a section type. -/
def recBytes (t : Nat) : Nat := if t = 9 then 264 else 40
/-- Unused bits of a record's index doubleword are zero. -/
def recIndexOk (t i : Nat) : Bool := decide (i < (match t with | 6 => 256 | 9 => 16 | _ => 64))

def secOk (n sigoff : Nat) (b : List Byte) (x : ImgSec) : Bool :=
  decide (1 ≤ x.typ ∧ x.typ ≤ 9 ∧ x.origin < 2 ^ 19 ∧ (x.typ = 4 ∨ x.origin = 0) ∧ 64 + 16 * n ≤ x.off ∧ x.off + x.len ≤ sigoff) &&
    (match x.typ with
     | 1 => x.len % 128 == 0
     | 2 => x.len % 4 == 0
     | 5 => x.len % 4 == 0
     | 3 => true
     | 4 => true
     | t => x.len % recBytes t == 0 &&
        (List.range (x.len / recBytes t)).all fun i => recIndexOk t (word8 b (x.off + recBytes t * i)))

/-- The data sections, each at a 4 KiB boundary of the area (R388). -/
def dataArea (b : List Byte) (l : List ImgSec) : List Byte :=
  l.foldl (fun a x => a ++ List.replicate ((4096 - a.length % 4096) % 4096) 0 ++ slice b x.off x.len) []

/-- The records of a section. -/
def secRecs (b : List Byte) (x : ImgSec) : List (Nat × Nat × List Byte) :=
  let n := recBytes x.typ
  (List.range (x.len / n)).map fun i => (x.typ, word8 b (x.off + n * i), slice b (x.off + n * i + 8) (n - 8))

/-- The doubleword a relocation word names: none, in the data area, or in a spad section with its offset there. -/
inductive RelocAt
  | data (o : Nat)
  | spad (ix o : Nat)
  deriving DecidableEq, Repr

def relocAt (g : Img) (r : Nat) : Option RelocAt :=
  let o := r % 2 ^ 30
  if o % 8 ≠ 0 then none
  else if r / 2 ^ 30 % 2 = 0 then (if o + 8 ≤ g.data.length then some (.data o) else none)
  else
    (g.spads.findIdx? fun p => decide (p.1 ≤ o ∧ o + 8 ≤ p.1 + p.2.length)).map fun i => .spad i (o - ((nth g.spads i).map fun p => p.1).getD 0)

def relocGet (g : Img) (a : RelocAt) : Nat :=
  match a with
  | .data o => word8 g.data o
  | .spad i o => word8 (((nth g.spads i).map fun p => p.2).getD []) o
/-- A relocation word is KIND 1. -/
def relocKind (r : Nat) : Bool := r / 2 ^ 31 % 2 == 1

def relocOk (g : Img) (r : Nat) : Bool :=
  match relocAt g r with
  | none => false
  | some a => !relocKind r || decide (relocGet g a < g.data.length)

/-- Takes an image apart; none where its form is wrong, load status FORMAT (R362, R363, R366). -/
def parseImg (b : List Byte) : Option Img :=
  let h := b.take 64
  let n := word8 h 16 / 2 ^ 32 % 2 ^ 16
  let sig := imgSigoff h
  if !headerOk h || decide (b.length < imgSize sig) then none
  else
    let secs := imgSecs h b
    let of := fun (t : Nat) => secs.filter fun x => x.typ == t
    if !secs.all (secOk n sig b) || (of 1).length != 1 || (of 2).length != 1 then none
    else
      let bytes := fun (x : ImgSec) => slice b x.off x.len
      let words := fun (x : ImgSec) => (List.range (x.len / 4)).map fun i => word4 b (x.off + 4 * i)
      let g : Img :=
        { commit := word8 h 16 / 2 ^ 48 % 2 == 1, rbc := word8 h 16 % 2 ^ 32, version := word8 h 8 / 2 ^ 32,
          imageId := BitVec.ofNat 32 (word8 h 8), signer := word8 h 32, body := b.take sig, sig := slice b sig 29792,
          key := slice b (sig + 29792) 64, code := (of 1).flatMap bytes, entries := (of 2).flatMap words, data := dataArea b (of 3),
          spads := (of 4).map fun x => (x.origin, bytes x), relocs := (of 5).flatMap words,
          recs := (secs.filter fun x => decide (6 ≤ x.typ)).flatMap (secRecs b) }
      if g.relocs.all (relocOk g) then some g else none

-- Portable code (R367)

/-- An instruction of a portable stream: its index, length, target mark, and decoded form where the chain decodes. -/
structure PIns where
  at_ : Nat
  len : Nat
  target : Bool
  ins : Option Instr
  deriving DecidableEq, Repr

/-- The cells of the opcode map: assigned functions F of a major are 0 to n - 1 (R47). -/
def mapCells (page m : Nat) : Nat :=
  match page, m with
  | 0, 4 => 7 | 0, 11 => 4 | 0, 12 => 7 | 0, 13 => 4 | 0, 14 => 6 | 0, 17 => 3
  | 0, m => if (1 ≤ m ∧ m ≤ 10) ∨ m = 15 ∨ m = 16 then 8 else 0
  | 1, 0 => 7 | 1, 1 => 4 | 1, 2 => 8 | 1, 3 => 7
  | 2, 0 => 8 | 2, 1 => 7 | 2, 2 => 4 | 2, 3 => 4 | 2, 4 => 7 | 2, 5 => 6 | 2, 6 => 6 | 2, 7 => 8 | 2, 8 => 7 | 2, 9 => 8 | 2, 10 => 3 | 2, 11 => 1
  | 4, 0 => 8 | 4, 1 => 3 | 4, 2 => 3 | 4, 3 => 2
  | 5, 0 => 8 | 5, 1 => 6 | 5, 2 => 8
  | 6, 0 => 4 | 6, 1 => 3 | 6, 2 => 6
  | 7, 0 => 4 | 7, 1 => 5
  | _, _ => 0
def assignedCell (x : Fields) : Bool := decide (x.f < mapCells x.page x.m) || (x.page == 0 && x.m == 30 && (x.f == 0 || x.f == 7))

/-- The halfwords of the code section, and its START and TARGET bits as lists of indexes. -/
def portableHalves (code : List Byte) : List Half := (List.range (code.length / 128)).flatMap fun k => lineWords (slice code (128 * k) 128)
def portableMarks (code : List Byte) (lo : Nat) : List Nat :=
  (List.range (code.length / 128)).flatMap fun k =>
    let h := leNat (slice code (128 * k) 16)
    ((List.range 56).filter fun i => h / 2 ^ (lo + i) % 2 == 1).map fun i => 56 * k + i
/-- VER 00, KIND 00 and zeros above them. -/
def portableHeads (code : List Byte) : Bool := (List.range (code.length / 128)).all fun k => leNat (slice code (128 * k) 16) / 2 ^ 112 == 0

/-- Length of the instruction at the head of a stream that ends `gap` halfwords on, if another start follows (R43). -/
def portableLen (hs : List Half) (gap : Option Nat) : Nat :=
  match hs, gap with
  | h :: _, some g => if h = 0xF007 then g else chainEnd hs 0
  | _, _ => chainEnd hs 0

/-- Reads the stream from its starts; none where R367 refuses it. -/
def portableIns (targets : List Nat) : List Half → Nat → List Nat → Option (List PIns)
  | hs, _, [] => if hs.all fun h => h == 0 then some [] else none
  | hs, at_, p :: ps =>
    if p ≠ at_ then none
    else
      let n := portableLen hs (ps.head?.map fun q => q - p)
      match readChain {} hs with
      | .error _ => none
      | .ok x =>
        if !assignedCell x then none
        else (portableIns targets (hs.drop n) (p + n) ps).map fun r =>
          { at_ := p, len := n, target := targets.contains p, ins := decodeFields x } :: r

/-- The distance of a direct branch or call. -/
def branchDist (i : Instr) : Option Int :=
  match i with
  | .bcEq _ _ d | .bcNe _ _ d | .bcLt _ _ d | .bcGe _ _ d | .bcLtn _ _ d | .bcGen _ _ d | .br d | .call d => some d
  | _ => none
def withDist (i : Instr) (d : Int) : Instr :=
  match i with
  | .bcEq a b _ => .bcEq a b d
  | .bcNe a b _ => .bcNe a b d
  | .bcLt a b _ => .bcLt a b d
  | .bcGe a b _ => .bcGe a b d
  | .bcLtn a b _ => .bcLtn a b d
  | .bcGen a b _ => .bcGen a b d
  | .br _ => .br d
  | .call _ => .call d
  | i => i

def insDist (p : PIns) : Option Int := p.ins.bind branchDist
/-- The place in the stream of the instruction a direct branch names. -/
def branchTo (l : List PIns) (p : PIns) : Option Nat :=
  match insDist p with
  | none => none
  | some d => l.findIdx? fun q => decide ((q.at_ : Int) = p.at_ + d) && q.target

/-- The checks of R367: the code, or none (BADCODE). -/
def portableCode (g : Img) : Option (List PIns) :=
  let starts := portableMarks g.code 0
  let targets := portableMarks g.code 56
  if !portableHeads g.code || !targets.all starts.contains then none
  else match portableIns targets (portableHalves g.code) 0 starts with
    | none => none
    | some l =>
      let marked := fun (n : Nat) => l.any fun q => q.at_ == n && q.target
      let rel := (g.relocs.filter fun r => !relocKind r).all fun r => (relocAt g r).any fun a => marked (relocGet g a)
      let pats := (g.recs.filter fun r => r.1 == 7).all fun r => marked (word8 r.2.2 8)
      if g.entries.all marked && rel && pats && l.all (fun p => (insDist p).isNone || (branchTo l p).isSome) then some l else none

-- Translation (R368)

/-- One placement pass: the native position of each instruction, and the end. -/
def placePass (entries : List Nat) : List PIns → List Nat → Nat → List Nat × Nat
  | p :: ps, n :: ns, at_ =>
    let at_ := if (entries.contains p.at_ ∧ at_ % 56 ≠ 0) ∨ 56 < at_ % 56 + n then at_ + (56 - at_ % 56) else at_
    let r := placePass entries ps ns (at_ + n)
    (at_ :: r.1, r.2)
  | _, _, at_ => ([], at_)

/-- The halfwords of each instruction at its position: a direct branch is encoded again with its native distance. None where no canonical
encoding holds a distance. -/
def recode (l : List PIns) (hs : List Half) (pos : List Nat) : Option (List (List Half)) :=
  l.zipIdx.mapM fun e =>
    match e.1.ins, branchTo l e.1 with
    | some i, some j =>
      let i' := withDist i (((nth pos j).getD 0 : Int) - ((nth pos e.2).getD 0 : Int))
      if i'.wf then encode i' else none
    | _, _ => some ((hs.drop e.1.at_).take e.1.len)

/-- Passes to a fixed point, 16 at most (R368). -/
def placeAll (l : List PIns) (hs : List Half) (entries : List Nat) : Nat → List Nat → Option (List Nat × Nat × List (List Half))
  | 0, _ => none
  | fuel + 1, lens =>
    let (pos, fin) := placePass entries l lens 0
    match recode l hs pos with
    | none => none
    | some ws =>
      let lens' := ws.map fun w => w.length
      if lens' = lens then some (pos, fin, ws) else placeAll l hs entries fuel lens'

/-- A placed instruction: native position, halfwords, and whether it is a target; `call` says that padding after it is entered. -/
structure Placed1 where
  pos : Nat
  ws : List Half
  target : Bool
  call : Bool
  deriving DecidableEq, Repr

def isCall (p : PIns) : Bool :=
  match p.ins with
  | some (.call _) => true
  | some (.callr _) => true
  | _ => false

/-- The stream with NOPs in its gaps: halfword, START and TARGET of each place up to the end of the last line. -/
def fillGaps (fin : Nat) : List Placed1 → Nat → Bool → List (Half × Bool × Bool)
  | [], at_, call => nops (fin - at_) call
  | p :: ps, at_, call =>
    nops (p.pos - at_) call ++ (p.ws.zipIdx.map fun e => (e.1, e.2 == 0, p.target && e.2 == 0)) ++ fillGaps fin ps (p.pos + p.ws.length) p.call
where
  nops (n : Nat) (call : Bool) : List (Half × Bool × Bool) := (List.range n).map fun i => (0xF000#16, true, call && i == 0)

/-- A native line of 128 bytes (R17, R368). -/
def nativeLine (hs : List (Half × Bool × Bool)) : List Byte :=
  let bit := fun (f : Half × Bool × Bool → Bool) => hs.zipIdx.foldl (fun n e => if f e.1 then n + 2 ^ e.2 else n) 0
  leBytes 16 (bit (fun h => h.2.1) + bit (fun h => h.2.2) * 2 ^ 56 + 2 ^ 112) ++ hs.flatMap fun h => leBytes 2 h.1.toNat

/-- Native code: its bytes and the native position of each portable index. -/
structure Native where
  bytes : List Byte
  pos : List (Nat × Nat)
  deriving DecidableEq, Repr

/-- The translation of R368; none is NOFIX. -/
def translateCode (g : Img) (l : List PIns) : Option Native :=
  let hs := portableHalves g.code
  match placeAll l hs g.entries 16 (l.map fun p => p.len) with
  | none => none
  | some (pos, fin, ws) =>
    let n := (fin + 55) / 56
    let ps := (l.zip (pos.zip ws)).map fun e => { pos := e.2.1, ws := e.2.2, target := e.1.target, call := isCall e.1 : Placed1 }
    let out := fillGaps (56 * n) ps 0 false
    some { bytes := (List.range n).flatMap fun k => nativeLine ((out.drop (56 * k)).take 56), pos := (l.map fun p => p.at_).zip pos }

/-- The native byte address of a portable index (R368). -/
def nativeAddr (v : Native) (base : Word) (n : Nat) : Word :=
  base + streamAddr (((v.pos.find? fun e => e.1 == n).map fun e => e.2).getD 0 : Nat)

/-- First byte of the data area (R388). -/
def dataBase (v : Native) (base : Word) : Word := BitVec.ofNat 64 ((base.toNat + v.bytes.length + 4095) / 4096 * 4096)

/-- The image with its relocated doublewords and the native addresses in its patterns (R362, R368, R388). -/
def relocate (g : Img) (v : Native) (base : Word) : Img :=
  let put := fun (b : List Byte) (o : Nat) (w : Word) => b.take o ++ leBytes 8 w.toNat ++ b.drop (o + 8)
  let g := g.relocs.foldl (fun g r =>
    match relocAt g r with
    | none => g
    | some a =>
      let old := relocGet g a
      let w := if relocKind r then dataBase v base + BitVec.ofNat 64 old else nativeAddr v base old
      match a with
      | .data o => { g with data := put g.data o w }
      | .spad i o => { g with spads := g.spads.zipIdx.map fun e => if e.2 = i then (e.1.1, put e.1.2 o w) else e.1 }) g
  { g with recs := g.recs.map fun r =>
      if r.1 = 7 then (r.1, r.2.1, put r.2.2 8 (nativeAddr v base (word8 r.2.2 8) - 16)) else r }

-- Checks of the signature and the rollback counter (R364, R365)

/-- Load status of the signature and rollback checks, 0 if they pass (R364 to R366). -/
def signStatus (s : State) (g : Img) : Nat :=
  let dig := shake256
  match s.nv.keys.find? fun k => leNat ((dig k).take 8) == g.signer && dig k == dig g.key with
  | none => 2
  | some k =>
    if !slhVerify k (dig g.body) g.sig then 3
    else if (s.nv.ids.find? fun e => e.1 == g.imageId).any fun e => decide (g.rbc < e.2) then 4
    else 0

-- Applying the records (R369)

/-- A record applied: core, type, index, and the descriptor a pattern held before. -/
structure Done where
  site : Nat
  typ : Nat
  ix : Nat
  old : Option (List Byte)
  deriving DecidableEq, Repr

/-- Applies one record on a core: the state, its status, and what to undo. -/
def applyRec (s : State) (site : Nat) (r : Nat × Nat × List Byte) : State × Nat × List Done :=
  let i := r.2.1
  let d := leNat r.2.2
  match r.1 with
  | 6 =>
    let st := chsetStatus (getCore s site) false i d
    if st = 0 then (updCore s site fun c => putChan c i d, 0, [⟨site, 6, i, none⟩]) else (s, st, [])
  | 7 =>
    let st := patsetStatus s site i d
    let old := (tget (getCore s site).pats i).map fun p => p.raw
    if st = 0 then (putPat s site i d, 0, [⟨site, 7, i, old⟩]) else (s, st, [])
  | 8 =>
    let st := tsetStatus s site i d
    if st = 0 then (updCore s site fun c => setTile c i (tileOf d), 0, []) else (s, st, [])
  | _ =>
    let cl := coreCluster site
    let st := drnldStatus s cl i r.2.2
    if st = 0 then (loadDrain s cl i r.2.2, 0, []) else (s, st, [])

/-- Applies records in order up to the first that fails. -/
def applyRecs (site : Nat) : List (Nat × Nat × List Byte) → State → List Done → State × Nat × List Done
  | [], s, ds => (s, 0, ds)
  | r :: rs, s, ds =>
    let y := applyRec s site r
    if y.2.1 = 0 then applyRecs site rs y.1 (y.2.2 ++ ds) else (y.1, y.2.1, ds)

/-- Undoes what was applied, newest first (R369). -/
def undoRecs (s : State) (ds : List Done) : State :=
  ds.foldl (fun s d =>
    if d.typ = 6 then clearChan s d.site d.ix
    else match d.old with
      | some b => putPat s d.site d.ix (leNat b)
      | none => updCore s d.site fun c => clearPat c d.ix) s

/-- Spad sections and records on the named cores; a drain image once for each cluster (R363, R369). The status of the first record that
failed, or 0. -/
def applyAll (g : Img) : List Nat → List Nat → State → List Done → State × Nat × List Done
  | [], _, s, ds => (s, 0, ds)
  | site :: rest, cls, s, ds =>
    let s := updCore s site fun c =>
      let c := freshen c (g.spads.map fun p => (p.1, p.2.length))
      { c with spad := g.spads.foldl (fun m p => writeBytes m p.1 p.2) c.spad }
    let rs := g.recs.filter fun r => r.1 != 9 || !cls.contains (coreCluster site)
    let y := applyRecs site rs s ds
    if y.2.1 = 0 then applyAll g rest (coreCluster site :: cls) y.1 y.2.2 else y

/-- Cores of a partition that hold its user numbers, by site. -/
def partSites (s : State) (p : Nat) : List Nat :=
  (getPart s p).clusters.flatMap fun cl => ((List.range 4).map (clusterSite cl)).filter fun x => (getCore s x).part == some p

/-- Drops the lines of a code range from an instruction cache (R369, R293). -/
def dropRange (c : Core) (base n : Nat) : Core := (List.range n).foldl (fun c k => dropLine c (base + 128 * k)) c

/-- How a load ends: with a status, or not yet: it waits on a ticket, or for something else. -/
inductive LoadRes
  | status (s : State) (n : Nat)
  | waits (s : State) (t : Option (BitVec 16 × Endpoint))
  deriving DecidableEq, Repr

/-- Makes a translated image resident on cores (R369, R388): the writes complete first, then spad sections and records. The lines of the
code, and those of the image it replaces, leave the instruction cache of every working core of the partition (R315). -/
def residentOn (s : State) (part : Nat) (src : Endpoint) (g : Img) (v : Native) (base : Word) (sites : List Nat) : LoadRes :=
  let g := relocate g v base
  if g.spads.any fun p => decide (Config.frameBase < p.1 + p.2.length) then .status s 8
  else match homeWrite part src (v.bytes.length / 4096 + 2) base v.bytes s with
    | .waits s t => .waits s t
    | .refused s => .status s 8
    | .done s =>
      match homeWrite part src (g.data.length / 4096 + 2) (dataBase v base) g.data s with
      | .waits s t => .waits s t
      | .refused s => .status s 8
      | .done s =>
        let n := v.bytes.length / 128
        let all := if part = fwPart then sites else (partSites s part).filter (working s)
        let drop := fun (s : State) (at_ n : Nat) => all.foldl (fun s x => updCore s x fun c => dropRange c at_ n) s
        let s := drop s base.toNat n
        let y := applyAll g sites [] s []
        if y.2.1 ≠ 0 then .status (undoRecs y.1 y.2.2) 7
        else if part = fwPart then .status y.1 0
        else
          let im : Image :=
            { dp := shake256 g.body, dn := shake256 v.bytes, version := g.version, rbc := g.rbc, codeBase := base.toNat, nLines := n }
          let old := (getPart y.1 part).image
          let s := match old with
            | some o => drop y.1 o.codeBase o.nLines
            | none => y.1
          .status (updPart s part fun p => { p with image := some im }) 0

end Sys2Proof.Machine
end

