-- ==== Sys2Proof/Machine/BootEv.lean ====
section
/-! DEFINITION. Machine/BootEv.lean: power-on, discovery, numbering and the boot responder (spec/22 R376 to R384). -/

namespace Sys2Proof.Machine

/-- A die is in service (R376). -/
def dieUp (s : State) (die : Nat) : Bool := decide (die < 4) && !(getDie s die).dark

/-- The first die in service. -/
def firstDie (s : State) : Nat := ([0, 1, 2, 3].find? (dieUp s)).getD 0

-- The boot CSRs

/-- DISC_WRITE (R381). -/
def execDiscWrite (die : Nat) (v : Word) (s : State) : Res := .next (if dieUp s die then discStart s die v else s)
/-- MAPW_WRITE (R382). -/
def execMapwWrite (die : Nat) (v : Word) (s : State) : Res := .next (if dieUp s die then mapStage s die v else s)
/-- MAPGO_WRITE (R382). -/
def execMapgoWrite (die : Nat) (v : Word) (s : State) : Res := .next (if dieUp s die then mapGo s die v else s)
/-- DIEBASE_WRITE (R380). -/
def execDiebaseWrite (v : Word) (s : State) : Res := .next (dieBaseWrite s (ctrlSite s (firstDie s)) v)

/-- A recipient has installed the map of a die. -/
def mapDone (s : State) (die : Nat) (e : Endpoint) : State :=
  let d := getDie s die
  setDie s die { d with mapWait := d.mapWait.filter fun x => x != e }

/-- Changes what a landing of a die knows. -/
def updLanding (s : State) (l : Nat) (f : Die → Fin 16 → Die) : State := setDie s (l / 16) (f (getDie s (l / 16)) (Fin.ofNat 16 l))

/-- The user number that names a site under the first `ver` commits of its die, after any move (R300, R382). -/
def numberOf (s : State) (site ver : Nat) : Option Nat :=
  let cs := (getDie s (siteDie site)).commits.take ver
  (cs.flatMap fun m => (List.range m.sites.length).map fun i => m.base + i).find? fun lc =>
    (mapLookup lc cs none).map (fun x => (tget s.moved lc).getD x) == some site

/-- A core NI has installed a map and knows its own number by it. -/
def installAt (s : State) (site n : Nat) : State :=
  updCore s site fun c => { c with mapVer := n, lcore := if c.ctrl then none else numberOf s site n }

/-- MAP_INSTALL: a core NI or landing replaces its map, or learns the die bases (R380, R382). -/
def execMapInstall (pkt : Nat) (s : State) : Res :=
  match arriving s pkt with
  | some p =>
    match p.dst, p.body with
    | .core site, .mapCommit die n => .next (mapDone (installAt (consumePkt s pkt) site n) die p.dst)
    | .landing l, .mapCommit die n =>
      .next (mapDone (updLanding (consumePkt s pkt) l fun d i => { d with landVer := d.landVer.set i n }) die p.dst)
    | .core site, .dieBase n => .next (updCore (consumePkt s pkt) site fun c => { c with baseVer := n })
    | .landing l, .dieBase n => .next (updLanding (consumePkt s pkt) l fun d i => { d with landBase := d.landBase.set i n })
    | _, _ => .next s
  | none => .next s

/-- MAP_NOTICE: every recipient has installed the map: the control core gets COUNT on channel CHAN, and a MAPGO that waited takes
effect (R382). -/
def execMapNotice (die : Nat) (s : State) : Res :=
  let d := getDie s die
  match d.mapQueue with
  | v :: rest =>
    if dieUp s die && d.mapWait.isEmpty then
      let s := setDie s die { d with mapQueue := rest }
      let s := fwSend s die (fwMsg s die 2 s.devid (0x1FF0 + die) (bits v 32 8) false [BitVec.ofNat 64 (bits v 16 10)])
      .next (match rest with
        | w :: _ => mapCommitNow s die w
        | [] => s)
    else .next s
  | [] => .next s

-- Power-on

/-- Sites and dies that fail self-test, in a form the machine keeps: codes of R381, one for each site (R376). -/
def failures (failed : List (Nat × Nat)) : Table Nat :=
  failed.foldl (fun t e => if e.1 < Config.nSites ∧ 1 ≤ e.2 ∧ e.2 ≤ 6 then tset t e.1 e.2 else t) []

/-- A die stays dark when its router or link test failed (R376); so does one with fewer than the 1,000 working cores that R2 asks for, which
no package delivered has (notes/assumptions/90). -/
def dieDark (failed : Table Nat) (darkDies : List Nat) (d : Nat) : Bool :=
  darkDies.contains d || decide (((List.range 1024).filter fun i => (tget failed (d * 1024 + i)).isNone).length < 1000)

/-- The machine after self-test: the reset state with the sites that failed; the nonvolatile store, the memory outside the package and
the device number keep their values (R326, R342, R376). -/
def selfTested (s : State) (failed : List (Nat × Nat)) (darkDies : List Nat) : State :=
  let f := failures failed
  let dark := (List.range 4).filter (dieDark f darkDies)
  { State.reset with
    agenda := s.agenda, stepNo := s.stepNo, time := s.time, devid := s.devid, nv := s.nv, mem := s.mem.filter fun c => decide (2 ^ 64 ≤ c.1),
    failed := f, dies := Vector.ofFn fun i : Fin 4 => { dark := dark.contains i.val },
    out := s.out ++ dark.map fun d => HostOut.machineCheck (d * 1024) 1 }

/-- The boot ROM copies an image into HBM (R378). -/
def copyToHbm (s : State) (at_ : Nat) (bs : List Byte) : State :=
  if at_ + bs.length ≤ Config.hbmBytes then { s with mem := writeBytes s.mem at_ bs } else s

/-- The boot ROM makes the firmware image resident on a control core (R378, R369). -/
def bootFirmware (s : State) (die : Nat) : State :=
  match parseImg s.nv.firmware with
  | none => s
  | some g =>
    match (portableCode g).bind (translateCode g) with
    | none => s
    | some v =>
      match residentOn s fwPart (.core (ctrlSite s die)) g v (BitVec.ofNat 64 Config.fwCodeBase) [ctrlSite s die] with
      | .status s _ => s
      | .waits s _ => s

/-- The boot ROM starts the firmware of a die: its image is made resident, then one message of KIND 2 and COUNT 0 is placed on channel
0 of the control core (R378). -/
def startFirmware (s : State) (die : Nat) : State :=
  let s := bootFirmware s die
  let site := ctrlSite s die
  let m : Msg := { fwMsg s die 2 s.devid (0x1FF0 + die) 0 false [] with time := BitVec.ofNat 32 s.time, srcCore := 0x1FFE }
  match deliver s site m fwPart true (.core site) .report with
  | .ack s => s
  | .refused s _ => s
  | .ticket s _ => s
  | .spilling s => s
  | .busy => s

/-- POWER_ON (R376 to R379). -/
def execPowerOn (failed : List (Nat × Nat)) (darkDies : List Nat) (s : State) : Res :=
  let s := selfTested s failed darkDies
  let s := copyToHbm (copyToHbm s Config.fwImageAddr s.nv.firmware) 0x200000 s.nv.coreImage
  let s := ((List.range 4).filter (dieUp s)).foldl startFirmware s
  .next { s with focus := ctrlSite s (firstDie s) }

-- The boot responder

/-- A boot command breaks its form (R383, R384). -/
def badBoot (m : Msg) : Bool :=
  let w := m.words[0]
  m.count != 5 || bits w 32 32 != 0 || bits w 21 3 != 0 || bits w 0 19 % 8 != 0 || decide (Config.frameBase < bits w 0 19 + 32)

/-- The four data words of a boot command. -/
def bootWords (m : Msg) : List Word := (m.words.toList.drop 1).take 4

/-- The sites a boot command is forwarded to: the working sites of the rows below in its own column, no control core (R384). -/
def columnBelow (s : State) (site : Nat) : List Nat :=
  ((List.range 32).filter fun r => decide (siteRow site < r)).map (fun r => siteAt (siteDie site) r (siteCol site)) |>.filter fun x =>
    working s x && !(getCore s x).ctrl

/-- A message of the boot responder of a site, to sites by their place. -/
def bootSend (s : State) (site : Nat) (m : Msg) (sites : List Nat) : State :=
  injectAll s site (sites.map fun x =>
    { uid := 0, seqn := 0, slot := 0, act := 0, op := .msg { m with dstCore := coreNumber s x }, addr := 0, home := .core x, ordered := true,
      phys := true, dest := .none, cntL := false, cntS := false, cntE := false, status := .held, part := fwPart, winbase := 0, retAt := 0 })

/-- Handles one boot command (R384). -/
def bootStep (s : State) (site : Nat) (m : Msg) : State :=
  if badBoot m then updCore s site fun c => countEv c 16
  else
    let w := m.words[0]
    let ws := bootWords m
    let off := bits w 0 19
    let s := updCore s site fun c =>
      let c := freshen c [(off, 32)]
      { c with spad := writeBytes c.spad off (ws.flatMap fun x => leBytes 8 x.toNat), bootSum := ws.foldl (fun a x => a + x) c.bootSum }
    let msg : Msg := { srcCore := coreNumber s site, srcDev := s.devid, dstDev := s.devid }
    let s :=
      if w.getLsbD 19 then
        bootSend s site { msg with count := 5, words := words6 (((w &&& ~~~ 0x80000#64) : Word) :: ws) } (columnBelow s site)
      else s
    if w.getLsbD 20 then
      bootSend s site { msg with kind := 2, count := 1, chan := bits w 24 8, words := words6 [(getCore s site).bootSum] }
        [ctrlSite s (siteDie site)]
    else s

/-- BOOT_COMMAND: the boot responder takes the next message of channel 0; its pool slot is freed at the end (R384). -/
def execBootCommand (site : Nat) (s : State) : Res :=
  let c := getCore s site
  if !working s site || !c.boot then .next s
  else match ((tget c.chans 0).bind fun x => x.queue.head?) with
    | none => .next s
    | some q =>
      let s := bootStep s site q.msg
      .next (match popMsg s site 0 with
        | some r => r.2
        | none => s)

end Sys2Proof.Machine
end

