-- ==== Sys2Proof/Machine/Firmware.lean ====
section
/-! DEFINITION. Machine/Firmware.lean: the firmware of the control cores: services (spec/21 R372, R373), loads (R366), the nightfall
message (spec/07 R136, R374), remote launch (spec/20 R348), power and management (R375, spec/18 R326), building a partition (spec/16
R286), trace samples and dbgctl (spec/18 R321, R322). -/

namespace Sys2Proof.Machine

-- Service requests (R372)


/-- The partition whose request a message is: the sender's, on this device. -/
def askPart (s : State) (m : Msg) : Option Nat := senderPart s m

/-- Firmware takes no request of a partition now: an IINV of it is outstanding, or it is off the device. -/
def askHeld (s : State) (p : Nat) : Bool :=
  (s.invs.any fun e => e.2.part == p) || (getPart s p).dark || (getPart s p).halting

/-- The request that is served next: the oldest on channel 8 of the control core, of a partition that is not being served (R372). -/
def firstAsk (s : State) (die : Nat) : Option QMsg :=
  if !dieUp s die then none
  else match tget (getCore s (ctrlSite s die)).chans 8 with
    | none => none
    | some x => x.queue.find? fun q => !(askPart s q.msg).any (askHeld s)

/-- Takes a message out of a channel of a control core, wherever it stands in the queue. -/
def takeMsg (s : State) (site ch : Nat) (q : QMsg) : State :=
  match tget (getCore s site).chans ch with
  | none => s
  | some x => wakeChans (updCore s site fun c => setChan c ch { x with queue := x.queue.erase q }) site [ch]

def askCode (m : Msg) : Nat := bits m.words[0] 0 8
/-- The core that sent a request is its partition's supervisor core (R372, R374). -/
def fromSupervisor (s : State) (m : Msg) : Bool := (askPart s m).any fun p => (getPart s p).supcore == some m.srcCore

/-- The request a service event serves, and its partition: the next one, when it has that code and comes from a supervisor core. -/
def ask (s : State) (die code : Nat) : Option (QMsg × Nat) :=
  match firstAsk s die with
  | none => none
  | some q => if askCode q.msg = code ∧ fromSupervisor s q.msg then (askPart s q.msg).map fun p => (q, p) else none

/-- Sends the reply to the reply name, on the sender's device (R372). -/
def replyTo (s : State) (die dev : Nat) (name : Word) (code status : Nat) (value : Word) : State :=
  fwSend s die (fwMsg s die 2 dev (bits name 10 13) (bits name 23 8) false [BitVec.ofNat 64 (code + status * 2 ^ 8), value])

def replyAsk (s : State) (die : Nat) (m : Msg) (code status : Nat) (value : Word) : State := replyTo s die m.srcDev m.words[1] code status value

/-- Serves a request by f, which gives the state, the status and the value of the reply. -/
def serve (die code : Nat) (f : Msg → Nat → State → State × Nat × Word) (s : State) : Res :=
  match ask s die code with
  | none => .next s
  | some (q, p) =>
    let r := f q.msg p (takeMsg s (ctrlSite s die) 8 q)
    .next (replyAsk r.1 die q.msg code r.2.1 r.2.2)

def stOK : Nat := 0
def stDENIED : Nat := 1
def stBADSERVICE : Nat := 2
def stBADTARGET : Nat := 3
def stBADCSR : Nat := 4
def stBADARG : Nat := 5

/-- A word from word k on is nonzero (R372). The unused bits of word 0 are ignored (R5). -/
def unusedSet (m : Msg) (k : Nat) : Bool := (m.words.toList.drop k).any fun w => w != 0

/-- The CSRs SETCSR writes (R373). -/
def settable (n : Nat) : Bool :=
  [0x104, 0x110, 0x120, 0x130, 0x140, 0x150, 0x300, 0x301, 0x302].contains n || decide (0x400 ≤ n ∧ n ≤ 0x7FF)
/-- CSRs of slot scope (R286). -/
def slotCsr (n : Nat) : Bool := [0x002, 0x010, 0x011, 0x012, 0x030, 0x040, 0x050, 0x100, 0x101, 0x102, 0x103, 0x105].contains n

/-- SETCSR, request and effect (R373). -/
def setcsrDo (m : Msg) (p : Nat) (s : State) : State × Nat × Word :=
  let lc := m.words[2].toNat
  let n := m.words[3].toNat
  if unusedSet m 5 then (s, stBADARG, 0)
  else if !inPart s p lc then (s, stBADTARGET, 0)
  else if !settable n then (s, stBADCSR, 0)
  else (csrWrite s ((siteOf s lc).getD 0) 0 n m.words[4], stOK, 0)

def execSetcsr (die : Nat) (s : State) : Res := serve die 1 setcsrDo s

/-- GETCSR, request and effect: word 4 names a slot for a slot CSR and is unused otherwise (R373). -/
def getcsrDo (m : Msg) (p : Nat) (s : State) : State × Nat × Word :=
  let lc := m.words[2].toNat
  let n := m.words[3].toNat
  if unusedSet m (if slotCsr n then 5 else 4) then (s, stBADARG, 0)
  else if !inPart s p lc then (s, stBADTARGET, 0)
  else if decide (0x800 ≤ n) || !csrListed false n then (s, stBADCSR, 0)
  else if slotCsr n && decide (3 < m.words[4].toNat) then (s, stBADARG, 0)
  else (s, stOK, csrRead s ((siteOf s lc).getD 0) (Fin.ofNat 4 m.words[4].toNat) n)

def execGetcsr (die : Nat) (s : State) : Res := serve die 2 getcsrDo s

/-- A channel name names a channel of a core of the partition (R374). Bits [63:32], and DEV under OWN = 1, must be zero and are ignored: R140
states their fate for the sends alone (R5, R138). -/
def nameInPart (s : State) (p : Nat) (name : Word) : Bool :=
  (name.getLsbD 31 || bits name 0 10 == s.devid) && inPart s p (bits name 10 13)

/-- NIGHTCH (R373, R374). -/
def nightchDo (m : Msg) (p : Nat) (s : State) : State × Nat × Word :=
  let name := m.words[2]
  if unusedSet m 3 then (s, stBADARG, 0)
  else if name ≠ 0 ∧ nameInPart s p name = false then (s, stBADTARGET, 0)
  else (updPart s p fun x => { x with nightch := name }, stOK, (getPart s p).nightch)

def execNightch (die : Nat) (s : State) : Res := serve die 4 nightchDo s

/-- SUPER (R373, R374). -/
def superDo (m : Msg) (p : Nat) (s : State) : State × Nat × Word :=
  let lc := m.words[2].toNat
  if unusedSet m 3 then (s, stBADARG, 0)
  else if !inPart s p lc then (s, stBADTARGET, 0)
  else (updPart s p fun x => { x with supcore := some lc }, stOK, BitVec.ofNat 64 ((getPart s p).supcore.getD 0))

def execSuper (die : Nat) (s : State) : Res := serve die 5 superDo s

/-- BADSERVICE: a code that R373 does not list, or a sender that is no supervisor core (R372). -/
def execBadservice (die : Nat) (s : State) : Res :=
  match firstAsk s die with
  | none => .next s
  | some q =>
    let code := askCode q.msg
    let s' := takeMsg s (ctrlSite s die) 8 q
    if !fromSupervisor s q.msg then .next (replyAsk s' die q.msg code stDENIED 0)
    else if code = 0 ∨ 6 < code then .next (replyAsk s' die q.msg code stBADSERVICE 0)
    else .next s

-- IINV (R315, R316, R373)

/-- Sends the invalidation message to every working core of the partition, each through the control core of its die. -/
def startInval (s : State) (die p : Nat) (m : Msg) : State :=
  let line := m.words[2]
  let sites := partSites s p
  if sites.isEmpty then replyAsk s die m 3 stOK 0
  else
    let id := (findFrom (fun i => (tget s.invs i).isNone) 64 0).getD 64
    let s := { s with invs := tset s.invs id { die := die, part := p, reply := m.words[1], total := sites.length, left := sites.length } }
    sites.foldl (fun s x =>
      sendPkt s { src := .core (ctrlSite s (siteDie x)), dst := .core x, cls := .sys, body := .inval line id }) s

/-- IINV_SERVICE (R373). -/
def execIinvService (die : Nat) (s : State) : Res :=
  match ask s die 3 with
  | none => .next s
  | some (q, p) =>
    let s := takeMsg s (ctrlSite s die) 8 q
    let a := q.msg.words[2]
    if unusedSet q.msg 3 then .next (replyAsk s die q.msg 3 stBADARG 0)
    else if bits a 0 7 ≠ 0 ∨ bits a 57 7 ≠ 0 then .next (replyAsk s die q.msg 3 stBADARG 0)
    else .next (startInval s die p q.msg)

/-- INVALIDATION_MESSAGE: the NI removes the line and acknowledges; with the last acknowledgement firmware replies (R293, R315,
R316). -/
def execInvalidationMessage (pkt : Nat) (s : State) : Res :=
  match arriving s pkt with
  | some p =>
    match p.dst, p.body with
    | .core site, .inval line id =>
      let s := updCore (consumePkt s pkt) site fun c => dropLine c (line.toNat / 128 * 128)
      match tget s.invs id with
      | none => .next s
      | some v =>
        if v.left ≤ 1 then
          .next (replyTo { s with invs := tdel s.invs id } v.die s.devid v.reply 3 stOK (BitVec.ofNat 64 v.total))
        else .next { s with invs := tset s.invs id { v with left := v.left - 1 } }
    | _, _ => .next s
  | none => .next s

-- Loading an image (R364 to R366)

/-- How reading bytes through the homes ends. -/
inductive ReadRes
  | done (s : State) (bytes : List Byte)
  | refused (s : State)
  | waits (s : State) (t : Option (BitVec 16 × Endpoint))
  deriving DecidableEq, Repr

/-- Reads bytes at a global address of a partition, page by page. -/
def homeRead (part : Nat) (src : Endpoint) : Nat → Word → Nat → List Byte → State → ReadRes
  | 0, _, _, acc, s => .done s acc
  | fuel + 1, a, n, acc, s =>
    if n = 0 then .done s acc
    else
      let k := min n (4096 - a.toNat % 4096)
      match bulkAccess s part a src (.read k) with
      | .done s (.data bs) => homeRead part src fuel (a + BitVec.ofNat 64 k) (n - k) (acc ++ bs) s
      | .done s _ => .refused s
      | .ticketed s t => .waits s (some (t, .ferry (homeFerry a)))
      | .refused => .refused s
      | .wait => .waits s none

/-- A core holds an activation, running, waiting or away (R369). -/
def holdsActivation (c : Core) : Bool := (c.slots.toList.any fun sl => sl.mode != .free) || !c.ready.isEmpty || !c.away.isEmpty

/-- The raise an accepted image calls for (R365). -/
def raiseOf (s : State) (g : Img) : Option (BitVec 32 × Nat) :=
  if g.commit && (s.nv.ids.any fun e => e.1 == g.imageId && decide (e.2 < g.rbc)) then some (g.imageId, g.rbc) else none

/-- The store after a raise (R365). -/
def raised (nv : NvStore) (r : BitVec 32 × Nat) : NvStore :=
  { nv with ids := nv.ids.map fun e => if e.1 = r.1 then (e.1, max e.2 r.2) else e, raising := none }

/-- An image that passes the checks becomes resident. A raise of its rollback counter takes two steps, between which power may be lost;
the image is resident with the second (R365, R369). -/
def accept (s : State) (part : Nat) (src : Endpoint) (g : Img) (v : Native) (base : Word) (sites : List Nat) : LoadRes :=
  match residentOn s part src g v base sites with
  | .waits t w => .waits t w
  | .status t n =>
    if n ≠ 0 then .status t n
    else match raiseOf s g with
      | none => .status t 0
      | some r =>
        if s.nv.raising = some r then .status { t with nv := raised t.nv r } 0
        else .waits { s with nv := { s.nv with raising := some r } } none

/-- The checks of R366 on an image in memory, then the residency. -/
def loadImage (s : State) (part : Nat) (src : Endpoint) (at_ base : Word) (sites : List Nat) : LoadRes :=
  if (getPart s part).image.isSome && sites.any fun x => holdsActivation (getCore s x) then .waits s none
  else match homeRead part src 2 at_ 64 [] s with
    | .waits s t => .waits s t
    | .refused s => .status s 1
    | .done s h =>
      if !headerOk h then .status s 1
      else
        let n := imgSize (imgSigoff h)
        match homeRead part src (n / 4096 + 2) at_ n [] s with
        | .waits s t => .waits s t
        | .refused s => .status s 1
        | .done s b =>
          match parseImg b with
          | none => .status s 1
          | some g =>
            let st := signStatus s g
            if st ≠ 0 then .status s st
            else match portableCode g with
              | none => .status s 5
              | some l =>
                match translateCode g l with
                | none => .status s 6
                | some v => accept s part src g v base sites

/-- The logical cores of a range. -/
def rangeCores (first count : Nat) : List Nat := (List.range count).map fun i => first + i

/-- Every number of the range is a core of the partition. -/
def rangeIn (s : State) (p first count : Nat) : Bool :=
  decide (first + count ≤ 2 ^ 13) && (rangeCores first count).all (inPart s p)

def rangeSites (s : State) (first count : Nat) : List Nat := (rangeCores first count).filterMap (siteOf s)

/-- An image address or a code base is a global virtual address; a code base is 128-byte aligned (R366). -/
def badLoadArgs (image base : Word) (count : Nat) : Bool :=
  bits image 57 7 != 0 || bits base 57 7 != 0 || bits base 0 7 != 0 || count == 0

/-- A load starts or goes on. One whose ticket has failed ends with status SPACE, as one whose store is refused (R366, R279). No status says
that it waits. -/
def tryLoad (s : State) (die : Nat) (src : LoadSource) (part : Nat) (at_ base : Word) (sites : List Nat) : State × Option Nat :=
  let mine := fun (w : LoadWait) => w.die == die && w.src == src
  let t := { s with loads := s.loads.filter fun w => !mine w }
  if s.loads.any fun w => mine w && w.failed then (t, some 8)
  else match loadImage t part (.core (ctrlSite s die)) at_ base sites with
    | .status u n => (u, some n)
    | .waits u w => ({ u with loads := u.loads ++ w.toList.map fun x => ⟨die, src, x.2, x.1, false⟩ }, none)

/-- LOAD at the request of a partition's supervisor (R373): the request stays until the load has ended. -/
def loadAsked (die : Nat) (s : State) : Res :=
  match ask s die 6 with
  | none => .next s
  | some (q, p) =>
    let m := q.msg
    let reply := fun (s : State) (st n : Nat) => Host.Outcome.next (replyAsk (takeMsg s (ctrlSite s die) 8 q) die m 6 st (BitVec.ofNat 64 n))
    let first := m.words[4].toNat
    let count := m.words[5].toNat
    if unusedSet m 6 then reply s stBADARG 8
    else if !rangeIn s p first (min count (2 ^ 13 + 1)) then reply s stBADTARGET 0
    else if badLoadArgs m.words[2] m.words[3] count then reply s stBADARG 8
    else match tryLoad s die .service p m.words[2] m.words[3] (rangeSites s first count) with
      | (s, none) => .next s
      | (s, some n) => reply s (if n = 0 then stOK else stBADARG) n

/-- LOAD (R366): for a supervisor, or for the host through the PF, which reads the load status. -/
def execLoad (die : Nat) (src : LoadSource) (s : State) : Res :=
  match src with
  | .service => loadAsked die s
  | .host p image base first count =>
    if !dieUp s die || !(getPart s p).running || (getPart s p).dark || (getPart s p).halting then .next s
    else
      let tell := fun (s : State) (n : Nat) => Host.Outcome.next { s with out := s.out ++ [HostOut.mctp [BitVec.ofNat 8 n]] }
      let a := BitVec.ofNat 64 image
      let b := BitVec.ofNat 64 base
      if !rangeIn s p first (min count (2 ^ 13 + 1)) || badLoadArgs a b count then tell s 8
      else match tryLoad s die src p a b (rangeSites s first count) with
        | (s, none) => .next s
        | (s, some n) => tell s n

-- Nightfall (R136, R374)

/-- The marked list holds no channel with a pattern that can fire. -/
def nothingMarked (c : Core) : Bool :=
  !c.marked.any fun ch => c.pats.any fun p => p.2.terms.contains ch && satisfiable c p.2

/-- A core is asleep (R136). -/
def asleep (c : Core) : Bool :=
  (c.slots.toList.all fun sl => sl.mode == .free) && c.ready.isEmpty && nothingMarked c && c.reqs.isEmpty && c.fills.isEmpty &&
    c.bulks.isEmpty && c.inbox.isEmpty && (c.tickets.toList.all fun e => e.state == .free) && c.reports.isEmpty

/-- The endpoint is a core or an adapter unit of the partition. -/
def endpointIn (s : State) (p : Nat) (e : Endpoint) : Bool :=
  match e with
  | .core site => (getCore s site).part == some p
  | .adapter cl => (getPart s p).clusters.contains cl
  | _ => false

/-- A packet belongs to a partition: it comes from it, goes to it, or carries its request. -/
def packetIn (s : State) (p : Nat) (k : Packet) : Bool :=
  endpointIn s p k.src || endpointIn s p k.dst ||
    (match k.body with
     | .req r => r.part == p
     | .forward _ r _ => r.part == p
     | .entryReq _ r => r.part == p
     | _ => false)

/-- A ferry has work of the partition on its way, or an open ticket of its sources. -/
def ferryBusy (s : State) (p : Nat) (f : Ferry) : Bool :=
  (f.recs.any fun r => r.2.sources.any (endpointIn s p)) ||
    (f.subs.any fun x => x.2.part == p && ((!x.2.jobs.isEmpty) || (!x.2.fixups.isEmpty) || x.2.defTicket.isSome)) ||
    f.notes.any fun n => n.part == p

/-- The partition has no packet on the way and no ticket open (R136). -/
def nothingMoves (s : State) (p : Nat) : Bool := !s.net.any (packetIn s p) && !s.ferries.any fun f => ferryBusy s p f.2

/-- Messages a core holds: pools, out of sequence, deque, with a stolen entry that waits for its place there, overflow rings, partials not
fired (R374). -/
def queuedOn (c : Core) : Nat :=
  c.chans.foldl (fun n x => n + x.2.queue.length + x.2.ovf.length) 0 + c.deque.length + boolBit c.stolen.isSome +
    c.pats.foldl (fun n p => n + progCount p.2 + p.2.done.foldl (fun n d => n + d.k) 0) 0

/-- The die whose firmware hears of a partition's nightfall: that of its supervisor core (R136). -/
def nightDie (s : State) (part : Nat) : Nat := (((getPart s part).supcore.bind (siteOf s)).map siteDie).getD 0

/-- The nightfall trap is raised: every core of the partition is asleep and nothing of it is on its way (R136). -/
def nightfalls (s : State) (part : Nat) : Bool :=
  let p := getPart s part
  p.running && p.armed && !p.dark && !p.halting && ((partSites s part).all fun x => asleep (getCore s x)) && nothingMoves s part

/-- NIGHTFALL (R136): the trap goes to firmware as a packet of the SYS class, from the control core's own NI (R332; notes/assumptions/37). -/
def execNightfall (part : Nat) (s : State) : Res :=
  if nightfalls s part then
    let x := Endpoint.core (ctrlSite s (nightDie s part))
    .next (sendPkt (updPart s part fun x => { x with armed := false }) { src := x, dst := x, cls := .sys, body := .nightfall part })
  else .next s

/-- Firmware hears of a partition's nightfall: it sends the nightfall message, or the event is counted and reported (R136, R374). -/
def nightHeard (s : State) (part : Nat) : State :=
  let p := getPart s part
  if p.nightch = 0 then
    { updPart s part fun x => { x with nightEvents := x.nightEvents + 1 } with out := s.out ++ [.mctp [0x10, BitVec.ofNat 8 part]] }
  else
    let n := (partSites s part).foldl (fun n x => n + queuedOn (getCore s x)) 0
    fwSendTo s (nightDie s part) 2 p.nightch false
      [BitVec.ofNat 64 (0x10 + part * 2 ^ 8), BitVec.ofNat 64 (min n (2 ^ 64 - 1)), BitVec.ofNat 64 s.time]

/-- A packet of TYPE 12 that no event of the opcode table takes: a router passes the discovery flood on and its site replies (R381); the
control core hears of a nightfall (R136). -/
def managePkt (s : State) (pkt : Nat) : State :=
  match arriving s pkt with
  | some p =>
    match p.dst, p.body with
    | .core x, .flood row col => floodAt (consumePkt s pkt) x row col
    | .core _, .nightfall part => nightHeard (consumePkt s pkt) part
    | _, _ => s
  | none => s

-- Remote launch (R348, R349)

/-- The sender of a launch may import from the partition: an export window of it allows its device and partition (R345, R348). -/
def launchAllowed (s : State) (p : Nat) (q : QMsg) : Bool :=
  let part := if peerPart ≤ q.part then q.part - peerPart else q.part
  s.windows.any fun w =>
    w.2.size != 0 && w.2.ownpart == p && decide (w.2.idev0 ≤ q.msg.srcDev ∧ q.msg.srcDev ≤ w.2.idev1) && (w.2.ipart == 63 || w.2.ipart == part)

/-- The residency report (R349). -/
def launchReport (s : State) (die : Nat) (m : Msg) (status part version : Nat) (w1 : Word) : State :=
  let name := m.words[2]
  fwSend s die { fwMsg s die 0 m.srcDev (bits name 10 13) (bits name 23 8) false
      [BitVec.ofNat 64 (status + part * 2 ^ 8 + version * 2 ^ 16), w1] with srcCore := m.srcCore, srcDev := m.srcDev }

/-- How a launch ends: the request leaves its channel and the report goes. None while the target's overflow refuses the message or its NI
writes a spill; a launch whose message is itself being spilled ends with the spill, and keeps its place until then. -/
def launchOn (s : State) (die : Nat) (q : QMsg) : Option State :=
  let m := q.msg
  let launchReport := fun (s : State) => launchReport (takeMsg s (ctrlSite s die) 0 q)
  let name := m.words[1]
  let lc := bits name 10 13
  let here := name.getLsbD 31 || bits name 0 10 == s.devid
  match (if here then siteOf s lc else none) with
  | none => some (launchReport s die m 3 0xFF 0 0)
  | some site =>
    match (getCore s site).part with
    | none => some (launchReport s die m 3 0xFF 0 0)
    | some p =>
      match (getPart s p).image with
      | none => some (launchReport s die m 1 p 0 0)
      | some im =>
        if leNat (im.dp.take 8) ≠ m.words[0].toNat then some (launchReport s die m 1 p im.version 0)
        else if !launchAllowed s p q then some (launchReport s die m 2 p im.version 0)
        else if (tget (getCore s site).chans (bits name 23 8)).isNone then some (launchReport s die m 3 p im.version 0)
        else
          let t := { fwMsg s die 0 s.devid lc (bits name 23 8) true [m.words[3], m.words[4], m.words[5]] with time := BitVec.ofNat 32 s.time }
          let r : ReqPkt :=
            { uid := 0, seq := 0, op := .msg t, addr := 0, ordered := false, head := false, last := false, part := fwPart, winbase := 0,
              srcCore := 0x1FF0 + die, slot := 0, act := 0 }
          let dn := BitVec.ofNat 64 (leNat (im.dn.take 8))
          match messageAt s site (.core (ctrlSite s die)) r t (.launch die q p im.version dn) with
          | some (s, some .ack) => some (launchReport s die m 0 p im.version dn)
          | some (s, some (.refusePerm code)) => some (launchReport s die m 4 p im.version (BitVec.ofNat 64 code))
          | some (s, none) => some s
          | _ => none

/-- REMOTE_LAUNCH: the next launch on channel 0 of logical core 0x1FF0 (R348). -/
def execRemoteLaunch (die : Nat) (s : State) : Res :=
  if die ≠ 0 ∨ dieUp s 0 = false then .next s
  else match (tget (getCore s (ctrlSite s 0)).chans 0).bind fun x => x.queue.find? fun q => q.msg.kind == 0 && q.msg.count == 6 with
    | none => .next s
    | some q => .next ((launchOn s die q).getD s)

-- Power, management, lifetime records (R375, R326)

/-- THERMAL_STEP: one step of 100 MHz down above 100 °C, or up below 90 °C, to 1.8 GHz at most (R375). -/
def execThermalStep (celsius : Nat) (s : State) : Res :=
  if 100 < celsius then .next { s with clock := s.clock - 100 }
  else if celsius < 90 then .next { s with clock := min (s.clock + 100) 1800 }
  else .next s

/-- Adds seconds to a bin of a histogram: die, bin, seconds. -/
def addBin (l : List (Nat × Nat × Nat)) (die bin n : Nat) : List (Nat × Nat × Nat) :=
  if l.any fun e => e.1 == die && e.2.1 == bin then l.map fun e => if e.1 = die ∧ e.2.1 = bin then (die, bin, e.2.2 + n) else e
  else l ++ [(die, bin, n)]

def addSample (nv : NvStore) (x : LifeSample) : NvStore :=
  if x.die < 4 ∧ x.tempBin < 16 ∧ x.voltBin < 16 then
    { nv with temp := addBin nv.temp x.die x.tempBin x.seconds, volt := addBin nv.volt x.die x.voltBin x.seconds }
  else nv

/-- LIFETIME_UPDATE: the histograms gain the samples, and the counts of the sites the errors corrected since; those of stacks, tickets and
ticket failures are counted as they occur (R326). -/
def execLifetimeUpdate (samples : List LifeSample) (s : State) : Res :=
  let nv := samples.foldl addSample s.nv
  let nv := s.cores.foldl (fun (nv : NvStore) (e : Nat × Core) =>
    let x := e.1 % Config.nSites
    if e.2.corrected = 0 then nv else { nv with siteErrs := tset nv.siteErrs x ((tget nv.siteErrs x).getD 0 + e.2.corrected) }) nv
  .next { s with nv := nv, cores := s.cores.map fun e => (e.1, { e.2 with corrected := 0 }) }

/-- The lifetime records as bytes: each table with its length, entry by entry. -/
def lifetimeBytes (nv : NvStore) : List Byte :=
  let tab := fun (t : Table Nat) => leBytes 8 t.length ++ t.flatMap fun e => leBytes 8 e.1 ++ leBytes 8 e.2
  let hist := fun (l : List (Nat × Nat × Nat)) => leBytes 8 l.length ++ l.flatMap fun e => leBytes 8 e.1 ++ leBytes 8 e.2.1 ++ leBytes 8 e.2.2
  hist nv.temp ++ hist nv.volt ++ tab nv.siteErrs ++ tab nv.stackErrs ++ tab nv.ferryTickets ++ tab nv.ferryFails

/-- MCTP_REQUEST (R375, R364, R365, R326, R378). -/
def execMctpRequest (req : MgmtReq) (s : State) : Res :=
  let tell := fun (nv : NvStore) (b : List Byte) => Host.Outcome.next { s with nv := nv, out := s.out ++ [HostOut.mctp b] }
  match req with
  | .readSensors => tell s.nv ((List.range 4).map fun d => BitVec.ofNat 8 (Config.freeSensor (4 * s.stepNo + d)))
  | .readLifetime => tell s.nv (lifetimeBytes s.nv)
  | .firmwareUpdate image => tell { s.nv with firmware := image } [0]
  | .coreImageUpdate image => tell { s.nv with coreImage := image } [0]
  | .enrolKey key => if s.nv.keys.length < 8 then tell { s.nv with keys := s.nv.keys ++ [key] } [0] else tell s.nv [1]
  | .registerImageId id =>
    if s.nv.ids.any fun e => e.1 == id then tell s.nv [0]
    else if s.nv.ids.length < 256 then tell { s.nv with ids := s.nv.ids ++ [(id, 0)] } [0]
    else tell s.nv [1]

/-- POWER_LOSS: everything but the nonvolatile store and the memory outside the package is lost, and nothing runs until power comes
back; a raise in progress leaves the old value or RBC (R365, R326). -/
def execPowerLoss (raised_ : Bool) (s : State) : Res :=
  let nv := match s.nv.raising with
    | some r => if raised_ then raised s.nv r else { s.nv with raising := none }
    | none => s.nv
  .next { State.reset with
    agenda := s.agenda, stepNo := s.stepNo, time := s.time, devid := s.devid, nv := nv, out := s.out,
    mem := s.mem.filter fun c => decide (2 ^ 64 ≤ c.1), dies := Vector.replicate 4 { dark := true } }

-- Debug (R321, R322)

/-- TRACE_SAMPLE: the sample record names the slot that issued in this cycle, or none (R322; notes/assumptions/66). -/
def execTraceSample (site : Nat) (s : State) : Res :=
  let c := getCore s site
  if !working s site || !c.dbgctl.getLsbD 2 then .next s
  else match c.issued.filter fun i => i.cycle == s.cycle with
    | some i => if dbgMatch c i.act then .next (traceRec s site 8 i.pat i.act i.pc 0) else .next s
    | none => if c.dbgctl.getLsbD 3 then .next s else .next (traceRec s site 8 0 0 0 0)

/-- DBGCTL_WRITE (R321). -/
def execDbgctlWrite (site : Nat) (v : Word) (s : State) : Res :=
  if working s site then .next (updCore s site fun c => dbgctlSet c v) else .next s

-- Building a partition (R286, R339, R358, R379)

/-- Clusters may form a partition: each lies on the package, is named once, and serves no other partition (R358). -/
def clustersFree (s : State) (cls : List Nat) : Bool :=
  !cls.isEmpty && decide (cls.dedup = cls) && cls.all fun cl =>
    decide (cl < Config.nSites / 4) && !(getDie s (cl / 256)).dark && !s.parts.any fun p => p.2.clusters.contains cl

/-- The user cores of clusters, by site. -/
def userSites (s : State) (cls : List Nat) : List Nat :=
  cls.flatMap fun cl => ((List.range 4).map (clusterSite cl)).filter fun x => working s x && !(getCore s x).ctrl

/-- A core joins a partition: out of BOOT state, its core CSRs at their reset values (R286, R379). -/
def joinCore (s : State) (p site : Nat) : State :=
  let s := if (getCore s site).boot then clearChan s site 0 else s
  updCore s site fun c =>
    { c with boot := false, bootSum := 0, part := some p, tvec := 0, rotate := 0, stealdom := 0, spill := 0, dbgctl := 0, dbgact := 0,
             stepCsr := 0, events := Vector.replicate 18 0 }

/-- The channel firmware keeps for services, vectors and launches (R355, R372). -/
def serviceChan : Chan := { bootChan with code := false }

/-- Firmware configures channels 0, 1 and 8 of a control core that has them not (notes/assumptions/34). -/
def serviceChans (s : State) (die : Nat) : State :=
  if !dieUp s die then s
  else updCore s (ctrlSite s die) fun c =>
    [0, 1, 8].foldl (fun c ch =>
      if (tget c.chans ch).isNone ∧ poolTaken c + serviceChan.cap ≤ Config.poolSlots then setChan c ch serviceChan else c) c

/-- The lowest logical number of cores (R374). -/
def lowestNumber (s : State) (sites : List Nat) : Option Nat :=
  (sites.filterMap fun x => (getCore s x).lcore).foldl (fun r n =>
    match r with
    | none => some n
    | some m => some (min m n)) none

/-- PARTITION_BUILD (R286, R356, R358, R374, R379). -/
def execPartitionBuild (part : Nat) (clusters pasids : List Nat) (supcore : Option Nat) (twins : Bool) (s : State) : Res :=
  let p := getPart s part
  let sites := userSites s clusters
  if p.running || p.teardown || !clustersFree s clusters || pasids.length != 4 || !pasids.all (fun x => decide (x < 2 ^ 20)) ||
      !supcore.all (fun n => sites.any fun x => (getCore s x).lcore == some n) then .next s
  else
    let s := sites.foldl (fun s x => joinCore s part x) s
    let s := clusters.foldl (fun s cl => setCluster s cl { getCluster s cl with lease := 8, adptab := 0 }) s
    let s := [0, 1, 2, 3].foldl serviceChans s
    .next (setPart s part
      { p with running := true, gone := false, clusters := clusters, pasids := pasids, supcore := supcore <|> lowestNumber s sites,
               nightch := 0, armed := true, nightEvents := 0, twins := twins, image := none, dark := false, halting := false })

end Sys2Proof.Machine
end

