-- ==== Sys2Proof/Machine/HomeEv.lean ====
section
/-! DEFINITION. Machine/HomeEv.lean: what the host's translation agent does to a ferry's page records and translation cache (spec/10 R173,
R175, R176, spec/16 R277, spec/21 R357). -/

namespace Sys2Proof.Machine

/-- The ten page sizes, by exponent (R173). -/
def pageSizes : List Nat := [12, 14, 16, 18, 20, 21, 24, 26, 28, 30]

/-- The largest page a returned range covers (R357). -/
def pageLog (n : Nat) : Option Nat := (pageSizes.filter fun k => decide (k ≤ n)).getLast?

/-- The address of State.mem behind a page at a translated address: HBM, a peer's memory or host memory, by the range that the whole page lies
in (R357). A home reads and writes a peer's memory there in its own step, and nothing shows on a port: the spec names neither the port nor
the request (notes/assumptions/38). -/
def backing (s : State) (pa log2 : Nat) : Nat :=
  if s.bar4Base ≤ pa ∧ pa + 2 ^ log2 ≤ s.bar4Base + Config.hbmBytes then pa - s.bar4Base
  else if s.peerLo ≤ pa ∧ pa + 2 ^ log2 ≤ s.peerHi then 2 ^ 65 + pa
  else 2 ^ 64 + pa

/-- The colour rule of an HBM frame (R173). -/
def colourOk (e : TlbEnt) : Bool := Config.hbmBytes ≤ e.pa || decide (e.pa / 2 ^ e.log2 % 2 ^ (19 - e.log2) = e.va / 2 ^ e.log2 % 2 ^ (19 - e.log2))

/-- The entry an answer to the request of a record installs (R357). -/
def answeredPage (s : State) (r : PageRec) (pa log2 : Nat) (rd w x : Bool) : Option TlbEnt :=
  (pageLog log2).map fun k =>
    let va := r.page * 4096
    let off := va % 2 ^ log2 / 2 ^ k * 2 ^ k
    { pasid := r.pasid, va := va / 2 ^ k * 2 ^ k, log2 := k, pa := backing s (pa / 2 ^ log2 * 2 ^ log2 + off) k, r := rd, w := w, x := x }

/-- Puts an entry into a translation cache; a full cache gives up an entry the spec leaves open (R175; notes/assumptions/7). -/
def installTlb (s : State) (f : Nat) (e : TlbEnt) : State :=
  let x := getFerry s f
  let l := if x.tlb.length < Config.tlbMax then x.tlb else dropNth x.tlb (Config.freeVictim s.stepNo % Config.tlbMax)
  setFerry s f { x with tlb := l ++ [e] }

def setRec (s : State) (f ix : Nat) (r : PageRec) : State :=
  let x := getFerry s f
  setFerry s f { x with recs := tset x.recs ix r }

/-- Page requests that are out, those of records that a teardown has closed among them. -/
def priOut (s : State) : Nat := s.ferries.foldl (fun n f => n + (f.2.recs.filter fun r => r.2.pri).length + f.2.priLost.length) 0

/-- Records that want to send a page request, as ferry, record and since when. -/
def priWanted (s : State) : List (Nat × Nat × Nat) :=
  s.ferries.flatMap fun f => f.2.recs.filterMap fun r => r.2.want.map fun n => (f.1, r.1, n)

/-- The one that has wanted it longest. -/
def priNext (s : State) : Option (Nat × Nat × Nat) :=
  (priWanted s).find? fun e => (priWanted s).all fun x => decide (e.2.2 ≤ x.2.2)

/-- Held page requests go out while the host's grant has room, the one held longest first (R351). -/
def priStartN : Nat → State → State
  | 0, s => s
  | fuel + 1, s =>
    if priOut s < s.priMax then
      match priNext s with
      | none => s
      | some (f, ix, _) =>
        match tget (getFerry s f).recs ix with
        | none => s
        | some r => priStartN fuel (setRec s f ix { r with pri := true, want := none, opened := s.time })
    else s
def priStart (s : State) : State := priStartN (priWanted s).length s

/-- ATS_RESPONSE: the entry is installed and the record closes with its notices; the record fails for want of the permission or of the
right colour; "not present" leads to a PRI request (R277). -/
def execAtsResponse (ferry ix : Nat) (answer : AtsAnswer) (s : State) : Res :=
  match tget (getFerry s ferry).recs ix with
  | none => .next s
  | some r =>
    if r.pri || r.want.isSome then .next s
    else match answer with
      | .notPresent => .next (priStart (setRec s ferry ix { r with want := some s.stepNo }))
      | .present pa log2 rd w x =>
        match answeredPage s r pa log2 rd w x with
        | none => .next s
        | some e =>
          if permOk r.need e && colourOk e then .next (closeRecord (installTlb s ferry e) ferry ix true)
          else .next (closeRecord s ferry ix false)

/-- The page request of a record that a teardown has closed is over, and another may go (R351). -/
def priOver (s : State) (f ix : Nat) : State :=
  let x := getFerry s f
  if (tget x.priLost ix).isSome then priStart (setFerry s f { x with priLost := tdel x.priLost ix }) else s

/-- PRI_RESPONSE: success leads to a new ATS request, anything else fails the record (R277). -/
def execPriResponse (ferry ix : Nat) (answer : PriAnswer) (s : State) : Res :=
  match tget (getFerry s ferry).recs ix with
  | none => .next (priOver s ferry ix)
  | some r =>
    if !r.pri then .next s
    else match answer with
      | .success => .next (priStart (setRec s ferry ix { r with pri := false }))
      | .responseFailure => .next (priStart (closeRecord s ferry ix false))
      | .invalidRequest => .next (priStart (closeRecord s ferry ix false))

/-- TICKET_LIMIT_EXPIRY: no PRI response within the limit (R277). -/
def execTicketLimitExpiry (ferry ix : Nat) (s : State) : Res :=
  match tget (getFerry s ferry).recs ix with
  | none => .next (if (tget (getFerry s ferry).priLost ix).any fun n => decide (n + s.ticketLimit ≤ s.time) then priOver s ferry ix else s)
  | some r => if r.pri ∧ r.opened + s.ticketLimit ≤ s.time then .next (priStart (closeRecord s ferry ix false)) else .next s

/-- ATS_INVALIDATION: the matching entries go; every access that used one has been performed, an access being one step (R176). -/
def execAtsInvalidation (ferry pasid va log2 : Nat) (s : State) : Res :=
  let lo := va / 2 ^ log2 * 2 ^ log2
  let x := getFerry s ferry
  .next (setFerry s ferry
    { x with tlb := x.tlb.filter fun e => !(e.pasid == pasid && decide (e.va < lo + 2 ^ log2 ∧ lo < e.va + 2 ^ e.log2)) })

end Sys2Proof.Machine
end

