-- ==== Sys2Proof/Machine/HostEv.lean ====
section
/-! DEFINITION. Machine/HostEv.lean: what the host does through the PCIe link (spec/21 R352 to R355, R370) and the vectors it gets
(R355). -/

namespace Sys2Proof.Machine

/-- The message of a write into the aperture, when the write is well formed (R353). -/
def apertureMsg (s : State) (off : Nat) (b : List Byte) : Option Msg :=
  let d := leNat (b.take 8)
  if b.length ≠ 64 ∨ off % 64 ≠ 0 ∨ 2 ^ 27 ≤ off ∨ d / 2 ^ 19 ≠ 0 ∨ 6 < d % 8 ∨ leNat ((b.drop 8).take 8) ≠ 0 then none
  else some
    { time := BitVec.ofNat 32 s.time, seq := BitVec.ofNat 16 (d / 8), count := d % 8, kind := 0, srcCore := 0x1FFC, srcDev := s.devid,
      chan := off / 2 ^ 6 % 256, dstCore := off / 2 ^ 14 % 8192, dstDev := s.devid,
      words := Vector.ofFn fun i : Fin 6 => BitVec.ofNat 64 (leNat ((b.drop (16 + 8 * i.val)).take 8)) }

/-- HOST_MESSAGE_WRITE (R353, R354, R359). -/
def execHostMessageWrite (vf off : Nat) (bytes : List Byte) (relaxed : Bool) (s : State) : Res :=
  if (getPart s vf).gone then .next s
  else match apertureMsg s off bytes with
    | none => .next (countDrop s vf)
    | some m => if inPart s vf m.dstCore then .next (hostArrive s vf m relaxed) else .next (countDrop s vf)

/-- BAR4_ACCESS: requests to the homes of the addressed frames; beyond the window there is nothing to access (R352). -/
def execBar4Access (off : Nat) (acc : HostAccess) (s : State) : Res :=
  let n := match acc with | .read n => n | .write bs => bs.length
  if Config.hbmBytes < off + n then .next s else .next (bar4Send s off acc)

/-- The NONCE with 8 of its bytes replaced. -/
def nonceWrite (old : List Byte) (o : Nat) (v : Word) : List Byte :=
  let b := (old ++ List.replicate 32 0).take 32
  b.take o ++ leBytes 8 v.toNat ++ b.drop (o + 8)

/-- VF_REGISTER_WRITE: NONCE and ATTADDR; a write of a read-only entry or elsewhere is ignored (R355). -/
def execVfRegisterWrite (vf off : Nat) (v : Word) (s : State) : Res :=
  if 0x100 ≤ off ∧ off < 0x120 ∧ off % 8 = 0 then .next (updPart s vf fun p => { p with nonce := nonceWrite p.nonce (off - 0x100) v })
  else if off = 0x120 then .next (updPart s vf fun p => { p with attaddr := v &&& 0x01FFFFFFFFFFF000 })
  else .next s

/-- HDROP: writing 0 clears the counter (R355). -/
def execHdrop (vf : Nat) (v : Word) (s : State) : Res := if v = 0 then .next (updPart s vf fun p => { p with hdrop := 0 }) else .next s

/-- HREFUSE: writing 0 clears the counter (R355). -/
def execHrefuse (vf : Nat) (v : Word) (s : State) : Res := if v = 0 then .next (updPart s vf fun p => { p with hrefuse := 0 }) else .next s

/-- ATTGO: writing 1 starts an attestation of the image resident now (R355, R370). -/
def execAttgo (vf : Nat) (v : Word) (s : State) : Res :=
  if v = 1 ∧ (getPart s vf).attgo = false then
    .next (attWrite (updPart s vf fun p => { p with attgo := true, attRep := attReport s vf }) vf)
  else .next s

/-- What the host reads from the register page of a VF (R355). NONCE and ATTADDR are written only and read 0 (notes/assumptions/88). -/
def vfReg (s : State) (vf off : Nat) : Word :=
  let p := getPart s vf
  BitVec.ofNat 64
    (match off with
     | 0x000 => boolBit p.running + boolBit p.teardown * 2 + boolBit (p.hdrop != 0) * 4
     | 0x008 => p.hdrop
     | 0x010 => p.hrefuse
     | 0x018 => storeCount p
     | 0x020 => p.hcacc
     | 0x028 => p.hcmiss
     | 0x030 => p.evown
     | 0x038 => p.evforeign
     | 0x040 => p.tickets
     | 0x128 => boolBit p.attgo
     | _ => 0)

/-- MSIX_REQUEST: firmware takes a vector message from channel 1 of logical core 0x1FF0 and raises the vector of the sender's VF; a
number above 15 is ignored and counted (R355, R325). -/
def execMsixRequest (s : State) : Res :=
  match popMsg s (ctrlSite s 0) 1 with
  | none => .next s
  | some (q, s) =>
    match senderPart s q.msg with
    | some p =>
      if q.msg.count ≠ 1 then .next s
      else if (q.msg.words[0]).toNat < 16 then .next { s with out := s.out ++ [.msix p (q.msg.words[0]).toNat] }
      else .next (updCore s (ctrlSite s 0) fun c => countEv c 17)
    | none => .next s

end Sys2Proof.Machine
end

