-- ==== Sys2Proof/Machine/Acts.lean ====
section
/-! DEFINITION. Machine/Acts.lean: what firmware, the host's driver and the landings do beside the events of the opcode table (spec/21 R351, R355,
R357, R370, R371, spec/20 R341, R342, R345, R347). -/

namespace Sys2Proof.Machine

/-- Firmware sets at most 10 s (R371). -/
def ticketLimitMax : Nat := 10000000000

/-- One act. -/
def runAct (a : Act) (s : State) : State :=
  match a with
  | .setWindow i w => { s with windows := tset s.windows (i % 64) { w with base := w.base / 4096 * 4096 } }
  | .ticketLimit ns => { s with ticketLimit := min ns ticketLimitMax }
  | .linkLimit ns => { s with linkLimit := ns }
  | .peerRange lo hi => { s with peerLo := lo, peerHi := hi }
  | .devid n => { s with devid := n % 1024 }
  | .encrypt p on => updPort s p fun x => { x with encrypted := on }
  | .bar4Base pa => { s with bar4Base := pa }
  | .priGrant n => priStart { s with priMax := min n 4096 }
  | .vfRead vf off => { s with out := s.out ++ [.vfData vf off (vfReg s vf off)] }
  | .landing p => settlePort s p
  | .manage pkt => managePkt s pkt
  | .attest vf => if (getPart s vf).attWait.isNone then attWrite s vf else s

end Sys2Proof.Machine
end

