-- ==== Sys2Proof/Machine/ArrayEv.lean ====
section
/-! DEFINITION. Machine/ArrayEv.lean: the steps of a cluster's array, adapter unit and drain engine (spec/13 R228, R233, R239, R242,
R244, spec/14 R250, R260 to R263). An event that is not enabled changes nothing. -/

namespace Sys2Proof.Machine

/-- The core of a rank takes part: it is not stopped by dusk, migration or teardown. -/
def rankLive (s : State) (cl r : Nat) : Bool := !(rankCore s cl r).halted

/-- A command of the core is in the array. -/
def inArray (c : Core) : Bool := c.mq.any fun q => q.kind == .mxm && q.started && !q.folded
/-- Position of the next command that may enter the array: every earlier one has folded, and a .set is first (R233, R239). -/
def nextMxm (c : Core) : Option Nat :=
  let n := (c.mq.takeWhile fun q => q.kind == .mxm && q.folded).length
  match nth c.mq n with
  | some q => if q.kind = .mxm ∧ !q.started ∧ (q.acc ∨ n = 0) then some n else none
  | none => none

/-- The latched ids and status bytes of a .set with an adapter tile; an uncorrectable word latches id 0 with ADPFAIL. -/
def latchRows (s : State) (c : Core) (q : MCmd) : Core :=
  let rows := List.range q.m
  if !q.adpv then { c with acc := { c.acc with ids := rows.map fun _ => 0, stat := rows.map fun _ => 0, failed := [] } }
  else
    match getTile c q.adp with
    | none => c
    | some t =>
      let offs := rows.map fun i => groupOff t i 0
      let bad := fun (o : Nat) => (ueOfRead c.spadUE [(o, 4)]).isSome
      let w := (offs.zip (racedWords s q.view c 0 offs)).map fun e => if bad e.1 then 0 else e.2
      let acc := { c.acc with ids := w.map fun v => v % 2 ^ 16, stat := w.map fun v => v / 2 ^ 16 % 128,
                              failed := (offs.zipIdx.filter fun e => bad e.1).map fun e => e.2 }
      let c := countEv { c with acc := acc } 15 (offs.filter bad).length
      setTile c q.adp (unpin t)

/-- A .set opens the chain (R233). -/
def openChain (s : State) (table : Word) (c : Core) (q : MCmd) : Core :=
  let a := c.acc
  let inside := fun (k : Nat) => decide (k / 256 < q.m ∧ k % 256 < q.n)
  let a : Acc := { opened := true, m := q.m, n := q.n, colb := q.colb, adptab := table,
                   elems := a.elems.filter fun e => !inside e.1, ue := a.ue.filter fun k => !inside k }
  latchRows s { c with acc := a } q

/-- Block q.blk of a command enters the array: its bytes are read, and the adapter rows get their values (R236, R241, R242). -/
def enterBlock (s : State) (c : Core) (n : Nat) : Core :=
  match nth c.mq n with
  | none => c
  | some q =>
    match getTile c q.at_, getTile c q.bt with
    | some ta, some tb =>
      let q := { q with sideA := (List.range q.m).map fun i => racedA s q.view c ta q.p i q.blk,
                        sideB := (List.range q.n).map fun j => racedB s q.view c tb j q.blk }
      let rows := (List.range q.m).filter (adpRow c.acc)
      let vals := fun (i : Nat) => match (nth q.sideA i).getD .nan with
        | .ints vs e => vs.map fun v => fvInt v e
        | _ => List.replicate 32 .nan
      let reps := rows.map fun i => ({ row := i, kb := q.kpos0 + q.blk, vals := vals i } : ReplayEnt)
      let c := { c with mq := setNth c.mq n q, acc := { c.acc with replay := c.acc.replay ++ reps } }
      if q.kb ≤ q.blk + 1 then setTile c q.bt (unpin tb) else c
    | _, _ => c

/-- Counts the blocks that wait in the replay list after one has entered (R325 event 0x0E). -/
def countReplays (s : State) (cl r kb : Nat) : State :=
  updRank s cl r fun c => countEv c 14 ((c.acc.replay.filter fun e => e.kb == kb).length)

/-- A .set closes the chain that it abandons: lines that ADPINV marked go, before the .set latches its own ids (R233, R244, R267). -/
def abandonChain (s : State) (cl r : Nat) (q : MCmd) : State :=
  if q.acc then s else dropLines (updAcc s cl r fun a => { a with opened := false }) cl

/-- Starts a command at position n of a core's queue. -/
def startMxm (s : State) (cl r n : Nat) : State :=
  match nth (rankCore s cl r).mq n with
  | none => s
  | some q =>
    let s := abandonChain s cl r q
    let c := rankCore s cl r
    let c := if q.acc then c else openChain s (getCluster s cl).adptab c q
    let kpos := c.acc.kpos
    let c := { c with mq := setNth c.mq n { q with started := true, kpos0 := kpos } }
    countReplays (settle (setCore s (clusterSite cl r) (enterBlock s c n)) cl) cl r kpos

/-- The ranks in the order of the arbiter, from one past a rank. -/
def fromRank (r : Nat) : List Nat := (List.range 4).map fun i => (r + 1 + i) % 4

/-- LEASE_GRANT: the holder keeps the array while its lease lasts, otherwise the next waiting core gets a new lease; its command enters
the array (R239). -/
def execLeaseGrant (cluster : Nat) (s : State) : Res :=
  let x := getCluster s cluster
  let can := fun (r : Nat) => rankLive s cluster r && (nextMxm (rankCore s cluster r)).isSome
  if ranks.any fun r => inArray (rankCore s cluster r) then .next s
  else
    let keep := match x.holder with
      | some h => if can h ∧ x.used < x.limit then some h else none
      | none => none
    let pick := match keep with
      | some h => some (h, x.used + 1, x.limit)
      | none => ((fromRank x.lastRank).find? can).map fun r => (r, 1, max 1 x.lease.toNat)
    match pick with
    | none => .next s
    | some (r, used, limit) =>
      let s := setCluster s cluster { x with holder := some r, used := used, limit := limit, lastRank := r }
      match nextMxm (rankCore s cluster r) with
      | some n => .next (startMxm s cluster r n)
      | none => .next s

/-- BLOCK_FOLD: the block in the array folds into the slot in one step, and the next block of the command enters (R228, R238). -/
def execBlockFold (site : Nat) (s : State) : Res :=
  let c := getCore s site
  let cl := siteCluster site
  let r := siteRank site
  match c.mq.findIdx? fun q => q.kind == .mxm && q.started && !q.folded with
  | none => .next s
  | some n =>
    match nth c.mq n, c.halted with
    | some q, false =>
      let f := foldBlock c.acc q.sideA q.sideB
      let c := countEv { c with acc := { f.1 with kpos := f.1.kpos + 1 } } 15 f.2
      let q := { q with blk := q.blk + 1, sideA := [], sideB := [] }
      let more := decide (q.blk < q.kb)
      let c := { c with mq := setNth c.mq n { q with folded := !more } }
      let s := setCore s site (if more then enterBlock s c n else c)
      let s := settle s cl
      .next (if more then countReplays s cl r (q.kpos0 + q.blk) else s)
    | _, _ => .next s

-- Adapter fetches

/-- A fetch has failed: every row of an open chain that waits on the line gets ADPFAIL (R243). A fetch that ADPINV overtook fails no row
(R244). -/
def failFetch (s : State) (cl : Nat) (tag : ATag) : State :=
  let x := getCluster s cl
  let lost := x.fetches.any fun f => f.tag == tag && f.discard
  let s := setCluster s cl { x with fetches := x.fetches.filter fun f => f.tag != tag }
  let s := if lost then s else ranks.foldl (fun s r =>
    updAcc s cl r fun a =>
      if (needTags x a).contains tag then
        (List.range a.ids.length).foldl (fun a i =>
          let wants := match tag with
            | .aSide _ kb => a.replay.any fun e => e.row == i && e.kb == kb
            | _ => true
          if adpRow a i && ((nth a.ids i).getD 0) == tagId tag && wants then failRow a i else a) a
      else a) s
  settle s cl

/-- Changes the piece of a fetch that has a uid. -/
def updPiece (x : Cluster) (uid : Nat) (f : APiece → APiece) : Cluster :=
  { x with fetches := x.fetches.map fun e => { e with pieces := e.pieces.map fun p => if p.uid = uid then f p else p } }

/-- The fetch that waits for an answer under a uid. -/
def fetchOf (x : Cluster) (uid : Nat) : Option AFetch := x.fetches.find? fun f => f.pieces.any fun p => p.uid == uid && p.status == .flying && p.data.isNone

/-- What a home answers to a piece of a fetch (R242, R243). An answer that no fetch waits for has no effect. -/
def fetchAnswer (s : State) (cl uid : Nat) (a : Answer) : State :=
  let x := getCluster s cl
  match fetchOf x uid with
  | none => s
  | some f =>
    match a with
    | .data bs => settle (setCluster s cl (updPiece x uid fun p => { p with data := some bs })) cl
    | .ticket t _ => setCluster s cl (updPiece x uid fun p => { p with status := .ticketed t })
    | _ => failFetch s cl f.tag

/-- ADAPTER_FETCH: an answer reaches the adapter unit of a cluster for a piece of a fetch (R242). -/
def execAdapterFetch (cluster pkt : Nat) (s : State) : Res :=
  match arriving s pkt with
  | some p =>
    match p.dst, p.body with
    | .adapter cl, .answer uid a => .next (if cl = cluster then fetchAnswer (consumePkt s pkt) cl uid a else s)
    | _, _ => .next s
  | none => .next s

/-- A piece of a fetch waits on a ticket of a home. -/
def pieceOn (t : BitVec 16) (h : Endpoint) (p : APiece) : Bool := h == .ferry (homeFerry p.addr) && p.status == .ticketed t

/-- A notice reaches an adapter unit: the pieces that wait on the ticket are sent again, or their fetches fail (R242, R243). -/
def fetchNotice (s : State) (cl : Nat) (t : BitVec 16) (h : Endpoint) (ok : Bool) : State :=
  let fs := (getCluster s cl).fetches.filter fun f => f.pieces.any (pieceOn t h)
  if ok then
    fs.foldl (fun s f =>
      (f.pieces.filter (pieceOn t h)).foldl (fun s p =>
        flyPiece (setCluster s cl (updPiece (getCluster s cl) p.uid fun p => { p with status := .flying })) cl f.core p) s) s
  else fs.foldl (fun s f => failFetch s cl f.tag) s

-- The other heads

/-- A command of the kind stands at the head of the core's queue. -/
def headIs (c : Core) (k : MKind) : Option MCmd :=
  match c.mq with
  | q :: _ => if q.kind = k ∧ !c.halted then some q else none
  | [] => none

/-- MXZ_AT_HEAD: the chain closes and every element becomes +0 (R233). -/
def execMxzAtHead (site : Nat) (s : State) : Res :=
  let cl := siteCluster site
  match headIs (getCore s site) .mxz with
  | none => .next s
  | some _ =>
    let s := updCore s site fun c => popCmd { c with acc := { c.acc with opened := false, elems := [], ue := [], replay := [] } }
    .next (settle (dropLines s cl) cl)

/-- ADPINV_AT_HEAD: the lines of the id, or of all ids, go; one a chain uses goes when that chain closes; a fetch in flight is discarded when
it arrives (R244). -/
def execAdpinvAtHead (site : Nat) (s : State) : Res :=
  let cl := siteCluster site
  match headIs (getCore s site) .adpinv with
  | none => .next s
  | some q =>
    let x := getCluster s cl
    let hit := fun (t : ATag) => q.all || tagId t == q.id
    let x := { x with cache := x.cache.map fun l => if hit l.tag then { l with drop := true } else l,
                      fetches := x.fetches.map fun f => if hit f.tag then { f with discard := true } else f }
    .next (settle (dropLines (updCore (setCluster s cl x) site popCmd) cl) cl)

-- Drains

/-- The ready drain that comes first: ready earliest, the lower rank at equal instants (R250). -/
def firstDrain (s : State) (cl : Nat) : Option Nat :=
  let key := fun (r : Nat) => ((rankCore s cl r).mq.head?.bind fun q => q.readyAt)
  ranks.foldl (fun b r =>
    if !rankLive s cl r || !drainReady (getCluster s cl) (rankCore s cl r) then b
    else match key r, b with
      | none, _ => b
      | some _, none => some r
      | some k, some o => if k < (key o).getD 0 then some r else b) none

/-- The word of an aux row at an index (R225). -/
def auxOff (t : Tile) (row i : Nat) : Nat := groupOff t row (i / 32) + 4 * (i % 32)

/-- Reads one aux register for the first n indexes: patterns, with an uncorrectable word as a NaN, and how many were bad (R263). -/
def readAux (s : State) (c : Core) (q : MCmd) (t : Tile) (row n : Nat) : List Nat × Nat :=
  let os := (List.range n).map fun i => auxOff t row i
  let bad := fun (o : Nat) => (ueOfRead c.spadUE [(o, 4)]).isSome
  ((os.zip (racedWords s q.view c (256 * row) os)).map fun e => if bad e.1 then fp32.nanBits else e.2, (os.filter bad).length)

/-- DRAIN_START: the first ready drain starts on the idle engine; the aux values its program reads are taken (R250, R253). -/
def execDrainStart (cluster : Nat) (s : State) : Res :=
  let x := getCluster s cluster
  match x.drain, firstDrain s cluster with
  | none, some r =>
    let c := rankCore s cluster r
    match c.mq with
    | [] => .next s
    | q :: _ =>
      let p := ((nth x.progs.toList q.dslot).getD none).getD { ops := [], consts := [] }
      let aux := fun (k n : Nat) (used : Bool) =>
        match getTile c q.aux with
        | some t => if q.auxv ∧ used then readAux s c q t k n else ([], 0)
        | none => ([], 0)
      let scl := fun (k : Nat) => q.ofmt == 4 && hasOp p opOUT && outMod p % 4 == k
      let rowv := (List.range 4).map fun k => aux (4 + k) c.acc.m (usesSrc p (12 + k) (12 + k) || scl k)
      let colv := (List.range 4).map fun k => aux k c.acc.n (usesSrc p (16 + k) (16 + k))
      let bad := (rowv ++ colv).foldl (fun n e => n + e.2) 0
      let s := updRank s cluster r fun c =>
        let c := updHead c fun q => { q with readyAt := none }
        if bad = 0 then c else countEv { c with acc := { c.acc with poison := true } } 15 bad
      .next (setCluster s cluster { x with drain := some { rank := r, rowv := rowv.map fun e => e.1, colv := colv.map fun e => e.1 } })
  | _, _ => .next s

/-- The drain has ended: row tails, the destination READY, the aux read over, the chain closed, M lower, the report of a poisoned drain
(R257, R261, R263, R238). -/
def endDrain (s : State) (cl : Nat) (p : DrainImg) (q : MCmd) (d : DrainRun) : State :=
  let site := clusterSite cl d.rank
  let x := getCluster s cl
  let s := setCluster s cl { x with drain := none }
  let s := updCore s site fun c =>
    let c := match getTile c q.dst with
      | some t =>
        let c := if hasOp p opRACC then putTails t d.sums c else c
        setTile c q.dst { t with state := .ready, dest := false }
      | none => c
    let c := if q.auxv then (match getTile c q.aux with | some t => setTile c q.aux (unpin t) | none => c) else c
    popCmd { c with acc := { c.acc with opened := false } }
  let c := getCore s site
  let s := if c.acc.poison then
      let sl := actSlot c q.slot q.act
      if sl.actId = q.act ∧ sl.mode ≠ .free ∧ sl.mode ≠ .closing then reportOf s site sl { kind := 5 }
      else updCore s site fun c => countEv c 12
    else s
  settle (dropLines s cl) cl

/-- The lines that the adapter term of a row reads. -/
def rowTags (a : Acc) (i : Nat) : List ATag :=
  if adpRow a i then let id := (nth a.ids i).getD 0; [.entry id, .bSide id a.colb] else []

/-- DRAIN_GROUP_COMMIT: the program runs on one group of 512 elements, and its writes take effect together (R260, R261). -/
def execDrainGroupCommit (cluster : Nat) (s : State) : Res :=
  let x := getCluster s cluster
  match x.drain with
  | none => .next s
  | some d =>
    let site := clusterSite cluster d.rank
    let c := getCore s site
    match c.mq with
    | [] => .next s
    | q :: _ =>
      if c.halted || !bReady x c.acc then .next s
      else match getTile c q.dst, (nth x.progs.toList q.dslot).getD none with
        | some t, some p =>
          let r := (groupRows c.acc.m d.group).foldl (fun r i =>
            let y := commitRow x p q t d r.1 i
            (y.1, r.2 ++ [y.2])) (c, d.sums)
          let d := { d with group := d.group + 1, sums := r.2 }
          let s := setCluster (setCore s site r.1) cluster { x with drain := some d }
          let s := touchTags s cluster ((groupRows c.acc.m (d.group - 1)).flatMap (rowTags c.acc))
          .next (if c.acc.m ≤ 2 * d.group then endDrain s cluster p q d else s)
        | _, _ => .next s

end Sys2Proof.Machine
end

