-- ==== Sys2Proof/Machine/Vector.lean ====
section
/-! DEFINITION. Machine/Vector.lean: the vector unit's lane arithmetic, compares, moves, reductions, functions and conversions, page 2
majors 0 to 7 (spec/06 R93 to R100). -/

namespace Sys2Proof.Machine

/-- The active lanes in ascending order, each with its value; roundings thread the environment (R58, R94). -/
def mapLanes (act : Mask32) (g : Fin 32 → FEnv → Nat × FEnv) (e : FEnv) : List (Fin 32 × Nat) × FEnv :=
  (laneList act).foldl (fun r l => let y := g l r.2; (r.1 ++ [(l, y.1)], y.2)) ([], e)

/-- The vectors read, by position; a missing one is zeros. -/
def srcAt (vs : List Lanes) (i : Nat) : Lanes := (nth vs i).getD (Vector.replicate 32 0)
def laneAt (vs : List Lanes) (i : Nat) (l : Fin 32) : Nat := ((srcAt vs i)[l]).toNat

/-- A := op(C, B) lane by lane under the mask (R95). -/
def vecBin (a c b : VReg) (k : MReg) (g : Nat → Nat → FEnv → Nat × FEnv) (s : State) : Res :=
  vecOp s [] [c, b] a fun sl vs e => mapLanes (getM sl k) (fun l e => g (laneAt vs 0 l) (laneAt vs 1 l) e) e
/-- A := op(B) lane by lane under the mask. -/
def vecUna (a b : VReg) (k : MReg) (g : Nat → FEnv → Nat × FEnv) (s : State) : Res :=
  vecOp s [] [b] a fun sl vs e => mapLanes (getM sl k) (fun l e => g (laneAt vs 0 l) e) e
/-- A := op(C, B, A) lane by lane under the mask: A is a source too (R95). -/
def vecTri (a c b : VReg) (k : MReg) (g : Nat → Nat → Nat → FEnv → Nat × FEnv) (s : State) : Res :=
  vecOp s [] [c, b, a] a fun sl vs e =>
    mapLanes (getM sl k) (fun l e => g (laneAt vs 0 l) (laneAt vs 1 l) (laneAt vs 2 l) e) e

/-- An exact integer result as a lane: clamped under .sat, else modulo 2^32 (R95). -/
def intLane (t : VTy) (sat : Bool) (v : Int) : Nat :=
  let w := if sat then
      (match t with
       | .s32 => max (-(2 ^ 31)) (min v (2 ^ 31 - 1))
       | _ => max 0 (min v (2 ^ 32 - 1)))
    else v
  (w % 2 ^ 32).toNat
/-- The integer a lane holds under a type. -/
def laneInt (t : VTy) (v : Nat) : Int :=
  match t with
  | .s32 => signedN v 32
  | _ => (v % 2 ^ 32 : Nat)

/-- An arithmetic operation on one lane (R95); integers ignore rounding modes. -/
def laneArith (t : VTy) (op : FOp) (m : RMod) (c b a : Nat) (e : FEnv) : Nat × FEnv :=
  match t with
  | .f32 => fArith fp32 op m c b a e
  | _ =>
    let x := laneInt t c
    let y := laneInt t b
    let z := laneInt t a
    let v : Int := match op with
      | .add => x + y
      | .sub => x - y
      | .mul => x * y
      | .div => if y = 0 then -1 else x.tdiv y
      | .sqrt => 0
      | .fma => x * y + z
      | .fms => x * y - z
      | .fnma => -(x * y) - z
      | .fnms => -(x * y) + z
    (intLane t (m.sat && (op == .add || op == .sub || op == .mul)) v, e)

/-- Minimum and maximum of two lanes (R95, R53). -/
def laneMin (t : VTy) (c b : Nat) : Nat :=
  match t with
  | .f32 => minBits fp32 c b
  | _ => if laneInt t c ≤ laneInt t b then c else b
def laneMax (t : VTy) (c b : Nat) : Nat :=
  match t with
  | .f32 => maxBits fp32 c b
  | _ => if laneInt t b ≤ laneInt t c then c else b

def execVadd (t : VTy) (m : RMod) (a c b : VReg) (k : MReg) (s : State) : Res := vecBin a c b k (fun x y e => laneArith t .add m x y 0 e) s
def execVsub (t : VTy) (m : RMod) (a c b : VReg) (k : MReg) (s : State) : Res := vecBin a c b k (fun x y e => laneArith t .sub m x y 0 e) s
def execVmul (t : VTy) (m : RMod) (a c b : VReg) (k : MReg) (s : State) : Res := vecBin a c b k (fun x y e => laneArith t .mul m x y 0 e) s
def execVmin (t : VTy) (a c b : VReg) (k : MReg) (s : State) : Res := vecBin a c b k (fun x y e => (laneMin t x y, e)) s
def execVmax (t : VTy) (a c b : VReg) (k : MReg) (s : State) : Res := vecBin a c b k (fun x y e => (laneMax t x y, e)) s
def execVand (a c b : VReg) (k : MReg) (s : State) : Res := vecBin a c b k (fun x y e => (x &&& y, e)) s
def execVor (a c b : VReg) (k : MReg) (s : State) : Res := vecBin a c b k (fun x y e => (x ||| y, e)) s
def execVxor (a c b : VReg) (k : MReg) (s : State) : Res := vecBin a c b k (fun x y e => (x ^^^ y, e)) s
def execVshl (a c b : VReg) (k : MReg) (s : State) : Res := vecBin a c b k (fun x y e => (x * 2 ^ (y % 32) % 2 ^ 32, e)) s
def execVshr (a c b : VReg) (k : MReg) (s : State) : Res := vecBin a c b k (fun x y e => (x / 2 ^ (y % 32), e)) s
def execVsar (a c b : VReg) (k : MReg) (s : State) : Res :=
  vecBin a c b k (fun x y e => ((signedN x 32 / 2 ^ (y % 32) % 2 ^ 32).toNat, e)) s
/-- VABS on .f32 clears bit 31, but a NaN passes unchanged, and on .s32 gives |b| (R95, R51). -/
def execVabs (t : VTy) (a b : VReg) (k : MReg) (s : State) : Res :=
  vecUna a b k (fun y e => (match t with | .f32 => if (valOf fp32 y).isNan then y else y % 2 ^ 31 | _ => (signedN y 32).natAbs % 2 ^ 32, e)) s
/-- VNEG on .f32 inverts bit 31, but a NaN passes unchanged, and on .s32 gives 0 − b (R95, R51). -/
def execVneg (t : VTy) (a b : VReg) (k : MReg) (s : State) : Res :=
  vecUna a b k (fun y e => (match t with | .f32 => if (valOf fp32 y).isNan then y else (y + 2 ^ 31) % 2 ^ 32 | _ => ((-(signedN y 32)) % 2 ^ 32).toNat, e)) s
def execVdiv (t : VTy) (m : RMod) (a c b : VReg) (k : MReg) (s : State) : Res := vecBin a c b k (fun x y e => laneArith t .div m x y 0 e) s
def execVsqrt (m : RMod) (a b : VReg) (k : MReg) (s : State) : Res := vecUna a b k (fun y e => fArith fp32 .sqrt m 0 y 0 e) s
def execVfma (t : VTy) (m : RMod) (a c b : VReg) (k : MReg) (s : State) : Res := vecTri a c b k (laneArith t .fma m) s
def execVfms (t : VTy) (m : RMod) (a c b : VReg) (k : MReg) (s : State) : Res := vecTri a c b k (laneArith t .fms m) s
def execVfnma (t : VTy) (m : RMod) (a c b : VReg) (k : MReg) (s : State) : Res := vecTri a c b k (laneArith t .fnma m) s
def execVfnms (t : VTy) (m : RMod) (a c b : VReg) (k : MReg) (s : State) : Res := vecTri a c b k (laneArith t .fnms m) s

/-- Mask bits listed by lane over an old mask. -/
def putMask (old : Mask32) (ls : List (Fin 32 × Nat)) : Mask32 :=
  ls.foldl (fun v e => if e.2 = 0 then v &&& ~~~ bit32 e.1.val else v ||| bit32 e.1.val) old

/-- A vector compare into a mask register (R96). -/
def vecCmp (a : MReg) (c b : VReg) (k : MReg) (p : Nat → Nat → FEnv → Bool × FEnv) (s : State) : Res :=
  needXV s [] [c, b] fun sl =>
    match streamFault sl [c, b] [] [] with
    | some tv => trap s cSTREAM tv
    | none =>
      orUE s (readSources s sl [c, b]) fun vs s =>
        let r := mapLanes (getM sl k) (fun l e => let y := p (laneAt vs 0 l) (laneAt vs 1 l) e; (boolBit y.1, y.2)) (envOf sl)
        let v := putMask (getM sl a) r.1
        .next (retire (updCur s fun sl => setM (putEnv (consume sl [c, b]) r.2) a v) [BitVec.ofNat 64 v.toNat])

def laneEq (t : VTy) (x y : Nat) : Bool :=
  match t with
  | .f32 => fvEq (valOf fp32 x) (valOf fp32 y)
  | _ => x == y

def execVceq (t : VTy) (a : MReg) (c b : VReg) (k : MReg) (s : State) : Res := vecCmp a c b k (fun x y e => (laneEq t x y, e)) s
def execVcne (t : VTy) (a : MReg) (c b : VReg) (k : MReg) (s : State) : Res := vecCmp a c b k (fun x y e => (!laneEq t x y, e)) s
def execVclt (t : VTy) (a : MReg) (c b : VReg) (k : MReg) (s : State) : Res :=
  vecCmp a c b k (fun x y e => match t with | .f32 => fLess fp32 x y e | _ => (decide (laneInt t x < laneInt t y), e)) s
def execVcle (t : VTy) (a : MReg) (c b : VReg) (k : MReg) (s : State) : Res :=
  vecCmp a c b k (fun x y e => match t with | .f32 => fLessEq fp32 x y e | _ => (decide (laneInt t x ≤ laneInt t y), e)) s

-- Select, move and permute (R97)

def execVsel (a c b : VReg) (d k : MReg) (s : State) : Res :=
  vecOp s [] [c, b] a fun sl vs e =>
    mapLanes (getM sl k) (fun l e => ((if (getM sl d).getLsbD l.val then laneAt vs 0 l else laneAt vs 1 l), e)) e
def execVmov (a b : VReg) (k : MReg) (s : State) : Res := vecUna a b k (fun y e => (y, e)) s
def execVbcast (a : VReg) (b : XReg) (k : MReg) (s : State) : Res :=
  vecOp s [b] [] a fun sl _ e => mapLanes (getM sl k) (fun _ e => ((getX sl b).toNat % 2 ^ 32, e)) e
/-- VINS: a bound stream as A traps STREAM, DIRECTION (R112). -/
def execVins (a : VReg) (b : XReg) (n : Fin 32) (s : State) : Res :=
  needXV s [b] [a] fun sl =>
    match streamFault sl [] [] [a] with
    | some tv => trap s cSTREAM tv
    | none =>
      let v := (getV sl a).set n (BitVec.ofNat 32 (getX sl b).toNat)
      .next (retire (updCur s fun sl => setV sl a v) (vecWords v))
def execVext (t : VTy) (a : XReg) (b : VReg) (n : Fin 32) (s : State) : Res :=
  needXV s [a] [b] fun sl =>
    match streamFault sl [b] [] [] with
    | some tv => trap s cSTREAM tv
    | none =>
      orUE s (readSources s sl [b]) fun vs s =>
        let y := laneAt vs 0 n
        .next (retireX (updCur s fun sl => consume sl [b]) a (match t with | .s32 => sextN y 32 | _ => zextN y 32))
def execViota (a : VReg) (b k : MReg) (s : State) : Res :=
  vecOp s [] [] a fun sl _ e =>
    mapLanes (getM sl k) (fun l e => (((List.range l.val).filter fun i => (getM sl b).getLsbD i).length, e)) e
/-- VPERM: table C, index B (R97). -/
def execVperm (a c b : VReg) (k : MReg) (s : State) : Res :=
  vecOp s [] [c, b] a fun sl vs e =>
    mapLanes (getM sl k) (fun l e => (laneAt vs 0 (Fin.ofNat 32 (laneAt vs 1 l)), e)) e

-- Reductions and scan (R98, R66, R67)

/-- A combination of two lanes. -/
abbrev Combine := Nat → Nat → FEnv → Nat × FEnv

/-- One level of the tree: neighbours combine, lower first. -/
def treeLevel (f : Combine) : List Nat → FEnv → List Nat × FEnv
  | x :: y :: rest, e =>
    let r := f x y e
    let t := treeLevel f rest r.2
    (r.1 :: t.1, t.2)
  | l, e => (l, e)

/-- The tree of R66: n levels. -/
def tree (f : Combine) : Nat → List Nat → FEnv → List Nat × FEnv
  | 0, l, e => (l, e)
  | n + 1, l, e => let r := treeLevel f l e; tree f n r.1 r.2

/-- The lanes of B with the identity in the inactive ones. -/
def maskedLanes (act : Mask32) (v : Lanes) (ident : Nat) : List Nat :=
  (List.finRange 32).map fun l => if act.getLsbD l.val then (v[l]).toNat else ident

/-- A reduction: the result in lane 0, zeros in the others, whatever the mask (R98). -/
def vecReduce (a b : VReg) (k : MReg) (ident : Nat) (f : Combine) (s : State) : Res :=
  vecOp s [] [b] a fun sl vs e =>
    let r := tree f 5 (maskedLanes (getM sl k) (srcAt vs 0) ident) e
    ((List.finRange 32).map fun l => (l, if l = 0 then r.1.headD 0 else 0), r.2)

/-- An addition at a node (R98). -/
def addNode (t : VTy) (rnd : Rnd) : Combine := fun x y e =>
  match t with
  | .f32 => roundNode fp32 ⟨rnd, false⟩ (exAdd (rnd == .rd) (valOf fp32 x) (valOf fp32 y)) e
  | _ => ((x + y) % 2 ^ 32, e)
/-- Identities of R66. -/
def addIdent (t : VTy) : Nat := match t with | .f32 => 0x80000000 | _ => 0
def minIdent (t : VTy) : Nat := match t with | .f32 => 0x7F800000 | .s32 => 0x7FFFFFFF | .n32 => 0xFFFFFFFF
def maxIdent (t : VTy) : Nat := match t with | .f32 => 0xFF800000 | .s32 => 0x80000000 | .n32 => 0

def execVradd (t : VTy) (rnd : Rnd) (a b : VReg) (k : MReg) (s : State) : Res := vecReduce a b k (addIdent t) (addNode t rnd) s
def execVrmin (t : VTy) (a b : VReg) (k : MReg) (s : State) : Res := vecReduce a b k (minIdent t) (fun x y e => (laneMin t x y, e)) s
def execVrmax (t : VTy) (a b : VReg) (k : MReg) (s : State) : Res := vecReduce a b k (maxIdent t) (fun x y e => (laneMax t x y, e)) s
def execVrand (a b : VReg) (k : MReg) (s : State) : Res := vecReduce a b k 0xFFFFFFFF (fun x y e => (x &&& y, e)) s
def execVror (a b : VReg) (k : MReg) (s : State) : Res := vecReduce a b k 0 (fun x y e => (x ||| y, e)) s

/-- The running combinations of a scan (R67). -/
def scanGo (f : Combine) : Nat → List Nat → FEnv → List Nat × FEnv
  | _, [], e => ([], e)
  | acc, x :: xs, e =>
    let r := f acc x e
    let t := scanGo f r.1 xs r.2
    (r.1 :: t.1, t.2)
def scanLanes (f : Combine) (l : List Nat) (e : FEnv) : List Nat × FEnv :=
  match l with
  | [] => ([], e)
  | x :: xs => let t := scanGo f x xs e; (x :: t.1, t.2)

/-- VSCAN: active lanes take the inclusive scan (R98). -/
def execVscan (t : VTy) (rnd : Rnd) (a b : VReg) (k : MReg) (s : State) : Res :=
  vecOp s [] [b] a fun sl vs e =>
    let act := getM sl k
    let r := scanLanes (addNode t rnd) (maskedLanes act (srcAt vs 0) (addIdent t)) e
    ((laneList act).map fun l => (l, (nth r.1 l.val).getD 0), r.2)

-- Functions (R99) and conversions (R100)

def vecFun (f : FFun) (m : RMod) (a b : VReg) (k : MReg) (s : State) : Res :=
  vecUna a b k (fun y e => roundOne fp32 m (fnExact f (valOf fp32 y)) e) s
def execVexp2 (m : RMod) (a b : VReg) (k : MReg) (s : State) : Res := vecFun .exp2 m a b k s
def execVlog2 (m : RMod) (a b : VReg) (k : MReg) (s : State) : Res := vecFun .log2 m a b k s
def execVrcp (m : RMod) (a b : VReg) (k : MReg) (s : State) : Res := vecFun .rcp m a b k s
def execVrsq (m : RMod) (a b : VReg) (k : MReg) (s : State) : Res := vecFun .rsq m a b k s
def execVtanh (m : RMod) (a b : VReg) (k : MReg) (s : State) : Res := vecFun .tanh m a b k s
def execVsigm (m : RMod) (a b : VReg) (k : MReg) (s : State) : Res := vecFun .sigm m a b k s

def execVcvtF2s (rnd : Rnd) (a b : VReg) (k : MReg) (s : State) : Res :=
  vecUna a b k (fun y e => let r := toInt rnd (-(2 ^ 31)) (2 ^ 31 - 1) (valOf fp32 y) e; ((r.1 % 2 ^ 32).toNat, r.2)) s
def execVcvtS2f (m : RMod) (a b : VReg) (k : MReg) (s : State) : Res :=
  vecUna a b k (fun y e => roundOne fp32 m (exOk (intVal (signedN y 32))) e) s
def execVcvtF2n (rnd : Rnd) (a b : VReg) (k : MReg) (s : State) : Res :=
  vecUna a b k (fun y e => let r := toInt rnd 0 (2 ^ 32 - 1) (valOf fp32 y) e; (r.1.toNat, r.2)) s
def execVcvtN2f (m : RMod) (a b : VReg) (k : MReg) (s : State) : Res :=
  vecUna a b k (fun y e => roundOne fp32 m (exOk (intVal y)) e) s
def execVcvtFrnd (rnd : Rnd) (a b : VReg) (k : MReg) (s : State) : Res :=
  vecUna a b k (fun y e => toIntegral fp32 ⟨rnd, false⟩ (valOf fp32 y) e) s
def execVcvtF2bf (m : RMod) (a b : VReg) (k : MReg) (s : State) : Res :=
  vecUna a b k (fun y e => roundOne bf16 m (exOk (valOf fp32 y)) e) s
def execVcvtF2e4 (m : RMod) (a b : VReg) (k : MReg) (s : State) : Res :=
  vecUna a b k (fun y e => roundOne e4m3 m (exOk (valOf fp32 y)) e) s
def execVcvtF2e5 (m : RMod) (a b : VReg) (k : MReg) (s : State) : Res :=
  vecUna a b k (fun y e => roundOne e5m2 m (exOk (valOf fp32 y)) e) s

end Sys2Proof.Machine
end

