-- ==== Sys2Proof/Machine/Atomic.lean ====
section
/-! DEFINITION. Machine/Atomic.lean: scalar atomics and vector adds (spec/11 R190 to R194). -/

namespace Sys2Proof.Machine

/-- The checks of R191 for n bytes. -/
def checkAtomic (s : State) (ea : Word) (n : Nat) : Option (BitVec 8) :=
  match check14 s ea with
  | some e => some e
  | none =>
    match check5 ea n with
    | some e => some e
    | none => if space ea = 0xF ∧ meshWin ea ≠ 0 then some cBADWINDOW else none

/-- A scalar atomic (R192): local at issue; remote and posted with A = 0; remote with A ≠ 0 irrevocable. -/
def atomic (op : AmoOp) (n : Nat) (sgn : Bool) (a b c d : XReg) (s : State) : Res :=
  needX s [a, b, c, d] fun sl =>
    let ea := getX sl b
    let cw := getX sl c
    let dw := getX sl d
    match checkAtomic s ea n with
    | some e => trap s e ea
    | none =>
      if isOwn s ea then
        let go := fun s => withSpad s (meshOff ea) (fun co => spadAmo co op n (meshOff ea) cw dw) fun old s =>
          .next (retireX s a (if sgn then sextN old (8 * n) else zextN old (8 * n)))
        if inFrame s.cur.2 (meshOff ea) then go s else irrevocable s a id go
      else if a = 0 then postReq s (.amo op n cw dw) ea true [cw]
      else
        irrevocable s a id fun s =>
          sendReq s (mkReq s (.amo op n cw dw) ea (homeOf s ea) true (.x a n sgn) true true false) [ea, cw]

def sizeOf (z : AmoSize) : Nat := match z with | .d => 8 | .w => 4

def execAmoadd (z : AmoSize) (a b c : XReg) (s : State) : Res := atomic .add (sizeOf z) true a b c c s
def execAmoand (z : AmoSize) (a b c : XReg) (s : State) : Res := atomic .and (sizeOf z) true a b c c s
def execAmoor (z : AmoSize) (a b c : XReg) (s : State) : Res := atomic .or (sizeOf z) true a b c c s
def execAmoxor (z : AmoSize) (a b c : XReg) (s : State) : Res := atomic .xor (sizeOf z) true a b c c s
def execAmomin (z : AmoSize) (a b c : XReg) (s : State) : Res := atomic .min (sizeOf z) true a b c c s
def execAmomax (z : AmoSize) (a b c : XReg) (s : State) : Res := atomic .max (sizeOf z) true a b c c s
def execAmoswap (z : AmoSize) (a b c : XReg) (s : State) : Res := atomic .swap (sizeOf z) true a b c c s
def execAmocas (z : AmoSize) (a b c d : XReg) (s : State) : Res := atomic .cas (sizeOf z) true a b c d s
/-- AMOFADD returns the old word zero-extended (R192). -/
def execAmofadd (a b c : XReg) (s : State) : Res := atomic .fadd 4 false a b c c s
def execAmofadd64 (a b c : XReg) (s : State) : Res := atomic .fadd64 8 false a b c c s
def execAmominn (z : AmoSize) (a b c : XReg) (s : State) : Res := atomic .minn (sizeOf z) true a b c c s
def execAmomaxn (z : AmoSize) (a b c : XReg) (s : State) : Res := atomic .maxn (sizeOf z) true a b c c s

/-- The checks of R193: cause and tval. -/
def checkAdd (s : State) (ea : Word) (act : Mask32) (idx : Option Lanes) : Option (BitVec 8 × Word) :=
  match check14 s ea with
  | some e => some (e, ea)
  | none =>
    if space ea = 0xF then
      if meshWin ea ≠ 0 then some (cBADWINDOW, ea)
      else if ea.toNat % 4 ≠ 0 then some (cMISALIGN, ea)
      else
        (addWords (meshOff ea) act idx).findSome? fun e =>
          if e.2 < 0 ∨ (Config.spadBytes : Int) < e.2 + 4 then some (cBADSPACE, ea + wordOf (e.2 - meshOff ea)) else none
    else if ea.toNat % (if idx.isSome then 4096 else 128) ≠ 0 then some (cMISALIGN, ea)
    else none

/-- VAMOADD and VAMOADDI (R193, R194). -/
def vecAdd (t : VTy) (a : VReg) (b : XReg) (c : Option VReg) (k : MReg) (s : State) : Res :=
  let srcs := a :: c.toList
  needXV s [b] srcs fun sl =>
    match streamFault sl srcs [] [] with
    | some tv => trap s cSTREAM tv
    | none =>
      orStay s <| orUE s (readSources s sl srcs) fun vs s' =>
        let ea := getX sl b
        let act := getM sl k
        let data := srcAt vs 0
        let idx := if c.isSome then some (srcAt vs 1) else none
        match checkAdd s ea act idx with
        | some (e, tv) => trap s e tv
        | none =>
          let side := fun s => updCur s fun sl => consume sl srcs
          if act = 0 then .next (retire (side s') [])
          else if isOwn s ea then
            let ws := addWords (meshOff ea) act idx
            localStore s' (ws.all fun e => inFrame s.cur.2 e.2.toNat) side fun s =>
              withSpad s (meshOff ea) (fun co => spadAdds co t ws data) fun _ s => .next (retire (side s) [])
          else
            postReq s' (match idx with | some i => .vaddi t act i data | none => .vadd t act data) ea true (vecWords data) side

def execVamoadd (t : VTy) (a : VReg) (b : XReg) (k : MReg) (s : State) : Res := vecAdd t a b none k s
def execVamoaddi (t : VTy) (a : VReg) (b : XReg) (c : VReg) (k : MReg) (s : State) : Res := vecAdd t a b (some c) k s

end Sys2Proof.Machine
end

