-- ==== Sys2Proof/Machine/CoreEv.lean ====
section
/-! DEFINITION. Machine/CoreEv.lean: what a core does besides issuing: starting and releasing slots (spec/01 R10, R15), line fills
(R23), the matcher (spec/07 R120 to R123), overflow (R132), stealing (R129), gangs and twins (R130, spec/17 R308), messages that
arrive (spec/08 R146). An event whose condition does not hold changes nothing. -/

namespace Sys2Proof.Machine

-- Gangs and twins

/-- The cores on which the firing at the head of a core's ready queue starts together, in cluster rank order (R130, R308). -/
def groupOf (s : State) (lead : Nat) : Option (Fired × List Nat) :=
  match headStart (getCore s lead) with
  | none => none
  | some f =>
    if f.twin then some (f, [lead, twinPartner lead])
    else if f.gang ≠ 0 then some (f, lead :: (gangRanks f.gang).map (clusterSite (siteCluster lead)))
    else none

/-- The lead whose head entry wants a reservation of this core next (R130). -/
def wantedBy (s : State) (site : Nat) : Option Nat :=
  ((List.range 4).map (clusterSite (siteCluster site))).find? fun lead =>
    coreRuns s lead &&
      (match groupOf s lead with
       | some (_, ms) => nth ms (getCore s lead).granted.length == some site
       | none => false)

/-- The slot reserved for a lead on a core. -/
def reservedFor (c : Core) (lead : Nat) : Option (Fin 4) := (List.finRange 4).find? fun k => c.slots[k].mode == .reserved lead

/-- The slot a core can give: the lowest free one; of twins the secondary gives the one of the primary's number (R130, R308). -/
def slotToGrant (s : State) (site lead : Nat) (twin : Bool) : Option (Fin 4) :=
  let c := getCore s site
  if twin && site != lead then
    (reservedFor (getCore s lead) lead).filter fun k => c.slots[k].mode == .free
  else freeSlot c

/-- A core holds a reservation for a gang or twin already. -/
def holdsReservation (c : Core) : Bool :=
  (List.finRange 4).any fun k =>
    (match c.slots[k].mode with | .reserved _ => true | _ => false) && !(c.restoring.any fun m => m.slot == k)

/-- The firing as a member starts it: the messages it took are held and counted on the lead alone. -/
def memberFired (s : State) (f : Fired) (lead site : Nat) : Fired :=
  if site = lead then f
  else { f with held := [], delays := [], lead := if f.twin then none else some (coreNumber s lead) }

/-- Starts the body on every member at once (R130, R308). -/
def startGroup (s : State) (lead : Nat) (f : Fired) (ms : List Nat) : State :=
  let kp := (reservedFor (getCore s lead) lead).getD 0
  let started := ms.map fun site => (site, (reservedFor (getCore s site) lead).getD 0)
  let s := updCore s lead fun c =>
    { c with granted := [], ready := match headEntry c c.ready with | some (_, r) => r | none => c.ready }
  if f.twin then startTwins s lead (twinPartner lead) kp f (memberFired s f lead (twinPartner lead))
  else
    let s := ms.foldl (fun s site =>
      match reservedFor (getCore s site) lead with
      | some k => startBody s site k (memberFired s f lead site) (if f.gang = 2 ∧ site ≠ lead then 1 else siteRank site)
      | none => s) s
    let ks := ms.map fun site => selfOf s site (((started.find? fun e => e.1 == site).map fun e => e.2).getD 0)
    ks.foldl (fun s m => setSlot s m.site m.slot fun sl => { sl with group := ks }) s

/-- GANG_GRANT: a core grants a reservation to the lead that wants one of it next; the last grant starts the body (R130, R308). -/
def execGangGrant (site : Nat) (s : State) : Res :=
  match wantedBy s site with
  | none => .next s
  | some lead =>
    if !coreRuns s site || holdsReservation (getCore s site) then .next s
    else match groupOf s lead with
      | none => .next s
      | some (f, ms) =>
        match slotToGrant s site lead f.twin with
        | none => .next s
        | some k =>
          let s := setSlot s site k fun sl => { sl with mode := .reserved lead }
          let s := updCore s lead fun c => { c with granted := c.granted ++ [site] }
          if (getCore s lead).granted.length = ms.length then .next (settleAway (startGroup s lead f ms) lead) else .next s

-- Starting and releasing

/-- BODY_START: the head entry starts in the lowest free slot (R10, R127). -/
def execBodyStart (site : Nat) (s : State) : Res :=
  let c := getCore s site
  if !coreRuns s site || (wantedBy s site).isSome then .next s
  else match headEntry c c.ready, freeSlot c with
    | some (.start f, rest), some k =>
      if f.gang ≠ 0 ∨ f.twin then .next s
      else .next (settleAway (startBody (setCore s site { c with ready := rest }) site k f 0) site)
    | _, _ => .next s

/-- The slot holds nothing of its activation any more; its trap CSRs and its start count stay. -/
def freedSlot (sl : Slot) : Slot :=
  { sl with mode := .free, fired := none, replayable := false, outbox := [], twin := none, group := [], twinWait := .none, due := [], stepOwed := false, strictReq := none,
            strictNext := none, results := [], waits := [], cntL := 0, cntS := 0, cntE := 0, cntM := 0 }

/-- SLOT_RELEASE: a CLOSING slot with nothing outstanding becomes FREE (R15). -/
def execSlotRelease (site : Nat) (slot : Fin 4) (s : State) : Res :=
  let c := getCore s site
  let sl := c.slots[slot]
  if sl.mode = .closing ∧ c.halted = false ∧ sl.cntL = 0 ∧ sl.cntS = 0 ∧ (c.reqs.any fun r => r.slot == slot && r.act == sl.actId) = false ∧
      (c.spillOut.any fun m => m.slot == slot) = false then
    .next (setSlot s site slot freedSlot)
  else .next s

-- Line fills

/-- The trap of a slot whose line fill failed: a taken transfer has taken effect, and the trap is precise at the pc reached (R23, R83).
A late event or a STEP due at that boundary comes first (R275); the fetch then starts a new fill. -/
def fillFailed (s : State) (site line : Nat) (cause : BitVec 8) (w : FillWait) : State :=
  let k := w.slot
  let old := s.cur
  let tv := BitVec.ofNat 64 line
  if lateOpen (getCore s site) (getSlot s site k) || stepOpen (getCore s site) (getSlot s site k) then s
  else
    let s := match w.xfer with
      | none => s
      | some link =>
        let t := { s with cur := (site, k) }
        let t := match link with
          | some r => retireTo (updCur t fun sl => setX sl 1 r) w.reach [r]
          | none => retireTo t w.reach []
        { t with cur := old }
    let sl := getSlot s site k
    if stepOpen (getCore s site) sl then s
    else if cause = cREFUE ∧ sl.replayable then replayError s site k cause.toNat tv
    else
      let s := if cause = cREFUE then unreplayable s site k cause.toNat tv w.reach 0 else s
      takeTrap s site k { cause := cause, tval := tv, epc := w.reach }

/-- A failed fill at one of its waiters: its slot, a slot being spilled, or a parked activation. -/
def fillFailedAt (s : State) (site line : Nat) (cause : BitVec 8) (w : FillWait) : State :=
  let c := getCore s site
  let sl := c.slots[w.slot]
  if sl.actId = w.act ∧ sl.mode = .stalled ∧ sl.pc = w.at_ then
    if c.spillOut.any fun m => m.slot == w.slot then
      updCore s site fun c => { c with spillOut := c.spillOut.map fun m => { m with fillTrap := some (w, cause) } }
    else fillFailed s site line cause w
  else updCore s site fun c =>
    { c with away := c.away.map fun a => if a.slot = w.slot ∧ a.ctx.actId = w.act then { a with fillTrap := some (w, cause) } else a }

/-- A fill ends without a line: its waiters trap (R23); a failed ticket is counted (R325). -/
def failFill (s : State) (site : Nat) (f : Fill) (cause : BitVec 8) : State :=
  let s := updCore s site fun c =>
    let c := { c with fills := c.fills.filter fun g => g.uid != f.uid }
    if cause = cTKFAIL then countEv c 5 else c
  settleAway (f.waiters.foldl (fun s w => fillFailedAt s site f.line cause w) s) site

/-- The answer to a line fill (R19, R22, R23). A fill that IINV discarded leaves nothing (R293). -/
def fillAnswer (s : State) (site : Nat) (f : Fill) (src : Endpoint) (a : Answer) : State :=
  let c := getCore s site
  let without := fun (c : Core) => { c with fills := c.fills.filter fun g => g.uid != f.uid }
  if f.discard then setCore s site (match a with | .ticket _ false => countEv (without c) 2 | _ => without c)
  else match a with
    | .data bs => settleAway (setCore s site (installLine (without c) (lineOf f.line bs s.stepNo))) site
    | .ticket t _ =>
      let slot := ((f.waiters.head?).map fun w => w.slot).getD 0
      let c := recordTicket c t src f.burst (reqPage (BitVec.ofNat 64 f.line)) 0 slot
      let c := { c with fills := c.fills.map fun g => if g.uid = f.uid then { g with status := .ticketed t, ticketAt := s.cycle, burst := none } else g }
      setCore s site (countEv c 2)
    | .refuseUE => failFill s site f cREFUE
    | .codeDenied => failFill s site f cDENIED
    | .refusePerm _ => failFill s site f cDENIED
    | _ => s

/-- LINE_FILL_ANSWER (R23). -/
def execLineFillAnswer (pkt : Nat) (s : State) : Res :=
  match arriving s pkt with
  | some p =>
    match p.dst, p.body with
    | .core site, .answer uid a =>
      match (getCore s site).fills.find? fun f => f.uid == uid with
      | some f => .next (updCore (fillAnswer (consumePkt s pkt) site f p.src a) site settleBursts)
      | none => .next s
    | _, _ => .next s
  | none => .next s

-- The matcher

/-- A roaming channel is served with a free slot and an empty ready queue (R128). -/
def servable (c : Core) (ch : Nat) : Bool :=
  match tget c.chans ch with
  | some x => x.kind != .roaming || ((freeSlot c).isSome && c.ready.isEmpty)
  | none => true

/-- The first pattern, in the order of R123, that names a channel and can fire. -/
def firstPat (c : Core) (ch : Nat) : Option (Nat × Pat) :=
  (patOrder c ch).findSome? fun i =>
    match tget c.pats i with
    | some p => if p.terms.contains ch && satisfiable c p then some (i, p) else none
    | none => none

/-- Fires a pattern and puts its entry on the ready queue (R122). -/
def firing (s : State) (site ch pi : Nat) (p : Pat) : State :=
  let r := firePat (getCore s site) pi p ch
  let s := setCore s site { r.1 with ready := r.1.ready ++ [.start r.2] }
  wakeChans s site (p.terms ++ roamingChans (getCore s site))

/-- The matcher may take the entry a core has stolen and fire its pattern on it at once (R129). -/
def firesStolen (c : Core) (d : DeqEnt) : Bool :=
  servable c d.chan && decide (c.ready.length < Config.readyMax) && (returning c).isEmpty &&
    (firstPat { c with deque := c.deque ++ [d] } d.chan).isSome && !c.halted

/-- A stolen entry that has just come finds a place: the deque has room, or its firing makes it at once. -/
def stolenFits (c : Core) : Bool := c.stolen.any fun d => decide (dequeUsed c < Config.dequeMax) || firesStolen c d

/-- The writing of the stolen entry to overflow is on its way. -/
def stolenOut (c : Core) : Bool := c.spilling.any fun p => match p.by_ with | .stolen => true | _ => false

/-- A stolen entry enters the deque, with room made by its firing at once, or goes to overflow when the deque is full (R128, R129). It
waits in the NI while there is no room for it at all, as a message does whose spill is refused (R133). -/
def placeStolen (s : State) (site : Nat) : State :=
  let c := getCore s site
  match c.stolen with
  | none => s
  | some d =>
    if stolenOut c then s
    else if stolenFits c then
      let s := setCore s site (markChan { c with deque := c.deque ++ [d], stolen := none } d.chan)
      match firesStolen c d, firstPat (getCore s site) d.chan with
      | true, some (pi, pt) => firing s site d.chan pi pt
      | _, _ => s
    else match tget c.chans d.chan with
      | none => s
      | some x =>
        if c.spilling.isSome || x.waiters.contains (.core site) then s
        else if ringRoom x then startSpill s site d.chan x d.qm none .stolen
        else setCore s site (waitFor c d.chan (.core site))

/-- FIRE: one examination of the matcher (R120): the first channel of the marked list that may be served fires a pattern, or leaves the
list. A roaming channel at its head that R128 does not let be served is passed over, and later channels are served before it: the spec
does not say whether it would hold them up, nor whether it would wait for the end of a later channel's service once it may be served; it is
examined first from the next FIRE on (notes/assumptions/77). A stolen entry that finds a place now comes first (R129). -/
def execFire (site : Nat) (s : State) : Res :=
  let c := getCore s site
  if !coreRuns s site || decide (Config.readyMax ≤ c.ready.length) || !(returning c).isEmpty then .next s
  else if stolenFits c && !stolenOut c then .next (placeStolen s site)
  else match c.marked.find? (servable c) with
    | none => .next s
    | some ch =>
      match firstPat c ch with
      | some (pi, p) => .next (firing s site ch pi p)
      | none => .next (setCore s site { c with marked := c.marked.filter fun m => m != ch })

-- Overflow

/-- There is room for a returning message. -/
def roomToReturn (c : Core) (ch : Nat) (x : Chan) (e : OvfEnt) : Bool :=
  let open_ := (quorumOf c ch).any fun p => decide (progCount p.2 < p.2.qn)
  match x.kind with
  | .roaming => decide (dequeUsed c < Config.dequeMax)
  | .fifo => decide (poolUsed x < x.cap) || (open_ && x.queue.isEmpty)
  | .sequenced => decide (poolUsed x < x.cap) || (open_ && e.seq == x.nextSeq)

/-- The ring after entry e has returned: its head moves to the first entry still in it (R132, R151). -/
def afterReturn (x : Chan) (e : OvfEnt) : Chan :=
  let ovf := x.ovf.filter fun y => y.ix != e.ix
  let head :=
    if ovf.isEmpty then x.tail
    else if x.kind = .sequenced then
      ovf.foldl (fun h y => if (y.ix + x.ovfSize - x.head) % x.ovfSize < (h + x.ovfSize - x.head) % x.ovfSize then y.ix else h)
        ((x.head + x.ovfSize - 1) % x.ovfSize)
    else (e.ix + 1) % x.ovfSize
  { x with ovf := ovf, head := head }

/-- A message that has come back from overflow enters its channel and marks it (R120, R125, R132). -/
def putReturned (s : State) (site ch : Nat) (x : Chan) (e : OvfEnt) (m : Msg) : State :=
  let x := afterReturn x e
  let q : QMsg := ⟨m, e.arrival, e.returned, e.part⟩
  let c := getCore s site
  let c := match x.kind with
    | .roaming => { setChan c ch x with deque := c.deque ++ [⟨ch, q⟩] }
    | _ => absorb ch (x.queue.length + 2) (setChan c ch { x with queue := x.queue ++ [q] })
  wakeWaiters (setCore s site (markChan c ch)) site ch

/-- A read of a channel's overflow is out or waits on a ticket. -/
def returnOut (c : Core) (ch : Nat) : Bool :=
  c.bulks.any fun b => match b.kind with | .ovfReturn i _ _ => i == ch | _ => false

/-- OVERFLOW_RETURN: the read of a spilled message that has room starts; its answer brings the message back (R132). -/
def execOverflowReturn (site chan : Nat) (s : State) : Res :=
  let c := getCore s site
  match tget c.chans chan with
  | none => .next s
  | some x =>
    match nextReturn x with
    | none => .next s
    | some e =>
      if c.halted || returnOut c chan || !roomToReturn c chan x e then .next s
      else .next (sendBulk s site (.ovfReturn chan x.gen e.ix) (x.ovfBase + BitVec.ofNat 64 (64 * e.ix)) (.read 64))

/-- A message read back from overflow enters its channel, if its entry still stands there and there is room; a page fault only delays it
(R132). -/
def returnRead (s : State) (site ch gen ix : Nat) (bs : List Byte) : State :=
  let c := getCore s site
  match (tget c.chans ch).filter fun x => x.gen == gen with
  | none => s
  | some x =>
    match x.ovf.find? fun e => e.ix == ix with
    | some e => if roomToReturn c ch x e then putReturned s site ch x e (msgOf bs) else s
    | none => s

-- Stealing

/-- The roaming channels of a core that a pattern names (R129). -/
def stealSet (c : Core) : List Nat := (roamingChans c).filter fun ch => c.pats.any fun p => p.2.terms.contains ch

/-- A core is idle (R129). -/
def idleCore (c : Core) : Bool :=
  (c.slots.toList.all fun sl => sl.mode == .free) && c.ready.isEmpty && !(c.pats.any fun p => satisfiable c p.2)

/-- The cores of a steal domain, row-major by cluster and in rank order, without the thief (R129, R286). -/
def stealVictims (s : State) (site : Nat) : List Nat :=
  let c := getCore s site
  let d := c.stealdom
  let cls := (List.range (bits d 12 4 + 1 - bits d 4 4)).flatMap fun i =>
    (List.range (bits d 8 4 + 1 - bits d 0 4)).map fun j => siteDie site * 256 + (bits d 4 4 + i) * 16 + (bits d 0 4 + j)
  let mine := match c.part with | some p => (getPart s p).clusters | none => []
  ((cls.filter mine.contains).flatMap fun cl => (List.range 4).map (clusterSite cl)).filter fun x =>
    x != site && working s x && !(getCore s x).ctrl

/-- The victim after the last one (R129). Before the first steal, and when the last victim is no longer in the domain, the spec names none to
start past: the first core of the domain is asked (notes/assumptions/51). -/
def nextVictim (vs : List Nat) (last : Option Nat) : Option Nat :=
  match last with
  | none => vs.head?
  | some l =>
    match vs.dropWhile fun v => v != l with
    | _ :: v :: _ => some v
    | _ => vs.head?

/-- STEAL: an idle core asks the next victim (R129). -/
def execSteal (site : Nat) (s : State) : Res :=
  let c := getCore s site
  if !coreRuns s site || c.stealOut || c.stolen.isSome || !idleCore c || (stealSet c).isEmpty then .next s
  else match nextVictim (stealVictims s site) c.lastVictim with
    | none => .next s
    | some v =>
      let s := setCore s site { c with lastVictim := some v, stealOut := true }
      .next (sendPkt s { src := .core site, dst := .core v, cls := .sys, body := .stealReq (stealSet c) })

/-- STEAL_REQUEST: the victim gives its oldest entry in the thief's set, or none (R129). A core that is halted has none to give: SYS
packets are always sunk (R337). -/
def execStealRequest (pkt : Nat) (s : State) : Res :=
  match arriving s pkt with
  | some p =>
    match p.dst, p.body with
    | .core site, .stealReq chs =>
      let c := getCore s site
      let s := consumePkt s pkt
      let e := if c.halted || darkCore s site then none else c.deque.find? fun e => chs.contains e.chan
      let s := match e with
        | some d => wakeChans (setCore s site (countEv { c with deque := c.deque.erase d } 9)) site (roamingChans c)
        | none => s
      .next (sendPkt s { src := .core site, dst := p.src, cls := .sys, body := .stealRep e })
    | _, _ => .next s
  | none => .next s

/-- STEAL_REPLY: the thief takes the entry and fires its own pattern on it (R129). -/
def execStealReply (pkt : Nat) (s : State) : Res :=
  match arriving s pkt with
  | some p =>
    match p.dst, p.body with
    | .core site, .stealRep e =>
      let s := updCore (consumePkt s pkt) site fun c => { c with stealOut := false }
      match e with
      | none => .next s
      | some d =>
        .next (placeStolen (updCore s site fun c => countEv { c with stolen := some d } 8) site)
    | _, _ => .next s
  | none => .next s

-- Messages

/-- MESSAGE_ARRIVAL: a message reaches its core (R146, R147). It waits while the core has moved away, while the switch marker of its
source is still to come (R300), while the source table is full (R277) and while the NI writes a spill; a message of the SYS class waits in
the NI (R337). -/
def execMessageArrival (pkt : Nat) (s : State) : Res :=
  match arriving s pkt with
  | some p =>
    match p.dst, p.body with
    | .core site, .req r =>
      match r.op with
      | .msg _ =>
        .next (if (tget (getCore s site).fwd (reqNumber r)).isSome then s else messageComes s pkt site { src := p.src, req := r })
      | _ => .next s
    | _, _ => .next s
  | none => .next s

/-- SNAPSHOT_RELEASE: the NI sends what its snapshots no longer hold (R143, R216), and what waits behind a failed ticket once its failures
are reported (R278); messages that wait in it are placed as far as they can be (R337). -/
def execSnapshotRelease (site : Nat) (s : State) : Res := .next (drainInbox (pump (settleFailed s site) site) site)

end Sys2Proof.Machine
end

