-- ==== Sys2Proof/Machine/FerryEv.lean ====
section
/-! DEFINITION. Machine/FerryEv.lean: what a ferry does with its subscriptions: accepting one (spec/12 R210, R221), the deferred record
(R209), starting a tile (R203), its segments (R212, R213), UNSUB and FSTAT (R222, R223), and notices of homes (R212, R211). -/

namespace Sys2Proof.Machine

/-- The subscription of a request at a ferry. -/
def subOf (r : ReqPkt) (gen win rows groups : Nat) (snap : List Nat) (desc : List Byte) : Sub :=
  let d := subDesc (leNat desc)
  { gen := gen, part := r.part, lcore := r.srcCore, slot := r.slot, act := r.act, snap := snap, d := d, rows := rows, groups := groups, win := win,
    state := if d.dcount || d.dbase then .waiting else .active, tcount := if d.dcount then 0 else d.tcount }

/-- The lowest entry of a ferry that holds no live subscription. -/
def freeSub (x : Ferry) : Option Nat :=
  findFrom (fun e => match tget x.subs e with | some u => subEnded u | none => true) Config.subMax 0

/-- The generation that the next use of an entry takes. It outlives the subscription and its partition (R210). -/
def nextGeneration (s : State) (f e gen : Nat) : State :=
  let x := getFerry s f
  setFerry s f { x with gens := tset x.gens e ((gen + 1) % 8) }

/-- A ferry takes a subscription into entry e: its berths are attached; a count of 0 ends it at once (R210, R221, R205). -/
def acceptSub (s : State) (f e : Nat) (r : ReqPkt) (win rows groups : Nat) (snap : List Nat) (desc : List Byte) : State × Answer :=
  let gen := (tget (getFerry s f).gens e).getD 0
  let u := subOf r gen win rows groups snap desc
  let h := handleOf f gen e
  let site := subSite s u
  let s := nextGeneration (setSub s f e u) f e gen
  let s := (List.range u.d.rlen).foldl (fun s k =>
    updTile s site (u.d.rfirst + k) fun t => { t with subv := true, handle := h, rpos := k }) s
  let s := if u.d.dcount = false ∧ u.d.tcount = 0 then endSub s f e u .done 1 0 else s
  (s, .old (BitVec.ofNat 64 h))

/-- The ferry after f in the order of distance from a site (R210). -/
def nextFerry (site f : Nat) : Option Nat :=
  match (ferriesByDistance site).dropWhile fun g => g != f with
  | _ :: g :: _ => some g
  | _ => none

/-- FERRY_SUBSCRIBE: a ferry accepts the subscription, passes it on, or the last one refuses it NOFERRY (R210, R221). -/
def execFerrySubscribe (pkt : Nat) (s : State) : Res :=
  match arriving s pkt with
  | some p =>
    match p.src, p.dst, p.body with
    | .core site, .ferry f, .req r =>
      match r.op with
      | .subscr win rows groups snap desc =>
        let s := consumePkt s pkt
        match freeSub (getFerry s f), nextFerry site f with
        | some e, _ =>
          let y := acceptSub s f e r win rows groups snap desc
          .next (answerTo y.1 (.ferry f) p.src r.uid y.2)
        | none, some g =>
          .next (sendPkt s { p with dst := .ferry g, wire := .queued, start := some (exitOf s p).1 })
        | none, none => .next (answerTo s (.ferry f) p.src r.uid (.old (subscrRefusal 6)))
      | _ => .next s
    | _, _, _ => .next s
  | none => .next s

-- The deferred record (R209)

/-- The subscription may act: its core runs and what it follows has completed (R216, R214). -/
def subRuns (s : State) (u : Sub) : Bool := coreRuns s (subSite s u) && snapDone (getCore s (subSite s u)) u.snap

/-- A deferred read waits on a ticket. -/
def deferTicket (s : State) (f e : Nat) (t : BitVec 16) (h : Nat) : State :=
  match getSub s f e with
  | some u => setSub s f e { u with defTicket := some (t, h) }
  | none => s

/-- DEFERRED_POLL: the flag word is read at its home (R209). -/
def execDeferredPoll (ferry entry : Nat) (s : State) : Res :=
  match getSub s ferry entry with
  | none => .next s
  | some u =>
    if u.state ≠ .waiting ∨ u.defTicket.isSome ∨ subRuns s u = false then .next s
    else match bulkAccess s u.part u.d.defaddr (.ferry ferry) (.read 8) with
      | .done s (.data bs) =>
        if (leNat (bs.take 2) + 2 ^ 16 - u.d.flagv) % 2 ^ 16 < 0x8000 then
          .next (match getSub s ferry entry with | some u => setSub s ferry entry { u with state := .record } | none => s)
        else .next s
      | .done s _ => .next (failDeferred s ferry entry u.d.defaddr)
      | .ticketed s t => .next (deferTicket s ferry entry t (homeFerry u.d.defaddr))
      | .refused => .next (failDeferred s ferry entry u.d.defaddr)
      | .wait => .next s

/-- Reading the words of a deferred record. -/
inductive RecordRes
  | got (s : State) (ws : List Nat)
  | failed (s : State) (addr : Word)
  | ticketed (s : State) (t : BitVec 16) (h : Nat)
  | wait
  deriving DecidableEq, Repr

def readRecord (f part : Nat) : List Word → State → List Nat → RecordRes
  | [], s, ws => .got s ws
  | a :: rest, s, ws =>
    match bulkAccess s part a (.ferry f) (.read 8) with
    | .done s (.data bs) => readRecord f part rest s (ws ++ [leNat bs])
    | .done s _ => .failed s a
    | .ticketed s t => .ticketed s t (homeFerry a)
    | .refused => .failed s a
    | .wait => .wait

/-- The resolved descriptor and count, or the address of the word that breaks a rule (R209). -/
def resolveRecord (u : Sub) (ws : List Nat) : Except Word (SubDesc × Nat) :=
  let at_ := fun (k : Nat) => (nth ws k).getD 0
  let cnt := if u.d.dcount then at_ 0 else u.tcount
  let i := if u.d.dcount then 1 else 0
  let d := if u.d.dbase then
      { u.d with base := BitVec.ofNat 64 (at_ i), xbase := if u.d.fmt = 3 then BitVec.ofNat 64 (at_ (i + 1)) else 0 }
    else u.d
  if 2 ^ 24 ≤ cnt then .error (u.d.defaddr + 8)
  else if !baseOk d then .error (u.d.defaddr + 16)
  else if !xbaseOk d then .error (u.d.defaddr + 24)
  else .ok (d, cnt)

/-- DEFERRED_READ: the record is read after the flag (R209). -/
def execDeferredRead (ferry entry : Nat) (s : State) : Res :=
  match getSub s ferry entry with
  | none => .next s
  | some u =>
    if u.state ≠ .record ∨ u.defTicket.isSome ∨ subRuns s u = false then .next s
    else match readRecord ferry u.part (deferredWords u) s [] with
      | .got s ws =>
        match resolveRecord u ws with
        | .error a => .next (failDeferred s ferry entry a)
        | .ok (d, cnt) =>
          let v := { u with d := d, tcount := cnt, state := .active }
          .next (if cnt = 0 then endSub s ferry entry v .done 1 0 else setSub s ferry entry v)
      | .failed s a => .next (failDeferred s ferry entry a)
      | .ticketed s t h => .next (deferTicket s ferry entry t h)
      | .wait => .next s

-- Tiles and segments

/-- The berth may take the tile now (R203, R204). -/
def berthFree (u : Sub) (t : Tile) : Bool :=
  if u.d.output then t.state == .draining else t.state == .empty && !t.relp

/-- The segments a tile starts with: those of its index list, or of its rows (R206). -/
def firstJob (u : Sub) (t : Nat) : TileJob :=
  if u.d.gather then
    { tile := t, indexed := false,
      segs := (segsOf .index 0 (u.d.idxaddr + BitVec.ofNat 64 (4 * (t * u.rows))) (4 * u.rows)).zipIdx.map fun e => { e.1 with id := e.2 } }
  else { tile := t, indexed := true, segs := rowSegs u t some }

/-- FERRY_TILE_START: the next tile starts, and its segments leave (R203, R212, R216). -/
def execFerryTileStart (ferry entry : Nat) (s : State) : Res :=
  match getSub s ferry entry with
  | none => .next s
  | some u =>
    let b := berthOf u u.next
    let c := getCore s (subSite s u)
    match getTile c b with
    | none => .next s
    | some t =>
      if u.state = .active ∧ u.stopping = false ∧ u.fail = none ∧ u.next < u.tcount ∧ subRuns s u ∧ snapDone c t.relSnap ∧ berthFree u t ∧
          (u.jobs.any fun j => berthOf u j.tile == b) = false ∧ u.fixups.length < Config.fixupMax then
        .next (pumpSegs (setSub s ferry entry { u with next := u.next + 1, jobs := u.jobs ++ [firstJob u u.next] }) ferry entry)
      else .next s

/-- An answer to a packet of a ferry is for a segment of the entry, or for one that is gone. -/
def answersEntry (x : Ferry) (entry uid : Nat) : Bool :=
  match findSeg x uid with
  | some (e, _, _) => e == entry
  | none => true

/-- SEGMENT_ANSWER: an answer reaches a ferry for a segment of one of its entries, which is done, ticketed or failed (R212, R213). -/
def execSegmentAnswer (ferry entry pkt : Nat) (s : State) : Res :=
  match arriving s pkt with
  | some p =>
    match p.dst, p.body with
    | .ferry f, .answer uid a =>
      if f = ferry ∧ (findNote s f uid).isNone ∧ answersEntry (getFerry s f) entry uid then .next (segAnswer (consumePkt s pkt) f uid p.src a)
      else .next s
    | _, _ => .next s
  | none => .next s

-- UNSUB and FSTAT

/-- UNSUB on a live subscription: the segments it has sent are finished, and an output ring drains the tiles it has started (R222, R201;
notes/assumptions/85). -/
def unsub (s : State) (f e : Nat) (u : Sub) : State :=
  if u.state = .active ∧ (if u.d.output then u.jobs ≠ [] else flyingSegs u ≠ 0) then setSub s f e { u with stopping := true }
  else endSub s f e u .cancelled 3 0

/-- UNSUB_AT_FERRY (R222). A second UNSUB while the first is still finishing its segments answers 3 ENDED: the spec does not say
(notes/assumptions/85). -/
def execUnsubAtFerry (pkt : Nat) (s : State) : Res :=
  match arriving s pkt with
  | some p =>
    match p.dst, p.body with
    | .ferry f, .req r =>
      match r.op with
      | .unsub h =>
        let y := ferryOrdered (consumePkt s pkt) f p.src r fun s =>
          match ownSub s f r.part h with
          | .error code => (s, .old (BitVec.ofNat 64 code))
          | .ok (e, u) => if subEnded u || u.stopping then (s, .old 3) else (unsub s f e u, .old 0)
        .next (answerTo y.1 p.dst p.src r.uid y.2)
      | _ => .next s
    | _, _ => .next s
  | none => .next s

/-- The subscription status word (R223). Between the flag that meets its condition and the reading of the record it still reads STATE 0 and TCOUNT
0: the spec has no state for it (notes/assumptions/85). -/
def fstatWord (u : Sub) : Word :=
  let code := match u.state with
    | .waiting => 0 | .record => 0 | .active => 1 | .done => 2 | .failed => 3 | .cancelled => 4
  BitVec.ofNat 64 (code + u.fixups.length * 2 ^ 3 + min u.drops 255 * 2 ^ 8 + u.tdone * 2 ^ 16 + (if code = 0 then 0 else u.tcount) * 2 ^ 40)

/-- FSTAT_AT_FERRY (R222, R223). -/
def execFstatAtFerry (pkt : Nat) (s : State) : Res :=
  match arriving s pkt with
  | some p =>
    match p.dst, p.body with
    | .ferry f, .req r =>
      match r.op with
      | .fstat h =>
        let y := ferryOrdered (consumePkt s pkt) f p.src r fun s =>
          (s, .old (match ownSub s f r.part h with
            | .error _ => 7
            | .ok (_, u) => fstatWord u))
        .next (answerTo y.1 p.dst p.src r.uid y.2)
      | _ => .next s
    | _, _ => .next s
  | none => .next s

/-- FIXUP_REPLAY: a replay notice reaches a ferry: what waited on the ticket is sent again (R212, R209, R211). -/
def execFixupReplay (pkt : Nat) (s : State) : Res :=
  match arriving s pkt with
  | some p =>
    match p.dst, p.body with
    | .ferry f, .notice t => .next (ferryReplay (consumePkt s pkt) f t p.src)
    | _, _ => .next s
  | none => .next s

end Sys2Proof.Machine
end

