-- ==== Sys2Proof/Machine/FloatScalar.lean ====
section
/-! DEFINITION. Machine/FloatScalar.lean: scalar floating point, page 1 (spec/05 R85 to R91). -/

namespace Sys2Proof.Machine

/-- Writes a result and the environment of its roundings (R85, R59). -/
def floatResult (s : State) (a : XReg) (v : Nat) (e : FEnv) : Res :=
  .next (retireX (updCur s fun sl => putEnv sl e) a (BitVec.ofNat 64 v))

/-- Majors 0 and 1 (R87): x = C, y = B, z = A. -/
def floatArith (op : FOp) (w : FWidth) (m : RMod) (a c b : XReg) (s : State) : Res :=
  needX s [a, c, b] fun sl =>
    let f := fmtOf w
    let r := fArith f op m (opBits f (getX sl c)) (opBits f (getX sl b)) (opBits f (getX sl a)) (envOf sl)
    floatResult s a r.1 r.2

/-- An operation on x = C and y = B whose result is not rounded (R87, R88). -/
def floatBits (w : FWidth) (a c b : XReg) (g : FFmt → Nat → Nat → FEnv → Nat × FEnv) (s : State) : Res :=
  needX s [a, c, b] fun sl =>
    let f := fmtOf w
    let r := g f (opBits f (getX sl c)) (opBits f (getX sl b)) (envOf sl)
    floatResult s a r.1 r.2

/-- A conversion of the source register B (R90). -/
def floatConv (a b : XReg) (g : Word → FEnv → Nat × FEnv) (s : State) : Res :=
  needX s [a, b] fun sl =>
    let r := g (getX sl b) (envOf sl)
    floatResult s a r.1 r.2

/-- Every value of `src` is a value of `dst`: the conversion widens and is exact (R64). -/
def widens (src dst : FFmt) : Bool := decide (src.ebits ≤ dst.ebits) && decide (src.frac ≤ dst.frac) && dst.hasInf

/-- A widening conversion or a narrowing one: one rounding, or none where the source is exact and special. A widening conversion keeps
an infinity and raises no flag, so .sat is for a narrowing one alone (R64, R91). -/
def cvtFmt (src dst : FFmt) (m : RMod) (v : Nat) (e : FEnv) : Nat × FEnv :=
  roundOne dst { m with sat := m.sat && !widens src dst } (exOk (valOf src v)) e

/-- An operation on the sign bit alone: a NaN passes unchanged (R51, R88; notes/assumptions/26). -/
def keepNan (f : FFmt) (v r : Nat) : Nat := if (valOf f v).isNan then v else r

def execFadd (w : FWidth) (m : RMod) (a c b : XReg) (s : State) : Res := floatArith .add w m a c b s
def execFsub (w : FWidth) (m : RMod) (a c b : XReg) (s : State) : Res := floatArith .sub w m a c b s
def execFmul (w : FWidth) (m : RMod) (a c b : XReg) (s : State) : Res := floatArith .mul w m a c b s
def execFdiv (w : FWidth) (m : RMod) (a c b : XReg) (s : State) : Res := floatArith .div w m a c b s
def execFmin (w : FWidth) (a c b : XReg) (s : State) : Res := floatBits w a c b (fun f x y e => (minBits f x y, e)) s
def execFmax (w : FWidth) (a c b : XReg) (s : State) : Res := floatBits w a c b (fun f x y e => (maxBits f x y, e)) s
def execFsqrt (w : FWidth) (m : RMod) (a b : XReg) (s : State) : Res := floatArith .sqrt w m a a b s
def execFma (w : FWidth) (m : RMod) (a c b : XReg) (s : State) : Res := floatArith .fma w m a c b s
def execFms (w : FWidth) (m : RMod) (a c b : XReg) (s : State) : Res := floatArith .fms w m a c b s
def execFnma (w : FWidth) (m : RMod) (a c b : XReg) (s : State) : Res := floatArith .fnma w m a c b s
def execFnms (w : FWidth) (m : RMod) (a c b : XReg) (s : State) : Res := floatArith .fnms w m a c b s
def execFeq (w : FWidth) (a c b : XReg) (s : State) : Res :=
  floatBits w a c b (fun f x y e => (boolBit (fvEq (valOf f x) (valOf f y)), e)) s
def execFlt (w : FWidth) (a c b : XReg) (s : State) : Res :=
  floatBits w a c b (fun f x y e => let r := fLess f x y e; (boolBit r.1, r.2)) s
def execFle (w : FWidth) (a c b : XReg) (s : State) : Res :=
  floatBits w a c b (fun f x y e => let r := fLessEq f x y e; (boolBit r.1, r.2)) s
def execFunord (w : FWidth) (a c b : XReg) (s : State) : Res :=
  floatBits w a c b (fun f x y e => (boolBit ((valOf f x).isNan || (valOf f y).isNan), e)) s
def execFclass (w : FWidth) (a b : XReg) (s : State) : Res :=
  floatBits w a b b (fun f _ y e => (classOf f y, e)) s
/-- FABS clears the sign bit, FNEG inverts it, and FSIGN takes the other operand's; a NaN passes each of them unchanged (R88). -/
def execFabs (w : FWidth) (a b : XReg) (s : State) : Res :=
  floatBits w a b b (fun f _ y e => (keepNan f y (y % f.signBit), e)) s
def execFneg (w : FWidth) (a b : XReg) (s : State) : Res :=
  floatBits w a b b (fun f _ y e => (keepNan f y (if y / f.signBit = 0 then y + f.signBit else y - f.signBit), e)) s
def execFsign (w : FWidth) (a c b : XReg) (s : State) : Res :=
  floatBits w a c b (fun f x y e => (keepNan f x (x % f.signBit + y / f.signBit * f.signBit), e)) s
def execFcvtF2i (w : FWidth) (rnd : Rnd) (a b : XReg) (s : State) : Res :=
  floatConv a b (fun v e => let r := toInt rnd (-(2 ^ 63)) (2 ^ 63 - 1) (opVal (fmtOf w) v) e; ((r.1 % 2 ^ 64).toNat, r.2)) s
def execFcvtF2n (w : FWidth) (rnd : Rnd) (a b : XReg) (s : State) : Res :=
  floatConv a b (fun v e => let r := toInt rnd 0 (2 ^ 64 - 1) (opVal (fmtOf w) v) e; (r.1.toNat, r.2)) s
def execFcvtI2f (w : FWidth) (m : RMod) (a b : XReg) (s : State) : Res :=
  floatConv a b (fun v e => roundOne (fmtOf w) m (exOk (intVal v.toInt)) e) s
def execFcvtN2f (w : FWidth) (m : RMod) (a b : XReg) (s : State) : Res :=
  floatConv a b (fun v e => roundOne (fmtOf w) m (exOk (intVal v.toNat)) e) s
/-- FCVT.FF: one rounding, or rounding to an integral value when source and target are the same format (R91). -/
def execFcvtFf (w src : FWidth) (m : RMod) (a b : XReg) (s : State) : Res :=
  floatConv a b (fun v e =>
    if w = src then toIntegral (fmtOf w) m (opVal (fmtOf w) v) e
    else cvtFmt (fmtOf src) (fmtOf w) m (opBits (fmtOf src) v) e) s
def execFcvtF2e (w : FWidth) (e : E8) (m : RMod) (a b : XReg) (s : State) : Res :=
  floatConv a b (fun v env => cvtFmt (fmtOf w) (fmtE e) m (opBits (fmtOf w) v) env) s
/-- FCVT.E2F is exact and raises no flag (R90). -/
def execFcvtE2f (w : FWidth) (e : E8) (a b : XReg) (s : State) : Res :=
  floatConv a b (fun v env => ((roundRne (fmtOf w) (exOk (opVal (fmtE e) v))).bits, env)) s

end Sys2Proof.Machine
end

