-- ==== Sys2Proof/Machine/FrameOps.lean ====
section
/-! DEFINITION. Machine/FrameOps.lean: the transfers of a slot's context to and from its spill frame (spec/17 R295 to R298). -/

namespace Sys2Proof.Machine

/-- The address of a page of a spill frame (R296). -/
def frameAddr (c : Core) (frame page : Nat) : Word := BitVec.ofNat 64 (bits c.spill 16 41 * 2 ^ 16 + frame * 0x4000 + page * 0x1000)

/-- Every page of the frame starts on its way, written or read. The words of a frame are opaque (R296; notes/assumptions/17). -/
def sendPages (s : State) (site frame : Nat) (out : Bool) : State :=
  [0, 1, 2, 3].foldl (fun s p =>
    let a := frameAddr (getCore s site) frame p
    if out then
      sendBulk s site (.spillPage p) a (.write ((List.range 4096).map fun i => Config.freeFrame (s.stepNo * 0x4000 + p * 0x1000 + i)))
    else sendBulk s site (.restorePage p) a (.read 4096)) s

/-- The scratchpad offset of a slot's frame (R9). -/
def slotFrame (k : Fin 4) : Nat := Config.frameBase + k.val * 0x1000

/-- A failed or refused frame write abandons the spill; the slot goes on waiting (R297). A fill that failed meanwhile traps now. -/
def abandonSpill (s : State) (site : Nat) : State :=
  match (getCore s site).spillOut with
  | none => s
  | some m =>
    let s := updCore s site fun c => { c with spillOut := none, bulks := c.bulks.filter fun b => !forSpill b.kind }
    match m.fillTrap with
    | some (w, cause) => fillFailed s site (w.reach.toNat / 128 * 128) cause w
    | none => s

/-- Every page is written: the slot becomes FREE and its context stands in the frame (R297, R322). -/
def finishSpill (s : State) (site : Nat) (m : FrameMove) : State :=
  let sl := getSlot s site m.slot
  let s := trace s site m.slot 5 (patOf sl) sl.pc 0
  updCore s site fun c =>
    let lo := slotFrame m.slot
    let a : Away :=
      { slot := m.slot, frame := m.frame, ctx := sl, frameBytes := readBytes c.spad lo 4096,
        frameUE := c.spadUE.filter fun o => decide (lo ≤ o ∧ o < lo + 4096), fillTrap := m.fillTrap,
        waits := if sl.mode = .closing then (c.reqs.filter fun r => r.slot == m.slot && r.act == sl.actId).map fun r => r.uid else sl.waits }
    pushResumes (countEv { c with spillOut := none, away := c.away ++ [a], slots := c.slots.set m.slot (freedSlot sl) } 6)

/-- The late events of a restored activation that was closing are reported, not trapped (R279, R281, R298). -/
def reportRestored (s : State) (site : Nat) (k : Fin 4) : State :=
  let sl := getSlot s site k
  if sl.mode = .closing then sl.due.foldl (fun s d => reportDue s site k d) (setSlot s site k fun sl => { sl with due := [] }) else s

/-- The context is back in its slot; the frame is free (R298). An error on the way ends the activation with a report of kind KILL. -/
def finishRestore (s : State) (site : Nat) (failed : Bool) : State :=
  match (getCore s site).restoring with
  | none => s
  | some m =>
    let s := updCore s site fun c => { c with restoring := none, bulks := c.bulks.filter fun b => !forRestore b.kind }
    match (getCore s site).away.find? fun a => a.slot == m.slot && a.frame == m.frame with
    | none => s
    | some a =>
      let s := updCore s site fun c =>
        let lo := slotFrame m.slot
        { c with away := c.away.filter fun b => !(b.slot == m.slot && b.frame == m.frame),
                 slots := c.slots.set m.slot { a.ctx with serial := c.slots[m.slot].serial, waits := [], stallAt := s.cycle },
                 spad := writeBytes c.spad lo a.frameBytes,
                 spadUE := (c.spadUE.filter fun o => !decide (lo ≤ o ∧ o < lo + 4096)) ++ a.frameUE }
      if failed then endBy s site m.slot { kind := 2, cause := 0x12 }
      else
        let s := reportRestored (trace s site m.slot 6 (patOf a.ctx) a.ctx.pc 0) site m.slot
        match a.fillTrap with
        | some (w, cause) => fillFailed s site (w.reach.toNat / 128 * 128) cause w
        | none => s

-- BULK accesses (R188, R322, R297, R298, R132)

/-- What the end of a BULK access does beside what its spill does (Machine/SpillEv.lean): a trace record not written is lost and counted (R322), a frame page not moved abandons the spill or
fails the restore, the last page read completes it (R297, R298), a message read returns to its channel (R132). -/
def bulkEnd (s : State) (site : Nat) (b : Bulk) (a : Answer) : State :=
  let s := updCore s site fun c => { c with bulks := c.bulks.filter fun x => x.uid != b.uid }
  match b.kind, a with
  | .trace, .ack => s
  | .trace, _ => updCore s site fun c => countEv c 13
  | .spillPage _, .ack => s
  | .spillPage _, _ => abandonSpill s site
  | .restorePage _, .data _ => if (getCore s site).bulks.any fun x => forRestore x.kind then s else finishRestore s site false
  | .restorePage _, _ => finishRestore s site true
  | .ovfReturn ch gen ix, .data bs => returnRead s site ch gen ix bs
  | .ovfReturn _ _ _, _ => s
  | .ovfSpill, _ => s
  | .clear _, _ => s

/-- A BULK access that waits on a ticket of a home. -/
def bulkOn (t : BitVec 16) (h : Endpoint) (b : Bulk) : Bool := h == .ferry (homeFerry b.addr) && b.status == .ticketed t

/-- A BULK access is answered: it waits on a ticket, which is counted and recorded (R278, R325), or it ends. -/
def bulkAnswer (s : State) (site : Nat) (b : Bulk) (h : Endpoint) (a : Answer) : State :=
  match a with
  | .ticket t _ =>
    updCore s site fun c =>
      let c := recordTicket c t h b.burst (reqPage b.addr) 0 0
      countEv { c with bulks := c.bulks.map fun x => if x.uid = b.uid then { x with status := .ticketed t, burst := none } else x } 2
  | a => bulkEnd s site b a

/-- The notice of a ticket at the BULK accesses of the kinds given that wait on it: each is sent again, or has failed and is counted
(R278, R279, R325). The write of a refused spill only waits to hear how its ticket ends: its message is the sender's (R133). -/
def bulkNotice (s : State) (site : Nat) (t : BitVec 16) (h : Endpoint) (ok : Bool) (p : BulkKind → Bool) : State :=
  ((getCore s site).bulks.filter fun b => bulkOn t h b && p b.kind).foldl (fun s b =>
    if !ok then bulkEnd (updCore s site fun c => countEv c 5) site b .failed
    else if b.kind = .ovfSpill then bulkEnd s site b .ack
    else
      flyBulk (updCore s site fun c =>
        { c with bulks := c.bulks.map fun x => if x.uid = b.uid then { x with status := .flying, burst := some t } else x }) site b) s

-- The events

/-- A slot waits on a ticket: STALLED or CLOSING for a request or a fill with an open ticket; the cycle since which it does (R297). -/
def ticketWait (c : Core) (k : Fin 4) : Option Nat :=
  let sl := c.slots[k]
  let tk := fun (st : ReqStatus) => match st with | .ticketed _ => true | .bounced _ => true | _ => false
  let held := fun (r : Req) =>
    (if sl.mode = .closing then r.slot == k && r.act == sl.actId else sl.mode == .stalled && sl.waits.contains r.uid) && tk r.status
  let fills := c.fills.filter fun f =>
    sl.mode == .stalled && tk f.status && f.waiters.any fun w => w.slot == k && w.act == sl.actId && w.at_ == sl.pc
  let starts := ((c.reqs.filter held).map fun r => r.ticketAt) ++ fills.map fun f => f.ticketAt
  match starts with
  | [] => none
  | t :: ts => some (max sl.stallAt (ts.foldl min t))

/-- The slot that is to be spilled: the one that has waited longest past the threshold, the lower number on a tie; twins never are
(R297, R308). -/
def spillVictim (s : State) (c : Core) : Option (Fin 4) :=
  let th := bits c.spill 4 12 * 256
  ((List.finRange 4).foldl (fun (r : Option (Fin 4 × Nat)) k =>
    match ticketWait c k with
    | some t =>
      if th = 0 ∨ s.cycle < t + th ∨ c.slots[k].twin.isSome then r
      else match r with
        | some (_, u) => if t < u then some (k, t) else r
        | none => some (k, t)
    | none => r) none).map fun e => e.1

/-- The lowest free spill frame (R296, R297). -/
def spillFrame (c : Core) : Option Nat :=
  findFrom (fun f => !(c.away.any fun a => a.frame == f)) (bits c.spill 0 4 + 1) 0

/-- What holds a stalled slot, fills included. -/
def slotWaits (c : Core) (k : Fin 4) : List Nat :=
  let sl := c.slots[k]
  sl.waits ++ (c.fills.filter fun f => f.waiters.any fun w => w.slot == k && w.act == sl.actId && w.at_ == sl.pc).map fun f => f.uid

/-- SLOT_SPILL: one slot's context starts on its way to a frame (R297). -/
def execSlotSpill (site : Nat) (s : State) : Res :=
  let c := getCore s site
  if !coreRuns s site || c.ready.isEmpty || c.spillOut.isSome then .next s
  else match spillVictim s c, spillFrame c with
    | some k, some f =>
      let ws := slotWaits c k
      let c := { c with spillOut := some { slot := k, frame := f }, slots := c.slots.set k { c.slots[k] with waits := ws } }
      .next (sendPages (setCore s site c) site f true)
    | _, _ => .next s

/-- SLOT_SPILL_DONE: every frame write has been acknowledged and the slot becomes FREE (R297). -/
def execSlotSpillDone (site : Nat) (slot : Fin 4) (s : State) : Res :=
  match (getCore s site).spillOut with
  | some m =>
    if m.slot ≠ slot ∨ (getCore s site).bulks.any (fun b => forSpill b.kind) then .next s
    else .next (finishSpill s site m)
  | none => .next s

/-- SLOT_RESTORE: a parked activation that is ready again starts back into its own slot; the last page read completes it (R298). -/
def execSlotRestore (site : Nat) (s : State) : Res :=
  let c := getCore s site
  if !working s site || c.boot then .next s
  else if c.restoring.isSome || c.halted || (wantedBy s site).isSome then .next s
  else match headEntry c c.ready with
    | some (.resume k f, rest) =>
      let c := { c with ready := rest, restoring := some { slot := k, frame := f },
                        slots := c.slots.set k { c.slots[k] with mode := .reserved Config.nSites } }
      .next (sendPages (setCore s site (pushResumes c)) site f false)
    | _ => .next s

end Sys2Proof.Machine
end

