-- ==== Sys2Proof/Machine/Integer.lean ====
section
/-! DEFINITION. Machine/Integer.lean: the integer operations and immediates of page 0 (spec/05 R72, R73, R84). -/

namespace Sys2Proof.Machine

/-- A := f(C, B) (R72). -/
def intBin (a c b : XReg) (f : Word → Word → Word) (s : State) : Res :=
  needX s [a, c, b] fun sl => .next (retireX s a (f (getX sl c) (getX sl b)))
/-- A := f(B) (R72, R73). -/
def intUna (a b : XReg) (f : Word → Word) (s : State) : Res :=
  needX s [a, b] fun sl => .next (retireX s a (f (getX sl b)))

def ofBool (b : Bool) : Word := if b then 1 else 0
def sltW (c b : Word) : Bool := decide (c.toInt < b.toInt)
def sleW (c b : Word) : Bool := decide (c.toInt ≤ b.toInt)
def ultW (c b : Word) : Bool := decide (c.toNat < b.toNat)
def uleW (c b : Word) : Bool := decide (c.toNat ≤ b.toNat)
/-- A count register uses its low 6 bits (R65). -/
def count6 (b : Word) : Nat := b.toNat % 64
/-- Quotient and remainder at the edges (R65). -/
def sdivW (c b : Word) : Word := if b = 0 then BitVec.allOnes 64 else wordOf (c.toInt.tdiv b.toInt)
def udivW (c b : Word) : Word := if b = 0 then BitVec.allOnes 64 else c / b
def sremW (c b : Word) : Word := if b = 0 then c else wordOf (c.toInt.tmod b.toInt)
def uremW (c b : Word) : Word := if b = 0 then c else c % b
/-- Bits [127:64] of the product (R65). -/
def mulhW (c b : Word) : Word := wordOf (c.toInt * b.toInt / 2 ^ 64)
def mulhnW (c b : Word) : Word := BitVec.ofNat 64 (c.toNat * b.toNat / 2 ^ 64)
/-- Number of zero bits above the highest set bit. -/
def clzW (b : Word) : Word := if b = 0 then 64 else BitVec.ofNat 64 (63 - Nat.log2 b.toNat)
/-- Number of zero bits below the lowest set bit. -/
def ctzW (b : Word) : Word := BitVec.ofNat 64 ((findFrom (fun i => b.getLsbD i) 64 0).getD 64)
def popcount (w : Nat) (b : BitVec w) : Nat := ((List.range w).filter fun i => b.getLsbD i).length
def brevW (b : Word) : Word := b.reverse
/-- Byte i to byte 7 − i. -/
def bswapW (b : Word) : Word := BitVec.ofNat 64 (leNat (leBytes 8 b.toNat).reverse)
def iwBits : IWidth → Nat
  | .b => 8
  | .h => 16
  | .w => 32

def execAdd (a c b : XReg) (s : State) : Res := intBin a c b (fun c b => c + b) s
def execSub (a c b : XReg) (s : State) : Res := intBin a c b (fun c b => c - b) s
def execAnd (a c b : XReg) (s : State) : Res := intBin a c b (fun c b => c &&& b) s
def execOr (a c b : XReg) (s : State) : Res := intBin a c b (fun c b => c ||| b) s
def execXor (a c b : XReg) (s : State) : Res := intBin a c b (fun c b => c ^^^ b) s
def execAndn (a c b : XReg) (s : State) : Res := intBin a c b (fun c b => c &&& ~~~ b) s
def execOrn (a c b : XReg) (s : State) : Res := intBin a c b (fun c b => c ||| ~~~ b) s
def execXnor (a c b : XReg) (s : State) : Res := intBin a c b (fun c b => ~~~ (c ^^^ b)) s
def execShl (a c b : XReg) (s : State) : Res := intBin a c b (fun c b => c <<< count6 b) s
def execShr (a c b : XReg) (s : State) : Res := intBin a c b (fun c b => c >>> count6 b) s
def execSar (a c b : XReg) (s : State) : Res := intBin a c b (fun c b => c.sshiftRight (count6 b)) s
def execRol (a c b : XReg) (s : State) : Res := intBin a c b (fun c b => c.rotateLeft (count6 b)) s
def execRor (a c b : XReg) (s : State) : Res := intBin a c b (fun c b => c.rotateRight (count6 b)) s
def execMin (a c b : XReg) (s : State) : Res := intBin a c b (fun c b => if sleW c b then c else b) s
def execMax (a c b : XReg) (s : State) : Res := intBin a c b (fun c b => if sleW c b then b else c) s
def execMinn (a c b : XReg) (s : State) : Res := intBin a c b (fun c b => if uleW c b then c else b) s
def execMul (a c b : XReg) (s : State) : Res := intBin a c b (fun c b => c * b) s
def execMulh (a c b : XReg) (s : State) : Res := intBin a c b mulhW s
def execMulhn (a c b : XReg) (s : State) : Res := intBin a c b mulhnW s
def execDiv (a c b : XReg) (s : State) : Res := intBin a c b sdivW s
def execDivn (a c b : XReg) (s : State) : Res := intBin a c b udivW s
def execRem (a c b : XReg) (s : State) : Res := intBin a c b sremW s
def execRemn (a c b : XReg) (s : State) : Res := intBin a c b uremW s
def execMaxn (a c b : XReg) (s : State) : Res := intBin a c b (fun c b => if uleW c b then b else c) s
def execSeq (a c b : XReg) (s : State) : Res := intBin a c b (fun c b => ofBool (c == b)) s
def execSne (a c b : XReg) (s : State) : Res := intBin a c b (fun c b => ofBool (c != b)) s
def execSlt (a c b : XReg) (s : State) : Res := intBin a c b (fun c b => ofBool (sltW c b)) s
def execSltn (a c b : XReg) (s : State) : Res := intBin a c b (fun c b => ofBool (ultW c b)) s
def execSle (a c b : XReg) (s : State) : Res := intBin a c b (fun c b => ofBool (sleW c b)) s
def execSlen (a c b : XReg) (s : State) : Res := intBin a c b (fun c b => ofBool (uleW c b)) s
/-- SEL: C if D is not 0, else B (R72). -/
def execSel (a c b d : XReg) (s : State) : Res :=
  needX s [a, c, b, d] fun sl => .next (retireX s a (if getX sl d ≠ 0 then getX sl c else getX sl b))
def execClz (a b : XReg) (s : State) : Res := intUna a b clzW s
def execCtz (a b : XReg) (s : State) : Res := intUna a b ctzW s
def execPopc (a b : XReg) (s : State) : Res := intUna a b (fun b => BitVec.ofNat 64 (popcount 64 b)) s
def execBrev (a b : XReg) (s : State) : Res := intUna a b brevW s
def execBswap (a b : XReg) (s : State) : Res := intUna a b bswapW s
def execSext (w : IWidth) (a b : XReg) (s : State) : Res := intUna a b (fun b => sextN b.toNat (iwBits w)) s
def execZext (w : IWidth) (a b : XReg) (s : State) : Res := intUna a b (fun b => zextN b.toNat (iwBits w)) s
def execMov (a b : XReg) (s : State) : Res := intUna a b (fun b => b) s
def execAddi (a b : XReg) (imm : Int) (s : State) : Res := intUna a b (fun b => b + wordOf imm) s
def execLi (a : XReg) (imm : Int) (s : State) : Res := needX s [a] fun _ => .next (retireX s a (wordOf imm))
def execAndi (a b : XReg) (imm : Int) (s : State) : Res := intUna a b (fun b => b &&& wordOf imm) s
def execOri (a b : XReg) (imm : Int) (s : State) : Res := intUna a b (fun b => b ||| wordOf imm) s
def execXori (a b : XReg) (imm : Int) (s : State) : Res := intUna a b (fun b => b ^^^ wordOf imm) s
def execShli (a b : XReg) (n : Fin 64) (s : State) : Res := intUna a b (fun b => b <<< n.val) s
def execShri (a b : XReg) (n : Fin 64) (s : State) : Res := intUna a b (fun b => b >>> n.val) s
def execSari (a b : XReg) (n : Fin 64) (s : State) : Res := intUna a b (fun b => b.sshiftRight n.val) s
def execRori (a b : XReg) (n : Fin 64) (s : State) : Res := intUna a b (fun b => b.rotateRight n.val) s
/-- NOP has no effect (R84). -/
def execNop (s : State) : Res := .next (retire s [])
/-- BRK traps BREAK before any effect (R84). -/
def execBrk (s : State) : Res := trap s cBREAK 0

end Sys2Proof.Machine
end

