-- ==== Sys2Proof/Machine/Mask.lean ====
section
/-! DEFINITION. Machine/Mask.lean: mask instructions and the binding of streams (spec/06 R107 to R112). -/

namespace Sys2Proof.Machine

/-- Writes a mask register; m0 discards it (R107). -/
def writeMask (s : State) (a : MReg) (v : Mask32) : Res :=
  .next (retire (updCur s fun sl => setM sl a v) [BitVec.ofNat 64 v.toNat])

def execMand (a c b : MReg) (s : State) : Res := writeMask s a (getM (curSlot s) c &&& getM (curSlot s) b)
def execMor (a c b : MReg) (s : State) : Res := writeMask s a (getM (curSlot s) c ||| getM (curSlot s) b)
def execMxor (a c b : MReg) (s : State) : Res := writeMask s a (getM (curSlot s) c ^^^ getM (curSlot s) b)
def execMnot (a b : MReg) (s : State) : Res := writeMask s a (~~~ getM (curSlot s) b)
/-- An x register from a mask (R107). -/
def maskToX (a : XReg) (b : MReg) (f : Mask32 → Nat) (s : State) : Res :=
  needX s [a] fun sl => .next (retireX s a (BitVec.ofNat 64 (f (getM sl b))))
def execMpop (a : XReg) (b : MReg) (s : State) : Res := maskToX a b (fun v => ((List.range 32).filter fun i => v.getLsbD i).length) s
def execMfirst (a : XReg) (b : MReg) (s : State) : Res := maskToX a b (fun v => (findFrom (fun i => v.getLsbD i) 32 0).getD 32) s
def execMset (a : MReg) (b : XReg) (s : State) : Res := needX s [b] fun sl => writeMask s a (BitVec.ofNat 32 (getX sl b).toNat)
def execMget (a : XReg) (b : MReg) (s : State) : Res := maskToX a b (fun v => v.toNat) s

-- Streams

/-- The v register of a stream. -/
def streamReg (r : SReg) : VReg := ⟨28 + r.val, by omega⟩

/-- Sets or clears the binding of a stream register; its lanes become 0 (R108). -/
def bindStream (sl : Slot) (r : SReg) (t : Option Stream) : Slot :=
  setV { sl with streams := sl.streams.set r t } (streamReg r) (Vector.replicate 32 0)

/-- tval of a failed bind (R112). -/
def bindTval (r : SReg) : Word := BitVec.ofNat 64 ((28 + r.val) * 256 + 1)

/-- Element k of a stream lies within offsets 0 to 0x7FFFF. -/
def elemInside (t : Stream) (k : Nat) : Bool :=
  let h := elemHalf (meshWin t.base)
  let lo : Int := if h = 1 then (meshOff t.base : Int) + (k : Int) * t.stride / 2 else (meshOff t.base : Int) + (k : Int) * t.stride * (h / 2 : Nat)
  decide (0 ≤ lo) && decide (lo + max 1 (h / 2 : Nat) ≤ Config.spadBytes)

/-- A bind can be honoured (R110). -/
def bindOk (s : State) (t : Stream) : Bool :=
  let w := meshWin t.base
  let h := elemHalf w
  isOwn s t.base && !badFields t.base && (w == 0 || (decide (8 ≤ w) && decide (w ≤ 13))) &&
    (h != 1 || t.stride == 1) && meshOff t.base % max 1 (h / 2) == 0 &&
    (t.count == 0 || (elemInside t 0 && elemInside t (t.count - 1)))

def bind (s : State) (r : SReg) (t : Stream) : Res :=
  if bindOk s t then .next (retire (updCur s fun sl => bindStream sl r (some t)) [])
  else trap s cSTREAM (bindTval r)

/-- SBIND (R110). -/
def execSbind (s1 : SReg) (b c : XReg) (s : State) : Res :=
  needXV s [b, c] [streamReg s1] fun sl =>
    if (getX sl c).toNat / 2 ^ 32 ≠ 0 then trap s cSTREAM (bindTval s1)
    else bind s s1 { base := getX sl b, count := (getX sl c).toNat, stride := 1, write := false, pos := 0 }

/-- SUNBIND: no effect on an unbound register (R110). -/
def execSunbind (s1 : SReg) (s : State) : Res :=
  needXV s [] [streamReg s1] fun sl =>
    match sl.streams[s1] with
    | none => .next (retire s [])
    | some _ => .next (retire (updCur s fun sl => bindStream sl s1 none) [])

/-- SREM (R110). -/
def execSrem (a : XReg) (s1 : SReg) (s : State) : Res :=
  needX s [a] fun sl =>
    .next (retireX s a (match sl.streams[s1] with
      | some t => BitVec.ofNat 64 (t.count - t.pos)
      | none => 0))

/-- The address of a descriptor may be read: local, RAW, a multiple of 8 (R109). One whose bytes run past offset 0x7FFFF fails too,
which the rule does not state (notes/assumptions/76). -/
def descOk (s : State) (ea : Word) (n : Nat) : Bool :=
  isOwn s ea && !badFields ea && meshWin ea == 0 && ea.toNat % 8 == 0 && decide (meshOff ea + n ≤ Config.spadBytes)

/-- BSTR (R109, R110). -/
def execBstr (s1 : SReg) (b : XReg) (s : State) : Res :=
  needXV s [b] [streamReg s1] fun sl =>
    let ea := getX sl b
    if !descOk s ea 32 then trap s cSTREAM (bindTval s1)
    else
      withSpad s (meshOff ea) (fun c => spadRead c [(meshOff ea, 32)] fun m => readLE m (meshOff ea) 32) fun d s =>
        if d / 2 ^ 129 ≠ 0 then trap s cSTREAM (bindTval s1)
        else bind s s1 { base := BitVec.ofNat 64 d, count := d / 2 ^ 64 % 2 ^ 32, stride := signedN (d / 2 ^ 96) 32,
                         write := d / 2 ^ 128 % 2 == 1, pos := 0 }

end Sys2Proof.Machine
end

