-- ==== Sys2Proof/Machine/SpillEv.lean ====
section
/-! DEFINITION. Machine/SpillEv.lean: how the spill of a message ends (spec/07 R126, R132, R133, spec/08 R145 to R147, spec/16 R284, spec/20 R344). -/

namespace Sys2Proof.Machine

/-- How a message ends whose spill has ended. -/
inductive SpillEnd
  | placed
  | refused (code : Nat)
  | ticket
  deriving DecidableEq, Repr

/-- Sends again the fault reports of a core that are held and that the test takes, in their order (R133, R284). -/
def resendReports (s : State) (site : Nat) (p : Msg → Bool) : State :=
  let ms := (getCore s site).reports.filter p
  let s := updCore s site fun c => { c with reports := c.reports.filter fun m => !p m }
  ms.foldl (fun s m => sendReportAs s ((siteOf s m.srcCore).getD site) site (some m.chan) m.words.toList) s

/-- The answer of a core to a spilled message of the network. -/
def tellSource (s : State) (site : Nat) (src : Endpoint) (r : ReqPkt) (m : Msg) (e : SpillEnd) : State :=
  match e with
  | .placed => answerMsg (coreLast s site src r) site src r m .ack
  | .refused code => answerMsg (coreLast s site src r) site src r m (.refusePerm code)
  | .ticket =>
    let t := spillTicket m.chan
    answerMsg ((coreTicket s site src r t).getD s) site src r m (.ticket t false)

/-- Who hears of the end of a spill hears it: the source by the answer, a peer by its result record, the sender of a launch by the report;
a report of the core or a stolen entry waits for the notice when it is refused (R133, R284, R344, R348). `q` is the message that came. -/
def tellSpill (s : State) (site : Nat) (b : Spiller) (q : QMsg) (e : SpillEnd) : State :=
  let wait := fun (s : State) (x : Endpoint) => if e = .ticket then updCore s site fun c => waitFor c q.msg.chan x else s
  match b with
  | .source src r => tellSource (wait s src) site src r q.msg e
  | .peer port dev core seq last =>
    let s := wait s (.landing (landingOfPort port))
    (match e with
     | .placed => peerAnswer s port dev core seq last 0 0 0 []
     | .refused code => peerAnswer s port dev core seq last code 0 0 []
     | .ticket => peerAnswer s port dev core seq last 0x10 (spillTicket q.msg.chan) 0 [])
  | .launch die a part version w1 =>
    let taken := fun (s : State) => takeMsg s (ctrlSite s die) 0 a
    (match e with
     | .placed => launchReport (taken s) die a.msg 0 part version w1
     | .refused code => launchReport (taken s) die a.msg 4 part version (BitVec.ofNat 64 code)
     | .ticket => s)
  | .report =>
    (match e with
     | .placed => s
     | .refused _ => updCore s site fun c => countEv c 12
     | .ticket => updCore (wait s (.core site)) site fun c => { c with reports := c.reports ++ [q.msg] })
  | .stolen =>
    (match e with
     | .placed => updCore s site fun c => { c with stolen := none }
     | _ => wait s (.core site))

/-- The source of a message, as a home knows it. -/
def spillerEnd (s : State) (site : Nat) (b : Spiller) : Endpoint :=
  match b with
  | .source src _ => src
  | .peer port _ _ _ _ => .landing (landingOfPort port)
  | .launch die _ _ _ _ => .core (ctrlSite s die)
  | _ => .core site

/-- PEER and CODE do not apply to the message: a notice of a ferry, a report, a stolen entry (R211, R284, R129). -/
def spillerOwn (b : Spiller) : Bool :=
  match b with
  | .source (.ferry _) _ => true
  | .report => true
  | .stolen => true
  | _ => false

/-- A message whose channel has changed under its spill is placed anew, or refused (R146, R152). -/
def placeAnew (s : State) (site : Nat) (b : Spiller) (q : QMsg) : State :=
  match deliver s site q.msg q.part (spillerOwn b) (spillerEnd s site b) b with
  | .ack s => tellSpill s site b q .placed
  | .refused s code => tellSpill s site b q (.refused code)
  | .ticket s _ => tellSpill s site b q .ticket
  | .spilling s => s
  | .busy => tellSpill s site b q .ticket

/-- The message is in overflow; the one that came instead has its place in the pool (R126, R132). -/
def spillTaken (s : State) (site : Nat) (x : Chan) (p : Spill) : State :=
  let ch := p.chan
  let inRing := fun (y : Chan) => updCore s site fun c => countEv (setChan c ch y) 7
  let rearm := fun (s : State) (m : Msg) => if p.by_ = .stolen then s else rearm s site m
  match p.come with
  | none => tellSpill (rearm (updCore (inRing (spilled x p)) site fun c => markChan c ch) p.out.msg) site p.by_ p.out .placed
  | some q =>
    if x.queue.contains p.out then
      let y := spilled x p
      tellSpill (rearm (enqueued (inRing y) site ch y ((x.queue.erase p.out) ++ [q])) q.msg) site p.by_ q .placed
    else placeAnew s site p.by_ q

/-- The NI writes no spill now: what has waited for that goes on. -/
def spillNext (s : State) (site : Nat) : State :=
  let c := getCore s site
  let s := resendReports s site fun m => !((tget c.chans m.chan).any fun x => x.waiters.contains (.core site))
  drainInbox (placeStolen s site) site

/-- The answer to the write of a spill (R132, R133): acknowledged, the message is in overflow; with a ticket or a refusal the spill is
refused, and the message that came is the sender's again. -/
def spillAnswer (s : State) (site : Nat) (b : Bulk) (h : Endpoint) (a : Answer) : State :=
  let s := bulkAnswer s site b h a
  match (getCore s site).spilling with
  | none => s
  | some p =>
    if p.uid ≠ b.uid then s
    else
      let s := updCore s site fun c => { c with spilling := none }
      let q := p.come.getD p.out
      let s := match (tget (getCore s site).chans p.chan).filter fun x => x.gen == p.gen with
        | none => placeAnew s site p.by_ q
        | some x => if a = .ack then spillTaken s site x p else tellSpill s site p.by_ q .ticket
      spillNext s site

end Sys2Proof.Machine
end

