-- ==== Sys2Proof/Machine/NiEv.lean ====
section
/-! DEFINITION. Machine/NiEv.lean: what reaches a network interface and a home: answers (spec/05 R77, spec/16 R278, R281), requests
performed (spec/11 R182, spec/10 R162, R170), replay and failure notices (spec/16 R278, R279, spec/08 R133). -/

namespace Sys2Proof.Machine

-- Answers

/-- An answer that reaches a core for a request in flight: site, request, home, answer. -/
def niReply (s : State) (pkt : Nat) : Option (Nat × Req × Endpoint × Answer) :=
  match arriving s pkt with
  | some p =>
    match p.dst, p.body with
    | .core site, .answer uid a =>
      ((getCore s site).reqs.find? fun r => r.uid == uid && r.status == .flying).map fun r => (site, r, p.src, a)
    | _, _ => none
  | none => none

/-- An answer that reaches a ferry for a notice in flight. -/
def noteReply (s : State) (pkt : Nat) : Option (Nat × Note × Endpoint × Answer) :=
  match arriving s pkt with
  | some p =>
    match p.dst, p.body with
    | .ferry f, .answer uid a => (findNote s f uid).map fun n => (f, n, p.src, a)
    | _, _ => none
  | none => none

/-- An answer that reaches a core for a BULK access of its NI, or for none that it still waits for. -/
def bulkReply (s : State) (pkt : Nat) : Option (Nat × Option Bulk × Endpoint × Answer) :=
  match arriving s pkt with
  | some p =>
    match p.dst, p.body with
    | .core site, .answer uid a =>
      let c := getCore s site
      if (c.reqs.any fun r => r.uid == uid) || c.fills.any fun f => f.uid == uid then none
      else some (site, c.bulks.find? fun b => b.uid == uid, p.src, a)
    | _, _ => none
  | none => none

/-- The request is SUBSCR, UNSUB or FSTAT. -/
def handleOp (op : ROp) : Bool :=
  match op with
  | .subscr _ _ _ _ _ => true
  | .unsub _ => true
  | .fstat _ => true
  | _ => false

/-- The answer carries a value or says that the request was performed. -/
def performed (a : Answer) : Bool :=
  match a with
  | .data _ => true
  | .lanes _ => true
  | .old _ => true
  | .ack => true
  | _ => false

/-- A message of the NI itself, which belongs to no activation. -/
def niOwn (r : Req) : Bool := !r.cntL && !r.cntS && !r.cntE

/-- Cause and tval of a refusal (R273). -/
def refusalOf (r : Req) (a : Answer) : Option (BitVec 8 × Word) :=
  match a with
  | .refusePerm code => some (cREFPERM, match r.op with | .msg _ => BitVec.ofNat 64 code | _ => r.addr)
  | .codeDenied => some (cREFPERM, r.addr)
  | .refuseUE => some (cREFUE, r.addr)
  | .failed => some (cTKFAIL, r.addr)
  | _ => none

/-- A request ends in a refusal or a failed ticket (R279, R281). -/
def refuseReq (s : State) (site : Nat) (r : Req) (cause : BitVec 8) (tval : Word) : State :=
  let s := if cause = cTKFAIL then updCore s site fun c => countEv c 5 else s
  if niOwn r then endReq s site r id else dueReq s site r cause tval

-- Requests at their home

/-- The byte ranges of the scratchpad that a mesh request touches. A request of a plane window touches its whole group and expansion,
whatever its lane mask, one of another window the elements of its active lanes: the spec does not say which bytes an empty mask reaches
(notes/assumptions/91). -/
def meshRanges (r : ReqPkt) : List (Nat × Nat) :=
  let w := meshWin r.addr
  let o := meshOff r.addr
  let el := fun (l : Int) => elemRanges (mx4ScaleOff r.winbase) w (elemAt w o l)
  let scalar := fun (n : Nat) => if w = 0 then [(o, n)] else el 0 ++ (if n = 8 then el 1 else [])
  let lanes := fun (act : Mask32) (bc : Bool) =>
    if isPlane w then [(o, 4 * planeDepth w), (planeExpOff r.winbase w o, 1)]
    else (laneList act).flatMap fun l => el (if bc then 0 else (l.val : Int))
  match r.op with
  | .read n => scalar n
  | .write bs => scalar bs.length
  | .vread act bc => lanes act bc
  | .vwrite act _ => lanes act false
  | .amo _ n _ _ => [(o, n)]
  | .vadd _ act _ => (addWords o act none).map fun e => (e.2.toNat, 4)
  | .vaddi _ act idx _ => (addWords o act (some idx)).map fun e => (e.2.toNat, 4)
  | _ => []

/-- A request at the owner of a scratchpad, one step (R169, R170, R178, R192, R194). -/
def meshPerform (c : Core) (r : ReqPkt) : SpadRes Answer :=
  let w := meshWin r.addr
  let o := meshOff r.addr
  let wb := r.winbase
  let ret := fun {α : Type} (x : SpadRes α) (f : α → Answer) => x.map fun y => (f y.1, y.2)
  match r.op with
  | .read n => ret (readScalar c wb w o n) fun v => .data (leBytes n v)
  | .write bs => ret (writeScalar c wb w o bs.length (leNat bs)) fun _ => .ack
  | .vread act bc => ret (readVec c wb w o act bc) fun ls => .lanes (putLanes (Vector.replicate 32 0) ls)
  | .vwrite act v => ret (writeVec c wb w o act v) fun _ => .ack
  | .amo op n x y => ret (spadAmo c op n o x y) fun v => .old (BitVec.ofNat 64 v)
  | .vadd t act v => ret (spadAdds c t (addWords o act none) v) fun _ => .ack
  | .vaddi t act idx v => ret (spadAdds c t (addWords o act (some idx)) v) fun _ => .ack
  | _ => .ok (.ack, c)

/-- A memory request at a core: bounced behind a hold, refused when the number is not the core's or a slot frame is reached, or
performed (R162, R170, R278). -/
def coreRequest (s : State) (site : Nat) (src : Endpoint) (r : ReqPkt) : State × Answer :=
  match coreHold (getCore s site) src r with
  | some e => (s, .ticket e.ticket true)
  | none =>
    let s := coreHead s site src r
    if meshCore r.addr ≠ coreNumber s site ∨ (meshRanges r).any (fun g => decide (Config.frameBase < g.1 + g.2 ∧ g.2 ≠ 0)) then
      (coreLast s site src r, .refusePerm 0)
    else match meshPerform (getCore s site) r with
      | .error _ => (coreLast s site src r, .refuseUE)
      | .ok (a, c) => (coreLast (setCore s site c) site src r, a)

/-- REQUEST_PERFORM: a request other than a message to a core of this device reaches its home (R182, R175, R277, R342). A home whose
tables are full leaves it in its queue. -/
def execRequestPerform (pkt : Nat) (s : State) : Res :=
  match arriving s pkt with
  | some p =>
    match p.body with
    | .req r =>
      match p.dst with
      | .ferry f =>
        if handleOp r.op then .next s
        else match ferryPerform (consumePkt s pkt) f p.src r with
          | .answer s a => .next (answerTo s p.dst p.src r.uid a)
          | .wait => .next s
          | .noFrame =>
            if p.cls = .bulk then .next (answerTo (consumePkt s pkt) p.dst p.src r.uid (.refusePerm 0)) else .fault .noFrame
      | .landing l =>
        match landingPerform (consumePkt s pkt) l p.src r with
        | (s, some a) => .next (landingAnswer s l p.src r.uid a)
        | (s, none) => .next s
      | .core site =>
        match r.op with
        | .msg _ => .next s
        | _ =>
          let c := getCore s site
          if waitsAt c p.src r then .next s
          else
            let y := coreRequest (consumePkt s pkt) site p.src r
            .next (answerTo y.1 p.dst p.src r.uid y.2)
      | _ => .next s
    | _ => .next s
  | none => .next s

-- Notices

/-- An answer with a ticket of a home is on its way to a core. -/
def answerComes (s : State) (site : Nat) (t : BitVec 16) (h : Endpoint) : Bool :=
  s.net.any fun p => p.src == h && p.dst == .core site && (match p.body with | .answer _ (.ticket u _) => u == t | _ => false)

/-- A notice waits for the answers that put requests behind its ticket: ordered requests in flight to the home, and ticket answers on
their way (R278). -/
def noticeEarly (s : State) (site : Nat) (t : BitVec 16) (h : Endpoint) : Bool := flyingTo (getCore s site) h || answerComes s site t h

/-- The NI of a halted core takes no notice; one that migrates still completes what it has injected (R300, R303). -/
def niStopped (c : Core) : Bool := c.halted && c.moveTo.isNone

/-- What waited for room in a channel of the core itself, sent again on the notice: its reports and a stolen entry (R133, R284, R129). -/
def resendOwn (s : State) (site : Nat) (t : BitVec 16) : State :=
  let ch := t.toNat % 256
  placeStolen (resendReports s site fun m => m.chan == ch) site

/-- Sends again the fills that wait on a ticket (R23). -/
def resendFills (s : State) (site : Nat) (t : BitVec 16) (h : Endpoint) : State :=
  let at_ := fun (f : Fill) => Endpoint.ferry (homeFerry (BitVec.ofNat 64 f.line)) == h && f.status == .ticketed t
  let fs := (getCore s site).fills.filter at_
  let s := updCore s site fun c => { c with fills := c.fills.map fun f => if at_ f then { f with status := .flying, burst := some t } else f }
  fs.foldl (fun s f =>
    let w := f.waiters.headD { slot := 0, act := 0, at_ := 0, reach := 0, xfer := none }
    sendPkt s { src := .core site, dst := h, cls := .req,
                body := .req { uid := f.uid, seq := 0, op := .line, addr := BitVec.ofNat 64 f.line, ordered := false, head := false,
                               last := false, part := corePart s site, winbase := 0, srcCore := coreNumber s site, slot := w.slot, act := 0 } }) s

/-- The access moves a page of a spill frame. -/
def forFrame (k : BulkKind) : Bool := forSpill k || forRestore k

/-- A replay notice of a home acted on at a core (R278, R133, R23). -/
def replayAt (s : State) (site : Nat) (t : BitVec 16) (h : Endpoint) : State :=
  let s := if h = .core site then resendOwn s site t else s
  settleAway (sendBurst (bulkNotice (resendFills s site t h) site t h true fun k => !forFrame k) site t h) site

/-- Why the requests behind a failed ticket end: a page that cannot be serviced (R279), or at a core its partition's teardown, with
refusal GONE (R359). -/
def failureOf (h : Endpoint) (r : Req) : BitVec 8 × Word :=
  match h with
  | .core _ => (cREFPERM, 6)
  | _ => (cTKFAIL, r.addr)

/-- A failure notice at a core: the requests that wait on the page fail, oldest first; the ticket's entry is FAILED until every one of
them has been reported, and then the rest of the burst is sent again (R278, R279, R23). -/
def failureAt (s : State) (site : Nat) (t : BitVec 16) (h : Endpoint) : State :=
  let fs := (getCore s site).fills.filter fun f =>
    Endpoint.ferry (homeFerry (BitVec.ofNat 64 f.line)) == h && f.status == .ticketed t
  let s := fs.foldl (fun s f => failFill s site f cTKFAIL) s
  let s := bulkNotice s site t h false fun k => !forFrame k
  let rs := (getCore s site).reqs.filter fun r => r.home == h && r.status == .ticketed t
  let s := updCore s site fun c =>
    { c with tickets := eachOf c.tickets fun e =>
        if e.state = .opened ∧ e.ticket = t ∧ e.home = h then { e with state := .failed, hold := rs.any fun r => r.ordered } else e }
  let s := rs.foldl (fun s r => refuseReq s site r (failureOf h r).1 (failureOf h r).2) s
  settleAway (if tabled (getCore s site) t h then settleFailed s site else resendRest s site t h) site

/-- Acts on a notice. -/
def noticeAt (s : State) (site : Nat) (n : Notice) : State :=
  if n.ok then replayAt s site n.ticket n.home else failureAt s site n.ticket n.home

/-- A notice cannot be acted on yet (R278, R300, R303). -/
def noticeWaits (s : State) (site : Nat) (n : Notice) : Bool :=
  niStopped (getCore s site) || noticeEarly s site n.ticket n.home

/-- The pages of spill frames whose ticket answers came after their notice: moved on with it now, on a halted core too (R312). -/
def settlePages (s : State) (site : Nat) : State :=
  (getCore s site).notices.foldl (fun s n =>
    if n.pages && !answerComes s site n.ticket n.home then
      bulkNotice (updCore s site fun c => { c with notices := c.notices.map fun m => if m = n then { m with pages := false } else m })
        site n.ticket n.home n.ok forFrame
    else s) s

/-- Acts on the waiting notices that can be acted on, oldest first. -/
def settleNotices (s : State) (site : Nat) : State :=
  let s := settlePages s site
  (getCore s site).notices.foldl (fun s n =>
    if noticeWaits s site n then s else noticeAt (updCore s site fun c => { c with notices := c.notices.erase n }) site n) s

/-- A notice reaches a core: the NI always takes it (R337). The transfer of a spill frame moves on with it at once, on a halted core too
(R312); the rest waits while it cannot be acted on. -/
def takeNotice (s : State) (site : Nat) (n : Notice) : State :=
  let n := { n with pages := answerComes s site n.ticket n.home }
  let s := loadNotice (bulkNotice s site n.ticket n.home n.ok forFrame) site n.ticket n.home n.ok
  if noticeWaits s site n then updCore s site fun c => { c with notices := c.notices ++ [n] } else noticeAt s site n

/-- After an answer: bursts that have ended, parked activations that it readies, and notices that waited for it. -/
def answered (s : State) (site : Nat) : State := settleNotices (settleAway (updCore s site settleBursts) site) site

/-- An answer of the kinds given to a packet of the host interface (R352, R354). -/
def hostReplied (s : State) (pkt : Nat) (takes : Answer → Bool) : Res :=
  match arriving s pkt with
  | some p =>
    match p.dst, p.body with
    | .host, .answer uid a => if takes a then .next (hostAnswer (consumePkt s pkt) uid p.src a) else .next s
    | _, _ => .next s
  | none => .next s

/-- An answer of the kinds given to a BULK access of a core's NI, or to the host interface. One that no access waits for any more is sunk; a
ticket among such answers is counted all the same (R325). -/
def bulkReplied (s : State) (pkt : Nat) (takes : Answer → Bool) : Res :=
  match bulkReply s pkt with
  | some (site, b, h, a) =>
    if takes a then
      let s := consumePkt s pkt
      .next (answered (match b, a with
        | some b, a => if b.kind = .ovfSpill then spillAnswer s site b h a else bulkAnswer s site b h a
        | none, .ticket _ false => updCore s site fun c => countEv c 2
        | none, _ => s) site)
    else .next s
  | none => hostReplied s pkt takes

def isData (a : Answer) : Bool := match a with | .data _ => true | .lanes _ => true | .old _ => true | _ => false
def isTicket (a : Answer) : Bool := match a with | .ticket _ _ => true | _ => false
def isRefusal (a : Answer) : Bool := !isData a && !isTicket a && a != .ack

-- The events of answers

/-- LOAD_RESPONSE (R77, R104, R192, R132, R298). -/
def execLoadResponse (pkt : Nat) (s : State) : Res :=
  match niReply s pkt with
  | some (site, r, _, a) =>
    if r.dest ≠ .none ∧ performed a ∧ handleOp r.op = false then
      .next (answered (valueReq (consumePkt s pkt) site r a) site)
    else .next s
  | none => bulkReplied s pkt isData

/-- ACKNOWLEDGEMENT (R77, R141, R192, R211, R297, R322). -/
def execAcknowledgement (pkt : Nat) (s : State) : Res :=
  match niReply s pkt with
  | some (site, r, _, a) =>
    if r.dest = .none ∧ performed a then .next (answered (endReq (consumePkt s pkt) site r id) site) else .next s
  | none =>
    match noteReply s pkt with
    | some (f, n, h, .ack) => .next (noteAnswer (consumePkt s pkt) f n h .ack)
    | _ => bulkReplied s pkt fun a => a == .ack

/-- HANDLE_REPLY: the handle or a refusal is written; E falls again when no ferry took the subscription (R221, R222). -/
def execHandleReply (pkt : Nat) (s : State) : Res :=
  match niReply s pkt with
  | some (site, r, _, .old w) =>
    if handleOp r.op then
      .next (answered (valueReq (consumePkt s pkt) site r (.old w) fun sl =>
        if r.cntE && w.getLsbD 63 then { sl with cntE := sl.cntE - 1 } else sl) site)
    else .next s
  | _ => .next s

/-- LATE_REFUSAL (R281, R146, R211, R297, R298, R322). -/
def execLateRefusal (pkt : Nat) (s : State) : Res :=
  match niReply s pkt with
  | some (site, r, _, a) =>
    match refusalOf r a with
    | some (cause, tval) => .next (answered (refuseReq (consumePkt s pkt) site r cause tval) site)
    | none => .next s
  | none =>
    match noteReply s pkt with
    | some (f, n, h, .refusePerm code) => .next (noteAnswer (consumePkt s pkt) f n h (.refusePerm code))
    | _ => bulkReplied s pkt isRefusal

/-- TICKET_ANSWER: the NI records the ticket or the bounce (R278). -/
def execTicketAnswer (pkt : Nat) (s : State) : Res :=
  match niReply s pkt with
  | some (site, r, h, .ticket t follow) =>
    .next (answered (pump (updCore (consumePkt s pkt) site fun c => ticketReq c s.cycle r t h follow) site) site)
  | some _ => .next s
  | none =>
    match noteReply s pkt with
    | some (f, n, h, .ticket t follow) => .next (noteAnswer (consumePkt s pkt) f n h (.ticket t follow))
    | _ => bulkReplied s pkt isTicket

/-- REPLAY_NOTICE: to a core, an adapter unit, a landing or the host interface (R278, R242, R343, R346, R354). -/
def execReplayNotice (pkt : Nat) (s : State) : Res :=
  match arriving s pkt with
  | some p =>
    match p.dst, p.body with
    | .core site, .notice t => .next (takeNotice (consumePkt s pkt) site { home := p.src, ticket := t, ok := true })
    | .adapter cl, .notice t => .next (fetchNotice (consumePkt s pkt) cl t p.src true)
    | .landing l, .notice t => .next (landingNotice (consumePkt s pkt) l t true)
    | .host, .notice t => .next (hostNotice (consumePkt s pkt) t p.src)
    | _, _ => .next s
  | none => .next s

/-- FAILURE_NOTICE: to a core, an adapter unit, a landing, a ferry or the host interface (R279, R243, R343, R346,
R213, R359). -/
def execFailureNotice (pkt : Nat) (s : State) : Res :=
  match arriving s pkt with
  | some p =>
    match p.dst, p.body with
    | .core site, .failure t => .next (takeNotice (consumePkt s pkt) site { home := p.src, ticket := t, ok := false })
    | .adapter cl, .failure t => .next (fetchNotice (consumePkt s pkt) cl t p.src false)
    | .landing l, .failure t => .next (landingNotice (consumePkt s pkt) l t false)
    | .host, .failure t => .next (hostFailure (consumePkt s pkt) t p.src)
    | .ferry f, .failure t => .next (ferryFailure (consumePkt s pkt) f t p.src)
    | _, _ => .next s
  | none => .next s

end Sys2Proof.Machine
end

