-- ==== Sys2Proof/Machine/Preempt.lean ====
section
/-! DEFINITION. Machine/Preempt.lean: twins compare their fingerprints (spec/17 R310, R311), migration (R299, R300), dusk and dawn (R301 to
R303), and teardown (spec/21 R359). -/

namespace Sys2Proof.Machine

-- Twins

/-- What a twin's requests still do, they do without effect on it (R311). -/
def quitTwin (s : State) (site : Nat) (k : Fin 4) : State := updCore s site fun c => killReqs c k (getSlot s site k).actId

/-- The firing of a twin as its body runs again. -/
def rerun (s : State) (site : Nat) (k : Fin 4) : Option Fired := (getSlot s site k).fired.map fun f => { f with reruns := f.reruns + 1 }

/-- A twin ends for good, if it still runs (R311). -/
def killTwin (s : State) (m : Member) : State :=
  if memberRuns s m then endQuiet (updCore s m.site fun c => killReqs c m.slot m.act) m.site m.slot else s

/-- Twins disagree: both run again once while the bit is set, or both end with a report and a machine check (R311). A twin whose partner
has ended, or can no longer reach its count, disagrees with it (notes/assumptions/82). `at_` is the site of one that runs. -/
def twinsDiffer (s : State) (prim sec at_ : Nat) (k : Fin 4) : State :=
  let sl := getSlot s at_ k
  let ms : List Member := [⟨prim, k, sl.actId⟩, ⟨sec, k, sl.actId⟩]
  if ms.all fun m => memberRuns s m && (memberSlot s m).replayable && ((memberSlot s m).fired.map fun f => f.reruns).getD 1 == 0 then
    match rerun s prim k, rerun s sec k with
    | some fp, some fs => startTwins (quitTwin (quitTwin s prim k) sec k) prim sec k fp fs
    | _, _ => s
  else
    let s := ms.foldl killTwin (report s at_ k { kind := 9, epc := sl.pc })
    { s with out := s.out ++ [.machineCheck prim 9] }

/-- The partner of a twin that waits will not come: it has ended, it waits at another count, or it waits for a result of an operation
that the primary has left behind (notes/assumptions/82). -/
def twinLost (s : State) (m : Member) (count : Nat) : Bool :=
  let q := memberSlot s m
  !memberRuns s m ||
    (q.mode == .stalled &&
      (match q.twinWait with
       | .none => false
       | .exchange => q.retired != count
       | .result =>
         q.results.isEmpty && !((primaryOf q).any fun p => (getCore s p).reqs.any fun r => r.slot == m.slot && r.act == m.act && r.tell.isSome)))

/-- Both twins stand at one exchange, and no load of either is out, so that its data stands in the fingerprint (R310). -/
def twinsMeet (a b : Slot) : Bool :=
  b.mode == .stalled && b.twinWait == .exchange && a.retired == b.retired && a.cntL == 0 && b.cntL == 0

/-- TWIN_EXCHANGE: at the primary, once both slots have stalled for it at one retirement count (R310). -/
def execTwinExchange (site : Nat) (slot : Fin 4) (s : State) : Res :=
  let sl := getSlot s site slot
  if sl.mode ≠ .stalled ∨ (getCore s site).halted then .next s
  else match sl.twin, sl.twinWait with
    | some (.primary p), .exchange =>
      let q := getSlot s p slot
      if twinLost s ⟨p, slot, sl.actId⟩ sl.retired then .next (twinsDiffer s site p site slot)
      else if twinsMeet sl q then
        if sl.fprint = q.fprint then
          let go := fun (x : Slot) => { x with exchanged := some x.retired, twinWait := .none }
          .next (setSlot (setSlot s site slot go) p slot go)
        else .next (twinsDiffer s site p site slot)
      else .next s
    | some (.secondary p), .exchange => if memberRuns s ⟨p, slot, sl.actId⟩ then .next s else .next (twinsDiffer s p site site slot)
    | some (.secondary p), .result => if memberRuns s ⟨p, slot, sl.actId⟩ then .next s else .next (twinsDiffer s p site site slot)
    | _, _ => .next s

-- Places that change

/-- New places: pairs of old and new site, and of old and new cluster. -/
structure Places where
  sites : List (Nat × Nat)
  clusters : List (Nat × Nat)
  deriving DecidableEq, Repr

def placeOf (l : List (Nat × Nat)) (x : Nat) : Nat := ((l.find? fun e => e.1 == x).map fun e => e.2).getD x
def newSite (m : Places) (x : Nat) : Nat := placeOf m.sites x
def newEnd (m : Places) (e : Endpoint) : Endpoint :=
  match e with
  | .core x => .core (newSite m x)
  | .adapter c => .adapter (placeOf m.clusters c)
  | e => e

def newSlot (m : Places) (sl : Slot) : Slot :=
  { sl with
    mode := (match sl.mode with | .reserved x => .reserved (newSite m x) | o => o),
    twin := sl.twin.map fun t => (match t with | .primary p => .primary (newSite m p) | .secondary p => .secondary (newSite m p)),
    group := sl.group.map fun g => { g with site := newSite m g.site },
    due := sl.due.map fun d => { d with ticket := d.ticket.map fun t => (t.1, newEnd m t.2) },
    outbox := sl.outbox.map fun o => { o with rect := o.rect.map fun l => l.map (newSite m) } }

def newSrc (m : Places) (e : SrcEnt) : SrcEnt := { e with src := newEnd m e.src }

def newSpiller (m : Places) (b : Spiller) : Spiller :=
  match b with
  | .source e r => .source (newEnd m e) r
  | b => b

/-- A core as it knows the others by their new places. -/
def newCore (m : Places) (c : Core) : Core :=
  { c with
    slots := eachOf c.slots (newSlot m), reqs := c.reqs.map fun r => { r with home := newEnd m r.home },
    tickets := eachOf c.tickets fun e => { e with home := newEnd m e.home }, srcs := c.srcs.map (newSrc m),
    chans := c.chans.map fun e => (e.1, { e.2 with waiters := e.2.waiters.map (newEnd m) }),
    lastVictim := c.lastVictim.map (newSite m), granted := c.granted.map (newSite m),
    notices := c.notices.map fun n => { n with home := newEnd m n.home },
    inbox := c.inbox.map fun w => { w with src := newEnd m w.src }, spilling := c.spilling.map fun p => { p with by_ := newSpiller m p.by_ },
    away := c.away.map fun a => { a with ctx := newSlot m a.ctx }, fwd := c.fwd.map fun e => (e.1, newSite m e.2) }

/-- A packet under the new places. What firmware sends to an NI keeps its place. `whole` says that requests on their way move too; a
migration leaves them to the forwarding entry (R300). -/
def newPacket (m : Places) (whole : Bool) (p : Packet) : Packet :=
  let dst := if whole then newEnd m p.dst else p.dst
  match p.body with
  | .mapCommit _ _ => p
  | .dieBase _ => p
  | .inval _ _ => p
  | .flood _ _ => p
  | .nightfall _ => p
  | .marker _ _ => { p with dst := dst }
  | .req _ => { p with src := newEnd m p.src, dst := dst }
  | .forward l r e => { p with src := if whole then newEnd m p.src else p.src, dst := dst, body := .forward l r (newEnd m e) }
  | .entryReq _ _ => { p with src := newEnd m p.src }
  | _ => { p with src := newEnd m p.src, dst := newEnd m p.dst }

def newFerry (m : Places) (f : Ferry) : Ferry :=
  { f with
    recs := f.recs.map fun e => (e.1, { e.2 with sources := e.2.sources.map (newEnd m) }), srcs := f.srcs.map (newSrc m),
    late := f.late.map fun e => (newEnd m e.1, e.2), notes := f.notes.map fun n => { n with ticket := n.ticket.map fun t => (t.1, newEnd m t.2) } }

def newPort (m : Places) (p : Port) : Port :=
  { p with
    outs := p.outs.map fun o => { o with src := newEnd m o.src },
    ltickets := p.ltickets.map fun e => (e.1, { e.2 with sources := e.2.sources.map (newEnd m) }), srcs := p.srcs.map (newSrc m) }

/-- Every table of the device under the new places. -/
def replace (m : Places) (whole : Bool) (s : State) : State :=
  { s with
    cores := s.cores.map fun e => (e.1, newCore m e.2), net := s.net.map (newPacket m whole),
    ferries := s.ferries.map fun e => (e.1, newFerry m e.2), ports := eachOf s.ports (newPort m),
    parts := s.parts.map fun e => (e.1, { e.2 with
      spills := e.2.spills.map fun x => (newSite m x.1, newEnd m x.2.1, x.2.2),
      host := e.2.host.map fun h => { h with ticket := h.ticket.map fun t => (t.1, newEnd m t.2) } }) }

/-- The NI of a site without the core that stood there: its maps stay. -/
def bareNi (c : Core) : Core := { mapVer := c.mapVer, baseVer := c.baseVer, corrected := c.corrected }

-- Reservations

/-- Granted reservations of a core, given and taken, are released; they are requested again later (R312). -/
def releaseGrants (s : State) (site : Nat) : State :=
  let c := getCore s site
  let given := (List.finRange 4).filterMap fun k =>
    match c.slots[k].mode with
    | .reserved lead => if c.restoring.any fun m => m.slot == k then none else some (k, lead)
    | _ => none
  let s := given.foldl (fun s e =>
    updCore (setSlot s site e.1 fun sl => { sl with mode := .free }) e.2 fun l => { l with granted := l.granted.filter fun x => x != site }) s
  let s := (getCore s site).granted.foldl (fun s x =>
    updCore s x fun d =>
      { d with slots := eachOf d.slots fun sl => if sl.mode = .reserved site then { sl with mode := .free } else sl }) s
  updCore s site fun c => { c with granted := [] }

-- Migration (R299, R300)

/-- What R299 asks of the core that is to move; activations in spill frames count with the slots they left. -/
def canMove (c : Core) : Bool :=
  (c.tiles.all fun t => !t.2.subv && t.2.state != .filling && t.2.state != .draining) &&
    ((c.slots.toList ++ c.away.map fun a => a.ctx).all fun sl => sl.cntE == 0 && sl.cntM == 0 && sl.twin.isNone) && !c.acc.opened

/-- A core of the partition without a number at the same rank of its cluster (R299). -/
def canTake (s : State) (p src dst : Nat) : Bool :=
  let d := getCore s dst
  working s dst && !d.ctrl && !d.boot && d.part == some p && d.lcore.isNone && !d.halted && siteRank src == siteRank dst && src != dst

/-- MIGRATION: matching and issue stop, and the NI injects nothing new (R300 step 1). A migration that R299 refuses changes nothing. -/
def execMigration (src dst : Nat) (s : State) : Res :=
  let c := getCore s src
  match c.part with
  | none => .next s
  | some p =>
    if working s src && !c.halted && c.lcore.isSome && (getPart s p).running && canMove c && canTake s p src dst then
      .next (updCore (releaseGrants s src) src fun c => { c with halted := true, moveTo := some dst })
    else .next s

/-- Every injected request has completed, tickets included, and nothing of a slot is on its way to a frame (R300 step 2). -/
def allInjectedDone (c : Core) : Bool :=
  (c.reqs.all fun r => r.status == .held) && c.fills.isEmpty && c.bulks.isEmpty && c.spillOut.isNone && c.restoring.isNone && !c.stealOut

/-- The switch markers for a number: from every other core NI and every landing to the old site (R300). -/
def markerSources (s : State) (src : Nat) : List Endpoint :=
  (((List.range Config.nSites).filter fun x => working s x && x != src).map Endpoint.core) ++ (List.range 64).map Endpoint.landing

/-- The core leaves for its target: the maps switch, the old site keeps a forwarding entry, the target waits for the markers (R300). -/
def moveCore (s : State) (src dst lc : Nat) : State :=
  let s := (List.finRange 4).foldl (fun s k =>
    let sl := getSlot s src k
    if sl.mode = .free then s else trace s src k 7 (patOf sl) sl.pc 0) s
  let c := getCore s src
  let d := getCore s dst
  let srcs := markerSources s src
  let s := { s with moved := tset s.moved lc dst }
  let s := setCore s dst { c with halted := false, moveTo := none, mapVer := d.mapVer, baseVer := d.baseVer, corrected := d.corrected, icache := d.icache,
                                  fwd := tdel d.fwd lc, awaitMark := srcs }
  let s := setCore s src { bareNi c with part := c.part, fwd := tset c.fwd lc dst }
  let s := replace ⟨[(src, dst)], []⟩ false s
  srcs.foldl (fun s e => sendPkt s { src := e, dst := .core src, cls := .req, body := .marker lc e }) s

/-- MIGRATION_STREAM: once every injected request has completed, the context streams, the maps switch and the target resumes (R300). The
switch markers of an earlier move come in first (notes/assumptions/83). -/
def execMigrationStream (src : Nat) (s : State) : Res :=
  let c := getCore s src
  match c.moveTo, c.lcore with
  | some dst, some lc =>
    if c.halted && c.awaitMark.isEmpty && allInjectedDone c then .next (settleNotices (settleAway (pump (moveCore s src dst lc) dst) dst) dst) else .next s
  | _, _ => .next s

/-- SWITCH_MARKER: the old site forwards it in order; at the target it releases the requests of its source (R300). -/
def execSwitchMarker (pkt : Nat) (s : State) : Res :=
  match arriving s pkt with
  | some p =>
    match p.dst, p.body with
    | .core site, .marker lc origin =>
      let s := consumePkt s pkt
      match tget (getCore s site).fwd lc with
      | some t => .next (sendPkt s { src := .core site, dst := .core t, cls := p.cls, body := p.body })
      | none => .next (drainInbox (updCore s site fun c => { c with awaitMark := c.awaitMark.filter fun e => e != origin }) site)
    | _, _ => .next s
  | none => .next s

/-- FORWARDING: a vacated site passes a request on, and the target performs it for its source (R300). -/
def execForwarding (pkt : Nat) (s : State) : Res :=
  match arriving s pkt with
  | some p =>
    match p.dst, p.body with
    | .core site, .req r =>
      match tget (getCore s site).fwd (reqNumber r) with
      | some t => .next (sendPkt (consumePkt s pkt) { src := .core site, dst := .core t, cls := p.cls, body := .forward (reqNumber r) r p.src })
      | none => .next s
    | .core site, .forward lc r e =>
      match tget (getCore s site).fwd lc with
      | some t => .next (sendPkt (consumePkt s pkt) { src := .core site, dst := .core t, cls := p.cls, body := p.body })
      | none =>
        match r.op with
        | .msg _ => .next (messageComes s pkt site { src := e, req := r, fwd := true })
        | _ =>
          if (getCore s site).spilling.any fun x => spillSource x == some e then .next s
          else
            let y := coreRequest (consumePkt s pkt) site e r
            .next (answerTo y.1 (.core site) e r.uid y.2)
    | _, _ => .next s
  | none => .next s

-- Dusk and dawn (R301 to R303, R312)

/-- DUSK: matching, issue and injection stop; reservations are released; a migration that has not streamed is abandoned (R301, R312). -/
def execDusk (part : Nat) (s : State) : Res :=
  let p := getPart s part
  if p.running && !p.dark && !p.halting && !p.teardown then
    let s := (partSites s part).foldl (fun s x => updCore (releaseGrants s x) x fun c => { c with halted := true, moveTo := none }) s
    .next (updPart s part fun p => { p with halting := true })
  else .next s

/-- Every request a core has injected has its answer, a ticket included, and no frame is being moved (R301, R312). -/
def allAnswered (c : Core) : Bool :=
  (c.reqs.all fun r => r.status != .flying) && (c.fills.all fun f => f.status != .flying) && (c.bulks.all fun b => b.status != .flying) && c.spillOut.isNone && c.restoring.isNone

/-- Where a dark partition's cores and clusters stand: its shadow frames. -/
def shadowSite (p x : Nat) : Nat := Config.nSites * (p + 1) + x
def shadowCluster (p x : Nat) : Nat := Config.nSites / 4 * (p + 1) + x

/-- Moves the records of a partition's cores and clusters, with the numbers, to other places, and tells everyone. The caches, of lines and
of adapters, are not kept (R245, R303). -/
def relocatePart (s : State) (part : Nat) (m : Places) : State :=
  let s := replace m true s
  let s := m.sites.foldl (fun s e =>
    let c := getCore s e.1
    let d := getCore s e.2
    let s := setCore s e.2 { c with mapVer := d.mapVer, baseVer := d.baseVer, corrected := d.corrected, icache := [] }
    let s := { s with cores := if e.1 < Config.nSites then tset s.cores e.1 (bareNi c) else tdel s.cores e.1 }
    match c.lcore with
    | some lc => { s with moved := tset s.moved lc e.2 }
    | none => s) s
  let s := m.clusters.foldl (fun s e =>
    let s := setCluster s e.2 { getCluster s e.1 with cache := [], fetches := [] }
    { s with clusters := tdel s.clusters e.1 }) s
  updPart s part fun p => { p with clusters := p.clusters.map (placeOf m.clusters) }

/-- PARTITION_HALTED: once every injected request is answered the contexts go to the shadow frames; engine work is saved with them
(R301). -/
def execPartitionHalted (part : Nat) (s : State) : Res :=
  let p := getPart s part
  let sites := partSites s part
  if p.halting && sites.all fun x => allAnswered (getCore s x) then
    let m : Places := ⟨sites.map fun x => (x, shadowSite part x), p.clusters.map fun c => (c, shadowCluster part c)⟩
    .next (updPart (relocatePart s part m) part fun p => { p with dark := true, halting := false })
  else .next s

/-- The placement of a dawn: for each cluster of the dark partition a free cluster, all different, with a working core at each rank in
use (R303). -/
def dawnOk (s : State) (part : Nat) (place : List (Nat × Nat)) : Bool :=
  let p := getPart s part
  let dests := place.map fun e => e.2
  decide (p.clusters = place.map fun e => shadowCluster part e.1) && clustersFree s dests &&
    (partSites s part).all fun x =>
      let y := clusterSite (placeOf (place.map fun e => (shadowCluster part e.1, e.2)) (siteCluster x)) (siteRank x)
      working s y && !(getCore s y).ctrl

/-- Posts the notices that homes held for sources that have come back (R303). -/
def postLate (s : State) : State :=
  s.ferries.foldl (fun s e =>
    let f := getFerry s e.1
    let s := setFerry s e.1 { f with late := f.late.filter fun x => sourceDark x.1 }
    (f.late.filter fun x => !sourceDark x.1).foldl (fun s x => postNotice s e.1 x.2.1 x.2.2 x.1) s) s

/-- Posts the replay notices of senders that were refused while the partition was dark (R303). -/
def postSpills (s : State) (part : Nat) : State :=
  let l := (getPart s part).spills
  let s := updPart s part fun p => { p with spills := [] }
  l.foldl (fun s x => sendPkt s { src := .core x.1, dst := x.2.1, cls := .sys, body := .notice x.2.2 }) s

/-- The partition's forwarding entries are gone, and with them the markers on their way (R303). -/
def dropForwards (s : State) (sites lcs : List Nat) : State :=
  let s := sites.foldl (fun s x => updCore s x fun c => { c with fwd := [], awaitMark := [], halted := false }) s
  dropPkts s fun p => match p.body with | .marker lc _ => lcs.contains lc | _ => false

/-- DAWN: the partition comes back on the named clusters and goes on; an uncorrectable error in a shadow frame is a machine check, and
the partition stays away (R303). -/
def execDawn (part : Nat) (place : List (Nat × Nat)) (s : State) : Res :=
  let p := getPart s part
  if p.dark && dawnOk s part place then
    if Config.freeShadow s.stepNo then .next { s with out := s.out ++ [.machineCheck (part + Config.nSites) 2] }
    else
      let old := partSites s part
      let cls := place.map fun e => (shadowCluster part e.1, e.2)
      let sites := old.map fun x => (x, clusterSite (placeOf cls (siteCluster x)) (siteRank x))
      let s := relocatePart s part ⟨sites, cls⟩
      let here := sites.map fun e => e.2
      let s := dropForwards s here (here.filterMap fun x => (getCore s x).lcore)
      let s := updPart s part fun p => { p with dark := false }
      let s := postSpills (postLate s) part
      let s := here.foldl (fun s x => settleNotices (settleAway (pump s x) x) x) s
      let s := (place.map fun e => e.2).foldl settle s
      .next (s.ferries.foldl (fun s e => pumpFerry s e.1) s)
  else .next s

-- Teardown (R359)

/-- Steps 1 and 2: the partition is marked GONE, its cores halt and inject nothing further. -/
def beginTeardown (s : State) (part : Nat) : State :=
  let s := (partSites s part).foldl (fun s x => updCore (releaseGrants s x) x fun c => { c with halted := true, moveTo := none }) s
  updPart s part fun p => { p with gone := true, teardown := true, running := false }

/-- The packet is dropped with the partition: a request that one of its cores or adapter units sent, or an answer or a notice for them. What its
cores have answered others still goes out (R359). -/
def droppedWith (s : State) (part : Nat) (p : Packet) : Bool :=
  match p.body with
  | .mapCommit _ _ => false
  | .dieBase _ => false
  | .inval _ _ => false
  | .marker _ _ => false
  | .flood _ _ => false
  | .nightfall p => p == part
  | .req r => endpointIn s part p.src || r.part == part
  | .forward _ r e => endpointIn s part e || r.part == part
  | .entryReq _ r => r.part == part
  | _ => endpointIn s part p.dst

/-- Takes the partition's sources out of a ferry; a record that served only them closes without a notice, while its page request may still be
out. Its subscriptions and notices go (step 3, step 5). -/
def purgeFerry (mine : Endpoint → Bool) (part : Nat) (f : Ferry) : Ferry :=
  let keep := fun (l : List SrcEnt) => l.filter fun e => !mine e.src
  let recs := f.recs.map fun e => (e.1, { e.2 with sources := e.2.sources.filter fun x => !mine x })
  { f with
    recs := recs.filter fun e => !e.2.sources.isEmpty,
    priLost := (recs.filter fun e => e.2.sources.isEmpty && e.2.pri).foldl (fun t e => tset t e.1 e.2.opened) f.priLost,
    srcs := keep f.srcs, late := f.late.filter fun e => !mine e.1, subs := f.subs.filter fun u => u.2.part != part,
    notes := f.notes.filter fun n => n.part != part }

/-- The translations of a partition's PASIDs leave a ferry (step 5). -/
def purgeTlb (pasids : List Nat) (f : Ferry) : Ferry := { f with tlb := f.tlb.filter fun e => !(e.pasid != 0 && pasids.contains e.pasid) }

def purgePort (mine : Endpoint → Bool) (p : Port) : Port :=
  { p with
    outs := p.outs.filter fun o => !mine o.src, srcs := p.srcs.filter fun e => !mine e.src,
    ltickets := p.ltickets.map fun e => (e.1, { e.2 with sources := e.2.sources.filter fun x => !mine x }) }

/-- Takes the partition's sources out of a core of another partition. -/
def purgeCore (mine : Endpoint → Bool) (c : Core) : Core :=
  { c with
    srcs := c.srcs.filter fun e => !mine e.src, inbox := c.inbox.filter fun w => !mine w.src,
    chans := c.chans.map fun e => (e.1, { e.2 with waiters := e.2.waiters.filter fun x => !mine x }) }

/-- Step 3: requests on their way are dropped, and homes forget the partition's sources. -/
def purge (s : State) (part : Nat) : State :=
  let mine := endpointIn s part
  let s := dropPkts s (droppedWith s part)
  priStart { s with
    ferries := s.ferries.map fun e => (e.1, purgeFerry mine part e.2),
    ports := eachOf s.ports (purgePort mine), cores := s.cores.map fun e => (e.1, purgeCore mine e.2),
    parts := s.parts.map fun e => (e.1, { e.2 with spills := e.2.spills.filter fun x => !mine x.2.1 }),
    invs := s.invs.filter fun v => v.2.part != part, windows := s.windows.filter fun w => w.2.ownpart != part }

/-- Step 4: senders that wait on a refused spill into the partition are refused GONE in place of the replay notice. A landing sends its
peers on again, and they are refused when they come. -/
def refuseWaiters (s : State) (part : Nat) : State :=
  let tell := fun (s : State) (site : Nat) (e : Endpoint) (t : BitVec 16) =>
    sendPkt s { src := .core site, dst := e, cls := .sys, body := match e with | .landing _ => .notice t | _ => .failure t }
  let s := (partSites s part).foldl (fun s x =>
    (getCore s x).chans.foldl (fun s e => e.2.waiters.foldl (fun s w => tell s x w (spillTicket e.1)) s) s) s
  (getPart s part).spills.foldl (fun s x => tell s x.1 x.2.1 x.2.2) s

/-- Messages that a core of the partition has taken in and not placed are refused GONE: the one whose spill is under way, and those of other
senders that wait in its NI (R359). -/
def refuseTaken (s : State) (site : Nat) : State :=
  let c := getCore s site
  let s := match c.spilling with
    | some p => tellSpill (updCore s site fun c => { c with spilling := none }) site p.by_ (p.come.getD p.out) (.refused 6)
    | none => s
  let s := c.inbox.foldl (fun s w => answerTo s (.core site) w.src w.req.uid (.refusePerm 6)) s
  updCore s site fun c => { c with inbox := [] }

/-- A core of the partition after step 5: nothing of it is left but its number, and the mark that refuses messages GONE. -/
def clearedCore (part : Nat) (c : Core) : Core := { bareNi c with part := some part, lcore := c.lcore }

/-- Step 5 at one site. The core of a dark partition goes back to the site it left, if no other partition stands there. -/
def clearSite (part : Nat) (s : State) (x : Nat) : State :=
  let c := getCore s x
  if x < Config.nSites then setCore s x (clearedCore part c)
  else
    let y := x % Config.nSites
    let s := { s with cores := tdel s.cores x,
                      net := s.net.map fun p => if p.dst = .core x then { p with dst := .core y } else p }
    if (getCore s y).part.isNone then
      let s := setCore s y (clearedCore part { getCore s y with lcore := c.lcore })
      match c.lcore with
      | some lc => { s with moved := tset s.moved lc y }
      | none => s
    else s

/-- Step 5, the overflow rings: firmware clears them, by BULK writes of the first control core with the partition's PASIDs (R356, R357;
notes/assumptions/89). -/
def clearRings (s : State) (part : Nat) : State :=
  (partSites s part).foldl (fun s x =>
    (getCore s x).chans.foldl (fun s e =>
      (pieces (e.2.ovfSize / 64 + 2) e.2.ovfBase 0 (64 * e.2.ovfSize)).foldl (fun s g =>
        sendBulk s (ctrlSite s (firstDie s)) (.clear part) g.2.1 (.write (List.replicate g.2.2 0))) s) s) s

/-- A ring of the partition is still being cleared. -/
def ringsOut (s : State) (part : Nat) : Bool := s.cores.any fun c => c.2.bulks.any fun b => b.kind == .clear part

/-- Steps 3 and 4, and the start of the clearing of step 5. -/
def purgeTeardown (s : State) (part : Nat) : State :=
  let s := (partSites s part).foldl refuseTaken (refuseWaiters (purge s part) part)
  updPart (clearRings s part) part fun p => { p with clearing := true }

/-- The rest of step 5, once the rings are cleared. -/
def finishTeardown (s : State) (part : Nat) : State :=
  let p := getPart s part
  let s := (partSites s part).foldl (clearSite part) s
  let s := p.clusters.foldl (fun s cl => { s with clusters := tdel s.clusters cl }) s
  setPart { s with ferries := s.ferries.map fun e => (e.1, purgeTlb p.pasids e.2) } part { gone := true }

/-- One of the steps in which a partition is torn down, if it stands (R359): it halts, its requests are dropped and its rings cleared, and
then it is gone, at once when there is no ring to clear. -/
def teardownStep (s : State) (part : Nat) (done : List HostOut) : State :=
  let p := getPart s part
  if p.teardown then
    let s := if p.clearing then s else purgeTeardown s part
    if ringsOut s part then s else let s := finishTeardown s part; { s with out := s.out ++ done }
  else if p.running || p.dark then beginTeardown s part
  else { s with out := s.out ++ done }

/-- FLR of VF n tears partition n down: the first step begins it, and the FLR completes with the last (R359). -/
def execFlr (vf : Nat) (s : State) : Res := .next (teardownStep s vf [.flrDone vf])

/-- TEARDOWN_COMMAND of the PF (R359). -/
def execTeardownCommand (part : Nat) (s : State) : Res := .next (teardownStep s part [])

end Sys2Proof.Machine
end

