-- ==== Sys2Proof/Machine/ScalarMem.lean ====
section
/-! DEFINITION. Machine/ScalarMem.lean: LD and ST (spec/05 R75 to R79, spec/10 R169). -/

namespace Sys2Proof.Machine

/-- The value a load writes (R75). -/
def extend (n : Nat) (sgn : Bool) (v : Nat) : Word := if sgn then sextN v (8 * n) else zextN v (8 * n)

/-- LD of n bytes (R75 to R77); `sized` marks .sw, .nw and .d. -/
def loadScalar (n : Nat) (sgn sized : Bool) (a b : XReg) (imm : Int) (rlx : Bool) (s : State) : Res :=
  needX s [a, b] fun sl =>
    let ea := getX sl b + wordOf imm
    match checkScalar s ea n sized with
    | some e => trap s e ea
    | none =>
      if isOwn s ea then
        withSpad s (meshOff ea) (fun c => readScalar c sl.winbase (meshWin ea) (meshOff ea) n) fun v s =>
          .next (retireX s a (extend n sgn v))
      else loadReq s (.read n) ea (!rlx) (.x a n sgn)

/-- ST of n bytes (R75 to R77). A local store writes no register and folds no word (R310). -/
def storeScalar (n : Nat) (sized : Bool) (a b : XReg) (imm : Int) (rlx : Bool) (s : State) : Res :=
  needX s [a, b] fun sl =>
    let ea := getX sl b + wordOf imm
    let v := (getX sl a).toNat % 2 ^ (8 * n)
    match checkScalar s ea n sized with
    | some e => trap s e ea
    | none =>
      if isOwn s ea then
        localStore s (inFrame s.cur.2 (meshOff ea)) id fun s =>
          withSpad s (meshOff ea) (fun c => writeScalar c sl.winbase (meshWin ea) (meshOff ea) n v) fun _ s =>
            .next (retire s [])
      else postReq s (.write (leBytes n v)) ea (!rlx) [BitVec.ofNat 64 v]

def execLdSb (a b : XReg) (imm : Int) (rlx : Bool) (s : State) : Res := loadScalar 1 true false a b imm rlx s
def execLdNb (a b : XReg) (imm : Int) (rlx : Bool) (s : State) : Res := loadScalar 1 false false a b imm rlx s
def execLdSh (a b : XReg) (imm : Int) (rlx : Bool) (s : State) : Res := loadScalar 2 true false a b imm rlx s
def execLdNh (a b : XReg) (imm : Int) (rlx : Bool) (s : State) : Res := loadScalar 2 false false a b imm rlx s
def execLdSw (a b : XReg) (imm : Int) (rlx : Bool) (s : State) : Res := loadScalar 4 true true a b imm rlx s
def execLdNw (a b : XReg) (imm : Int) (rlx : Bool) (s : State) : Res := loadScalar 4 false true a b imm rlx s
def execLdD (a b : XReg) (imm : Int) (rlx : Bool) (s : State) : Res := loadScalar 8 false true a b imm rlx s
def execStB (a b : XReg) (imm : Int) (rlx : Bool) (s : State) : Res := storeScalar 1 false a b imm rlx s
def execStH (a b : XReg) (imm : Int) (rlx : Bool) (s : State) : Res := storeScalar 2 false a b imm rlx s
def execStW (a b : XReg) (imm : Int) (rlx : Bool) (s : State) : Res := storeScalar 4 true a b imm rlx s
def execStD (a b : XReg) (imm : Int) (rlx : Bool) (s : State) : Res := storeScalar 8 true a b imm rlx s

end Sys2Proof.Machine
end

