-- ==== Sys2Proof/Machine/Send.lean ====
section
/-! DEFINITION. Machine/Send.lean: the send family (spec/08 R139 to R145, spec/09 R158 to R160). -/

namespace Sys2Proof.Machine

/-- Fields of a channel name (R138). -/
def nameDev (v : Word) : Nat := bits v 0 10
def nameCore (v : Word) : Nat := bits v 10 13
def nameChan (v : Word) : Nat := bits v 23 8
def nameOwn (v : Word) : Bool := v.getLsbD 31
/-- Step 1 of R140 fails. -/
def badName (v : Word) : Bool := bits v 32 32 != 0 || (nameOwn v && nameDev v != 0)
/-- The name is on the sender's own device. -/
def nameHere (s : State) (v : Word) : Bool := nameOwn v || nameDev v == s.devid

/-- The payload registers of an x form: none for count 0 (R160). -/
def payloadRegs (b : XReg) (n : Nat) : List XReg := (List.range n).map fun k => Fin.ofNat 32 (b.val + k)

/-- The message of a send (R137, R141). -/
def sendMsg (s : State) (v : Word) (kind : Nat) (gang rel : Bool) (seq : BitVec 16) (ws : List Word) : Msg :=
  { seq := seq, gang := gang, rel := rel, count := ws.length, kind := kind, srcCore := coreNumber s s.cur.1, srcDev := s.devid,
    chan := nameChan v, dstCore := if nameCore v = 0x1FFF then coreNumber s s.cur.1 else nameCore v,
    dstDev := if nameOwn v then s.devid else nameDev v, words := words6 ws }

/-- Injects a send, one copy for each site of a rectangle: one S count and one replay-buffer entry (R141, R144). -/
def injectSend (s : State) (m : Msg) (rect : Option (List Nat)) (ws : List Word) (side : State → State := id) : Res :=
  if roomFor s false true then
    let r := { mkReq s (.msg m) 0 (msgHome s s.cur.1 m.dstDev m.dstCore) true .none false true false with
               snap := if m.rel then snapshotLS (curCore s) s.cur.2 (curSlot s).actId else [] }
    let rs := match rect with
      | none => [r]
      | some sites => sites.map fun x => { r with op := .msg { m with dstCore := coreNumber s x }, home := .core x, phys := true }
    if rs.isEmpty then .next (retire (side s) ws)
    else afterRemote (injectAll (updCur s fun sl => { sl with cntS := sl.cntS + 1 }) s.cur.1 rs) ws side
  else stallRoom s false true

/-- A send: to the outbox of a replayable activation, by the primary alone once a twin's bit is clear, otherwise injected
(R141, R305, R309). -/
def postMsg (s : State) (m : Msg) (rect : Option (List Nat)) (ws : List Word) (side : State → State) : Res :=
  let sl := curSlot s
  let go := fun s => injectSend s m rect ws side
  if sl.replayable then
    if sl.outbox.length < Config.outboxMax then
      let o : OutReq :=
        { op := .msg m, addr := 0, ordered := true, winbase := 0, rect := rect, retAt := sl.retired + 1,
          snapReads := ((curCore s).reqs.filter fun r => r.slot == s.cur.2 && r.act == sl.actId && r.cntL).map fun r => r.uid }
      .next (retire (updCur (side s) fun sl => { sl with outbox := sl.outbox ++ [o] }) ws)
    else irrevocable s 0 side go
  else match sl.twin with
    | some (.secondary _) => .next (retire (side s) ws)
    | _ => go s

/-- The x forms that go to one destination. -/
def sendX (kind : Nat) (gang rel : Bool) (seq : Option XReg) (a b : XReg) (n : Fin 7) (s : State) : Res :=
  needX s (a :: (payloadRegs b n.val ++ seq.toList)) fun sl =>
    let v := getX sl a
    if badName v then trap s cBADSPACE v
    else
      let ws := (payloadRegs b n.val).map (getX sl)
      let q := match seq with
        | some d => BitVec.ofNat 16 (getX sl d).toNat
        | none => 0
      let m := sendMsg s v kind gang rel q ws
      if kind = 1 then irrevocable s 0 id fun s => injectSend s m none (v :: ws)
      else postMsg s m none (v :: ws) id

def execSend (a b : XReg) (n : Fin 7) (s : State) : Res := sendX 0 false false none a b n s
def execSendR (a b : XReg) (n : Fin 7) (s : State) : Res := sendX 0 false true none a b n s
def execSendg (a b : XReg) (n : Fin 7) (s : State) : Res := sendX 0 true false none a b n s
/-- SENDC is irrevocable (R142). -/
def execSendc (a b : XReg) (n : Fin 7) (s : State) : Res := sendX 1 false false none a b n s
def execSendQ (a b : XReg) (n : Fin 7) (d : XReg) (s : State) : Res := sendX 0 false false (some d) a b n s

/-- SENDV: words from lane pairs of B (R141); a count of 0 reads nothing (R160). A fault of B's stream comes before a bad name: both stand in
step 5 of R45 and no rule orders them (notes/assumptions/77). -/
def execSendv (a : XReg) (b : VReg) (n : Fin 7) (s : State) : Res :=
  let names : List VReg := if n.val = 0 then [] else [b]
  needXV s [a] names fun sl =>
    let v := getX sl a
    match streamFault sl names [] [] with
    | some tv => trap s cSTREAM tv
    | none =>
      if badName v then trap s cBADSPACE v
      else
        orStay s <| orUE s (readSources s sl names) fun vs s =>
          let ws := (vecWords (srcAt vs 0)).take n.val
          postMsg s (sendMsg s v 0 false false 0 ws) none (v :: ws) fun s => updCur s fun sl => consume sl names

/-- The sites of a rectangle, row by row. -/
def rectSites (r : Word) : List Nat :=
  let die := bits r 20 2
  (List.range (bits r 15 5 + 1 - bits r 5 5)).flatMap fun i =>
    (List.range (bits r 10 5 + 1 - bits r 0 5)).map fun j => siteAt die (bits r 5 5 + i) (bits r 0 5 + j)

/-- The rectangle is malformed or touches a cluster outside the sender's partition (R144); firmware is not checked (R377). -/
def badRect (s : State) (r : Word) : Bool :=
  bits r 22 42 != 0 || decide (bits r 15 5 < bits r 5 5) || decide (bits r 10 5 < bits r 0 5) ||
    (!(curCore s).ctrl && (rectSites r).any fun x => !((getPart s (corePart s s.cur.1)).clusters.contains (siteCluster x)))

/-- SENDM (R144). -/
def execSendm (a b : XReg) (n : Fin 7) (d : XReg) (s : State) : Res :=
  needX s (a :: d :: payloadRegs b n.val) fun sl =>
    let v := getX sl a
    let r := getX sl d
    if badName v then trap s cBADSPACE v
    else if nameCore v ≠ 0 ∨ !nameHere s v then trap s cBADSPACE v
    else if badRect s r then trap s cBADSPACE r
    else
      let ws := (payloadRegs b n.val).map (getX sl)
      let sites := (rectSites r).filter fun x => working s x && !(getCore s x).ctrl
      postMsg s (sendMsg s v 0 false false 0 ws) (some sites) (v :: ws) id

/-- A FORK that finds the deque full: it holds a replay-buffer entry until its spill is written, and waits on a ticket at once when the
overflow area takes no message (R145, R133). -/
def forkSpill (s : State) (site ch : Nat) (q : QMsg) (r : Req) : State :=
  match tget (getCore s site).chans ch with
  | none => s
  | some x =>
    if ringRoom x then
      let y := addFlying s site r
      startSpill y.1 site ch x q none (.source (.core site) (reqPkt s site y.2))
    else updCore (addTicketed s site r (spillTicket ch)) site fun c => waitFor c ch (.core site)

/-- FORK (R145): pushed at the newest end of the deque, spilled when the deque is full; a refused spill waits on a ticket. While the NI
writes another spill, the slot waits for it (R11). -/
def execFork (a b : XReg) (n : Fin 7) (s : State) : Res :=
  needX s (a :: payloadRegs b n.val) fun sl =>
    let v := getX sl a
    if badName v then trap s cBADSPACE v
    else if !nameHere s v ∨ (nameCore v ≠ 0x1FFF ∧ nameCore v ≠ coreNumber s s.cur.1) then trap s cBADSPACE v
    else
      let site := s.cur.1
      let ch := nameChan v
      let refuse := fun (code : Nat) =>
        Host.Outcome.next (takeTrap s site s.cur.2 { cause := cREFPERM, tval := BitVec.ofNat 64 code, epc := sl.pc, req := 1 })
      match tget (ownCore s).chans ch with
      | none => refuse 2
      | some x =>
        if x.kind ≠ .roaming then refuse 7
        else
          let ws := (payloadRegs b n.val).map (getX sl)
          let m := { sendMsg s v 0 false false 0 ws with time := BitVec.ofNat 32 s.time }
          let q : QMsg := { msg := m, arrival := s.time, part := corePart s site }
          irrevocable s 0 id fun s =>
            if (dequeUsed (curCore s)) < Config.dequeMax then
              let s := updCurCore s fun c => markChan { c with deque := c.deque ++ [⟨ch, q⟩] } ch
              .next (retire (rearm s site m) (v :: ws))
            else if !roomFor s false true || (curCore s).spilling.isSome then stallRoom s false true
            else
              let s := updCur s fun sl => { sl with cntS := sl.cntS + 1 }
              let r := mkReq s (.msg m) 0 (.core site) true .none false true false
              afterRemote (forkSpill s site ch q r) (v :: ws)

end Sys2Proof.Machine
end

