-- ==== Sys2Proof/Machine/VecMem.lean ====
section
/-! DEFINITION. Machine/VecMem.lean: vector loads and stores, gathers and scatters, and tile groups (spec/06 R101 to R106). -/

namespace Sys2Proof.Machine

/-- Bytes from ea that the 32 elements which R103 checks take, or one group of a plane window (R102). The check is the same for VLDB
(notes/assumptions/24). -/
def vecBytes (w : Nat) : Nat := if isPlane w then 4 * planeDepth w else 16 * elemHalf w

/-- The checks of R103. -/
def checkVec (s : State) (sl : Slot) (ea : Word) (store bcast : Bool) (act : Mask32) : Option (BitVec 8) :=
  match check14 s ea with
  | some e => some e
  | none =>
    if space ea ≠ 0xF then (if ea.toNat % (if bcast then 4 else 128) ≠ 0 then some cMISALIGN else none)
    else
      let w := meshWin ea
      let o := meshOff ea
      if Config.spadBytes < o + vecBytes w then some cBADSPACE
      else if isPlane w then
        if bcast || (o + 2 ^ 19 - winPbase sl.winbase) % 2 ^ 19 % (4 * planeDepth w) != 0 || (store && act != BitVec.allOnes 32) then
          some cBADPLANE
        else none
      else if o % max 1 (elemHalf w / 2) ≠ 0 then some cMISALIGN else none

/-- A vector store stays in the slot frame. -/
def vecInside (k : Fin 4) (wb : Word) (w o : Nat) (act : Mask32) : Bool :=
  if isPlane w then inFrame k o && inFrame k (o + 4 * planeDepth w - 1) && inFrame k (planeExpOff wb w o)
  else (laneList act).all fun l => let e := elemAt w o (l.val : Int); inFrame k e.off && inFrame k (e.off + e.len - 1)

/-- VLD and VLDB (R104). -/
def vecLoad (bcast : Bool) (a : VReg) (b : XReg) (imm : Int) (rlx : Bool) (k : MReg) (s : State) : Res :=
  needXV s [b] [a] fun sl =>
    let ea := getX sl b + wordOf imm
    let act := getM sl k
    match streamFault sl [] [] [a] with
    | some tv => trap s cSTREAM tv
    | none =>
      match checkVec s sl ea false bcast act with
      | some e => trap s e ea
      | none =>
        if isOwn s ea then
          withSpad s (meshOff ea) (fun c => readVec c sl.winbase (meshWin ea) (meshOff ea) act bcast) fun ls s =>
            let v := putLanes sl.v[a] ls
            .next (retire (updCur s fun sl => setV sl a v) (vecWords v))
        else loadReq s (.vread act bcast) ea (!rlx) (.v a act bcast)

/-- VST (R104). -/
def execVst (a : VReg) (b : XReg) (imm : Int) (rlx : Bool) (k : MReg) (s : State) : Res :=
  needXV s [b] [a] fun sl =>
    let ea := getX sl b + wordOf imm
    let act := getM sl k
    match streamFault sl [a] [] [] with
    | some tv => trap s cSTREAM tv
    | none =>
      match checkVec s sl ea true false act with
      | some e => trap s e ea
      | none =>
        orStay s <| orUE s (readSource s sl a) fun v s =>
          let side := fun s => updCur s fun sl => consume sl [a]
          if isOwn s ea then
            localStore s (vecInside s.cur.2 sl.winbase (meshWin ea) (meshOff ea) act) side fun s =>
              withSpad s (meshOff ea) (fun c => writeVec c sl.winbase (meshWin ea) (meshOff ea) act v) fun _ s =>
                .next (retire (side s) [])
          else postReq s (.vwrite act v) ea (!rlx) (vecWords v) side

def execVld (a : VReg) (b : XReg) (imm : Int) (rlx : Bool) (k : MReg) (s : State) : Res := vecLoad false a b imm rlx k s
def execVldb (a : VReg) (b : XReg) (imm : Int) (rlx : Bool) (k : MReg) (s : State) : Res := vecLoad true a b imm rlx k s

/-- The address of lane l of a gather or scatter (R105). -/
def lanePlace (x : Word) (e : Nat) (i : Lane) : Word := x + wordOf (signedN i.toNat 32 * e)

/-- The checks of R105: the address at fault and the cause. A lane whose index carries its address into another window of the own
scratchpad traps BADSPACE, which the rule's lane checks do not name (notes/assumptions/24). -/
def checkGather (s : State) (x : Word) (idx : Lanes) (act : Mask32) : Option (BitVec 8 × Word) :=
  match check14 s x with
  | some e => some (e, x)
  | none =>
    if !isOwn s x then some (cBADSPACE, x)
    else if isPlane (meshWin x) then some (cBADPLANE, x)
    else if elemHalf (meshWin x) = 1 then some (cBADWINDOW, x)
    else
      let e := elemHalf (meshWin x) / 2
      (laneList act).findSome? fun l =>
        let p := lanePlace x e idx[l]
        match check14 s p with
        | some c => some (c, p)
        | none =>
          if !isOwn s p || decide (meshWin p ≠ meshWin x) || decide (Config.spadBytes < meshOff p + e) then some (cBADSPACE, p)
          else if p.toNat % e ≠ 0 then some (cMISALIGN, p)
          else none

/-- The elements of the active lanes of a gather or scatter. -/
def gatherElems (x : Word) (idx : Lanes) (act : Mask32) : List (Fin 32 × ElemAt) :=
  let e := elemHalf (meshWin x) / 2
  (laneList act).map fun l => (l, ⟨meshOff (lanePlace x e idx[l]), e, false⟩)

/-- VLDX (R105). A bound index stream is read before X(B) and the lanes are checked: the spec does not order an uncorrectable word of
the stream against those checks (notes/assumptions/24). -/
def execVldx (a : VReg) (b : XReg) (c : VReg) (k : MReg) (s : State) : Res :=
  needXV s [b] [a, c] fun sl =>
    let x := getX sl b
    let act := getM sl k
    match streamFault sl [c] [] [a] with
    | some tv => trap s cSTREAM tv
    | none =>
      orUE s (readSource s sl c) fun idx s' =>
        match checkGather s x idx act with
        | some (e, tv) => trap s e tv
        | none =>
          withSpad s' (meshOff x) (fun co => readLanesAt co (mx4ScaleOff sl.winbase) (meshWin x) (gatherElems x idx act)) fun ls s =>
            let v := putLanes sl.v[a] ls
            .next (retire (updCur s fun sl => setV (consume sl [c]) a v) (vecWords v))

/-- VSTX: the higher lane's bytes remain (R105). Bound streams are read before the checks, as in VLDX (notes/assumptions/24). -/
def execVstx (a : VReg) (b : XReg) (c : VReg) (k : MReg) (s : State) : Res :=
  needXV s [b] [a, c] fun sl =>
    let x := getX sl b
    let act := getM sl k
    match streamFault sl [a, c] [] [] with
    | some tv => trap s cSTREAM tv
    | none =>
      orUE s (readSources s sl [a, c]) fun vs s' =>
        let v := srcAt vs 0
        let idx := srcAt vs 1
        match checkGather s x idx act with
        | some (e, tv) => trap s e tv
        | none =>
          let es := gatherElems x idx act
          let side := fun s => updCur s fun sl => consume sl [a, c]
          localStore s' (es.all fun e => inFrame s.cur.2 e.2.off && inFrame s.cur.2 (e.2.off + e.2.len - 1)) side fun s =>
            withSpad s (meshOff x) (fun co => writeLanesAt co (mx4ScaleOff sl.winbase) (meshWin x) (es.map fun e => ((v[e.1]).toNat, e.2)))
              fun _ s => .next (retire (side s) [])

/-- Row, group and FIN of a selector (R106). -/
def selRow (x : Word) : Nat := bits x 16 16
def selGroup (x : Word) : Nat := bits x 0 16
def selFin (x : Word) : Bool := x.getLsbD 63

/-- The geometry of VLDT and VSTT holds (R106). -/
def selOk (t : Option Tile) (x : Word) (store : Bool) : Bool :=
  match t with
  | none => false
  | some t =>
    decide (selRow x < t.rows) && decide (selGroup x < t.groups) && bits x 32 31 == 0 && (if store then t.output else !selFin x)

/-- Reads the active lanes of a tile group through the entry's window (R106, R199). -/
def readTile (c : Core) (t : Tile) (i g : Nat) (act : Mask32) : SpadRes (List (Fin 32 × Nat)) :=
  if isPlane t.win then readPlaneLanes c t.win (groupOff t i g) (groupExp t i g) act
  else readLanesAt c (tileScale t i g) t.win ((laneList act).map fun l => (l, elemAt t.win (groupOff t i g) (l.val : Int)))

/-- VLDT issues while the berth is ready; a berth with FAULT traps TICKET.FAILED (R106, R213). -/
def execVldt (a : VReg) (t : TileIx) (b : XReg) (k : MReg) (s : State) : Res :=
  needXV s [b] [a] fun sl =>
    let x := getX sl b
    match streamFault sl [] [] [a] with
    | some tv => trap s cSTREAM tv
    | none =>
      if !selOk (getTile (ownCore s) t.val) x false then trap s cMXGEOM x
      else match getTile (ownCore s) t.val with
        | none => trap s cMXGEOM x
        | some e =>
          if !tileReady e then stall s
          else if e.fault then trap s cTKFAIL e.failAddr
          else
            orUE s (match readTile (ownCore s) e (selRow x) (selGroup x) (getM sl k) with
              | .error k => .error k
              | .ok (ls, c) => .ok (ls, setCore s (ownSite s) c)) fun ls s =>
              let v := putLanes sl.v[a] ls
              .next (retire (updCur s fun sl => setV sl a v) (vecWords v))

/-- VSTT issues while the berth is EMPTY and no command's destination; FIN turns it READY after the store (R106, R202). -/
def execVstt (a : VReg) (t : TileIx) (b : XReg) (k : MReg) (s : State) : Res :=
  needXV s [b] [a] fun sl =>
    let x := getX sl b
    let side := fun s => updCur s fun sl => consume sl [a]
    match streamFault sl [a] [] [] with
    | some tv => trap s cSTREAM tv
    | none =>
      if takesResult s then irrevocable s 0 side fun s => .next s
      else if !selOk (getTile (ownCore s) t.val) x true then trap s cMXGEOM x
      else match getTile (ownCore s) t.val with
        | none => trap s cMXGEOM x
        | some e =>
          if e.state ≠ .empty ∨ e.dest then stall s
          else
            orUE s (readSource s sl a) fun v s =>
              let es := (laneList (getM sl k)).map fun l => ((v[l]).toNat, elemAt e.win (groupOff e (selRow x) (selGroup x)) (l.val : Int))
              localStore s false side fun s =>
                orUE s (match writeLanesAt (curCore s) (tileScale e (selRow x) (selGroup x)) e.win es with
                  | .error k => .error k
                  | .ok (u, c) => .ok (u, putCur s c)) fun _ s =>
                  let s := if selFin x then updTile s s.cur.1 t.val fun e => { e with state := .ready } else s
                  .next (retire (side s) [])

end Sys2Proof.Machine
end

