-- ==== Sys2Proof/Machine/Wait.lean ====
section
/-! DEFINITION. Machine/Wait.lean: WAIT (spec/11 R195, R196). -/

namespace Sys2Proof.Machine

/-- A counter is at or below its bound; 15 is no bound. -/
def boundMet (n : Nat) (b : Fin 16) : Bool := b == 15 || decide (n ≤ b.val)

/-- WAIT stalls until every bounded counter is at or below its bound (R196). -/
def execWait (l s1 e m : Fin 16) (s : State) : Res :=
  let sl := curSlot s
  if boundMet sl.cntL l && boundMet sl.cntS s1 && boundMet sl.cntE e && boundMet sl.cntM m then .next (retire s [])
  else stallOn s (ownReqs s fun r => (!boundMet sl.cntL l && r.cntL) || (!boundMet sl.cntS s1 && r.cntS))

end Sys2Proof.Machine
end

