-- ==== Sys2Proof/Machine/Dispatch.lean ====
section
/-! DEFINITION. Machine/Dispatch.lean: one arm per constructor of Instr, each one direct call of its meaning. -/

namespace Sys2Proof.Machine

def exec (i : Instr) (s : State) : Host.Outcome State Fault Refusal :=
  match i with
  | .add a c b => Sys2Proof.Machine.execAdd a c b s
  | .sub a c b => Sys2Proof.Machine.execSub a c b s
  | .and a c b => Sys2Proof.Machine.execAnd a c b s
  | .or a c b => Sys2Proof.Machine.execOr a c b s
  | .xor a c b => Sys2Proof.Machine.execXor a c b s
  | .andn a c b => Sys2Proof.Machine.execAndn a c b s
  | .orn a c b => Sys2Proof.Machine.execOrn a c b s
  | .xnor a c b => Sys2Proof.Machine.execXnor a c b s
  | .shl a c b => Sys2Proof.Machine.execShl a c b s
  | .shr a c b => Sys2Proof.Machine.execShr a c b s
  | .sar a c b => Sys2Proof.Machine.execSar a c b s
  | .rol a c b => Sys2Proof.Machine.execRol a c b s
  | .ror a c b => Sys2Proof.Machine.execRor a c b s
  | .min a c b => Sys2Proof.Machine.execMin a c b s
  | .max a c b => Sys2Proof.Machine.execMax a c b s
  | .minn a c b => Sys2Proof.Machine.execMinn a c b s
  | .mul a c b => Sys2Proof.Machine.execMul a c b s
  | .mulh a c b => Sys2Proof.Machine.execMulh a c b s
  | .mulhn a c b => Sys2Proof.Machine.execMulhn a c b s
  | .div a c b => Sys2Proof.Machine.execDiv a c b s
  | .divn a c b => Sys2Proof.Machine.execDivn a c b s
  | .rem a c b => Sys2Proof.Machine.execRem a c b s
  | .remn a c b => Sys2Proof.Machine.execRemn a c b s
  | .maxn a c b => Sys2Proof.Machine.execMaxn a c b s
  | .seq a c b => Sys2Proof.Machine.execSeq a c b s
  | .sne a c b => Sys2Proof.Machine.execSne a c b s
  | .slt a c b => Sys2Proof.Machine.execSlt a c b s
  | .sltn a c b => Sys2Proof.Machine.execSltn a c b s
  | .sle a c b => Sys2Proof.Machine.execSle a c b s
  | .slen a c b => Sys2Proof.Machine.execSlen a c b s
  | .sel a c b d => Sys2Proof.Machine.execSel a c b d s
  | .clz a b => Sys2Proof.Machine.execClz a b s
  | .ctz a b => Sys2Proof.Machine.execCtz a b s
  | .popc a b => Sys2Proof.Machine.execPopc a b s
  | .brev a b => Sys2Proof.Machine.execBrev a b s
  | .bswap a b => Sys2Proof.Machine.execBswap a b s
  | .sext w a b => Sys2Proof.Machine.execSext w a b s
  | .zext w a b => Sys2Proof.Machine.execZext w a b s
  | .mov a b => Sys2Proof.Machine.execMov a b s
  | .addi a b imm => Sys2Proof.Machine.execAddi a b imm s
  | .li a imm => Sys2Proof.Machine.execLi a imm s
  | .andi a b imm => Sys2Proof.Machine.execAndi a b imm s
  | .ori a b imm => Sys2Proof.Machine.execOri a b imm s
  | .xori a b imm => Sys2Proof.Machine.execXori a b imm s
  | .shli a b n => Sys2Proof.Machine.execShli a b n s
  | .shri a b n => Sys2Proof.Machine.execShri a b n s
  | .sari a b n => Sys2Proof.Machine.execSari a b n s
  | .rori a b n => Sys2Proof.Machine.execRori a b n s
  | .ldSb a b imm rlx => Sys2Proof.Machine.execLdSb a b imm rlx s
  | .ldNb a b imm rlx => Sys2Proof.Machine.execLdNb a b imm rlx s
  | .ldSh a b imm rlx => Sys2Proof.Machine.execLdSh a b imm rlx s
  | .ldNh a b imm rlx => Sys2Proof.Machine.execLdNh a b imm rlx s
  | .ldSw a b imm rlx => Sys2Proof.Machine.execLdSw a b imm rlx s
  | .ldNw a b imm rlx => Sys2Proof.Machine.execLdNw a b imm rlx s
  | .ldD a b imm rlx => Sys2Proof.Machine.execLdD a b imm rlx s
  | .stB a b imm rlx => Sys2Proof.Machine.execStB a b imm rlx s
  | .stH a b imm rlx => Sys2Proof.Machine.execStH a b imm rlx s
  | .stW a b imm rlx => Sys2Proof.Machine.execStW a b imm rlx s
  | .stD a b imm rlx => Sys2Proof.Machine.execStD a b imm rlx s
  | .bcEq a b dist => Sys2Proof.Machine.execBcEq a b dist s
  | .bcNe a b dist => Sys2Proof.Machine.execBcNe a b dist s
  | .bcLt a b dist => Sys2Proof.Machine.execBcLt a b dist s
  | .bcGe a b dist => Sys2Proof.Machine.execBcGe a b dist s
  | .bcLtn a b dist => Sys2Proof.Machine.execBcLtn a b dist s
  | .bcGen a b dist => Sys2Proof.Machine.execBcGen a b dist s
  | .br dist => Sys2Proof.Machine.execBr dist s
  | .call dist => Sys2Proof.Machine.execCall dist s
  | .jr b => Sys2Proof.Machine.execJr b s
  | .callr b => Sys2Proof.Machine.execCallr b s
  | .ret => Sys2Proof.Machine.execRet s
  | .nop => Sys2Proof.Machine.execNop s
  | .brk => Sys2Proof.Machine.execBrk s
  | .fadd w m a c b => Sys2Proof.Machine.execFadd w m a c b s
  | .fsub w m a c b => Sys2Proof.Machine.execFsub w m a c b s
  | .fmul w m a c b => Sys2Proof.Machine.execFmul w m a c b s
  | .fdiv w m a c b => Sys2Proof.Machine.execFdiv w m a c b s
  | .fmin w a c b => Sys2Proof.Machine.execFmin w a c b s
  | .fmax w a c b => Sys2Proof.Machine.execFmax w a c b s
  | .fsqrt w m a b => Sys2Proof.Machine.execFsqrt w m a b s
  | .fma w m a c b => Sys2Proof.Machine.execFma w m a c b s
  | .fms w m a c b => Sys2Proof.Machine.execFms w m a c b s
  | .fnma w m a c b => Sys2Proof.Machine.execFnma w m a c b s
  | .fnms w m a c b => Sys2Proof.Machine.execFnms w m a c b s
  | .feq w a c b => Sys2Proof.Machine.execFeq w a c b s
  | .flt w a c b => Sys2Proof.Machine.execFlt w a c b s
  | .fle w a c b => Sys2Proof.Machine.execFle w a c b s
  | .funord w a c b => Sys2Proof.Machine.execFunord w a c b s
  | .fclass w a b => Sys2Proof.Machine.execFclass w a b s
  | .fabs w a b => Sys2Proof.Machine.execFabs w a b s
  | .fneg w a b => Sys2Proof.Machine.execFneg w a b s
  | .fsign w a c b => Sys2Proof.Machine.execFsign w a c b s
  | .fcvtF2i w rnd a b => Sys2Proof.Machine.execFcvtF2i w rnd a b s
  | .fcvtF2n w rnd a b => Sys2Proof.Machine.execFcvtF2n w rnd a b s
  | .fcvtI2f w m a b => Sys2Proof.Machine.execFcvtI2f w m a b s
  | .fcvtN2f w m a b => Sys2Proof.Machine.execFcvtN2f w m a b s
  | .fcvtFf w src m a b => Sys2Proof.Machine.execFcvtFf w src m a b s
  | .fcvtF2e w e m a b => Sys2Proof.Machine.execFcvtF2e w e m a b s
  | .fcvtE2f w e a b => Sys2Proof.Machine.execFcvtE2f w e a b s
  | .vadd t m a c b k => Sys2Proof.Machine.execVadd t m a c b k s
  | .vsub t m a c b k => Sys2Proof.Machine.execVsub t m a c b k s
  | .vmul t m a c b k => Sys2Proof.Machine.execVmul t m a c b k s
  | .vmin t a c b k => Sys2Proof.Machine.execVmin t a c b k s
  | .vmax t a c b k => Sys2Proof.Machine.execVmax t a c b k s
  | .vand a c b k => Sys2Proof.Machine.execVand a c b k s
  | .vor a c b k => Sys2Proof.Machine.execVor a c b k s
  | .vxor a c b k => Sys2Proof.Machine.execVxor a c b k s
  | .vshl a c b k => Sys2Proof.Machine.execVshl a c b k s
  | .vshr a c b k => Sys2Proof.Machine.execVshr a c b k s
  | .vsar a c b k => Sys2Proof.Machine.execVsar a c b k s
  | .vabs t a b k => Sys2Proof.Machine.execVabs t a b k s
  | .vneg t a b k => Sys2Proof.Machine.execVneg t a b k s
  | .vdiv t m a c b k => Sys2Proof.Machine.execVdiv t m a c b k s
  | .vsqrt m a b k => Sys2Proof.Machine.execVsqrt m a b k s
  | .vfma t m a c b k => Sys2Proof.Machine.execVfma t m a c b k s
  | .vfms t m a c b k => Sys2Proof.Machine.execVfms t m a c b k s
  | .vfnma t m a c b k => Sys2Proof.Machine.execVfnma t m a c b k s
  | .vfnms t m a c b k => Sys2Proof.Machine.execVfnms t m a c b k s
  | .vceq t a c b k => Sys2Proof.Machine.execVceq t a c b k s
  | .vcne t a c b k => Sys2Proof.Machine.execVcne t a c b k s
  | .vclt t a c b k => Sys2Proof.Machine.execVclt t a c b k s
  | .vcle t a c b k => Sys2Proof.Machine.execVcle t a c b k s
  | .vsel a c b d k => Sys2Proof.Machine.execVsel a c b d k s
  | .vmov a b k => Sys2Proof.Machine.execVmov a b k s
  | .vbcast a b k => Sys2Proof.Machine.execVbcast a b k s
  | .vins a b n => Sys2Proof.Machine.execVins a b n s
  | .vext t a b n => Sys2Proof.Machine.execVext t a b n s
  | .viota a b k => Sys2Proof.Machine.execViota a b k s
  | .vperm a c b k => Sys2Proof.Machine.execVperm a c b k s
  | .vradd t rnd a b k => Sys2Proof.Machine.execVradd t rnd a b k s
  | .vrmin t a b k => Sys2Proof.Machine.execVrmin t a b k s
  | .vrmax t a b k => Sys2Proof.Machine.execVrmax t a b k s
  | .vrand a b k => Sys2Proof.Machine.execVrand a b k s
  | .vror a b k => Sys2Proof.Machine.execVror a b k s
  | .vscan t rnd a b k => Sys2Proof.Machine.execVscan t rnd a b k s
  | .vexp2 m a b k => Sys2Proof.Machine.execVexp2 m a b k s
  | .vlog2 m a b k => Sys2Proof.Machine.execVlog2 m a b k s
  | .vrcp m a b k => Sys2Proof.Machine.execVrcp m a b k s
  | .vrsq m a b k => Sys2Proof.Machine.execVrsq m a b k s
  | .vtanh m a b k => Sys2Proof.Machine.execVtanh m a b k s
  | .vsigm m a b k => Sys2Proof.Machine.execVsigm m a b k s
  | .vcvtF2s rnd a b k => Sys2Proof.Machine.execVcvtF2s rnd a b k s
  | .vcvtS2f m a b k => Sys2Proof.Machine.execVcvtS2f m a b k s
  | .vcvtF2n rnd a b k => Sys2Proof.Machine.execVcvtF2n rnd a b k s
  | .vcvtN2f m a b k => Sys2Proof.Machine.execVcvtN2f m a b k s
  | .vcvtFrnd rnd a b k => Sys2Proof.Machine.execVcvtFrnd rnd a b k s
  | .vcvtF2bf m a b k => Sys2Proof.Machine.execVcvtF2bf m a b k s
  | .vcvtF2e4 m a b k => Sys2Proof.Machine.execVcvtF2e4 m a b k s
  | .vcvtF2e5 m a b k => Sys2Proof.Machine.execVcvtF2e5 m a b k s
  | .vld a b imm rlx k => Sys2Proof.Machine.execVld a b imm rlx k s
  | .vst a b imm rlx k => Sys2Proof.Machine.execVst a b imm rlx k s
  | .vldx a b c k => Sys2Proof.Machine.execVldx a b c k s
  | .vstx a b c k => Sys2Proof.Machine.execVstx a b c k s
  | .vldb a b imm rlx k => Sys2Proof.Machine.execVldb a b imm rlx k s
  | .vldt a t b k => Sys2Proof.Machine.execVldt a t b k s
  | .vstt a t b k => Sys2Proof.Machine.execVstt a t b k s
  | .mand a c b => Sys2Proof.Machine.execMand a c b s
  | .mor a c b => Sys2Proof.Machine.execMor a c b s
  | .mxor a c b => Sys2Proof.Machine.execMxor a c b s
  | .mnot a b => Sys2Proof.Machine.execMnot a b s
  | .mpop a b => Sys2Proof.Machine.execMpop a b s
  | .mfirst a b => Sys2Proof.Machine.execMfirst a b s
  | .mset a b => Sys2Proof.Machine.execMset a b s
  | .mget a b => Sys2Proof.Machine.execMget a b s
  | .sbind s1 b c => Sys2Proof.Machine.execSbind s1 b c s
  | .sunbind s1 => Sys2Proof.Machine.execSunbind s1 s
  | .srem a s1 => Sys2Proof.Machine.execSrem a s1 s
  | .bstr s1 b => Sys2Proof.Machine.execBstr s1 b s
  | .send a b n => Sys2Proof.Machine.execSend a b n s
  | .sendR a b n => Sys2Proof.Machine.execSendR a b n s
  | .sendm a b n d => Sys2Proof.Machine.execSendm a b n d s
  | .sendg a b n => Sys2Proof.Machine.execSendg a b n s
  | .fork a b n => Sys2Proof.Machine.execFork a b n s
  | .sendc a b n => Sys2Proof.Machine.execSendc a b n s
  | .sendv a b n => Sys2Proof.Machine.execSendv a b n s
  | .sendQ a b n d => Sys2Proof.Machine.execSendQ a b n d s
  | .chset a c b => Sys2Proof.Machine.execChset a c b s
  | .chget a c b => Sys2Proof.Machine.execChget a c b s
  | .chclr a c => Sys2Proof.Machine.execChclr a c s
  | .patset a c b => Sys2Proof.Machine.execPatset a c b s
  | .patclr a c => Sys2Proof.Machine.execPatclr a c s
  | .patget a c b => Sys2Proof.Machine.execPatget a c b s
  | .exit => Sys2Proof.Machine.execExit s
  | .exitf a => Sys2Proof.Machine.execExitf a s
  | .amoadd z a b c => Sys2Proof.Machine.execAmoadd z a b c s
  | .amoand z a b c => Sys2Proof.Machine.execAmoand z a b c s
  | .amoor z a b c => Sys2Proof.Machine.execAmoor z a b c s
  | .amoxor z a b c => Sys2Proof.Machine.execAmoxor z a b c s
  | .amomin z a b c => Sys2Proof.Machine.execAmomin z a b c s
  | .amomax z a b c => Sys2Proof.Machine.execAmomax z a b c s
  | .amoswap z a b c => Sys2Proof.Machine.execAmoswap z a b c s
  | .amocas z a b c d => Sys2Proof.Machine.execAmocas z a b c d s
  | .amofadd a b c => Sys2Proof.Machine.execAmofadd a b c s
  | .amofadd64 a b c => Sys2Proof.Machine.execAmofadd64 a b c s
  | .amominn z a b c => Sys2Proof.Machine.execAmominn z a b c s
  | .amomaxn z a b c => Sys2Proof.Machine.execAmomaxn z a b c s
  | .vamoadd t a b k => Sys2Proof.Machine.execVamoadd t a b k s
  | .vamoaddi t a b c k => Sys2Proof.Machine.execVamoaddi t a b c k s
  | .wait l s1 e m => Sys2Proof.Machine.execWait l s1 e m s
  | .tset a c b => Sys2Proof.Machine.execTset a c b s
  | .trel a t => Sys2Proof.Machine.execTrel a t s
  | .tstat a t => Sys2Proof.Machine.execTstat a t s
  | .twait t cond => Sys2Proof.Machine.execTwait t cond s
  | .subscr a b => Sys2Proof.Machine.execSubscr a b s
  | .unsub a b => Sys2Proof.Machine.execUnsub a b s
  | .fstat a b => Sys2Proof.Machine.execFstat a b s
  | .mxm a b => Sys2Proof.Machine.execMxm a b s
  | .mxz => Sys2Proof.Machine.execMxz s
  | .mxd a b => Sys2Proof.Machine.execMxd a b s
  | .mxstat a => Sys2Proof.Machine.execMxstat a s
  | .drnld a c b => Sys2Proof.Machine.execDrnld a c b s
  | .adpinv b => Sys2Proof.Machine.execAdpinv b s
  | .csrr a csr => Sys2Proof.Machine.execCsrr a csr s
  | .csrw a csr => Sys2Proof.Machine.execCsrw a csr s
  | .csrset a csr => Sys2Proof.Machine.execCsrset a csr s
  | .csrclr a csr => Sys2Proof.Machine.execCsrclr a csr s
  | .trap imm => Sys2Proof.Machine.execTrap imm s
  | .rte => Sys2Proof.Machine.execRte s
  | .kill a => Sys2Proof.Machine.execKill a s
  | .iinv b => Sys2Proof.Machine.execIinv b s
  | .tktq a b => Sys2Proof.Machine.execTktq a b s
  | .lateTrapTaken site slot => Sys2Proof.Machine.execLateTrapTaken site slot s
  | .step site slot => Sys2Proof.Machine.execStep site slot s
  | .unassignedEncoding cause tval => Sys2Proof.Machine.execUnassignedEncoding cause tval s
  | .discWrite die v => Sys2Proof.Machine.execDiscWrite die v s
  | .mapwWrite die v => Sys2Proof.Machine.execMapwWrite die v s
  | .mapgoWrite die v => Sys2Proof.Machine.execMapgoWrite die v s
  | .mapInstall pkt => Sys2Proof.Machine.execMapInstall pkt s
  | .mapNotice die => Sys2Proof.Machine.execMapNotice die s
  | .diebaseWrite v => Sys2Proof.Machine.execDiebaseWrite v s
  | .powerOn failed darkDies => Sys2Proof.Machine.execPowerOn failed darkDies s
  | .bootCommand site => Sys2Proof.Machine.execBootCommand site s
  | .bodyStart site => Sys2Proof.Machine.execBodyStart site s
  | .slotRelease site slot => Sys2Proof.Machine.execSlotRelease site slot s
  | .lineFillAnswer pkt => Sys2Proof.Machine.execLineFillAnswer pkt s
  | .loadResponse pkt => Sys2Proof.Machine.execLoadResponse pkt s
  | .acknowledgement pkt => Sys2Proof.Machine.execAcknowledgement pkt s
  | .snapshotRelease site => Sys2Proof.Machine.execSnapshotRelease site s
  | .requestPerform pkt => Sys2Proof.Machine.execRequestPerform pkt s
  | .messageArrival pkt => Sys2Proof.Machine.execMessageArrival pkt s
  | .overflowReturn site chan => Sys2Proof.Machine.execOverflowReturn site chan s
  | .fire site => Sys2Proof.Machine.execFire site s
  | .steal site => Sys2Proof.Machine.execSteal site s
  | .stealRequest pkt => Sys2Proof.Machine.execStealRequest pkt s
  | .stealReply pkt => Sys2Proof.Machine.execStealReply pkt s
  | .gangGrant site => Sys2Proof.Machine.execGangGrant site s
  | .nightfall part => Sys2Proof.Machine.execNightfall part s
  | .slotSpill site => Sys2Proof.Machine.execSlotSpill site s
  | .slotSpillDone site slot => Sys2Proof.Machine.execSlotSpillDone site slot s
  | .slotRestore site => Sys2Proof.Machine.execSlotRestore site s
  | .ticketAnswer pkt => Sys2Proof.Machine.execTicketAnswer pkt s
  | .replayNotice pkt => Sys2Proof.Machine.execReplayNotice pkt s
  | .failureNotice pkt => Sys2Proof.Machine.execFailureNotice pkt s
  | .atsResponse ferry rec answer => Sys2Proof.Machine.execAtsResponse ferry rec answer s
  | .priResponse ferry rec answer => Sys2Proof.Machine.execPriResponse ferry rec answer s
  | .ticketLimitExpiry ferry rec => Sys2Proof.Machine.execTicketLimitExpiry ferry rec s
  | .atsInvalidation ferry pasid va log2 => Sys2Proof.Machine.execAtsInvalidation ferry pasid va log2 s
  | .lateRefusal pkt => Sys2Proof.Machine.execLateRefusal pkt s
  | .twinExchange site slot => Sys2Proof.Machine.execTwinExchange site slot s
  | .ferrySubscribe pkt => Sys2Proof.Machine.execFerrySubscribe pkt s
  | .handleReply pkt => Sys2Proof.Machine.execHandleReply pkt s
  | .deferredPoll ferry entry => Sys2Proof.Machine.execDeferredPoll ferry entry s
  | .deferredRead ferry entry => Sys2Proof.Machine.execDeferredRead ferry entry s
  | .ferryTileStart ferry entry => Sys2Proof.Machine.execFerryTileStart ferry entry s
  | .segmentAnswer ferry entry pkt => Sys2Proof.Machine.execSegmentAnswer ferry entry pkt s
  | .fixupReplay pkt => Sys2Proof.Machine.execFixupReplay pkt s
  | .unsubAtFerry pkt => Sys2Proof.Machine.execUnsubAtFerry pkt s
  | .fstatAtFerry pkt => Sys2Proof.Machine.execFstatAtFerry pkt s
  | .leaseGrant cluster => Sys2Proof.Machine.execLeaseGrant cluster s
  | .blockFold site => Sys2Proof.Machine.execBlockFold site s
  | .adapterFetch cluster pkt => Sys2Proof.Machine.execAdapterFetch cluster pkt s
  | .mxzAtHead site => Sys2Proof.Machine.execMxzAtHead site s
  | .adpinvAtHead site => Sys2Proof.Machine.execAdpinvAtHead site s
  | .drainStart cluster => Sys2Proof.Machine.execDrainStart cluster s
  | .drainGroupCommit cluster => Sys2Proof.Machine.execDrainGroupCommit cluster s
  | .migration src dst => Sys2Proof.Machine.execMigration src dst s
  | .migrationStream src => Sys2Proof.Machine.execMigrationStream src s
  | .switchMarker pkt => Sys2Proof.Machine.execSwitchMarker pkt s
  | .forwarding pkt => Sys2Proof.Machine.execForwarding pkt s
  | .dusk part => Sys2Proof.Machine.execDusk part s
  | .partitionHalted part => Sys2Proof.Machine.execPartitionHalted part s
  | .dawn part place => Sys2Proof.Machine.execDawn part place s
  | .flr vf => Sys2Proof.Machine.execFlr vf s
  | .teardownCommand part => Sys2Proof.Machine.execTeardownCommand part s
  | .hostMessageWrite vf off bytes relaxed => Sys2Proof.Machine.execHostMessageWrite vf off bytes relaxed s
  | .bar4Access off acc => Sys2Proof.Machine.execBar4Access off acc s
  | .vfRegisterWrite vf off v => Sys2Proof.Machine.execVfRegisterWrite vf off v s
  | .hdrop vf v => Sys2Proof.Machine.execHdrop vf v s
  | .hrefuse vf v => Sys2Proof.Machine.execHrefuse vf v s
  | .attgo vf v => Sys2Proof.Machine.execAttgo vf v s
  | .msixRequest => Sys2Proof.Machine.execMsixRequest s
  | .invalidationMessage pkt => Sys2Proof.Machine.execInvalidationMessage pkt s
  | .ualinkMessageWrite port src order w => Sys2Proof.Machine.execUalinkMessageWrite port src order w s
  | .operationRecord port src order bytes => Sys2Proof.Machine.execOperationRecord port src order bytes s
  | .resultRecord port dev bytes => Sys2Proof.Machine.execResultRecord port dev bytes s
  | .linkDown port => Sys2Proof.Machine.execLinkDown port s
  | .ualinkTimeout port dev => Sys2Proof.Machine.execUalinkTimeout port dev s
  | .linkUp port => Sys2Proof.Machine.execLinkUp port s
  | .linkReset link => Sys2Proof.Machine.execLinkReset link s
  | .remoteLaunch die => Sys2Proof.Machine.execRemoteLaunch die s
  | .setcsr die => Sys2Proof.Machine.execSetcsr die s
  | .getcsr die => Sys2Proof.Machine.execGetcsr die s
  | .iinvService die => Sys2Proof.Machine.execIinvService die s
  | .nightch die => Sys2Proof.Machine.execNightch die s
  | .super die => Sys2Proof.Machine.execSuper die s
  | .load die src => Sys2Proof.Machine.execLoad die src s
  | .thermalStep celsius => Sys2Proof.Machine.execThermalStep celsius s
  | .lifetimeUpdate samples => Sys2Proof.Machine.execLifetimeUpdate samples s
  | .traceSample site => Sys2Proof.Machine.execTraceSample site s
  | .dbgctlWrite site v => Sys2Proof.Machine.execDbgctlWrite site v s
  | .partitionBuild part clusters pasids supcore twins => Sys2Proof.Machine.execPartitionBuild part clusters pasids supcore twins s
  | .powerLoss raised => Sys2Proof.Machine.execPowerLoss raised s
  | .mctpRequest req => Sys2Proof.Machine.execMctpRequest req s
  | .badservice die => Sys2Proof.Machine.execBadservice die s
  | .ualinkReadWrite port src order addr acc => Sys2Proof.Machine.execUalinkReadWrite port src order addr acc s
  | .ualinkCompletion port dev tag status => Sys2Proof.Machine.execUalinkCompletion port dev tag status s
  | .entryLanding pkt => Sys2Proof.Machine.execEntryLanding pkt s
  | .creditReturn link pkt inc => Sys2Proof.Machine.execCreditReturn link pkt inc s

end Sys2Proof.Machine
end

