-- ==== Sys2Proof/Safety.lean ====
section
/-! DEFINITION. Safety.lean: what a well-kept state is, and the terms the statements use: readiness of registers, the state a retired
instruction leaves, and the spec's operand tables as results. -/

namespace Sys2Proof

open Machine

/-- Every memory of the machine keeps its canonical form. -/
def memoriesWf (s : State) : Bool :=
  Mem.wf s.mem && s.cores.all fun c => Mem.wf c.2.spad

namespace Terms

/-- None of the registers awaits a load in the current slot (R11, R12). -/
def xReady (s : State) (rs : List XReg) : Prop := ∀ r ∈ rs, pendingX (curSlot s) r = false
def vReady (s : State) (rs : List VReg) : Prop := ∀ r ∈ rs, pendingV (curSlot s) r = false

/-- None of the vector registers is a bound stream (R108). -/
def unbound (s : State) (rs : List VReg) : Prop := ∀ r ∈ rs, streamOf (curSlot s) r = none

/-- The activation is neither replayable nor a twin: an irrevocable operation has nothing to release or exchange (R306, R309). -/
def plainAct (s : State) : Prop := (curSlot s).replayable = false ∧ (curSlot s).twin = none

/-- The scratchpad words that the byte ranges touch have no bit error (R14). -/
def sound (c : Core) (rs : List (Nat × Nat)) : Prop :=
  ∀ r ∈ rs, ∀ k ∈ wordsOf r.1 r.2, k ∉ c.spadUE ∧ k ∉ c.spadCE

/-- The program counter of the next instruction in stream order (R21). -/
def fallThrough (s : State) : Word := streamStep (curSlot s).pc (curSlot s).ilen

/-- The state in which the current slot has retired an instruction that leaves its core as `c` and its context as `sl`: the next
program counter, the slot ready, one more instruction retired (R310) and counted (R325), the result words in the fingerprint (R310),
a STEP owed or not (R319; one already owed stays so). Nothing else differs from s. -/
def retired (s : State) (c : Core) (sl : Slot) (pc : Word) (ws : List Word) : State :=
  setCore s s.cur.1
    { c with
      slots := (curCore s).slots.set s.cur.2
        { sl with pc := pc, mode := .run, retired := sl.retired + 1, fprint := ws.foldl (fun f w => f.rotateLeft 5 ^^^ w) sl.fprint,
                  folds := sl.folds + ws.length, stepOwed := sl.stepOwed || owesStep c s.cur.2 sl },
      events := c.events.set 0 (c.events[0] + 1) }

/-- The same, with the instruction after it next and the core otherwise as it was. -/
def finish (s : State) (sl : Slot) (ws : List Word) : State := retired s (curCore s) sl (fallThrough s) ws

-- Numbers as rationals: what a pattern stands for and which neighbour Round takes, apart from the model's own arithmetic

/-- The magnitude that the bits below the sign stand for, subnormals first, as if exponents had no end (R50, R54). Successive patterns are
successive values. -/
def mag (f : FFmt) (b : Nat) : ℚ :=
  if b < 2 ^ f.frac then b * 2 ^ (f.emin - f.frac)
  else (2 ^ f.frac + b % 2 ^ f.frac : Nat) * 2 ^ (((b / 2 ^ f.frac : Nat) : Int) - f.bias - f.frac)

/-- The magnitude of a finite value. -/
def size : FVal → ℚ
  | .num _ m e => m * 2 ^ e
  | _ => 0

/-- A value with its sign. -/
def signedSize (x : FVal) : ℚ := match x with | .num true _ _ => -size x | _ => size x

/-- Round takes the neighbour farther from zero of a magnitude x from lo up to hi: nearest with ties to the even one, by the sign, or by
the number r of R56. `odd` says that lo's last significand bit is 1 (R54, R56). -/
def away (rnd : Rnd) (r : Nat) (neg odd : Bool) (lo hi x : ℚ) : Bool :=
  match rnd with
  | .rz => false
  | .rd => neg && decide (lo < x)
  | .ru => !neg && decide (lo < x)
  | .rne => decide (lo + hi < 2 * x) || (decide (lo + hi = 2 * x) && odd)
  | .rs => decide ((r : Int) < ⌊(x - lo) / (hi - lo) * 2 ^ 32⌋)

/-- The neighbours without subnormal spacing: k and its unit 2^j, with as many bits as the format's precision has (R59). -/
def precise (f : FFmt) (k : Nat) (j : Int) (x : ℚ) : Prop :=
  2 ^ f.frac ≤ k ∧ k < 2 ^ (f.frac + 1) ∧ (k : ℚ) * 2 ^ j ≤ x ∧ x < (k + 1 : ℚ) * 2 ^ j

/-- A magnitude x is what `m`, `e` and the sticky bit of an exact result stand for. Where the sticky bit is set more bits are known than any
rounding looks at. -/
def standsFor (f : FFmt) (m : Nat) (e : Int) (st : Bool) (x : ℚ) : Prop :=
  0 < m ∧ if st then 2 ^ (f.frac + 34) ≤ m ∧ (m : ℚ) * 2 ^ e < x ∧ x < (m + 1 : ℚ) * 2 ^ e else x = m * 2 ^ e

/-- A magnitude that is the quotient or root y by f: the bits known of it, and whether there are more (R68, R87). -/
def holdsOf (f : ℚ → ℚ) (m : Nat) (e : Int) (st : Bool) (y : ℚ) : Prop :=
  f (m * 2 ^ e) ≤ y ∧ y < f ((m + 1) * 2 ^ e) ∧ (st = false ↔ f (m * 2 ^ e) = y) ∧ 2 ^ 100 ≤ m

/-- The overflow table of R55: which infinite or largest pattern. -/
def overflowed (f : FFmt) (m : RMod) (neg : Bool) : Nat :=
  (if neg then 2 ^ (f.ebits + f.frac) else 0) +
    (if f.hasInf ∧ m.sat = false ∧ (m.rnd = .rne ∨ m.rnd = .rs ∨ (m.rnd = .rd ∧ neg = true) ∨ (m.rnd = .ru ∧ neg = false)) then f.infBits
      else f.maxBits)

-- Windows (R61 to R63, R163 to R168)

/-- The code values of R62, for types S4, E2M1, P4 and H4. -/
def codeValues : List (List ℚ) :=
  [[0, 1, 2, 3, 4, 5, 6, 7, -8, -7, -6, -5, -4, -3, -2, -1],
   [0, 1/2, 1, 3/2, 2, 3, 4, 6, 0, -1/2, -1, -3/2, -2, -3, -4, -6],
   [0, 1, 2, 4, 8, 16, 32, 64, 0, -1, -2, -4, -8, -16, -32, -64],
   [0, 1, 2, 3, 4, 6, 8, 16, 0, -1, -2, -3, -4, -6, -8, -16]]

/-- The value of a code under a scale byte, without its scale. -/
def codeValue (scale code : Nat) : ℚ := ((codeValues[scale / 64]?).bind fun l => l[code]?).getD 0

/-- The code is the encoding of y under a scale byte: of the codes but negative zero it is the nearest, on a tie the one whose magnitude index is
even (R63). -/
def encodes (scale : Nat) (y : ℚ) (code : Nat) : Prop :=
  code < 16 ∧ (64 ≤ scale → code ≠ 8) ∧ ∀ d < 16, (64 ≤ scale → d ≠ 8) → d ≠ code →
    |y - codeValue scale code| < |y - codeValue scale d| ∨ (|y - codeValue scale code| = |y - codeValue scale d| ∧ code % 2 = 0)

/-- A pattern of FP32 that stands exactly for a value of a sign. -/
def isValue (b : Nat) (neg : Bool) (x : ℚ) : Prop := ∃ m e, valOf fp32 b = .num neg m e ∧ signedSize (.num neg m e) = x

/-- The integer nearest to y, the even one on a tie (R166). -/
def nearestInt (y : ℚ) (q : Int) : Prop := |y - q| < 1 / 2 ∨ (|y - q| = 1 / 2 ∧ q % 2 = 0)

/-- The exponent byte of a group before any step up: above it no element needs a higher one, and below it one does (R166). -/
def topByte (vs : List FVal) (x : Nat) : Prop :=
  x ≤ 254 ∧ (x < 254 → ∀ v ∈ vs, size v < 2 ^ ((x : Int) - 126)) ∧ (0 < x → ∃ v ∈ vs, (2 : ℚ) ^ ((x : Int) - 127) ≤ size v)

/-- The aligned integers of a group of depth d under an exponent byte (R165, R166). -/
def alignedTo (d : Nat) (vs : List FVal) (x : Nat) (q : List Int) : Prop :=
  q.length = vs.length ∧ ∀ e ∈ vs.zip q, nearestInt (signedSize e.1 * 2 ^ (127 + (d : Int) - 2 - x)) e.2

/-- One finite or infinite value lies below another; a NaN is unordered, and −0 equals +0 (R53). -/
def below (x y : FVal) : Prop :=
  match x, y with
  | .inf a, .inf b => a = true ∧ b = false
  | .inf a, .num _ _ _ => a = true
  | .num _ _ _, .inf b => b = false
  | .num _ _ _, .num _ _ _ => signedSize x < signedSize y
  | _, _ => False

/-- The value of the first entry of a list whose condition holds, or else d: how a status is the lowest code that applies. -/
def lowest {α : Type} : List (α × Prop) → α → α → Prop
  | [], d, v => v = d
  | e :: l, d, v => (e.2 ∧ v = e.1) ∨ (¬e.2 ∧ lowest l d v)

/-- The bytes of a group of a tile, and the format its window takes, by window (R198). -/
def groupBytes (w : Nat) : Nat := ([128, 64, 32, 32, 64, 64, 128, 128, 16, 32, 32, 64, 16, 32][w]?).getD 32
def windowFormat (w : Nat) : Nat := ([0, 1, 2, 3, 4, 5, 6, 7, 3, 4, 5, 6, 2, 1][w]?).getD w
/-- The bytes that addresses and strides of a subscription are multiples of, by format (R206). -/
def formatAlign (f : Nat) : Nat := ([4, 1, 16, 16, 1, 1, 2, 4][f]?).getD 1

-- Results, from the spec's tables. `x` reads a scalar register; an entry gives the destination, the registers the instruction waits
-- for, and the result.

/-- The integer instructions of page 0 (R72, R73) with the edge cases of R65. -/
def intResult (x : XReg → Word) : Instr → Option (XReg × List XReg × Word)
  | .add a c b => some (a, [a, c, b], x c + x b)
  | .sub a c b => some (a, [a, c, b], x c - x b)
  | .and a c b => some (a, [a, c, b], x c &&& x b)
  | .or a c b => some (a, [a, c, b], x c ||| x b)
  | .xor a c b => some (a, [a, c, b], x c ^^^ x b)
  | .andn a c b => some (a, [a, c, b], x c &&& ~~~ x b)
  | .orn a c b => some (a, [a, c, b], x c ||| ~~~ x b)
  | .xnor a c b => some (a, [a, c, b], ~~~ (x c ^^^ x b))
  | .shl a c b => some (a, [a, c, b], x c <<< ((x b).toNat % 64))
  | .shr a c b => some (a, [a, c, b], x c >>> ((x b).toNat % 64))
  | .sar a c b => some (a, [a, c, b], (x c).sshiftRight ((x b).toNat % 64))
  | .rol a c b => some (a, [a, c, b], (x c).rotateLeft ((x b).toNat % 64))
  | .ror a c b => some (a, [a, c, b], (x c).rotateRight ((x b).toNat % 64))
  | .min a c b => some (a, [a, c, b], if (x c).toInt < (x b).toInt then x c else x b)
  | .max a c b => some (a, [a, c, b], if (x c).toInt < (x b).toInt then x b else x c)
  | .minn a c b => some (a, [a, c, b], if (x c).toNat < (x b).toNat then x c else x b)
  | .maxn a c b => some (a, [a, c, b], if (x c).toNat < (x b).toNat then x b else x c)
  | .mul a c b => some (a, [a, c, b], BitVec.ofInt 64 ((x c).toInt * (x b).toInt))
  | .mulh a c b => some (a, [a, c, b], BitVec.ofInt 64 ((x c).toInt * (x b).toInt / 2 ^ 64))
  | .mulhn a c b => some (a, [a, c, b], BitVec.ofNat 64 ((x c).toNat * (x b).toNat / 2 ^ 64))
  | .div a c b => some (a, [a, c, b], if x b = 0 then BitVec.allOnes 64 else (x c).sdiv (x b))
  | .divn a c b => some (a, [a, c, b], if x b = 0 then BitVec.allOnes 64 else BitVec.ofNat 64 ((x c).toNat / (x b).toNat))
  | .rem a c b => some (a, [a, c, b], if x b = 0 then x c else (x c).srem (x b))
  | .remn a c b => some (a, [a, c, b], if x b = 0 then x c else BitVec.ofNat 64 ((x c).toNat % (x b).toNat))
  | .seq a c b => some (a, [a, c, b], if x c = x b then 1 else 0)
  | .sne a c b => some (a, [a, c, b], if x c = x b then 0 else 1)
  | .slt a c b => some (a, [a, c, b], if (x c).toInt < (x b).toInt then 1 else 0)
  | .sltn a c b => some (a, [a, c, b], if (x c).toNat < (x b).toNat then 1 else 0)
  | .sle a c b => some (a, [a, c, b], if (x b).toInt < (x c).toInt then 0 else 1)
  | .slen a c b => some (a, [a, c, b], if (x b).toNat < (x c).toNat then 0 else 1)
  | .sel a c b d => some (a, [a, c, b, d], if x d = 0 then x b else x c)
  | .clz a b => some (a, [a, b], (x b).clz)
  | .ctz a b => some (a, [a, b], (x b).reverse.clz)
  | .popc a b => some (a, [a, b], BitVec.ofNat 64 ((List.finRange 64).countP fun i => (x b).getLsbD i.val))
  | .brev a b => some (a, [a, b], (x b).reverse)
  | .bswap a b => some (a, [a, b],
      (x b).extractLsb' 0 8 ++ (x b).extractLsb' 8 8 ++ (x b).extractLsb' 16 8 ++ (x b).extractLsb' 24 8 ++
        (x b).extractLsb' 32 8 ++ (x b).extractLsb' 40 8 ++ (x b).extractLsb' 48 8 ++ (x b).extractLsb' 56 8)
  | .sext w a b => some (a, [a, b],
      match w with
      | .b => ((x b).setWidth 8).signExtend 64
      | .h => ((x b).setWidth 16).signExtend 64
      | .w => ((x b).setWidth 32).signExtend 64)
  | .zext w a b => some (a, [a, b],
      match w with
      | .b => ((x b).setWidth 8).setWidth 64
      | .h => ((x b).setWidth 16).setWidth 64
      | .w => ((x b).setWidth 32).setWidth 64)
  | .mov a b => some (a, [a, b], x b)
  | .addi a b i => some (a, [a, b], BitVec.ofInt 64 ((x b).toInt + i))
  | .li a i => some (a, [a], BitVec.ofInt 64 i)
  | .andi a b i => some (a, [a, b], x b &&& BitVec.ofInt 64 i)
  | .ori a b i => some (a, [a, b], x b ||| BitVec.ofInt 64 i)
  | .xori a b i => some (a, [a, b], x b ^^^ BitVec.ofInt 64 i)
  | .shli a b n => some (a, [a, b], x b <<< n.val)
  | .shri a b n => some (a, [a, b], x b >>> n.val)
  | .sari a b n => some (a, [a, b], (x b).sshiftRight n.val)
  | .rori a b n => some (a, [a, b], (x b).rotateRight n.val)
  | _ => none

/-- The scalar floating-point instructions of page 1 (R87, R88, R90, R91): x = C, y = B and, in fused forms, z = A. The result bits and
the flags and generator after the roundings, which start from `e`. -/
def fpResult (x : XReg → Word) (e : FEnv) : Instr → Option (XReg × List XReg × Nat × FEnv)
  | .fadd w m a c b => some (a, [a, c, b], roundOne (fmtOf w) m (exAdd (m.rnd == .rd) (val w (x c)) (val w (x b))) e)
  | .fsub w m a c b => some (a, [a, c, b], roundOne (fmtOf w) m (exAdd (m.rnd == .rd) (val w (x c)) (val w (x b)).neg) e)
  | .fmul w m a c b => some (a, [a, c, b], roundOne (fmtOf w) m (exMul (val w (x c)) (val w (x b))) e)
  | .fdiv w m a c b => some (a, [a, c, b], roundOne (fmtOf w) m (exDiv (val w (x c)) (val w (x b))) e)
  | .fsqrt w m a b => some (a, [a, b], roundOne (fmtOf w) m (exSqrt (val w (x b))) e)
  | .fma w m a c b => some (a, [a, c, b], roundOne (fmtOf w) m (exFma (m.rnd == .rd) false false (val w (x c)) (val w (x b)) (val w (x a))) e)
  | .fms w m a c b => some (a, [a, c, b], roundOne (fmtOf w) m (exFma (m.rnd == .rd) false true (val w (x c)) (val w (x b)) (val w (x a))) e)
  | .fnma w m a c b => some (a, [a, c, b], roundOne (fmtOf w) m (exFma (m.rnd == .rd) true true (val w (x c)) (val w (x b)) (val w (x a))) e)
  | .fnms w m a c b => some (a, [a, c, b], roundOne (fmtOf w) m (exFma (m.rnd == .rd) true false (val w (x c)) (val w (x b)) (val w (x a))) e)
  | .fmin w a c b => some (a, [a, c, b], minBits (fmtOf w) (pat w (x c)) (pat w (x b)), e)
  | .fmax w a c b => some (a, [a, c, b], maxBits (fmtOf w) (pat w (x c)) (pat w (x b)), e)
  | .feq w a c b => some (a, [a, c, b], if fvEq (val w (x c)) (val w (x b)) then 1 else 0, e)
  | .flt w a c b => some (a, [a, c, b], if fvLt (val w (x c)) (val w (x b)) then 1 else 0,
      if (val w (x c)).isNan ∨ (val w (x b)).isNan then raise e fNV else e)
  | .fle w a c b => some (a, [a, c, b], if fvLe (val w (x c)) (val w (x b)) then 1 else 0,
      if (val w (x c)).isNan ∨ (val w (x b)).isNan then raise e fNV else e)
  | .funord w a c b => some (a, [a, c, b], if (val w (x c)).isNan ∨ (val w (x b)).isNan then 1 else 0, e)
  | .fclass w a b => some (a, [a, b], classOf (fmtOf w) (pat w (x b)), e)
  | .fabs w a b => some (a, [a, b], if (val w (x b)).isNan then pat w (x b) else pat w (x b) % (fmtOf w).signBit, e)
  | .fneg w a b => some (a, [a, b], if (val w (x b)).isNan then pat w (x b) else pat w (x b) ^^^ (fmtOf w).signBit, e)
  | .fsign w a c b => some (a, [a, c, b], if (val w (x c)).isNan then pat w (x c) else
      pat w (x c) % (fmtOf w).signBit + pat w (x b) / (fmtOf w).signBit * (fmtOf w).signBit, e)
  | .fcvtF2i w r a b =>
      let y := toInt r (-(2 ^ 63)) (2 ^ 63 - 1) (val w (x b)) e
      some (a, [a, b], (BitVec.ofInt 64 y.1).toNat, y.2)
  | .fcvtF2n w r a b =>
      let y := toInt r 0 (2 ^ 64 - 1) (val w (x b)) e
      some (a, [a, b], y.1.toNat, y.2)
  | .fcvtI2f w m a b => some (a, [a, b], roundOne (fmtOf w) m (exOk (intVal (x b).toInt)) e)
  | .fcvtN2f w m a b => some (a, [a, b], roundOne (fmtOf w) m (exOk (intVal (x b).toNat)) e)
  | .fcvtFf w src m a b => some (a, [a, b],
      if w = src then toIntegral (fmtOf w) m (val w (x b)) e
      else roundOne (fmtOf w) { m with sat := m.sat && !widens (fmtOf src) (fmtOf w) } (exOk (val src (x b))) e)
  | .fcvtF2e w t m a b => some (a, [a, b], roundOne (fmtE t) m (exOk (val w (x b))) e)
  | .fcvtE2f w t a b => some (a, [a, b], (roundRne (fmtOf w) (exOk (valOf (fmtE t) ((x b).toNat % 256)))).bits, e)
  | _ => none
where
  /-- The operand bits a width takes from its register, and their value (R85). -/
  pat (w : FWidth) (v : Word) : Nat := v.toNat % (match w with | .f64 => 2 ^ 64 | .f32 => 2 ^ 32 | _ => 2 ^ 16)
  val (w : FWidth) (v : Word) : FVal := valOf (fmtOf w) (pat w v)

/-- One active lane after another in ascending order (R58, R94): `g` gives each its new bits. The others keep theirs. -/
def laneRun (act : Mask32) (g : Fin 32 → FEnv → Nat × FEnv) (old : Lanes) (e : FEnv) : Lanes × FEnv :=
  (List.finRange 32).foldl
    (fun (r : Lanes × FEnv) (l : Fin 32) => if act.getLsbD l.val then ((r.1.set l (BitVec.ofNat 32 (g l r.2).1)), (g l r.2).2) else r) (old, e)

/-- An integer lane operation of R95 on the integers two lanes hold under a type: exact, clamped under .sat, else modulo 2^32. -/
def laneInteger (t : VTy) (sat : Bool) (f : Int → Int → Int) (c b : Lane) : Nat :=
  match t with
  | .s32 =>
    let v := f c.toInt b.toInt
    (BitVec.ofInt 32 (if sat then max (-(2 ^ 31)) (min v (2 ^ 31 - 1)) else v)).toNat
  | _ =>
    let v := f c.toNat b.toNat
    (BitVec.ofInt 32 (if sat then max 0 (min v (2 ^ 32 - 1)) else v)).toNat

/-- The vector instructions that work lane by lane under a mask (R95, R97, R99, R100): the destination, the scalar and vector registers
waited for, the mask, and what each active lane gets. `x` and `v` read registers, `mk` a mask register. -/
def laneResult (x : XReg → Word) (v : VReg → Lanes) (mk : MReg → Mask32) :
    Instr → Option (VReg × List XReg × List VReg × MReg × (Fin 32 → FEnv → Nat × FEnv))
  | .vadd t m a c b k => some (a, [], [a, c, b], k, fun l e => match t with
      | .f32 => roundOne fp32 m (exAdd (m.rnd == .rd) (fv (v c)[l]) (fv (v b)[l])) e
      | t => (laneInteger t m.sat (· + ·) (v c)[l] (v b)[l], e))
  | .vsub t m a c b k => some (a, [], [a, c, b], k, fun l e => match t with
      | .f32 => roundOne fp32 m (exAdd (m.rnd == .rd) (fv (v c)[l]) (fv (v b)[l]).neg) e
      | t => (laneInteger t m.sat (· - ·) (v c)[l] (v b)[l], e))
  | .vmul t m a c b k => some (a, [], [a, c, b], k, fun l e => match t with
      | .f32 => roundOne fp32 m (exMul (fv (v c)[l]) (fv (v b)[l])) e
      | t => (laneInteger t m.sat (· * ·) (v c)[l] (v b)[l], e))
  | .vdiv t m a c b k => some (a, [], [a, c, b], k, fun l e => match t with
      | .f32 => roundOne fp32 m (exDiv (fv (v c)[l]) (fv (v b)[l])) e
      | .s32 => (if (v b)[l] = 0 then 2 ^ 32 - 1 else ((v c)[l].sdiv (v b)[l]).toNat, e)
      | .n32 => (if (v b)[l] = 0 then 2 ^ 32 - 1 else (v c)[l].toNat / (v b)[l].toNat, e))
  | .vmin t a c b k => some (a, [], [a, c, b], k, fun l e => match t with
      | .f32 => (minBits fp32 (v c)[l].toNat (v b)[l].toNat, e)
      | .s32 => (if (v c)[l].toInt ≤ (v b)[l].toInt then (v c)[l].toNat else (v b)[l].toNat, e)
      | .n32 => (min (v c)[l].toNat (v b)[l].toNat, e))
  | .vmax t a c b k => some (a, [], [a, c, b], k, fun l e => match t with
      | .f32 => (maxBits fp32 (v c)[l].toNat (v b)[l].toNat, e)
      | .s32 => (if (v c)[l].toInt ≤ (v b)[l].toInt then (v b)[l].toNat else (v c)[l].toNat, e)
      | .n32 => (max (v c)[l].toNat (v b)[l].toNat, e))
  | .vand a c b k => some (a, [], [a, c, b], k, fun l e => (((v c)[l] &&& (v b)[l]).toNat, e))
  | .vor a c b k => some (a, [], [a, c, b], k, fun l e => (((v c)[l] ||| (v b)[l]).toNat, e))
  | .vxor a c b k => some (a, [], [a, c, b], k, fun l e => (((v c)[l] ^^^ (v b)[l]).toNat, e))
  | .vshl a c b k => some (a, [], [a, c, b], k, fun l e => (((v c)[l] <<< ((v b)[l].toNat % 32)).toNat, e))
  | .vshr a c b k => some (a, [], [a, c, b], k, fun l e => (((v c)[l] >>> ((v b)[l].toNat % 32)).toNat, e))
  | .vsar a c b k => some (a, [], [a, c, b], k, fun l e => (((v c)[l].sshiftRight ((v b)[l].toNat % 32)).toNat, e))
  | .vabs t a b k => some (a, [], [a, b], k, fun l e => match t with
      | .f32 => (if (fv (v b)[l]).isNan then (v b)[l].toNat else (v b)[l].toNat % 2 ^ 31, e)
      | _ => (if (v b)[l].toInt < 0 then (0 - (v b)[l]).toNat else (v b)[l].toNat, e))
  | .vneg t a b k => some (a, [], [a, b], k, fun l e => match t with
      | .f32 => (if (fv (v b)[l]).isNan then (v b)[l].toNat else ((v b)[l] ^^^ 0x80000000#32).toNat, e)
      | _ => ((0 - (v b)[l]).toNat, e))
  | .vsqrt m a b k => some (a, [], [a, b], k, fun l e => roundOne fp32 m (exSqrt (fv (v b)[l])) e)
  | .vfma t m a c b k => some (a, [], [a, c, b], k, fun l e => match t with
      | .f32 => roundOne fp32 m (exFma (m.rnd == .rd) false false (fv (v c)[l]) (fv (v b)[l]) (fv (v a)[l])) e
      | _ => (((v c)[l] * (v b)[l] + (v a)[l]).toNat, e))
  | .vfms t m a c b k => some (a, [], [a, c, b], k, fun l e => match t with
      | .f32 => roundOne fp32 m (exFma (m.rnd == .rd) false true (fv (v c)[l]) (fv (v b)[l]) (fv (v a)[l])) e
      | _ => (((v c)[l] * (v b)[l] - (v a)[l]).toNat, e))
  | .vfnma t m a c b k => some (a, [], [a, c, b], k, fun l e => match t with
      | .f32 => roundOne fp32 m (exFma (m.rnd == .rd) true true (fv (v c)[l]) (fv (v b)[l]) (fv (v a)[l])) e
      | _ => ((0 - (v c)[l] * (v b)[l] - (v a)[l]).toNat, e))
  | .vfnms t m a c b k => some (a, [], [a, c, b], k, fun l e => match t with
      | .f32 => roundOne fp32 m (exFma (m.rnd == .rd) true false (fv (v c)[l]) (fv (v b)[l]) (fv (v a)[l])) e
      | _ => (((v a)[l] - (v c)[l] * (v b)[l]).toNat, e))
  | .vsel a c b d k => some (a, [], [a, c, b], k, fun l e => (if (mk d).getLsbD l.val then (v c)[l].toNat else (v b)[l].toNat, e))
  | .vmov a b k => some (a, [], [a, b], k, fun l e => ((v b)[l].toNat, e))
  | .vbcast a b k => some (a, [b], [a], k, fun _ e => (((x b).setWidth 32).toNat, e))
  | .viota a b k => some (a, [], [a], k, fun l e => ((List.range l.val).countP fun i => (mk b).getLsbD i, e))
  | .vperm a c b k => some (a, [], [a, c, b], k, fun l e => ((v c)[(⟨(v b)[l].toNat % 32, Nat.mod_lt _ (by decide)⟩ : Fin 32)].toNat, e))
  | .vexp2 m a b k => some (a, [], [a, b], k, fun l e => roundOne fp32 m (exExp2 (fv (v b)[l])) e)
  | .vlog2 m a b k => some (a, [], [a, b], k, fun l e => roundOne fp32 m (exLog2 (fv (v b)[l])) e)
  | .vrcp m a b k => some (a, [], [a, b], k, fun l e => roundOne fp32 m (exRcp (fv (v b)[l])) e)
  | .vrsq m a b k => some (a, [], [a, b], k, fun l e => roundOne fp32 m (exRsq (fv (v b)[l])) e)
  | .vtanh m a b k => some (a, [], [a, b], k, fun l e => roundOne fp32 m (exTanh (fv (v b)[l])) e)
  | .vsigm m a b k => some (a, [], [a, b], k, fun l e => roundOne fp32 m (exSigm (fv (v b)[l])) e)
  | .vcvtF2s r a b k => some (a, [], [a, b], k, fun l e =>
      ((BitVec.ofInt 32 (toInt r (-(2 ^ 31)) (2 ^ 31 - 1) (fv (v b)[l]) e).1).toNat, (toInt r (-(2 ^ 31)) (2 ^ 31 - 1) (fv (v b)[l]) e).2))
  | .vcvtF2n r a b k => some (a, [], [a, b], k, fun l e =>
      ((toInt r 0 (2 ^ 32 - 1) (fv (v b)[l]) e).1.toNat, (toInt r 0 (2 ^ 32 - 1) (fv (v b)[l]) e).2))
  | .vcvtS2f m a b k => some (a, [], [a, b], k, fun l e => roundOne fp32 m (exOk (intVal (v b)[l].toInt)) e)
  | .vcvtN2f m a b k => some (a, [], [a, b], k, fun l e => roundOne fp32 m (exOk (intVal (v b)[l].toNat)) e)
  | .vcvtFrnd r a b k => some (a, [], [a, b], k, fun l e => toIntegral fp32 ⟨r, false⟩ (fv (v b)[l]) e)
  | .vcvtF2bf m a b k => some (a, [], [a, b], k, fun l e => roundOne bf16 m (exOk (fv (v b)[l])) e)
  | .vcvtF2e4 m a b k => some (a, [], [a, b], k, fun l e => roundOne e4m3 m (exOk (fv (v b)[l])) e)
  | .vcvtF2e5 m a b k => some (a, [], [a, b], k, fun l e => roundOne e5m2 m (exOk (fv (v b)[l])) e)
  | _ => none
where
  /-- The FP32 value of a lane. -/
  fv (n : Lane) : FVal := valOf fp32 n.toNat

/-- The compares (R96): the mask written, the sources, the lane mask, and each active lane's bit with the flags it raises. -/
def cmpResult (v : VReg → Lanes) : Instr → Option (MReg × List VReg × MReg × (Fin 32 → FEnv → Bool × FEnv))
  | .vceq t a c b k => some (a, [c, b], k, fun l e => (eq t (v c)[l] (v b)[l], e))
  | .vcne t a c b k => some (a, [c, b], k, fun l e => (!eq t (v c)[l] (v b)[l], e))
  | .vclt t a c b k => some (a, [c, b], k, fun l e => match t with
      | .f32 => (fvLt (fv (v c)[l]) (fv (v b)[l]), unord (v c)[l] (v b)[l] e)
      | .s32 => (decide ((v c)[l].toInt < (v b)[l].toInt), e)
      | .n32 => (decide ((v c)[l].toNat < (v b)[l].toNat), e))
  | .vcle t a c b k => some (a, [c, b], k, fun l e => match t with
      | .f32 => (fvLe (fv (v c)[l]) (fv (v b)[l]), unord (v c)[l] (v b)[l] e)
      | .s32 => (decide ((v c)[l].toInt ≤ (v b)[l].toInt), e)
      | .n32 => (decide ((v c)[l].toNat ≤ (v b)[l].toNat), e))
  | _ => none
where
  fv (n : Lane) : FVal := valOf fp32 n.toNat
  eq (t : VTy) (x y : Lane) : Bool := match t with | .f32 => fvEq (fv x) (fv y) | _ => decide (x = y)
  unord (x y : Lane) (e : FEnv) : FEnv := if (fv x).isNan ∨ (fv y).isNan then raise e fNV else e

/-- The bits of the active lanes, one after another; the others keep theirs. -/
def bitRun (act : Mask32) (g : Fin 32 → FEnv → Bool × FEnv) (old : Mask32) (e : FEnv) : Mask32 × FEnv :=
  (List.finRange 32).foldl
    (fun (r : Mask32 × FEnv) (l : Fin 32) => if act.getLsbD l.val then (if (g l r.2).1 then r.1 ||| (1#32 <<< l.val) else r.1 &&& ~~~ (1#32 <<< l.val), (g l r.2).2) else r)
    (old, e)

/-- The mask instructions (R107): the scalar registers waited for, and the mask or scalar register that gets a value. -/
def maskResult (x : XReg → Word) (mk : MReg → Mask32) : Instr → Option (List XReg × ((MReg × Mask32) ⊕ (XReg × Word)))
  | .mand a c b => some ([], .inl (a, mk c &&& mk b))
  | .mor a c b => some ([], .inl (a, mk c ||| mk b))
  | .mxor a c b => some ([], .inl (a, mk c ^^^ mk b))
  | .mnot a b => some ([], .inl (a, ~~~ mk b))
  | .mset a b => some ([b], .inl (a, (x b).setWidth 32))
  | .mpop a b => some ([a], .inr (a, BitVec.ofNat 64 ((List.range 32).countP fun i => (mk b).getLsbD i)))
  | .mfirst a b => some ([a], .inr (a, (((List.range 32).find? fun i => (mk b).getLsbD i).map fun i => BitVec.ofNat 64 i).getD 32))
  | .mget a b => some ([a], .inr (a, (mk b).setWidth 64))
  | _ => none

-- Prefix chains (R36, R37)

/-- The place of a prefix in the canonical order: PAGE, REG, EXT, IMM. -/
def prefixPlace (h : Half) : Nat := match h.toNat / 512 % 4 with | 2 => 1 | 1 => 2 | 3 => 3 | _ => 4

/-- Prefixes in canonical order: each stands after those of the places before its own, and only IMM stands twice. -/
def inOrder (ps : List Half) : Prop :=
  ps.Pairwise fun p q => prefixPlace p < prefixPlace q ∨ (prefixPlace p = 4 ∧ prefixPlace q = 4)

/-- The payload of the PAGE prefix of a chain, or 0. -/
def pagePayload (ps : List Half) : Nat := ((ps.find? fun p => prefixPlace p == 1).map fun p => p.toNat % 512).getD 0

-- Completion, addresses, loads and stores

/-- The instruction or event completes: exec answers a next state, and P holds of it. -/
def completes (i : Instr) (s : State) (P : State → Prop) : Prop := ∃ t, exec i s = .next t ∧ P t

/-- The effective address of a load or store (R75). -/
def ea (s : State) (b : XReg) (imm : Int) : Word := getX (curSlot s) b + BitVec.ofInt 64 imm

/-- A load: destination, base, offset, relaxed, bytes, sign-extended, and whether its size is a word or more (R75). -/
def loadForm : Instr → Option (XReg × XReg × Int × Bool × Nat × Bool × Bool)
  | .ldSb a b i r => some (a, b, i, r, 1, true, false)
  | .ldNb a b i r => some (a, b, i, r, 1, false, false)
  | .ldSh a b i r => some (a, b, i, r, 2, true, false)
  | .ldNh a b i r => some (a, b, i, r, 2, false, false)
  | .ldSw a b i r => some (a, b, i, r, 4, true, true)
  | .ldNw a b i r => some (a, b, i, r, 4, false, true)
  | .ldD a b i r => some (a, b, i, r, 8, false, true)
  | _ => none

/-- A store: source, base, offset, relaxed, bytes, and whether its size is a word or more (R75). -/
def storeForm : Instr → Option (XReg × XReg × Int × Bool × Nat × Bool)
  | .stB a b i r => some (a, b, i, r, 1, false)
  | .stH a b i r => some (a, b, i, r, 2, false)
  | .stW a b i r => some (a, b, i, r, 4, true)
  | .stD a b i r => some (a, b, i, r, 8, true)
  | _ => none

/-- The value a load of n bytes writes (R75): sign-extended or zero-extended. -/
def loaded (n : Nat) (sgn : Bool) (v : Nat) : Word :=
  if sgn then (BitVec.ofNat (8 * n) v).signExtend 64 else (BitVec.ofNat (8 * n) v).setWidth 64

/-- The trap taken at the current instruction, with its tval (R270). -/
def traps (i : Instr) (s : State) (cause : BitVec 8) (tval : Word) : Prop :=
  exec i s = .next (takeTrap s s.cur.1 s.cur.2 { cause := cause, tval := tval, epc := (curSlot s).pc })

/-- The same where something of the instruction was looked at first: the handler of a user-mode slot is entered, its registers as they
were. -/
def entersHandler (i : Instr) (s : State) (cause : BitVec 8) (tval : Word) : Prop :=
  (curSlot s).sup = false → (curCore s).tvec ≠ 0 →
    ∃ t, exec i s = .next t ∧ (curSlot t).cause = cause ∧ (curSlot t).tval = tval ∧ (curSlot t).epc = (curSlot s).pc ∧
      (curSlot t).sup = true ∧ (curSlot t).pc = (curCore s).tvec + 16 ∧ (curSlot t).x = (curSlot s).x ∧ (curSlot t).v = (curSlot s).v

/-- No ticket of the core has failed with requests still to be reported (R278). -/
def noFailure (c : Core) : Bool := c.tickets.toList.all fun e => e.state != .failed

/-- The NI of the current core has nothing outstanding, and takes requests. -/
def idleNi (s : State) : Prop :=
  (curCore s).reqs = [] ∧ (curCore s).halted = false ∧ niFull (curCore s) = false ∧ noFailure (curCore s) = true

/-- The request packet that an NI with nothing outstanding sends for the current slot (R77, R179). -/
def firstPacket (s : State) (op : ROp) (addr : Word) (ordered : Bool) (dst : Endpoint) : Packet :=
  { src := .core s.cur.1, dst := dst, cls := .req,
    body := .req { uid := (curCore s).nextUid, seq := BitVec.ofNat 16 (curCore s).nextSeq, op := op, addr := addr, ordered := ordered,
                   head := false, last := false, part := corePart s s.cur.1, winbase := (curSlot s).winbase,
                   srcCore := coreNumber s s.cur.1, slot := s.cur.2, act := (curSlot s).actId } }

/-- The request for a line that the NI of the current core sends for the current slot (R23). -/
def firstLine (s : State) (line : Nat) : Packet :=
  let a := BitVec.ofNat 64 line
  { src := .core s.cur.1, dst := .ferry (homeFerry a), cls := .req,
    body := .req { uid := (curCore s).nextUid, seq := 0, op := .line, addr := a, ordered := false, head := false, last := false,
                   part := corePart s s.cur.1, winbase := 0, srcCore := coreNumber s s.cur.1, slot := s.cur.2, act := 0 } }

-- Streams (R108 to R112)

/-- A vector instruction: the scalar registers it waits for, its vector sources, its vector destination and the mask of the lanes written
there (m0 for all of them), and the A of VINS or of a vector load, which may be no stream (R111, R112). -/
structure VecForm where
  xs : List XReg := []
  srcs : List VReg := []
  dst : Option VReg := none
  wr : MReg := 0
  loads : List VReg := []

/-- The vector instructions (R95 to R100, R104 to R106, R141, R193). -/
def vecForm : Instr → Option VecForm
  | .vadd _ _ a c b k | .vsub _ _ a c b k | .vmul _ _ a c b k | .vdiv _ _ a c b k => some { srcs := [c, b], dst := some a, wr := k }
  | .vmin _ a c b k | .vmax _ a c b k => some { srcs := [c, b], dst := some a, wr := k }
  | .vand a c b k | .vor a c b k | .vxor a c b k | .vshl a c b k | .vshr a c b k | .vsar a c b k | .vperm a c b k =>
    some { srcs := [c, b], dst := some a, wr := k }
  | .vfma _ _ a c b k | .vfms _ _ a c b k | .vfnma _ _ a c b k | .vfnms _ _ a c b k => some { srcs := [c, b, a], dst := some a, wr := k }
  | .vsel a c b _ k => some { srcs := [c, b], dst := some a, wr := k }
  | .vabs _ a b k | .vneg _ a b k => some { srcs := [b], dst := some a, wr := k }
  | .vsqrt _ a b k | .vexp2 _ a b k | .vlog2 _ a b k | .vrcp _ a b k | .vrsq _ a b k | .vtanh _ a b k | .vsigm _ a b k =>
    some { srcs := [b], dst := some a, wr := k }
  | .vcvtS2f _ a b k | .vcvtN2f _ a b k | .vcvtF2bf _ a b k | .vcvtF2e4 _ a b k | .vcvtF2e5 _ a b k =>
    some { srcs := [b], dst := some a, wr := k }
  | .vcvtF2s _ a b k | .vcvtF2n _ a b k | .vcvtFrnd _ a b k => some { srcs := [b], dst := some a, wr := k }
  | .vmov a b k => some { srcs := [b], dst := some a, wr := k }
  | .vbcast a b k => some { xs := [b], dst := some a, wr := k }
  | .viota a _ k => some { dst := some a, wr := k }
  | .vradd _ _ a b _ | .vrmin _ a b _ | .vrmax _ a b _ | .vrand a b _ | .vror a b _ => some { srcs := [b], dst := some a }
  | .vscan _ _ a b k => some { srcs := [b], dst := some a, wr := k }
  | .vceq _ _ c b _ | .vcne _ _ c b _ | .vclt _ _ c b _ | .vcle _ _ c b _ => some { srcs := [c, b] }
  | .vins a b _ => some { xs := [b], loads := [a] }
  | .vext _ a b _ => some { xs := [a], srcs := [b] }
  | .vld a b _ _ _ | .vldb a b _ _ _ | .vldt a _ b _ => some { xs := [b], loads := [a] }
  | .vst a b _ _ _ | .vstt a _ b _ | .vamoadd _ a b _ => some { xs := [b], srcs := [a] }
  | .vldx a b c _ => some { xs := [b], srcs := [c], loads := [a] }
  | .vstx a b c _ | .vamoaddi _ a b c _ => some { xs := [b], srcs := [a, c] }
  | .sendv a b n => some { xs := [a], srcs := if n.val = 0 then [] else [b] }
  | _ => none

/-- The instruction that an issue tries waits for no register. -/
def vecReady (s : State) (f : VecForm) : Prop := xReady s f.xs ∧ vReady s (f.srcs ++ f.dst.toList ++ f.loads)

/-- Element n of a stream (R110). -/
def streamAt (t : Stream) (n : Nat) : ElemAt := elemAt (meshWin t.base) (meshOff t.base) ((n : Int) * t.stride)

/-- The elements of a stream that its next 32 lanes name have no bit error. -/
def soundStream (s : State) (t : Stream) : Prop :=
  ∀ l : Fin 32, t.pos + l.val < t.count →
    sound (curCore s) (elemRanges (mx4ScaleOff (curSlot s).winbase) (meshWin t.base) (streamAt t (t.pos + l.val)))

/-- What a register gives as a source: its lanes, or the next 32 elements of its stream, zeros past COUNT (R111). -/
def fed (s : State) (r : VReg) : Lanes :=
  match streamOf (curSlot s) r with
  | none => getV (curSlot s) r
  | some t => Vector.ofFn fun l : Fin 32 =>
      if t.pos + l.val < t.count then BitVec.ofNat 32 (readElem (curCore s).spad (mx4ScaleOff (curSlot s).winbase) (meshWin t.base)
        (streamAt t (t.pos + l.val))) else 0

/-- The bound sources are read streams with elements left and without bit errors. -/
def feeds (s : State) (rs : List VReg) : Prop :=
  ∀ r ∈ rs, ∀ t, streamOf (curSlot s) r = some t → t.write = false ∧ t.pos < t.count ∧ soundStream s t

/-- The streams of a slot after those of the registers named have moved on once (R111). -/
def movedOn (sl : Slot) (rs : List VReg) : Vector (Option Stream) 4 :=
  Vector.ofFn fun i : Fin 4 => sl.streams[i].map fun t =>
    if (⟨28 + i.val, by omega⟩ : VReg) ∈ rs then { t with pos := min (t.pos + 32) t.count } else t

/-- The machine in which the sources are plain registers that hold what they give, and the registers `more` are unbound. -/
def plainly (s : State) (srcs more : List VReg) : State :=
  updCur s fun sl =>
    { sl with
      v := Vector.ofFn fun r : VReg => if r ∈ srcs then fed s r else sl.v[r]
      streams := Vector.ofFn fun i : Fin 4 => if (⟨28 + i.val, by omega⟩ : VReg) ∈ srcs ++ more then none else sl.streams[i] }

/-- The machine after the instruction on plain registers, with the bound sources as they were and their streams moved on. -/
def withStreams (s : State) (srcs : List VReg) (u : State) : State :=
  updCur u fun q =>
    { q with
      v := Vector.ofFn fun r : VReg => if r ∈ srcs ∧ (streamOf (curSlot s) r).isSome then (curSlot s).v[r] else q.v[r]
      streams := movedOn (curSlot s) srcs }

/-- The stream fault of a register as a vector instruction uses it (R112): 3, a wrong direction, before 2, at its end. -/
def faultOf (s : State) (f : VecForm) (r : VReg) : Option Nat :=
  (streamOf (curSlot s) r).bind fun t =>
    if (r ∈ f.srcs ∧ t.write = true) ∨ (f.dst = some r ∧ t.write = false) ∨ r ∈ f.loads then some 3
    else if (r ∈ f.srcs ∨ f.dst = some r) ∧ t.count ≤ t.pos then some 2
    else none

/-- The scratchpad after 32-bit lanes are stored one after another: `at_` gives lane l's offset, and `act` names the lanes. -/
def lanesStored (m : Mem) (act : Fin 32 → Bool) (at_ : Fin 32 → Nat) (v : Lanes) : Mem :=
  (List.finRange 32).foldl (fun m l => if act l then writeLE m (at_ l) 4 v[l].toNat else m) m

-- Reductions and scans (R66, R67, R98)

/-- A combination of two lanes that may round. -/
abbrev Node := Nat → Nat → FEnv → Nat × FEnv

/-- A lane list in which lane i has the value v. -/
def putAt (f : Nat → Nat) (i v : Nat) : Nat → Nat := fun n => if n = i then v else f n

/-- Level k of the tree of R66: every lane i that is a multiple of 2^k takes Op(lane i, lane i + 2^(k−1)), lower lanes first. -/
def treeLevelOf (op : Node) (r : (Nat → Nat) × FEnv) (k : Nat) : (Nat → Nat) × FEnv :=
  (List.range (2 ^ (5 - k))).foldl (fun r j =>
    (putAt r.1 (j * 2 ^ k) (op (r.1 (j * 2 ^ k)) (r.1 (j * 2 ^ k + 2 ^ (k - 1))) r.2).1,
      (op (r.1 (j * 2 ^ k)) (r.1 (j * 2 ^ k + 2 ^ (k - 1))) r.2).2)) r

/-- The lanes of a vector, an inactive lane as the identity. -/
def entering (act : Mask32) (v : Lanes) (ident : Nat) : Nat → Nat := fun n => if act.getLsbD n then v[Fin.ofNat 32 n].toNat else ident

/-- The five levels. -/
def treeOf (op : Node) (f : Nat → Nat) (e : FEnv) : Nat × FEnv :=
  let r := [1, 2, 3, 4, 5].foldl (treeLevelOf op) (f, e)
  (r.1 0, r.2)

/-- The scan: s_l := Op(s_(l−1), lane l) for lanes 1 to 31. -/
def scanOf (op : Node) (f : Nat → Nat) (e : FEnv) : (Nat → Nat) × FEnv :=
  (List.range 31).foldl (fun r l => (putAt r.1 (l + 1) (op (r.1 l) (r.1 (l + 1)) r.2).1, (op (r.1 l) (r.1 (l + 1)) r.2).2)) (f, e)

/-- An addition of two lanes. -/
def addOf (t : VTy) (rnd : Rnd) : Node := fun x y e =>
  match t with
  | .f32 => roundNode fp32 ⟨rnd, false⟩ (exAdd (rnd == .rd) (valOf fp32 x) (valOf fp32 y)) e
  | _ => ((x + y) % 2 ^ 32, e)
def addId (t : VTy) : Nat := match t with | .f32 => 0x80000000 | _ => 0

/-- The reductions (R98): destination, source, mask, identity and operation. -/
def reduceForm : Instr → Option (VReg × VReg × MReg × Nat × Node)
  | .vradd t rnd a b k => some (a, b, k, addId t, addOf t rnd)
  | .vrmin t a b k => some (a, b, k, (match t with | .f32 => 0x7F800000 | .s32 => 0x7FFFFFFF | .n32 => 0xFFFFFFFF),
      fun x y e => (match t with
        | .f32 => minBits fp32 x y
        | .s32 => if (BitVec.ofNat 32 x).toInt ≤ (BitVec.ofNat 32 y).toInt then x else y
        | .n32 => if (BitVec.ofNat 32 x).toNat ≤ (BitVec.ofNat 32 y).toNat then x else y, e))
  | .vrmax t a b k => some (a, b, k, (match t with | .f32 => 0xFF800000 | .s32 => 0x80000000 | .n32 => 0),
      fun x y e => (match t with
        | .f32 => maxBits fp32 x y
        | .s32 => if (BitVec.ofNat 32 y).toInt ≤ (BitVec.ofNat 32 x).toInt then x else y
        | .n32 => if (BitVec.ofNat 32 y).toNat ≤ (BitVec.ofNat 32 x).toNat then x else y, e))
  | .vrand a b k => some (a, b, k, 0xFFFFFFFF, fun x y e => (x &&& y, e))
  | .vror a b k => some (a, b, k, 0, fun x y e => (x ||| y, e))
  | _ => none

/-- The address is in the scratchpad of the core itself: an own address, and not the primary's scratchpad seen by a twin secondary (R77,
R309). -/
def isLocal (s : State) (e : Word) : Prop := isOwn s e = true ∧ spadSite s (meshOff e) = s.cur.1

/-- What an irrevocable operation of the current slot would release has room: the slot is not replayable, or the NI takes requests and
has S counts and replay-buffer entries for the whole outbox (R7, R11, R77, R278). -/
def mayRelease (s : State) : Prop := (curSlot s).replayable = true → outboxRoom s s.cur.1 s.cur.2 = true

/-- The state after the release of R306, in which an irrevocable operation of a replayable activation is performed. -/
def released (s : State) : State := release s s.cur.1 s.cur.2

/-- A request of the current slot as an NI with nothing outstanding holds it once it is sent (R77, R278). -/
def askReq (s : State) (op : ROp) (addr : Word) (home : Endpoint) (ordered : Bool) (dest : RDest) (l st e : Bool) : Req :=
  { uid := (curCore s).nextUid, seqn := (curCore s).nextSeq, slot := s.cur.2, act := (curSlot s).actId, op := op, addr := addr,
    home := home, ordered := ordered, dest := dest, cntL := l, cntS := st, cntE := e, status := .flying, part := corePart s s.cur.1,
    winbase := (curSlot s).winbase, retAt := (curSlot s).retired + 1 }

/-- The state after an instruction whose one effect beside its slot is a request: held by the NI, its packet on its way, and the
instruction retired. Its words in the fingerprint are the address or the payload, and 0 in the places of the words of its answer (R310). -/
def asked (s : State) (r : Req) (sl : Slot) (ws : List Word) (p : Packet) : State :=
  let ws := ws ++ dataPlaces r.dest
  { retired s { curCore s with nextSeq := (curCore s).nextSeq + 1, nextUid := (curCore s).nextUid + 1,
                               reqs := [{ r with foldEnd := (curSlot s).folds + ws.length }] } sl (fallThrough s) ws with
    net := s.net ++ [p] }

/-- Where a remote address leads from the current core, and the home its NI keeps the request under: a ferry, a landing, or a core
whose number the NI reaches directly (R171, R339). -/
def leads (s : State) (a : Word) (home dst : Endpoint) : Prop :=
  (space a = 0 ∧ home = .ferry (homeFerry a) ∧ dst = home) ∨
  (space a = 0xE ∧ home = .landing (landingOfPort ((s.devid + fabricPeer a) % 16)) ∧ dst = home) ∨
  (space a = 0xF ∧ ∃ x y, siteOf s (meshCore a) = some x ∧ routeTo s s.cur.1 (meshCore a) = .direct y ∧ home = .core x ∧ dst = .core y)

/-- An atomic (R192): operation, bytes, whether the old value is sign-extended, destination, address and operands. -/
def atomicForm : Instr → Option (AmoOp × Nat × Bool × XReg × XReg × XReg × XReg)
  | .amoadd z a b c => some (.add, size z, true, a, b, c, c)
  | .amoand z a b c => some (.and, size z, true, a, b, c, c)
  | .amoor z a b c => some (.or, size z, true, a, b, c, c)
  | .amoxor z a b c => some (.xor, size z, true, a, b, c, c)
  | .amomin z a b c => some (.min, size z, true, a, b, c, c)
  | .amomax z a b c => some (.max, size z, true, a, b, c, c)
  | .amoswap z a b c => some (.swap, size z, true, a, b, c, c)
  | .amocas z a b c d => some (.cas, size z, true, a, b, c, d)
  | .amofadd a b c => some (.fadd, 4, false, a, b, c, c)
  | .amofadd64 a b c => some (.fadd64, 8, false, a, b, c, c)
  | .amominn z a b c => some (.minn, size z, true, a, b, c, c)
  | .amomaxn z a b c => some (.maxn, size z, true, a, b, c, c)
  | _ => none
where
  size (z : AmoSize) : Nat := match z with | .w => 4 | .d => 8

/-- The new word of an atomic on w bits (R192), or none where AMOCAS does not write. -/
def amoWord (op : AmoOp) (w old c d : Nat) : Option Nat :=
  let sg := fun (n : Nat) => (BitVec.ofNat w n).toInt
  match op with
  | .add => some ((old + c) % 2 ^ w)
  | .and => some (old &&& c)
  | .or => some (old ||| c)
  | .xor => some (old ^^^ c)
  | .min => some (if sg old ≤ sg c then old else c)
  | .max => some (if sg c ≤ sg old then old else c)
  | .swap => some c
  | .cas => if old = c then some d else none
  | .fadd => some (roundRne fp32 (exAdd false (valOf fp32 old) (valOf fp32 c))).bits
  | .fadd64 => some (roundRne fp64 (exAdd false (valOf fp64 old) (valOf fp64 c))).bits
  | .minn => some (min old c)
  | .maxn => some (max old c)

/-- A posted instruction with a remote address (R77, R104, R192, R193): the scalar and vector registers it waits for, the address, its
check, the request, whether it is ordered, and its result words. -/
def postForm (s : State) : Instr → Option (List XReg × List VReg × Word × Prop × ROp × Bool × List Word)
  | .vst a b imm rlx k =>
    some ([b], [a], ea s b imm, checkVec s (curSlot s) (ea s b imm) true false (getM (curSlot s) k) = none,
      .vwrite (getM (curSlot s) k) (getV (curSlot s) a), !rlx, vecWords (getV (curSlot s) a))
  | .vamoadd t a b k =>
    some ([b], [a], getX (curSlot s) b, checkAdd s (getX (curSlot s) b) (getM (curSlot s) k) none = none ∧ getM (curSlot s) k ≠ 0,
      .vadd t (getM (curSlot s) k) (getV (curSlot s) a), true, vecWords (getV (curSlot s) a))
  | .vamoaddi t a b c k =>
    some ([b], [a, c], getX (curSlot s) b,
      checkAdd s (getX (curSlot s) b) (getM (curSlot s) k) (some (getV (curSlot s) c)) = none ∧ getM (curSlot s) k ≠ 0,
      .vaddi t (getM (curSlot s) k) (getV (curSlot s) c) (getV (curSlot s) a), true, vecWords (getV (curSlot s) a))
  | i =>
    match storeForm i, atomicForm i with
    | some (a, b, imm, rlx, n, sized), _ =>
      some ([a, b], [], ea s b imm, checkScalar s (ea s b imm) n sized = none,
        .write (leBytes n ((getX (curSlot s) a).toNat % 2 ^ (8 * n))), !rlx, [BitVec.ofNat 64 ((getX (curSlot s) a).toNat % 2 ^ (8 * n))])
    | none, some (op, n, _, a, b, c, d) =>
      some ([a, b, c, d], [], getX (curSlot s) b, checkAtomic s (getX (curSlot s) b) n = none ∧ a = 0,
        .amo op n (getX (curSlot s) c) (getX (curSlot s) d), true, [getX (curSlot s) c])
    | none, none => none

-- Messages and descriptors

/-- The send instructions (R141, R160): the registers they wait for, the channel name, the kind, the GANG and REL bits, the sequence number
and the payload words. -/
def sendForm (s : State) : Instr → Option (List XReg × List VReg × Word × Nat × Bool × Bool × BitVec 16 × List Word)
  | .send a b n => some (a :: regs b n, [], x a, 0, false, false, 0, (regs b n).map x)
  | .sendR a b n => some (a :: regs b n, [], x a, 0, false, true, 0, (regs b n).map x)
  | .sendg a b n => some (a :: regs b n, [], x a, 0, true, false, 0, (regs b n).map x)
  | .sendc a b n => some (a :: regs b n, [], x a, 1, false, false, 0, (regs b n).map x)
  | .sendQ a b n d => some (a :: d :: regs b n, [], x a, 0, false, false, (x d).setWidth 16, (regs b n).map x)
  | .sendv a b n => some ([a], if n.val = 0 then [] else [b], x a, 0, false, false, 0,
      (List.range n.val).map fun i =>
        ((getV (curSlot s) b)[Fin.ofNat 32 (2 * i + 1)] ++ (getV (curSlot s) b)[Fin.ofNat 32 (2 * i)] : BitVec 64))
  | _ => none
where
  x (r : XReg) : Word := getX (curSlot s) r
  regs (b : XReg) (n : Fin 7) : List XReg := (List.range n.val).map fun k => Fin.ofNat 32 (b.val + k)

/-- The message a send forms from its name v (R137, R138): own core for 0x1FFF, own device for OWN. -/
def messageOf (s : State) (v : Word) (kind : Nat) (gang rel : Bool) (seq : BitVec 16) (ws : List Word) : Msg :=
  { seq := seq, gang := gang, rel := rel, count := ws.length, kind := kind, srcCore := coreNumber s s.cur.1, srcDev := s.devid,
    chan := bits v 23 8, dstCore := if bits v 10 13 = 0x1FFF then coreNumber s s.cur.1 else bits v 10 13,
    dstDev := if v.getLsbD 31 then s.devid else bits v 0 10, words := words6 ws }

/-- The name breaks the layout of R138: bits above 31, or OWN with a device. -/
def nameBad (v : Word) : Prop := bits v 32 32 ≠ 0 ∨ (v.getLsbD 31 = true ∧ bits v 0 10 ≠ 0)

/-- Where a message leads: the core its number names here, reached directly, or the landing toward another device (R339, R342). -/
def msgLeads (s : State) (m : Msg) (home dst : Endpoint) : Prop :=
  (m.dstDev = s.devid ∧ ∃ x y, siteOf s m.dstCore = some x ∧ routeTo s s.cur.1 m.dstCore = .direct y ∧ home = .core x ∧ dst = .core y) ∨
  (m.dstDev ≠ s.devid ∧ home = .landing (landingOfPort ((s.devid + m.dstDev) % 16)) ∧ dst = home)

/-- A descriptor or record of n bytes at X(b) of a slot that is no twin may be read: it passes the checks of R148 and has no bit error. -/
def record (s : State) (b : XReg) (n : Nat) : Prop :=
  checkRecord s (getX (curSlot s) b) n = none ∧ sound (curCore s) [(meshOff (getX (curSlot s) b), n)] ∧ (curSlot s).twin = none

/-- The state once a record has been read: that of before, with its core as it was. -/
def afterReading (s : State) : State := setCore s s.cur.1 (curCore s)

/-- The number a record of n bytes at X(b) holds. -/
def recordAt (s : State) (b : XReg) (n : Nat) : Nat := readLE (curCore s).spad (meshOff (getX (curSlot s) b)) n

/-- An instruction whose effect leaves the state E then writes a status to its register and retires. -/
def answers (E : State) (a : XReg) (v : Word) : State := finish E (setX (curSlot E) a v) [v]

/-- What CSRR gives for the registers a mode lists (R286 to R288, R313, R318, R320, R325), for a slot that is no twin's secondary. -/
def csrValue (s : State) (n : Nat) : Option Word :=
  let sl := curSlot s
  let c := curCore s
  let x := getCluster s (siteCluster s.cur.1)
  match n with
  | 0x002 => some (sl.fexc.setWidth 64)
  | 0x010 => some (sl.actId.setWidth 64)
  | 0x011 => some (match sl.fired with | some f => BitVec.ofNat 64 f.pat | none => 0)
  | 0x012 => some (BitVec.ofNat 64 s.cur.2.val)
  | 0x013 => some (BitVec.ofNat 64 (coreNumber s s.cur.1))
  | 0x014 => some (BitVec.ofNat 64 s.devid)
  | 0x020 => some (BitVec.ofNat 64 s.time)
  | 0x021 => some (BitVec.ofNat 64 s.cycle)
  | 0x030 => some (BitVec.ofNat 64 (sl.cntL % 64 + sl.cntS % 128 * 2 ^ 8 + sl.cntE % 32 * 2 ^ 16 + sl.cntM % 32 * 2 ^ 24))
  | 0x040 => some (if sl.strict then 1 else 0)
  | 0x050 => some sl.winbase
  | 0x100 => some (sl.cause.setWidth 64)
  | 0x101 => some sl.tval
  | 0x102 => some sl.epc
  | 0x103 => some (sl.tseq.setWidth 64)
  | 0x104 => some c.tvec
  | 0x105 => some ((sl.treq ++ BitVec.ofBool sl.exact ++ BitVec.ofBool sl.late ++ BitVec.ofBool sl.nest ++ BitVec.ofBool sl.pm ++
      BitVec.ofBool sl.sup).setWidth 64)
  | 0x110 => some c.rotate
  | 0x120 => some (x.lease.setWidth 64)
  | 0x130 => some c.stealdom
  | 0x140 => some c.spill
  | 0x150 => some x.adptab
  | 0x300 => some c.dbgctl
  | 0x301 => some c.dbgact
  | 0x302 => some c.stepCsr
  | n => if h : 0x400 ≤ n ∧ n < 0x412 then some ((c.events[n - 0x400]'(by omega)).setWidth 64)
      else if 0x412 ≤ n ∧ n < 0x800 then some 0x8000000000000000#64
      else if 0x200 ≤ n ∧ n < 0x240 then
        some (BitVec.ofNat 64 (delayField (bits c.dbgctl 4 2) (if n = 0x23F then c.others else nth c.delay (n - 0x200))))
      else none

/-- The bits of a writable CSR that keep what is written (R5, R286 to R288, R296, R318, R320). -/
def csrMask (n : Nat) : Option Word :=
  match n with
  | 0x002 => some 0x1F
  | 0x040 => some 1
  | 0x050 => some 0x0007FFFF0007FFFF#64
  | 0x100 => some 0xFF
  | 0x101 => some (BitVec.allOnes 64)
  | 0x102 => some (BitVec.allOnes 64)
  | 0x103 => some 0x1FFFF
  | 0x104 => some 0x01FFFFFFFFFFFF80#64
  | 0x105 => some 0x7E
  | 0x110 => some 1
  | 0x120 => some 0xFF
  | 0x130 => some 0xFFFF
  | 0x140 => some 0x01FFFFFFFFFFFFFF#64
  | 0x150 => some 0x01FFFFFFFFFFFFE0#64
  | 0x300 => some 0x01FFFFFFFFFFFFBE#64
  | 0x301 => some 0x0003FFFFFFFFFFFF#64
  | 0x302 => some 7
  | n => if 0x400 < n ∧ n < 0x412 then some 0x7FFFFFFFFFFFFFFF#64 else none

-- Ends of activations and fault reports

/-- The current slot's activation is in its slot alone: it is no twin, nothing was started with it, and no spill frame holds it. -/
def alone (s : State) : Prop :=
  (curSlot s).twin = none ∧ (curSlot s).group = [] ∧ (∀ f, (curSlot s).fired = some f → f.lead = none) ∧
    parked (curCore s) s.cur.2 (curSlot s).actId = false

/-- A channel of a core has the next message placed at its end: it is a FIFO channel with a free pool slot and nothing in its overflow or on
its way there, and no quorum pattern is on the core. -/
def takesNext (c : Core) (ch : Nat) (x : Chan) : Prop :=
  tget c.chans ch = some x ∧ x.kind = .fifo ∧ x.ovf = [] ∧ (∀ p, c.spilling = some p → p.chan ≠ ch) ∧ x.queue.length + x.held < x.cap ∧
    ∀ p ∈ c.pats, p.2.qn = 0

/-- The fault report of R284 about the current slot's activation, with the words of R285, stands at the end of the fault channel of its
pattern's first channel (R116), where that takes a message; with no fault channel it is counted in event 0x0C. -/
def reports (s t : State) (kind cause : Nat) (tval epc : Word) (tseq : Nat) (word5 : Word) : Prop :=
  ∀ f, (curSlot s).fired = some f → f.lead = none → (curSlot s).twin = none → (curSlot s).due = [] →
    (∀ z ch x, tget (curCore s).chans f.ch0 = some z → z.faultCh = some ch → takesNext (curCore s) ch.toNat x →
      ∃ y, tget (curCore t).chans ch.toNat = some y ∧ ch.toNat ∈ (curCore t).marked ∧
        y.queue.filter (fun q => q.returned == false) = x.queue.filter (fun q => q.returned == false) ++
          [{ msg := { time := BitVec.ofNat 32 s.time, kind := 2, count := 6, srcCore := coreNumber s s.cur.1, srcDev := s.devid,
                      chan := ch.toNat, dstCore := coreNumber s s.cur.1, dstDev := s.devid,
                      words := words6 [BitVec.ofNat 64 (kind + cause * 2 ^ 8 + f.pat * 2 ^ 16), (curSlot s).actId.setWidth 64, tval, epc,
                        BitVec.ofNat 64 tseq, word5] },
             arrival := s.time, part := corePart s s.cur.1 }]) ∧
    (((tget (curCore s).chans f.ch0).bind fun z => z.faultCh) = none → (curCore t).events[12] = (curCore s).events[12] + 1)

/-- The one message that the current slot's activation held is back at the head of its channel, marked as returned, and the channel is
examined again (R307). -/
def gaveBack (s t : State) : Prop :=
  ∀ f h, (curSlot s).fired = some f → f.held = [h] → h.part = none → (∀ p ∈ (curCore s).pats, p.2.qn = 0) →
    ∀ x, tget (curCore s).chans h.chan = some x → x.gen = h.gen →
      let ms := h.msgs.map fun q => { q with returned := true }
      h.chan ∈ (curCore t).marked ∧ ∃ y, tget (curCore t).chans h.chan = some y ∧ y.held = x.held - 1 ∧
        (x.kind = .fifo → y.queue = ms ++ x.queue ∧ y.nextSeq = x.nextSeq) ∧
        (∀ q, x.kind = .sequenced → h.msgs = [q] → y.queue = ms ++ x.queue ∧ y.nextSeq = q.msg.seq) ∧
        (x.kind = .roaming → (curCore t).deque = (curCore s).deque ++ ms.map fun q => ⟨h.chan, q⟩)

-- Events of the network

/-- The packet in place k of the network may arrive next and takes this body from here to there (R183, R336). -/
def brings (s : State) (k : Nat) (src dst : Endpoint) (b : Body) : Prop := ∃ p, arriving s k = some p ∧ p.src = src ∧ p.dst = dst ∧ p.body = b

/-- The network after the packet in place k has left it. -/
def without (s : State) (k : Nat) : List Packet := s.net.eraseIdx k

/-- The NI of a site has r alone outstanding, on its way for the activation that its slot holds, outside any burst, and no notice waits. -/
def sole (s : State) (site : Nat) (r : Req) : Prop :=
  (getCore s site).reqs = [r] ∧ r.status = .flying ∧ r.killed = false ∧ r.tell = none ∧ r.burst = none ∧
    (getSlot s site r.slot).actId = r.act ∧ parked (getCore s site) r.slot r.act = false ∧ (getCore s site).notices = []

/-- The words an answer brings take the places in the fingerprint that the instruction kept for them (R310). -/
def folded (r : Req) (ws : List Word) (sl : Slot) : Slot :=
  { sl with fprint := sl.fprint ^^^ (ws.foldl (fun f w => f.rotateLeft 5 ^^^ w) (0 : Word)).rotateLeft (5 * (sl.folds - r.foldEnd)) }

/-- A slot without what a request had put on it: its counts in L and S, its pending bit (R77). -/
def lowered (r : Req) (sl : Slot) : Slot :=
  let sl := match r.dest with
    | .x a _ _ => setPendX sl a false
    | .v a _ _ => setPendV sl a false
    | .none => sl
  { sl with cntL := sl.cntL - (if r.cntL then 1 else 0), cntS := sl.cntS - (if r.cntS then 1 else 0) }

/-- The packet in place k has ended a sole request: it has left the network, the request the NI, the slot is as given, and nothing else
of any core's slots, of memory or of the other cores differs. -/
def ended (s t : State) (k site : Nat) (r : Req) (sl : Slot) : Prop :=
  t.net = without s k ∧ (getCore t site).reqs = [] ∧ getSlot t site r.slot = sl ∧ (∀ j, j ≠ r.slot → getSlot t site j = getSlot s site j) ∧
    (∀ y, y ≠ site → getCore t y = getCore s y) ∧ t.mem = s.mem ∧ (getCore t site).spad = (getCore s site).spad

/-- The packet in which a ferry sends a segment of a subscription's tile: a read, or of an output tile a write of the berth's bytes (R188,
R212, R332). -/
def segmentPacket (s : State) (f : Nat) (u : Sub) (y : Tile) (uid : Nat) (g : Seg) : Packet :=
  { src := .ferry f, dst := if space g.addr = 0xE then .landing (landingOfPort ((s.devid + fabricPeer g.addr) % 16)) else .ferry (homeFerry g.addr),
    cls := .bulk,
    body := .req { uid := uid, seq := 0, addr := g.addr, ordered := false, head := false, last := false, part := u.part, winbase := 0,
                   srcCore := 0x1FFD, slot := u.slot, act := 0,
                   op := if u.d.output = true ∧ g.kind ≠ .index then
                       .write (readBytes (getCore s (subSite s u)).spad (segOff y g) g.len) else .read g.len } }

/-- A table lists its keys in rising order, each once. -/
def sorted {α : Type} (t : Table α) : Prop := t.Pairwise fun a b => a.1 < b.1

/-- A core's NI has started the four page accesses of a spill frame, each to the home of its page (R296 to R298). -/
def pages (s t : State) (site frame : Nat) (out : Bool) : Prop :=
  (getCore t site).bulks.length = (getCore s site).bulks.length + 4 ∧
    ∃ l, t.net = s.net ++ l ∧ l.length = 4 ∧ ∀ (j : Nat) (p : Packet), nth l j = some p →
      p.src = .core site ∧ p.cls = .bulk ∧ p.dst = .ferry (homeFerry (frameAddr (getCore s site) frame j)) ∧
      ∃ q, p.body = .req q ∧ q.addr = frameAddr (getCore s site) frame j ∧
        if out then ∃ bs, bs.length = 4096 ∧ q.op = .write bs else q.op = .read 4096

/-- Beside the network and the buffers of its links, a state differs from another in one core alone. -/
def onlyCore (s t : State) (site : Nat) : Prop :=
  t = { s with net := t.net, links := t.links, cores := t.cores } ∧ ∀ y, y ≠ site → getCore t y = getCore s y

/-- The NI of the control core of a die has taken a message of its firmware. -/
def said (s t : State) (die : Nat) (m : Msg) : Prop := ∃ r ∈ (getCore t (ctrlSite s die)).reqs, r.op = .msg m

/-- The discovery flood has come to the router of site x of a die with these counts: the router has its coordinates, packets go on with the
counts of the next routers, east in row 0 and south, and the site's reply, to channel ch of the die's control core, is with its NI unless it is
the control core's (R381). `l` is what else is on the network. -/
def floodsAt (s t : State) (l : List Packet) (die ch x row col : Nat) : Prop :=
  let on := fun (y row col : Nat) => ({ src := .core x, dst := .core y, cls := .sys, body := .flood row col } : Packet)
  let east := if row = 0 ∧ x % 32 < 31 then [on (x + 1) row (col + 1)] else []
  let south := if x / 32 % 32 < 31 then [on (x + 32) (row + 1) col] else []
  let coords := die * 2 ^ 12 + row % 32 * 2 ^ 7 + col % 32 * 2 ^ 2
  tget t.routers x = some coords ∧ (x = ctrlSite s die → t.net = l ++ east ++ south) ∧
    (x ≠ ctrlSite s die → (getCore s x).reqs = [] → (∃ l', t.net = l ++ east ++ south ++ l') ∧ ∃ r ∈ (getCore t x).reqs, r.op = .msg
      { kind := 2, count := 1, srcCore := 0x1FFE, srcDev := s.devid, chan := ch, dstCore := 0x1FF0 + die, dstDev := s.devid,
        words := words6 [BitVec.ofNat 64 (coords / 4 + (tget s.failed x).getD 0 * 2 ^ 16)] })

/-- An export window of this device gives a device and partition this kind of access at an offset: the address and the owner (R345,
R346). -/
def exported (s : State) (dev part off : Nat) (perm : Window → Bool) (va own : Nat) : Prop :=
  ∃ w, tget s.windows (off / 2 ^ 40 % 64) = some w ∧ w.size ≠ 0 ∧ w.idev0 ≤ dev ∧ dev ≤ w.idev1 ∧ (w.ipart = 63 ∨ w.ipart = part) ∧
    perm w = true ∧ off % 2 ^ 40 < w.size * 4096 ∧ va = w.base + off % 2 ^ 40 ∧ own = w.ownpart

/-- A FIFO channel of a core that is in no dark or departing partition has a free pool slot and no quorum pattern on the core. -/
def roomIn (s : State) (site ch : Nat) (x : Chan) : Prop :=
  takesNext (getCore s site) ch x ∧ ∀ p, (getCore s site).part = some p → (getPart s p).dark = false ∧ (getPart s p).gone = false

/-- The channel has taken the message, from a sender of a partition. -/
def tookMsg (s t : State) (site ch : Nat) (x : Chan) (m : Msg) (part : Nat) : Prop :=
  tget (getCore t site).chans ch = some { x with queue := x.queue ++ [⟨m, s.time, false, part⟩] } ∧ ch ∈ (getCore t site).marked

/-- The control core of a die, its NI with nothing outstanding, holds one message m on channel 8, from a core of partition p, which is on
the device; no IINV is outstanding (R372). -/
def asks (s : State) (die p : Nat) (m : Msg) : Prop :=
  dieUp s die = true ∧ s.invs = [] ∧ (getCore s (ctrlSite s die)).reqs = [] ∧ senderPart s m = some p ∧ (getPart s p).dark = false ∧
    (getPart s p).halting = false ∧
    ∃ x q, tget (getCore s (ctrlSite s die)).chans 8 = some x ∧ x.queue = [q] ∧ x.waiters = [] ∧ q.msg = m

end Terms

end Sys2Proof
end

