-- ==== Sys2Proof/Certificates/Slice0/Obligations.lean ====
section
/-! DEFINITION. Certificates/Slice0/Obligations.lean: the statements for the provers. Each says what the spec's rules say of the machine;
its docstring names them. -/

section

open Sys2Proof Sys2Proof.Machine Sys2Proof.Terms

/-! ## Encoding and stepping -/

/-- Decoding the encoding of a well-formed instruction gives it back, with the length of the encoding, whatever follows (spec/03 R34 to
R47). -/
def Obligations.DecodeOfEncodeIsTheInstruction : Prop :=
  ∀ (i : Instr) (hs rest : List Half), i.wf = true → encode i = some hs → decode (hs ++ rest) = .ok (i, hs.length)

/-- Whatever the decoder accepts is a well-formed instruction of at most four prefixes and a base word, and it has an encoding
(R35 to R41). A prefix that stands out of the order PAGE, REG, EXT, IMM, a second PAGE, REG or EXT, and a fifth prefix are refused as BADPREFIX
at whatever place of the chain they stand, the first one that breaks a rule giving the tval; a chain in order is never refused so (R37, R45).
Page 3, and major 0 of page 0, are ILLEGAL after any chain in order (R45, R48). -/
def Obligations.DecoderAcceptsOnlyEncodings : Prop :=
  (∀ (hs : List Half) (i : Instr) (n : Nat), decode hs = .ok (i, n) → i.wf = true ∧ (encode i).isSome = true ∧ 1 ≤ n ∧ n ≤ 5) ∧
  (∀ (ps rest : List Half) (q : Half), (∀ p ∈ ps, isPrefix p = true) → inOrder ps → ps.length ≤ 4 →
    let tval := fun (n : Nat) => tvalDecode q.toNat n (pagePayload ps % 64) (pagePayload ps / 64)
    (isPrefix q = true → (ps.length = 4 ∨ ∃ p ∈ ps, prefixPlace q < prefixPlace p ∨ (prefixPlace q = prefixPlace p ∧ prefixPlace q < 4)) →
      decode (ps ++ q :: rest) = .error ⟨.badPrefix, tval ps.length⟩) ∧
    (isPrefix q = false →
      (∀ tv, decode (ps ++ q :: rest) ≠ .error ⟨.badPrefix, tv⟩) ∧
      (pagePayload ps / 64 = 3 → decode (ps ++ q :: rest) = .error ⟨.illegal, tval ps.length⟩) ∧
      (pagePayload ps / 64 = 0 → q.toNat / 2048 = 0 → decode (ps ++ q :: rest) = .error ⟨.illegal, tval ps.length⟩)))

/-- Words written out from the spec's encodings decode to the instructions they stand for (spec/03 R41, the encoding examples). -/
def Obligations.WordsOfTheSpecDecode : Prop :=
  decode [0xF000] = .ok (.nop, 1) ∧ decode [0xF007] = .ok (.brk, 1) ∧
  decode [0xFA80, 0x0C00] = .ok (.add 8 0 16, 2) ∧
  decode [0xFA34, 0x0C48] = .ok (.add 8 13 9, 2) ∧
  decode [0x3C07] = .ok (.li 8 7, 1) ∧
  decode [0xF801, 0x3400] = .ok (.addi 8 0 8, 2) ∧
  decode [0xFC40, 0xFA34, 0x0448] = .ok (.fadd .f32 ⟨.rne, false⟩ 8 13 9, 3) ∧
  decode [0xFC80, 0xFA34, 0xFE03, 0x0448] = .ok (.vadd .f32 ⟨.rne, false⟩ 8 13 9 3, 4) ∧
  decode [0xFD00, 0x1C00] = .error ⟨.illegal, tvalDecode 0x1C00 1 0 4⟩

/-- A step whose agenda names an event runs that event, after time has passed, and one that names an act of firmware or the host, which no
word of the opcode table stands for, performs that act (the order of the agents is the model's own free list, notes/assumptions/2). A step runs the decoded instruction. When the agenda is empty and slot k of the core in focus is the next in turn, runs, and has
nothing due before its next instruction, and its line is there, well formed, and starts an instruction at the program counter
that decodes to i, then the step is exec of i on that slot, with the instruction's length and the line's use recorded. An
instruction that leaves the slot not stalled is the one that issues, and the core keeps which it was (R11, R19, R43, R275, R322). -/
def Obligations.StepRunsTheEventOrTheDecodedInstruction : Prop :=
  (∀ (s : State) (i : Instr) (rest : List Turn), s.agenda = .event i :: rest → step s = exec i { tick s with agenda := rest }) ∧
  (∀ (s : State) (a : Act) (rest : List Turn), s.agenda = .act a :: rest → step s = .next (runAct a { tick s with agenda := rest })) ∧
  (∀ (s : State) (k : Fin 4) (l : CLine) (i : Instr) (n : Nat),
     let x := s.focus
     let c := getCore s x
     let sl := c.slots[k]
     let s' := updCur (updCurCore { tick s with cur := (x, k) } fun c =>
       { c with icache := c.icache.map fun y => if y.addr = l.addr then { y with used := s.stepNo + 1 } else y }) fun q =>
         { q with ilen := instrEnd l.words l.start (lineOff sl.pc) - lineOff sl.pc }
     s.agenda = [] → working s x = true → c.halted = false → k = Fin.ofNat 4 (c.lastIssued + 1) → runnable sl = true →
     c.spillOut = none → sl.due = [] → sl.stepOwed = false → sl.strictReq = none → skidFull c k = false → twinDue sl = false →
     findLine c sl.pc.toNat = some l → l.ok = true → l.start.getLsbD (lineOff sl.pc) = true →
     decode (l.words.drop (lineOff sl.pc)) = .ok (i, n) →
     (∀ t, exec i s' = .next t → leftStalled sl (getSlot t x k) = false →
       step s = .next (updCore t x fun c => { c with
         lastIssued := k.val, issued := some { slot := k, pat := patOf sl, act := sl.actId, pc := sl.pc, cycle := (tick s).cycle } })) ∧
     (∀ f, exec i s' = .fault f → step s = .fault f))

/-! ## The machine as a whole -/

/-- Every step keeps every memory in its canonical form: addresses rise, and no entry is listed that an unlisted address reads as. The form is
the model's own, and no rule of the spec names it (notes/assumptions/1). -/
def Obligations.StepsKeepMemoriesCanonical : Prop :=
  ∀ s t : State, memoriesWf s = true → step s = .next t → memoriesWf t = true

/-- The reset state of the model has canonical memories and no instruction running: every scratchpad byte 0, every core and cluster CSR at its
reset value, every slot FREE, a control core at site (0, 0) of each die and every other core in BOOT state. That the machine starts with
every site working and no control core's firmware running is the model's choice (notes/assumptions/6); the CSR values are those that R286
to R288 give, which R286 sets at partition build (R338, R376, R379). -/
def Obligations.ResetState : Prop :=
  memoriesWf State.reset = true ∧
  ∀ x < 4096, let c := getCore State.reset x
    (∀ o, readByte c.spad o = 0) ∧ c.tvec = 0 ∧ c.rotate = 0 ∧ c.stealdom = 0 ∧ c.spill = 0 ∧ c.dbgctl = 0 ∧ c.dbgact = 0 ∧
    c.stepCsr = 0 ∧ (∀ e : Fin 18, c.events[e] = 0) ∧ (∀ k : Fin 4, c.slots[k].mode = .free) ∧
    (getCluster State.reset (siteCluster x)).lease = 8 ∧ (getCluster State.reset (siteCluster x)).adptab = 0 ∧
    c.ctrl = decide (x % 1024 = 0) ∧ c.boot = !decide (x % 1024 = 0)

/-- A byte read after a write of bytes to a memory in canonical form is the byte written there, and every other byte is as before (R75). x0 reads as zero and discards writes, m0 reads as all ones and discards writes, and a write of any other register is read back and
changes no other register (R8, R49, R107). A natural window reads and writes the element R163 and R168 say: integers sign-extended and
clamped, floats exact and rounded with saturation, codes by R62 and R63; a half byte keeps the other half. A plane window stores the aligned
integers and the exponent byte of R166 in the planes of R165, and reads them back by R167. -/
def Obligations.ReadsSeeWrites : Prop :=
  (∀ (m : Mem) (a n v b : Nat), Mem.wf m = true → v < 2 ^ (8 * n) →
     readLE (writeLE m a n v) a n = v ∧
     (b < a ∨ a + n ≤ b → readByte (writeLE m a n v) b = readByte m b) ∧
     (∀ k < n, readByte (writeLE m a n v) (a + k) = BitVec.ofNat 8 (v / 2 ^ (8 * k)))) ∧
  (∀ (sl : Slot) (v : Word) (w : Mask32) (u : Lanes),
     (∀ i j : XReg, getX (setX sl i v) j = if j = 0 then 0 else if j = i then v else getX sl j) ∧
     (∀ i j : MReg, getM (setM sl i w) j = if j = 0 then BitVec.allOnes 32 else if j = i then w else getM sl j) ∧
     (∀ i j : VReg, getV (setV sl i u) j = if j = i then u else getV sl j) ∧
     setX sl 0 v = sl ∧ setM sl 0 w = sl) ∧
  (∀ (scale : Nat), scale < 256 →
     (∀ c < 16, decRead 12 scale c = ((BitVec.ofNat 4 c).signExtend 32).toNat ∧
       (scale % 64 = 63 → decRead 8 scale c = 0x7FC00000) ∧
       (scale % 64 ≠ 63 → isValue (decRead 8 scale c) (decide (codeValue scale c < 0))
         (codeValue scale c * 2 ^ (((scale % 64 : Nat) : Int) - 32)))) ∧
     (∀ c < 256, decRead 13 scale c = ((BitVec.ofNat 8 c).signExtend 32).toNat) ∧
     (∀ e ∈ [(9, e4m3), (10, e5m2), (11, bf16)], ∀ c < 2 ^ (e.2.ebits + e.2.frac + 1), let n := c % 2 ^ (e.2.ebits + e.2.frac)
       let neg := decide (2 ^ (e.2.ebits + e.2.frac) ≤ c)
       (n ≤ e.2.maxBits → isValue (decRead e.1 scale c) neg (if neg then -mag e.2 n else mag e.2 n)) ∧
       (e.2.hasInf = true → n = e.2.infBits → decRead e.1 scale c = if neg then 0xFF800000 else 0x7F800000) ∧
       (e.2.maxBits < n → ¬ (e.2.hasInf = true ∧ n = e.2.infBits) → decRead e.1 scale c = 0x7FC00000)) ∧
     ∀ v : BitVec 32,
       decWrite 12 scale v.toNat = (BitVec.ofInt 4 (max (-8) (min 7 v.toInt))).toNat ∧
       decWrite 13 scale v.toNat = (BitVec.ofInt 8 (max (-128) (min 127 v.toInt))).toNat ∧
       (∀ e ∈ [(9, e4m3), (10, e5m2), (11, bf16)], decWrite e.1 scale v.toNat =
         (roundWith e.2 ⟨.rne, true⟩ 0 (exOk (valOf fp32 v.toNat))).bits) ∧
       (scale % 64 = 63 ∨ valOf fp32 v.toNat = .nan → decWrite 8 scale v.toNat = 0) ∧
       (∀ neg, scale % 64 ≠ 63 → valOf fp32 v.toNat = .inf neg →
         decWrite 8 scale v.toNat = if neg then (if scale < 64 then 8 else 15) else 7) ∧
       (∀ neg m e, scale % 64 ≠ 63 → valOf fp32 v.toNat = .num neg m e →
         encodes scale (signedSize (.num neg m e) / 2 ^ (((scale % 64 : Nat) : Int) - 32)) (decWrite 8 scale v.toNat))) ∧
  (∀ (m : Mem) (sc : Nat → Nat) (w o l : Nat) (v : BitVec 32),
     let e := elemAt w o l
     let byte := (readByte m e.off).toNat
     (w = 8 ∨ w = 12 → e.off = o + l / 2 ∧ e.len = 1 ∧ (e.hi = true ↔ l % 2 = 1) ∧
       readElem m sc w e = decRead w (readByte m (sc e.off)).toNat (byte / (if e.hi then 16 else 1) % 16) ∧
       writeElem m sc w e v.toNat = writeByte m e.off (BitVec.ofNat 8 (let c := decWrite w (readByte m (sc e.off)).toNat v.toNat
         if e.hi then c * 16 + byte % 16 else byte / 16 * 16 + c))) ∧
     (∀ n, (w = 9 ∨ w = 10 ∨ w = 13) ∧ n = 1 ∨ w = 11 ∧ n = 2 → e.off = o + n * l ∧ e.len = n ∧
       readElem m sc w e = decRead w 0 (readLE m e.off n) ∧
       writeElem m sc w e v.toNat = writeLE m e.off n (decWrite w 0 v.toNat))) ∧
  (∀ (d : Nat) (q : List Int), 2 ≤ d → q.length = 32 → (∀ t ∈ q, -2 ^ (d - 1) ≤ t ∧ t < 2 ^ (d - 1)) →
     (planesOf d q).length = d ∧ ∀ (j : Nat) (t : Int), nth q j = some t → planeInt d (planesOf d q) j = t ∧
       ∀ (p w : Nat), nth (planesOf d q) p = some w → w < 2 ^ 32 ∧ w.testBit j = (t % 2 ^ d).toNat.testBit (d - 1 - p)) ∧
  (∀ (d : Nat) (vs : List FVal), 2 ≤ d →
     ((∃ v ∈ vs, v = .nan ∨ ∃ neg, v = .inf neg) → planeEncode d vs = (255, vs.map fun _ => 0)) ∧
     ((∀ v ∈ vs, ∃ neg m e, v = .num neg m e) → ∃ x q, topByte vs x ∧ alignedTo d vs x q ∧
       ((∀ t ∈ q, t ≠ 2 ^ (d - 1)) → planeEncode d vs = (x, q)) ∧
       (2 ^ (d - 1) ∈ q → x < 254 → ∃ q', alignedTo d vs (x + 1) q' ∧ planeEncode d vs = (x + 1, q')) ∧
       (2 ^ (d - 1) ∈ q → x = 254 → planeEncode d vs = (254, q.map fun t => min t (2 ^ (d - 1) - 1))))) ∧
  (∀ (lanes : List (BitVec 32)), lanes.length = 32 → let ns := lanes.map BitVec.toNat
     planeWrite 1 ns = (133, lanes.map fun v => (v.setWidth 8).toInt * 2 ^ 8) ∧
     planeWrite 2 ns = (129, lanes.map fun v => (v.setWidth 4).toInt * 2 ^ 4) ∧
     planeWrite 3 ns = planeEncode 8 (lanes.map fun v => blockVal ((ns.headD 0) / 256 % 256) (v.toNat % 16)) ∧
     ∀ e ∈ [(4, 16, e4m3), (5, 16, e5m2), (6, 32, bf16), (7, 32, fp32)], planeWrite e.1 ns = planeEncode e.2.1 (ns.map (valOf e.2.2))) ∧
  (∀ (w x : Nat) (q : Int), x < 255 →
     (-2 ^ 15 ≤ q → q < 2 ^ 15 → planeRead 1 x q = (BitVec.ofInt 32 (q / 2 ^ 8)).toNat) ∧
     (-2 ^ 7 ≤ q → q < 2 ^ 7 → planeRead 2 x q = (BitVec.ofInt 32 (q / 2 ^ 4)).toNat) ∧
     (w = 3 ∨ w = 4 ∨ w = 5 ∨ w = 6 ∨ w = 7 → planeRead w 255 q = 0x7FC00000 ∧
       planeRead w x q = (roundWith fp32 ⟨.rne, false⟩ 0
         (exOk (.num (decide (q < 0)) q.natAbs ((x : Int) - 127 - ((if w = 3 then 8 else if w = 4 ∨ w = 5 then 16 else 32) - 2))))).bits))

/-! ## Page 0 and page 1: registers only -/

/-- Every integer instruction completes with the result of R72 and R73, edge cases by R65, when no register it names awaits a load. -/
def Obligations.IntegerInstructionsGiveTheirResults : Prop :=
  ∀ (s : State) (i : Instr) (a : XReg) (rs : List XReg) (v : Word),
    intResult (getX (curSlot s)) i = some (a, rs, v) → xReady s rs → exec i s = .next (finish s (setX (curSlot s) a v) [v])

/-- Every scalar floating-point instruction completes with its one rounding, the flags gathered in fexc and the generator stepped
(R59, R85 to R91). Patterns stand for the values of R50, exact results are exact (R87), and Round takes of the two neighbouring values of
the format the one R54 and R56 name, with the overflow of R55 and the flags of R59 and R60; the generator steps as R57 says, once for a
rounding under .rs (which exact results step it, and which number the tininess rounding takes, is the model's choice: log entry 14; an
infinity under .sat adds NX to DZ: log entry 41). Operands that are NaN or infinite give what R51 and R60 say, 0 × ∞ raising NV even with a
NaN addend; compares, minimum and maximum, classes, and conversions to integers and integral values follow R53, R89 and R64. -/
def Obligations.ScalarFloatInstructionsGiveTheirResults : Prop :=
  (∀ f ∈ [fp64, fp32, bf16, fp16, e5m2, e4m3, a40],
    (∀ b < 2 ^ (f.ebits + f.frac + 1), let n := b % 2 ^ (f.ebits + f.frac); let neg := decide (2 ^ (f.ebits + f.frac) ≤ b)
      (n ≤ f.maxBits → ∃ m e, valOf f b = .num neg m e ∧ (m : ℚ) * 2 ^ e = mag f n) ∧
      (f.maxBits < n → valOf f b = if f.hasInf = true ∧ n = f.infBits then .inf neg else .nan)) ∧
    ∀ (m : RMod) (r : Nat), r < 2 ^ 32 →
      (∀ n, roundWith f m r ⟨.nan, n⟩ = ⟨f.nanBits, n⟩) ∧
      (∀ neg n, roundWith f m r ⟨.zero neg, n⟩ = ⟨if neg then 2 ^ (f.ebits + f.frac) else 0, n⟩) ∧
      (∀ neg n, roundWith f m r ⟨.inf neg, n⟩ =
        if m.sat then ⟨(if neg then 2 ^ (f.ebits + f.frac) else 0) + f.maxBits, n ||| fNX⟩
        else if f.hasInf then ⟨(if neg then 2 ^ (f.ebits + f.frac) else 0) + f.infBits, n⟩ else ⟨f.nanBits, fNV⟩) ∧
      ∀ (neg : Bool) (k : Nat) (e : Int) (st : Bool) (n lo : Nat) (x : ℚ), standsFor f k e st x → mag f lo ≤ x → x < mag f (lo + 1) →
        let b := if away m.rnd r neg (lo % 2 == 1) (mag f lo) (mag f (lo + 1)) x then lo + 1 else lo
        let y := roundWith f m r ⟨.real neg k e st, n⟩
        (f.maxBits < b → y = ⟨overflowed f m neg, n ||| fOF ||| fNX⟩) ∧
        (b ≤ f.maxBits → y.bits = (if neg then 2 ^ (f.ebits + f.frac) else 0) + b ∧ (mag f b = x → y.fl = n) ∧
          ∀ (p : Nat) (j : Int), mag f b ≠ x → precise f p j x →
            y.fl = n ||| (if (if away m.rnd r neg (p % 2 == 1) (p * 2 ^ j) ((p + 1) * 2 ^ j) x then (p + 1 : ℚ) else p) * 2 ^ j < 2 ^ f.emin
              then fUF ||| fNX else fNX))) ∧
  (∀ (a b : FVal) (i j : Bool) (m n : Nat) (d e : Int), a = .num i m d → b = .num j n e →
    (∀ rd, (signedSize a + signedSize b = 0 →
        exAdd rd a b = ⟨.zero (if m = 0 ∧ n = 0 ∧ i = j then i else rd), 0⟩) ∧
      (signedSize a + signedSize b ≠ 0 → ∃ k c, exAdd rd a b = ⟨.real (decide (signedSize a + signedSize b < 0)) k c false, 0⟩ ∧
        0 < k ∧ size (.num false k c) = |signedSize a + signedSize b|)) ∧
    (exMul a b = if m = 0 ∨ n = 0 then ⟨.zero (i != j), 0⟩ else ⟨.real (i != j) (m * n) (d + e) false, 0⟩) ∧
    (m ≠ 0 → n ≠ 0 → ∃ k c st, exDiv a b = ⟨.real (i != j) k c st, 0⟩ ∧ holdsOf id k c st (size a / size b)) ∧
    (m = 0 → n ≠ 0 → exDiv a b = ⟨.zero (i != j), 0⟩) ∧ (m = 0 → n = 0 → exDiv a b = ⟨.nan, fNV⟩) ∧ (m ≠ 0 → n = 0 → exDiv a b = ⟨.inf (i != j), fDZ⟩) ∧
    (m ≠ 0 → i = false → ∃ k c st, exSqrt a = ⟨.real false k c st, 0⟩ ∧ holdsOf (fun z => z * z) k c st (size a)) ∧
    (m ≠ 0 → i = true → exSqrt a = ⟨.nan, fNV⟩) ∧ (m = 0 → exSqrt a = ⟨.zero i, 0⟩) ∧
    (∀ (rd np nz : Bool) (z : FVal),
      exFma rd np nz a b z = exAdd rd (.num ((i != j) != np) (m * n) (d + e)) (if nz then z.neg else z))) ∧
  (∀ (i j rd np nz : Bool) (m : Nat) (d : Int) (x z : FVal), let a := FVal.num j m d; let t := if nz then z.neg else z
    (exAdd rd .nan x = ⟨.nan, 0⟩ ∧ exAdd rd x .nan = ⟨.nan, 0⟩ ∧ exMul .nan x = ⟨.nan, 0⟩ ∧ exMul x .nan = ⟨.nan, 0⟩ ∧
      exDiv .nan x = ⟨.nan, 0⟩ ∧ exDiv x .nan = ⟨.nan, 0⟩ ∧ exSqrt .nan = ⟨.nan, 0⟩ ∧
      exFma rd np nz .nan x z = ⟨.nan, 0⟩ ∧ exFma rd np nz x .nan z = ⟨.nan, 0⟩) ∧
    exAdd rd (.inf i) (.inf j) = (if i = j then ⟨.inf i, 0⟩ else ⟨.nan, fNV⟩) ∧
    exAdd rd (.inf i) a = ⟨.inf i, 0⟩ ∧ exAdd rd a (.inf i) = ⟨.inf i, 0⟩ ∧
    exMul (.inf i) (.inf j) = ⟨.inf (i != j), 0⟩ ∧ exDiv (.inf i) (.inf j) = ⟨.nan, fNV⟩ ∧
    exMul (.inf i) a = (if m = 0 then ⟨.nan, fNV⟩ else ⟨.inf (i != j), 0⟩) ∧
    exMul a (.inf i) = (if m = 0 then ⟨.nan, fNV⟩ else ⟨.inf (i != j), 0⟩) ∧
    exDiv (.inf i) a = ⟨.inf (i != j), 0⟩ ∧ exDiv a (.inf i) = ⟨.zero (i != j), 0⟩ ∧
    exSqrt (.inf i) = (if i then ⟨.nan, fNV⟩ else ⟨.inf false, 0⟩) ∧
    exFma rd np nz (.inf i) (.inf j) z = exAdd rd (.inf ((i != j) != np)) t ∧
    exFma rd np nz (.inf i) a z = (if m = 0 then ⟨.nan, fNV⟩ else exAdd rd (.inf ((i != j) != np)) t) ∧
    exFma rd np nz a (.inf i) z = (if m = 0 then ⟨.nan, fNV⟩ else exAdd rd (.inf ((i != j) != np)) t)) ∧
  (∀ x y : FVal, (fvLt x y = true ↔ below x y) ∧ (fvEq x y = true ↔ x ≠ .nan ∧ y ≠ .nan ∧ ¬below x y ∧ ¬below y x) ∧
    (fvLe x y = true ↔ x ≠ .nan ∧ y ≠ .nan ∧ ¬below y x)) ∧
  (∀ f ∈ [fp64, fp32, bf16, fp16, e5m2, e4m3, a40], let top := 2 ^ (f.ebits + f.frac)
    (∀ b < 2 * top, let neg := if top ≤ b then 8 else 0
      classOf f b = if b % top = 0 then neg else if b % top < 2 ^ f.frac then 1 + neg else if b % top ≤ f.maxBits then 2 + neg
        else if f.hasInf = true ∧ b % top = f.infBits then 3 + neg else 4) ∧
    (∀ a b : Nat, a < 2 * top → b < 2 * top → let x := valOf f a; let y := valOf f b
      (x = .nan → y = .nan → minBits f a b = f.nanBits ∧ maxBits f a b = f.nanBits) ∧
      (x = .nan → y ≠ .nan → minBits f a b = b ∧ maxBits f a b = b) ∧ (x ≠ .nan → y = .nan → minBits f a b = a ∧ maxBits f a b = a) ∧
      (below x y → minBits f a b = a ∧ maxBits f a b = b) ∧ (below y x → minBits f a b = b ∧ maxBits f a b = a) ∧
      (x ≠ .nan → y ≠ .nan → ¬below x y → ¬below y x →
        minBits f a b = (if top ≤ a then a else b) ∧ maxBits f a b = if top ≤ a then b else a)) ∧
    ∀ (m : RMod) (e : FEnv),
      toIntegral f m .nan e = (f.nanBits, e) ∧ (∀ i, toIntegral f m (.inf i) e = ((if i then top else 0) + f.infBits, e)) ∧
      (∀ i d, toIntegral f m (.num i 0 d) e = (if i then top else 0, e)) ∧
      ∀ (i : Bool) (k : Nat) (d : Int) (lo : Nat), let y := size (.num i k d)
        k ≠ 0 → (lo : ℚ) ≤ y → y < (lo + 1 : ℚ) →
        let g := if m.rnd = .rs then (if e.lfsr.getLsbD 0 then (e.lfsr >>> 1) ^^^ 0x80200003#32 else e.lfsr >>> 1) else e.lfsr
        let b := if away m.rnd g.toNat i (lo % 2 == 1) lo (lo + 1) y then lo + 1 else lo
        toIntegral f m (.num i k d) e =
          ((roundWith f m 0 (exOk (.num i b 0))).bits, ⟨g, if (lo : ℚ) = y then e.fl else e.fl ||| fNX⟩)) ∧
  (∀ (rnd : Rnd) (lo hi : Int) (e : FEnv),
    toInt rnd lo hi .nan e = (0, { e with fl := e.fl ||| fNV }) ∧
    (∀ i, toInt rnd lo hi (.inf i) e = (if i then lo else hi, { e with fl := e.fl ||| fNV })) ∧
    ∀ (i : Bool) (k : Nat) (d : Int) (n : Nat), let y := size (.num i k d)
      (n : ℚ) ≤ y → y < (n + 1 : ℚ) →
      let g := if rnd = .rs then (if e.lfsr.getLsbD 0 then (e.lfsr >>> 1) ^^^ 0x80200003#32 else e.lfsr >>> 1) else e.lfsr
      let b := if away rnd g.toNat i (n % 2 == 1) n (n + 1) y then n + 1 else n
      let v : Int := if i then -b else b
      toInt rnd lo hi (.num i k d) e =
        if v < lo then (lo, ⟨g, e.fl ||| fNV⟩) else if hi < v then (hi, ⟨g, e.fl ||| fNV⟩)
        else (v, ⟨g, if (n : ℚ) = y then e.fl else e.fl ||| fNX⟩)) ∧
  (∀ (f : FFmt) (m : RMod) (x : ExRes) (e : FEnv),
    let g := if m.rnd = .rs ∧ x.v ≠ .nan ∧ x.v ≠ .inf true ∧ x.v ≠ .inf false then
      (if e.lfsr.getLsbD 0 then (e.lfsr >>> 1) ^^^ 0x80200003#32 else e.lfsr >>> 1) else e.lfsr
    roundOne f m x e = ((roundWith f m g.toNat x).bits, ⟨g, e.fl ||| (roundWith f m g.toNat x).fl⟩)) ∧
  ∀ (s : State) (i : Instr) (a : XReg) (rs : List XReg) (r : Nat) (e : FEnv),
    fpResult (getX (curSlot s)) { lfsr := (curSlot s).lfsr } i = some (a, rs, r, e) → xReady s rs →
      exec i s = .next (finish s
        (setX { curSlot s with fexc := (curSlot s).fexc ||| BitVec.ofNat 5 e.fl, lfsr := e.lfsr } a (BitVec.ofNat 64 r))
        [BitVec.ofNat 64 r])

/-- R70: a page-0 instruction other than a load, store, branch, call, return or BRK changes only its destination register, and a page-1
instruction only its destination register and fexc (with the generator of R57 beside them); neither touches memory, masks,
vectors, streams, tiles or the counters L, S, E and M. Beyond R70's words the slot's own progress and the event counter change. -/
def Obligations.PageZeroAndOneChangeOnlyTheirRegisters : Prop :=
  ∀ (s t : State) (i : Instr) (a : XReg) (isFloat : Bool),
    ((∃ rs v, intResult (getX (curSlot s)) i = some (a, rs, v)) ∧ isFloat = false ∨ i = .nop ∧ a = 0 ∧ isFloat = false ∨
      (∃ rs r, fpResult (getX (curSlot s)) { lfsr := (curSlot s).lfsr } i = some (a, rs, r)) ∧ isFloat = true) →
    exec i s = .next t →
    (∀ j : XReg, j ≠ a → getX (curSlot t) j = getX (curSlot s) j) ∧ (isFloat = false → (curSlot t).fexc = (curSlot s).fexc) ∧
    (isFloat = false → (curSlot t).lfsr = (curSlot s).lfsr) ∧
    (curSlot t).v = (curSlot s).v ∧ (curSlot t).m = (curSlot s).m ∧ (curSlot t).streams = (curSlot s).streams ∧
    (curSlot t).pendX = (curSlot s).pendX ∧ (curSlot t).pendV = (curSlot s).pendV ∧
    (curSlot t).cntL = (curSlot s).cntL ∧ (curSlot t).cntS = (curSlot s).cntS ∧ (curSlot t).cntE = (curSlot s).cntE ∧
    (curSlot t).cntM = (curSlot s).cntM ∧ (curSlot t).strict = (curSlot s).strict ∧ (curSlot t).winbase = (curSlot s).winbase ∧
    (curSlot t).cause = (curSlot s).cause ∧ (curSlot t).tval = (curSlot s).tval ∧ (curSlot t).epc = (curSlot s).epc ∧
    (curSlot t).tseq = (curSlot s).tseq ∧ (curSlot t).sup = (curSlot s).sup ∧ (curSlot t).pm = (curSlot s).pm ∧
    (curSlot t).nest = (curSlot s).nest ∧ (curSlot t).late = (curSlot s).late ∧ (curSlot t).exact = (curSlot s).exact ∧
    (curSlot t).treq = (curSlot s).treq ∧
    curCore t = { curCore s with slots := (curCore t).slots, events := (curCore t).events } ∧
    (∀ k, k ≠ s.cur.2 → getSlot t s.cur.1 k = getSlot s s.cur.1 k) ∧ (∀ x, x ≠ s.cur.1 → getCore t x = getCore s x) ∧
    t = { s with cores := t.cores }

/-- NOP has no effect but to be retired, and BRK traps BREAK before any effect, with epc at itself and tval 0 (R84); TRAP retires and
raises SOFT with its immediate, epc at the next instruction (R291). -/
def Obligations.NopBrkAndTrap : Prop :=
  (∀ s : State, exec .nop s = .next (finish s (curSlot s) [])) ∧
  (∀ s : State, traps .brk s 0x18 0) ∧
  (∀ (s : State) (imm : BitVec 17),
    exec (.trap imm) s = .next (takeTrap (finish s (curSlot s) []) s.cur.1 s.cur.2
      { cause := 0x1A, tval := imm.setWidth 64, epc := fallThrough s }))

/-- A conditional branch whose condition fails falls through without a target check; a transfer whose target line is in the cache, with
a TARGET bit there or not well formed, sets the pc and, for a call, x1. A target outside global space traps BADSPACE, one in a
header or odd BADTARGET, and so does a clear TARGET bit, with nothing of the transfer done (R20, R80 to R83). Distances count halfwords of
the stream (R21, R49). A target whose line is not in the cache leaves the slot stalled with nothing of the transfer done, one request for
the line on its way, and the transfer noted with it (R11, R22, R23). That a relative target outside global space is not checked, and that
the arithmetic is modulo 2^64, is the model's choice (log entry 77). -/
def Obligations.BranchesCallsAndReturns : Prop :=
  (∀ (pc : Word) (n : Int), 16 ≤ bits pc 0 7 → pc.getLsbD 0 = false →
    let k : Int := pc.toNat / 128 * 56 + (((bits pc 0 7 : Nat) : Int) - 16) / 2 + n
    streamStep pc n = BitVec.ofInt 64 (k / 56 * 128 + 16 + 2 * (k % 56))) ∧
  ∀ (s : State) (i : Instr),
    let x := getX (curSlot s)
    let there := fun (n : Int) => streamStep (curSlot s).pc n
    let cond : Option (XReg × XReg × Int × Prop) := match i with
      | .bcEq a b d => some (a, b, d, x a = x b)
      | .bcNe a b d => some (a, b, d, x a ≠ x b)
      | .bcLt a b d => some (a, b, d, (x a).toInt < (x b).toInt)
      | .bcGe a b d => some (a, b, d, (x b).toInt ≤ (x a).toInt)
      | .bcLtn a b d => some (a, b, d, (x a).toNat < (x b).toNat)
      | .bcGen a b d => some (a, b, d, (x b).toNat ≤ (x a).toNat)
      | _ => none
    let goes : Option (Word × Bool × Bool × List XReg) := match i with
      | .br d => some (there d, false, false, [])
      | .call d => some (there d, false, true, [1])
      | .jr b => some (x b, true, false, [b])
      | .callr b => some (x b, true, true, [b, 1])
      | .ret => some (x 1, true, false, [1])
      | _ => none
    let arrive := fun (t : Word) (link : Bool) (l : CLine) =>
      retired s { curCore s with icache := (curCore s).icache.map fun y => if y.addr = l.addr then { y with used := s.stepNo } else y }
        (if link then setX (curSlot s) 1 (fallThrough s) else curSlot s) t (if link then [fallThrough s] else [])
    let misses := fun (t : Word) (link : Bool) => findLine (curCore s) t.toNat = none →
      let line := t.toNat / 128 * 128
      let under := ∃ f ∈ (curCore s).fills, f.line = line ∧ f.discard = false
      completes i s fun u =>
        (curSlot u).mode = .stalled ∧ (curSlot u).pc = (curSlot s).pc ∧ (curSlot u).x = (curSlot s).x ∧
        (curSlot u).retired = (curSlot s).retired ∧ (curCore u).icache = (curCore s).icache ∧
        (∃ f ∈ (curCore u).fills, f.line = line ∧ f.discard = false ∧
          { slot := s.cur.2, act := (curSlot s).actId, at_ := (curSlot s).pc, reach := t,
            xfer := some (if link then some (fallThrough s) else none) } ∈ f.waiters) ∧
        (under → u.net = s.net ∧ (curCore u).fills.length = (curCore s).fills.length) ∧
        (¬under → u.net = s.net ++ [firstLine s line] ∧ (curCore u).fills.length = (curCore s).fills.length + 1)
    (∀ a b d p, cond = some (a, b, d, p) → xReady s [a, b] →
      (¬p → exec i s = .next (finish s (curSlot s) [])) ∧
      (p → misses (there d) false) ∧
      (p → ∀ l, findLine (curCore s) (there d).toNat = some l →
        (l.ok = false ∨ l.target.getLsbD (lineOff (there d)) = true → exec i s = .next (arrive (there d) false l)) ∧
        (l.ok = true ∧ l.target.getLsbD (lineOff (there d)) = false → entersHandler i s 0x04 (there d)))) ∧
    (∀ t reg link rs, goes = some (t, reg, link, rs) → xReady s rs →
      (reg = true ∧ (space t ≠ 0 ∨ bits t 57 3 ≠ 0) → traps i s 0x06 t) ∧
      (reg = true ∧ space t = 0 ∧ bits t 57 3 = 0 ∧ (t.getLsbD 0 = true ∨ bits t 0 7 < 16) → traps i s 0x04 t) ∧
      ((reg = true → badPc t = none) → misses t link) ∧
      ((reg = true → badPc t = none) → ∀ l, findLine (curCore s) t.toNat = some l →
        (l.ok = false ∨ l.target.getLsbD (lineOff t) = true → exec i s = .next (arrive t link l)) ∧
        (l.ok = true ∧ l.target.getLsbD (lineOff t) = false → entersHandler i s 0x04 t)))

/-! ## Vectors, masks and streams -/

/-- Every lane-by-lane vector instruction whose registers are no bound streams completes with the lanes of its table entry, lower lanes
rounded first; inactive lanes keep their value, and the flags of the active lanes gather in fexc (R58, R59, R94 to R100). Every compare completes with one mask bit for each active lane, .lt and .le raising NV on a NaN (R60, R96).
The functions of R68 give the values of its table for NaN, infinite, zero and negative operands, and the exact values it names: 1 ÷ x, 1 ÷ √x,
2^x of an integer, log₂ of a power of two. What 2^x, log₂, tanh and sigm give for other finite operands is the model's evaluation (log
entry 15), and which exact results step the generator its choice (log entry 14). -/
def Obligations.VectorLanesAndComparesGetTheirResults : Prop :=
  (∀ (s : State) (i : Instr) (a : VReg) (xs : List XReg) (vs : List VReg) (k : MReg) (g : Fin 32 → FEnv → Nat × FEnv),
     laneResult (getX (curSlot s)) (getV (curSlot s)) (getM (curSlot s)) i = some (a, xs, vs, k, g) →
     xReady s xs → vReady s vs → unbound s vs →
     let r := laneRun (getM (curSlot s) k) g (getV (curSlot s) a) { lfsr := (curSlot s).lfsr }
     exec i s = .next (finish s
       (setV { curSlot s with fexc := (curSlot s).fexc ||| BitVec.ofNat 5 r.2.fl, lfsr := r.2.lfsr } a r.1) (vecWords r.1))) ∧
  (∀ (s : State) (i : Instr) (a : MReg) (vs : List VReg) (k : MReg) (g : Fin 32 → FEnv → Bool × FEnv),
     cmpResult (getV (curSlot s)) i = some (a, vs, k, g) → vReady s vs → unbound s vs →
     let r := bitRun (getM (curSlot s) k) g (getM (curSlot s) a) { lfsr := (curSlot s).lfsr }
     exec i s = .next (finish s
       (setM { curSlot s with fexc := (curSlot s).fexc ||| BitVec.ofNat 5 r.2.fl, lfsr := r.2.lfsr } a r.1) [r.1.setWidth 64])) ∧
  (∀ g ∈ [exExp2, exLog2, exRcp, exRsq, exTanh, exSigm], g .nan = ⟨.nan, 0⟩) ∧
  (∀ (i : Bool) (e : Int),
     exExp2 (.num i 0 e) = ⟨.real false 1 0 false, 0⟩ ∧ exExp2 (.inf i) = ⟨if i then .zero false else .inf false, 0⟩ ∧
     exLog2 (.num i 0 e) = ⟨.inf true, fDZ⟩ ∧ exLog2 (.inf i) = (if i then ⟨.nan, fNV⟩ else ⟨.inf false, 0⟩) ∧
     exRcp (.num i 0 e) = ⟨.inf i, fDZ⟩ ∧ exRcp (.inf i) = ⟨.zero i, 0⟩ ∧
     exRsq (.num i 0 e) = ⟨.inf i, fDZ⟩ ∧ exRsq (.inf i) = (if i then ⟨.nan, fNV⟩ else ⟨.zero false, 0⟩) ∧
     exTanh (.num i 0 e) = ⟨.zero i, 0⟩ ∧ exTanh (.inf i) = ⟨.real i 1 0 false, 0⟩ ∧
     exSigm (.num i 0 e) = ⟨.real false 1 (-1) false, 0⟩ ∧ exSigm (.inf i) = ⟨if i then .zero false else .real false 1 0 false, 0⟩) ∧
  (∀ (i : Bool) (m : Nat) (e : Int), let a := FVal.num i m e
     m ≠ 0 →
     (i = true → exLog2 a = ⟨.nan, fNV⟩ ∧ exRsq a = ⟨.nan, fNV⟩) ∧
     (∃ k c st, exRcp a = ⟨.real i k c st, 0⟩ ∧ holdsOf id k c st (1 / size a)) ∧
     (i = false → ∃ k c st, exRsq a = ⟨.real false k c st, 0⟩ ∧ holdsOf (fun z => z * z) k c st (1 / size a)) ∧
     (i = false → ∀ l : Nat, m = 2 ^ l → exLog2 a =
       ⟨if e + l = 0 then .zero false else .real (decide (e + l < 0)) (e + l).natAbs 0 false, 0⟩) ∧
     (∀ n : Int, signedSize a = n → n.natAbs < 2 ^ 14 → exExp2 a = ⟨.real false 1 n false, 0⟩))

/-- A reduction combines the lanes in the tree of R66, inactive ones as the identity, into lane 0 and clears the others; VSCAN gives each
active lane the running combination of R67 (R66, R67, R98). -/
def Obligations.ReductionsFollowTheTree : Prop :=
  ∀ (s : State) (i : Instr) (a b : VReg) (k : MReg), vReady s [a, b] → unbound s [a, b] →
    (∀ ident op, reduceForm i = some (a, b, k, ident, op) →
      let r := treeOf op (entering (getM (curSlot s) k) (getV (curSlot s) b) ident) { lfsr := (curSlot s).lfsr }
      let v : Lanes := (Vector.replicate 32 0).set 0 (BitVec.ofNat 32 r.1)
      exec i s = .next (finish s
        (setV { curSlot s with fexc := (curSlot s).fexc ||| BitVec.ofNat 5 r.2.fl, lfsr := r.2.lfsr } a v) (vecWords v))) ∧
    (∀ t rnd, i = .vscan t rnd a b k →
      let r := scanOf (addOf t rnd) (entering (getM (curSlot s) k) (getV (curSlot s) b) (addId t)) { lfsr := (curSlot s).lfsr }
      let v : Lanes := Vector.ofFn fun l => if (getM (curSlot s) k).getLsbD l.val then BitVec.ofNat 32 (r.1 l.val) else (getV (curSlot s) a)[l]
      exec i s = .next (finish s
        (setV { curSlot s with fexc := (curSlot s).fexc ||| BitVec.ofNat 5 r.2.fl, lfsr := r.2.lfsr } a v) (vecWords v)))

/-- The mask instructions, VINS and VEXT complete with their results (R97, R107). -/
def Obligations.MaskInsertAndExtractResults : Prop :=
  ∀ s : State,
    (∀ i xs r, maskResult (getX (curSlot s)) (getM (curSlot s)) i = some (xs, r) → xReady s xs →
      exec i s = .next (match r with
        | .inl (a, v) => finish s (setM (curSlot s) a v) [v.setWidth 64]
        | .inr (a, v) => finish s (setX (curSlot s) a v) [v])) ∧
    (∀ a b (n : Fin 32), xReady s [b] → vReady s [a] → unbound s [a] →
      let v := (getV (curSlot s) a).set n ((getX (curSlot s) b).setWidth 32)
      exec (.vins a b n) s = .next (finish s (setV (curSlot s) a v) (vecWords v))) ∧
    (∀ t a b (n : Fin 32), xReady s [a] → vReady s [b] → unbound s [b] →
      let y := (getV (curSlot s) b)[n]
      let v : Word := match t with | .s32 => y.signExtend 64 | _ => y.setWidth 64
      exec (.vext t a b n) s = .next (finish s (setX (curSlot s) a v) [v]))

/-- SBIND and BSTR bind a stream that the rules of R110 allow, at position 0 with its lanes cleared, and trap STREAM with code BIND
otherwise; SUNBIND ends a binding and SREM gives the elements that remain, 0 when unbound (R108 to R110, R112). For every vector
instruction: a bound read stream stands for a register that holds its next 32 elements, zeros past COUNT, whether it feeds a lane
operation, a compare, a reduction, VEXT, a vector store or add, an index or a SENDV, and it moves on once, whatever the mask; a bound write
stream takes the lanes that the instruction would write to the register, at POS, and moves on once (R111). A read of a write stream, a write
to a read stream, the addend and destination A of a fused form in either direction, and a stream as the A of VINS or of a vector load trap
DIRECTION, a use of a stream at its end OVERRUN, for the lowest register at fault and before any effect (R112). That the bind of a
descriptor whose 32 bytes run past 0x7FFFF fails with code BIND is the model's choice (log entry 76). -/
def Obligations.StreamsAreBoundFedAndEnded : Prop :=
  (∀ (s : State) (r : SReg) (b c : XReg),
     let q : VReg := streamReg r
     let bound := fun (t : Option Stream) =>
       setV { curSlot s with streams := (curSlot s).streams.set r t } q (Vector.replicate 32 0)
     let refuses := fun (i : Instr) => traps i s 0x0B (BitVec.ofNat 64 (q.val * 256 + 1))
     let sb : Stream := { base := getX (curSlot s) b, count := (getX (curSlot s) c).toNat, stride := 1, write := false, pos := 0 }
     (xReady s [b, c] → vReady s [q] →
       (sb.count < 2 ^ 32 ∧ bindOk s sb = true → exec (.sbind r b c) s = .next (finish s (bound (some sb)) [])) ∧
       (2 ^ 32 ≤ sb.count ∨ bindOk s sb = false → refuses (.sbind r b c))) ∧
     (∀ t : Stream, xReady s [b] → vReady s [q] → descOk s (getX (curSlot s) b) 32 = true →
       spadSite s (meshOff (getX (curSlot s) b)) = s.cur.1 → sound (curCore s) [(meshOff (getX (curSlot s) b), 32)] →
       let w := fun n => BitVec.ofNat 64 (readLE (curCore s).spad (meshOff (getX (curSlot s) b) + 8 * n) 8)
       t = { base := w 0, count := ((w 1).setWidth 32).toNat, stride := ((w 1).extractLsb' 32 32).toInt, write := (w 2).getLsbD 0, pos := 0 } →
       ((w 2).toNat < 2 ∧ w 3 = 0 ∧ bindOk s t = true → exec (.bstr r b) s = .next (finish s (bound (some t)) [])) ∧
       (2 ≤ (w 2).toNat ∨ w 3 ≠ 0 ∨ bindOk s t = false → entersHandler (.bstr r b) s 0x0B (BitVec.ofNat 64 (q.val * 256 + 1)))) ∧
     (xReady s [b] → vReady s [q] → descOk s (getX (curSlot s) b) 32 = false → refuses (.bstr r b)) ∧
     (vReady s [q] → exec (.sunbind r) s = .next (finish s (if (curSlot s).streams[r] = none then curSlot s else bound none) [])) ∧
     (xReady s [b] → exec (.srem b r) s = .next
       (let v := match (curSlot s).streams[r] with | some t => BitVec.ofNat 64 (t.count - t.pos) | none => 0
        finish s (setX (curSlot s) b v) [v]))) ∧
  (∀ (s : State) (i : Instr) (f : VecForm), vecForm i = some f → vecReady s f →
     let sl := curSlot s
     -- sources
     ((curSlot s).twin = none → feeds s f.srcs → unbound s (f.dst.toList ++ f.loads) →
       ∀ u, exec i (plainly s f.srcs []) = .next u → (curSlot u).retired = sl.retired + 1 →
         exec i s = .next (withStreams s f.srcs u)) ∧
     -- a destination
     (∀ a t, f.dst = some a → streamOf sl a = some t → a ∉ f.srcs → t.write = true → t.pos < t.count → soundStream s t →
       sl.twin = none → feeds s f.srcs → mayRelease s →
       ∀ u, exec i (plainly s f.srcs [a]) = .next u → (curSlot u).retired = sl.retired + 1 →
         completes i s fun w =>
           (curSlot w).streams = movedOn sl (a :: f.srcs) ∧ (curSlot w).v = sl.v ∧ (curSlot w).pc = fallThrough s ∧
           (curSlot w).fexc = (curSlot u).fexc ∧ (curSlot w).lfsr = (curSlot u).lfsr ∧ (curSlot w).x = sl.x ∧ (curSlot w).m = sl.m ∧
           (curCore w).spad = (List.finRange 32).foldl (fun m l =>
             if (getM sl f.wr).getLsbD l.val ∧ t.pos + l.val < t.count then
               writeElem m (mx4ScaleOff sl.winbase) (meshWin t.base) (streamAt t (t.pos + l.val)) (getV (curSlot u) a)[l].toNat
             else m) (curCore s).spad ∧
           (meshWin t.base = 0 → (curCore w).spad = lanesStored (curCore s).spad
             (fun l => (getM sl f.wr).getLsbD l.val && decide (t.pos + l.val < t.count))
             (fun l => ((meshOff t.base : Int) + 4 * (((t.pos + l.val : Nat) : Int) * t.stride)).toNat) (getV (curSlot u) a))) ∧
     -- faults
     (∀ (r : VReg) (n : Nat), faultOf s f r = some n → (∀ q : VReg, q < r → faultOf s f q = none) →
       traps i s 0x0B (BitVec.ofNat 64 (r.val * 256 + n))))

/-! ## Memory -/

/-- A local load completes with the bytes it names, extended by its size: RAW bytes in little-endian order, a decoded element or two
through another window (R14, R75, R77, R169). An uncorrectable word that it meets traps LOCALUE with the word's offset in an activation
that is not replayable, after a report of kind UNREPLAYABLE where its pattern asks for replay, and ends one that is (R14, R274, R307). A
single-bit error in the word that a RAW load meets is corrected and counted, and the load completes with the word's bytes (R14, R325).
That a report stands in its channel in the very step that raises it is the model's choice (log entry 11). -/
def Obligations.LocalLoadsGiveTheirBytes : Prop :=
  ∀ (s : State) (i : Instr) (a b : XReg) (imm : Int) (rlx : Bool) (n : Nat) (sgn sized : Bool),
    let e := ea s b imm
    let w := meshWin e
    let o := meshOff e
    let c := curCore s
    let sl := curSlot s
    let sc := mx4ScaleOff sl.winbase
    let word := o / 8 * 8
    let done := fun v => exec i s = .next (finish s (setX sl a (loaded n sgn v)) [loaded n sgn v])
    loadForm i = some (a, b, imm, rlx, n, sgn, sized) → xReady s [a, b] → checkScalar s e n sized = none → isLocal s e →
      (w = 0 → sound c [(o, n)] → done (readLE c.spad o n)) ∧
      (w ≠ 0 → n = 4 → sound c (elemRanges sc w (elemAt w o 0)) → done (readElem c.spad sc w (elemAt w o 0))) ∧
      (w ≠ 0 → n = 8 → sound c (elemRanges sc w (elemAt w o 0) ++ elemRanges sc w (elemAt w o 1)) →
        done (readElem c.spad sc w (elemAt w o 0) + 2 ^ 32 * readElem c.spad sc w (elemAt w o 1))) ∧
      (w = 0 → word ∉ c.spadUE → c.spadCE.filter (fun k => k == word) = [word] →
        let fixed := { c with spadCE := c.spadCE.filter (fun k => k != word), corrected := c.corrected + 1,
                              events := c.events.set 11 (c.events[11] + 1) }
        exec i s = .next (retired s fixed (setX sl a (loaded n sgn (readLE c.spad o n))) (fallThrough s) [loaded n sgn (readLE c.spad o n)])) ∧
      (∀ k, (w = 0 ∧ word ∈ c.spadUE ∧ k = word) ∨ readScalar c sl.winbase w o n = .error k →
        (sl.replayable = false → (∀ f, sl.fired = some f → f.replay = false) → traps i s 0x10 (BitVec.ofNat 64 k)) ∧
        (sl.replayable = false → (∃ f, sl.fired = some f ∧ f.replay = true) → entersHandler i s 0x10 (BitVec.ofNat 64 k) ∧
          (sl.sup = false → c.tvec ≠ 0 → completes i s fun t => reports s t 9 0x10 (BitVec.ofNat 64 k) sl.pc 0 0)) ∧
        (sl.replayable = true → alone s → completes i s fun t =>
          (curSlot t).mode = .closing ∧ (curSlot t).outbox = [] ∧ (curSlot t).pc = sl.pc ∧ (curSlot t).x = sl.x ∧
          ((∀ f, sl.fired = some f → f.returned = false) → gaveBack s t) ∧
          ((∃ f, sl.fired = some f ∧ f.returned = true) → reports s t 9 0x10 (BitVec.ofNat 64 k) sl.pc 0 0)))

/-- A local store completes with its bytes stored and nothing else changed: inside the slot frame at once, outside it after the
release of R306. A word stored whole gets fresh check bits. A narrower store into a word with an uncorrectable error stores nothing, and
traps LOCALUE with the word's offset, or ends a replayable activation, as a load does (R14, R75, R77, R170, R274, R306, R307; that a report
stands in its channel in the step that raises it is log entry 11). -/
def Obligations.LocalStoresStoreTheirBytes : Prop :=
  ∀ (s : State) (i : Instr) (a b : XReg) (imm : Int) (rlx : Bool) (n : Nat) (sized : Bool),
    let e := ea s b imm
    let w := meshWin e
    let o := meshOff e
    let v := (getX (curSlot s) a).toNat % 2 ^ (8 * n)
    let R := if inFrame s.cur.2 o then s else released s
    storeForm i = some (a, b, imm, rlx, n, sized) → xReady s [a, b] → checkScalar s e n sized = none → isLocal s e →
    (inFrame s.cur.2 o = true ∨ ((curSlot s).twin = none ∧ mayRelease s)) →
      (∀ c, writeScalar (curCore R) (curSlot s).winbase w o n v = .ok ((), c) →
        exec i s = .next (retired R c (curSlot R) (fallThrough R) [])) ∧
      (w = 0 → sound (curCore R) [(o, n)] →
        exec i s = .next (retired R { freshen (curCore R) [(o, n)] with spad := writeLE (curCore R).spad o n v }
          (curSlot R) (fallThrough R) [])) ∧
      (∀ k, (w = 0 ∧ n < 8 ∧ k = o / 8 * 8 ∧ k ∈ (curCore s).spadUE) ∨ writeScalar (curCore R) (curSlot s).winbase w o n v = .error k →
        (inFrame s.cur.2 o = true ∨ (curSlot s).replayable = false) →
        ((curSlot s).replayable = false → (∀ f, (curSlot s).fired = some f → f.replay = false) → traps i s 0x10 (BitVec.ofNat 64 k)) ∧
        ((curSlot s).replayable = false → (∃ f, (curSlot s).fired = some f ∧ f.replay = true) →
          entersHandler i s 0x10 (BitVec.ofNat 64 k) ∧ ((curSlot s).sup = false → (curCore s).tvec ≠ 0 →
            completes i s fun t => reports s t 9 0x10 (BitVec.ofNat 64 k) (curSlot s).pc 0 0 ∧ (curCore t).spad = (curCore s).spad)) ∧
        ((curSlot s).replayable = true → alone s → completes i s fun t =>
          (curSlot t).mode = .closing ∧ (curSlot t).outbox = [] ∧ (curSlot t).pc = (curSlot s).pc ∧ (curCore t).spad = (curCore s).spad ∧
          ((∀ f, (curSlot s).fired = some f → f.returned = false) → gaveBack s t) ∧
          ((∃ f, (curSlot s).fired = some f ∧ f.returned = true) → reports s t 9 0x10 (BitVec.ofNat 64 k) (curSlot s).pc 0 0)))

/-- The frame of a scratchpad store: a scalar store changes no byte outside its n bytes, or outside the elements it names, and a vector
store none outside the elements of its active lanes, or its plane group and exponent byte; nothing else of the core changes but check
bits, their event counter and the count of errors corrected (R75, R102, R166, R170). -/
def Obligations.ScratchpadStoresChangeOnlyTheirBytes : Prop :=
  ∀ (c c' : Core) (wb : Word) (w o : Nat),
    let same := { c' with spad := c.spad, spadUE := c.spadUE, spadCE := c.spadCE, events := c.events, corrected := c.corrected } = c ∧
      (∀ e : Fin 18, e ≠ 11 → c'.events[e] = c.events[e])
    (∀ n v, w < 14 → isPlane w = false → writeScalar c wb w o n v = .ok ((), c') → same ∧ ∀ x,
      (∀ j < (if w = 0 then n else if n = 8 then 2 else 1),
        let r := if w = 0 then ⟨o + j, 1, false⟩ else elemAt w o (j : Int)
        x < r.off ∨ r.off + r.len ≤ x) →
      readByte c'.spad x = readByte c.spad x) ∧
    (∀ act v, w < 14 → isPlane w = false → writeVec c wb w o act v = .ok ((), c') → same ∧ ∀ x,
      (∀ l : Fin 32, act.getLsbD l.val = true → x < (elemAt w o l.val).off ∨ (elemAt w o l.val).off + (elemAt w o l.val).len ≤ x) →
      readByte c'.spad x = readByte c.spad x) ∧
    (∀ act v, isPlane w = true → writeVec c wb w o act v = .ok ((), c') → same ∧ ∀ x,
      (x < o ∨ o + 4 * planeDepth w ≤ x) → x ≠ planeExpOff wb w o → readByte c'.spad x = readByte c.spad x)

/-- An access that fails a check traps with the first cause in the order of R76, tval the effective address, and has no effect. The
first steps spelled out: an unused space or a field that must be 0, a core outside the partition, a window above 13, an address that is
no multiple of the size, a plane window, a size below a word through a window (R76, R169). -/
def Obligations.ScalarAccessTraps : Prop :=
  ∀ (s : State) (i : Instr) (a b : XReg) (imm : Int) (rlx : Bool) (n : Nat) (sgn sized : Bool),
    let e := ea s b imm
    let bad := (space e = 0 ∧ bits e 57 3 ≠ 0) ∨ (space e = 0xE ∧ bits e 56 4 ≠ 0) ∨
      (space e = 0xF ∧ (bits e 48 12 ≠ 0 ∨ bits e 24 11 ≠ 0 ∨ bits e 19 1 ≠ 0)) ∨ (space e ≠ 0 ∧ space e ≠ 0xE ∧ space e ≠ 0xF)
    let foreign := space e = 0xF ∧ meshCore e ≠ 0x1FFF ∧ (curCore s).ctrl = false ∧
      ∀ p, (curCore s).part = some p → inPart s p (meshCore e) = false
    let uneven := (space e ≠ 0xF ∨ meshWin e = 0) ∧ e.toNat % n ≠ 0
    (loadForm i = some (a, b, imm, rlx, n, sgn, sized) ∨ storeForm i = some (a, b, imm, rlx, n, sized)) → xReady s [a, b] →
      (bad ∨ foreign → traps i s 0x06 e) ∧
      (¬bad → ¬foreign → space e = 0xF → 14 ≤ meshWin e → traps i s 0x07 e) ∧
      (¬bad → ¬foreign → (space e = 0xF → meshWin e < 14) → uneven → traps i s 0x05 e) ∧
      (¬bad → ¬foreign → space e = 0xF → 1 ≤ meshWin e → meshWin e ≤ 7 → traps i s 0x08 e) ∧
      (¬bad → ¬foreign → space e = 0xF → 8 ≤ meshWin e → meshWin e < 14 → sized = false → traps i s 0x07 e) ∧
      (¬bad → ¬foreign → space e = 0xF → sized = true →
        (meshWin e = 11 ∧ n = 8 ∧ meshOff e % 4 ≠ 0 ∨ meshWin e = 11 ∧ n = 4 ∧ meshOff e % 2 ≠ 0 ∨
          (meshWin e = 9 ∨ meshWin e = 10 ∨ meshWin e = 13) ∧ n = 8 ∧ meshOff e % 2 ≠ 0) → traps i s 0x05 e)

/-- A remote load issues one request to the home of its address, which enters the NI's table: L rises, the destination awaits the
answer, and the instruction retires. A relaxed load is unordered (R77, R104, R171, R179). Under STRICT a remote access is issued, and the slot then waits at the instruction until the request has left the NI; at the next
boundary after that it retires (R283). -/
def Obligations.RemoteLoadsIssueTheirRequest : Prop :=
  (∀ (s : State) (home dst : Endpoint), idleNi s → (curSlot s).cntL < 31 → (curSlot s).strict = false → (curSlot s).twin = none →
     (∀ i a b imm rlx n sgn sized, loadForm i = some (a, b, imm, rlx, n, sgn, sized) → xReady s [a, b] →
       let e := ea s b imm
       checkScalar s e n sized = none → isOwn s e = false → leads s e home dst →
       exec i s = .next (asked s (askReq s (.read n) e home (!rlx) (.x a n sgn) true false false)
         { setPendX (curSlot s) a true with cntL := (curSlot s).cntL + 1 } [e] (firstPacket s (.read n) e (!rlx) dst))) ∧
     (∀ (bcast : Bool) a b imm rlx k, xReady s [b] → vReady s [a] → unbound s [a] →
       let e := ea s b imm
       let act := getM (curSlot s) k
       checkVec s (curSlot s) e false bcast act = none → isOwn s e = false → leads s e home dst →
       exec (if bcast then .vldb a b imm rlx k else .vld a b imm rlx k) s =
         .next (asked s (askReq s (.vread act bcast) e home (!rlx) (.v a act bcast) true false false)
           { setPendV (curSlot s) a true with cntL := (curSlot s).cntL + 1 } [e] (firstPacket s (.vread act bcast) e (!rlx) dst)))) ∧
  (∀ (s : State) (i : Instr) (a b : XReg) (imm : Int) (rlx : Bool) (n : Nat) (sgn sized : Bool) (home dst : Endpoint),
     let e := ea s b imm
     loadForm i = some (a, b, imm, rlx, n, sgn, sized) → idleNi s → (curSlot s).cntL < 31 → (curSlot s).strict = true →
     (curSlot s).twin = none → xReady s [a, b] → checkScalar s e n sized = none → isOwn s e = false → leads s e home dst →
       completes i s fun t =>
         (curSlot t).mode = .stalled ∧ (curSlot t).pc = (curSlot s).pc ∧ (curSlot t).retired = (curSlot s).retired ∧
         (curSlot t).strictReq = some (curCore s).nextSeq ∧ pendingX (curSlot t) a = decide (a ≠ 0) ∧
         t.net = s.net ++ [firstPacket s (.read n) e (!rlx) dst] ∧
         (∀ u : State, curCore u = { curCore t with reqs := [] } → u.cur = t.cur → (curSlot t).due = [] → (curSlot t).stepOwed = false →
           slotTurn exec u.cur.1 u.cur.2 u = .next (finish u { curSlot u with strictReq := none, strictNext := none } [])))

/-- A remote store, vector store, vector add or atomic without a result is posted: S rises and one request goes to the home. In a
replayable activation it enters the outbox instead, while that has room, and nothing leaves the core (R77, R104, R192, R193, R305). Under
STRICT the stream that a vector store reads moves on only when the store completes (R111, R283). -/
def Obligations.PostedRequestsIssueOrAreBuffered : Prop :=
  ∀ (s : State) (i : Instr) (xs : List XReg) (vs : List VReg) (e : Word) (ok : Prop) (op : ROp) (ord : Bool) (ws : List Word)
    (home dst : Endpoint),
    postForm s i = some (xs, vs, e, ok, op, ord, ws) → ok → xReady s xs → vReady s vs → unbound s vs → isOwn s e = false →
      (idleNi s → (curSlot s).cntS < 64 → (curSlot s).strict = false → plainAct s → leads s e home dst →
        exec i s = .next (asked s (askReq s op e home ord .none false true false)
          { curSlot s with cntS := (curSlot s).cntS + 1 } (e :: ws) (firstPacket s op e ord dst))) ∧
      ((curSlot s).replayable = true → (curSlot s).outbox.length < 32 →
        exec i s = .next (finish s
          { curSlot s with outbox := (curSlot s).outbox ++
              [{ op := op, addr := e, ordered := ord, winbase := (curSlot s).winbase, retAt := (curSlot s).retired + 1, snapReads := [],
                 rect := none }] } (e :: ws))) ∧
      (∀ a b imm rlx k st, i = .vst a b imm rlx k → ok → xReady s [b] → vReady s [a] → streamOf (curSlot s) a = some st → feeds s [a] →
        isOwn s e = false → idleNi s → (curSlot s).cntS < 64 → (curSlot s).strict = true → plainAct s → leads s e home dst →
        completes i s fun t =>
          (curSlot t).mode = .stalled ∧ (curSlot t).streams = (curSlot s).streams ∧ (curSlot t).retired = (curSlot s).retired ∧
          (curSlot t).strictReq = some (curCore s).nextSeq ∧
          t.net = s.net ++ [firstPacket s (.vwrite (getM (curSlot s) k) (fed s a)) e ord dst] ∧
          (∀ u : State, curCore u = { curCore t with reqs := [] } → u.cur = t.cur → (curSlot t).due = [] → (curSlot t).stepOwed = false →
            ∃ v, slotTurn exec u.cur.1 u.cur.2 u = .next v ∧ (curSlot v).streams = movedOn (curSlot s) [a] ∧
              (curSlot v).retired = (curSlot s).retired + 1 ∧ (curSlot v).pc = fallThrough s))

/-- Local vector loads, gathers and tile loads complete: the active lanes get the elements named and the others keep their value
(R102 to R106, R199). Local vector stores, scatters and tile stores complete with their elements stored, after the release of R306 where a byte lies
outside the slot frame; through RAW the active lanes are stored as little-endian words one after another, so of two lanes of a scatter at
one place the higher remains; VSTT always releases, and with FIN turns the berth READY (R75, R102 to R106, R202, R306). -/
def Obligations.LocalVectorAccessesComplete : Prop :=
  (∀ s : State,
     let c := curCore s
     let sl := curSlot s
     let sc := mx4ScaleOff sl.winbase
     let done := fun (i : Instr) (c' : Core) (a : VReg) (ls : List (Fin 32 × Nat)) =>
       exec i s = .next (retired s c' (setV sl a (putLanes (getV sl a) ls)) (fallThrough s) (vecWords (putLanes (getV sl a) ls)))
     (∀ (bcast : Bool) a b imm rlx k, xReady s [b] → vReady s [a] → unbound s [a] →
       let e := ea s b imm
       let act := getM sl k
       let i : Instr := if bcast then .vldb a b imm rlx k else .vld a b imm rlx k
       checkVec s sl e false bcast act = none → isLocal s e →
       (∀ ls c', readVec c sl.winbase (meshWin e) (meshOff e) act bcast = .ok (ls, c') → done i c' a ls) ∧
       (meshWin e = 0 → (∀ l : Fin 32, act.getLsbD l.val = true → sound c [(meshOff e + (if bcast then 0 else 4 * l.val), 4)]) →
         let v : Lanes := Vector.ofFn fun l =>
           if act.getLsbD l.val then BitVec.ofNat 32 (readLE c.spad (meshOff e + (if bcast then 0 else 4 * l.val)) 4) else (getV sl a)[l]
         exec i s = .next (finish s (setV sl a v) (vecWords v)))) ∧
     (∀ a b d k, xReady s [b] → vReady s [a, d] → unbound s [a, d] →
       let e := getX sl b
       let act := getM sl k
       checkGather s e (getV sl d) act = none → isLocal s e →
       ∀ ls c', readLanesAt c sc (meshWin e) (gatherElems e (getV sl d) act) = .ok (ls, c') → done (.vldx a b d k) c' a ls) ∧
     (∀ a t b k y, sl.twin = none → xReady s [b] → vReady s [a] → unbound s [a] → getTile c t.val = some y → tileReady y = true → y.fault = false →
       selOk (some y) (getX sl b) false = true →
       ∀ ls c', readTile c y (selRow (getX sl b)) (selGroup (getX sl b)) (getM sl k) = .ok (ls, c') → done (.vldt a t b k) c' a ls)) ∧
  (∀ s : State,
     let sl := curSlot s
     let sc := mx4ScaleOff sl.winbase
     let R := fun (inside : Bool) => if inside then s else released s
     let may := fun (inside : Bool) => inside = true ∨ (sl.twin = none ∧ mayRelease s)
     let raw := fun (i : Instr) (k : MReg) (a : VReg) (at_ : Fin 32 → Nat) => completes i s fun u =>
       (curCore u).spad = lanesStored (curCore s).spad (fun l => (getM sl k).getLsbD l.val) at_ (getV sl a) ∧ (curSlot u).pc = fallThrough s ∧
       (curSlot u).x = sl.x ∧ (curSlot u).v = sl.v
     let done := fun (i : Instr) (inside : Bool) (c' : Core) =>
       exec i s = .next (retired (R inside) c' (curSlot (R inside)) (fallThrough (R inside)) [])
     (∀ a b imm rlx k, xReady s [b] → vReady s [a] → unbound s [a] →
       let e := ea s b imm
       let act := getM sl k
       let inside := vecInside s.cur.2 sl.winbase (meshWin e) (meshOff e) act
       checkVec s sl e true false act = none → isLocal s e → may inside →
       (∀ c', writeVec (curCore (R inside)) sl.winbase (meshWin e) (meshOff e) act (getV sl a) = .ok ((), c') →
         done (.vst a b imm rlx k) inside c') ∧
       (meshWin e = 0 → (∀ l : Fin 32, act.getLsbD l.val = true → sound (curCore s) [(meshOff e + 4 * l.val, 4)]) →
         raw (.vst a b imm rlx k) k a fun l => meshOff e + 4 * l.val)) ∧
     (∀ a b d k, xReady s [b] → vReady s [a, d] → unbound s [a, d] →
       let e := getX sl b
       let act := getM sl k
       let es := gatherElems e (getV sl d) act
       let inside := es.all fun y => inFrame s.cur.2 y.2.off && inFrame s.cur.2 (y.2.off + y.2.len - 1)
       checkGather s e (getV sl d) act = none → isLocal s e → may inside →
       (∀ c', writeLanesAt (curCore (R inside)) sc (meshWin e) (es.map fun y => ((getV sl a)[y.1].toNat, y.2)) = .ok ((), c') →
         done (.vstx a b d k) inside c') ∧
       (meshWin e = 0 →
         let at_ := fun l : Fin 32 => ((meshOff e : Int) + 4 * ((getV sl d)[l]).toInt).toNat
         (∀ l : Fin 32, act.getLsbD l.val = true → sound (curCore s) [(at_ l, 4)]) → raw (.vstx a b d k) k a at_)) ∧
     (∀ a t b k y, xReady s [b] → vReady s [a] → unbound s [a] → getTile (curCore s) t.val = some y → y.state = .empty → y.dest = false →
       selOk (some y) (getX sl b) true = true → sl.twin = none → mayRelease s →
       let x := getX sl b
       (y.win = 0 → (∀ l : Fin 32, (getM sl k).getLsbD l.val = true → sound (curCore s) [(groupOff y (selRow x) (selGroup x) + 4 * l.val, 4)]) →
         raw (.vstt a t b k) k a fun l => groupOff y (selRow x) (selGroup x) + 4 * l.val) ∧
       ∀ c', writeLanesAt (curCore (released s)) (tileScale y (selRow x) (selGroup x)) y.win
           (((List.finRange 32).filter fun l => (getM sl k).getLsbD l.val).map fun l =>
             ((getV sl a)[l].toNat, elemAt y.win (groupOff y (selRow x) (selGroup x)) (l.val : Int))) = .ok ((), c') →
         done (.vstt a t b k) false
           (if x.getLsbD 63 then (match getTile c' t.val with | some z => setTile c' t.val { z with state := .ready } | none => c') else c')))

/-- A local atomic is one step: it returns the old value, extended by its form, and leaves the new one; AMOCAS writes only where the
word matches (R190 to R192). A remote atomic with a result is irrevocable and counts in L and S; its register awaits the old value. A local vector add adds lane
after lane into its words, whatever the addresses repeat, and with no lane active has no effect (R192 to R194, R306). -/
def Obligations.AtomicsAndVectorAddsComplete : Prop :=
  (∀ (s : State) (i : Instr) (op : AmoOp) (n : Nat) (sgn : Bool) (a b c d : XReg),
     let e := getX (curSlot s) b
     let o := meshOff e
     let R := if inFrame s.cur.2 o then s else released s
     let co := curCore R
     atomicForm i = some (op, n, sgn, a, b, c, d) → xReady s [a, b, c, d] → checkAtomic s e n = none → isLocal s e →
     (inFrame s.cur.2 o = true ∨ ((curSlot s).twin = none ∧ mayRelease s)) → sound co [(o, n)] →
       let old := readLE co.spad o n
       let v := loaded n sgn old
       exec i s = .next (retired R
         (match amoWord op (8 * n) old ((getX (curSlot s) c).toNat % 2 ^ (8 * n)) ((getX (curSlot s) d).toNat % 2 ^ (8 * n)) with
          | some new => { freshen co [(o, n)] with spad := writeLE co.spad o n new }
          | none => co)
         (setX (curSlot R) a v) (fallThrough R) [v])) ∧
  (∀ s : State,
     (∀ i op n sgn a b c d home dst, atomicForm i = some (op, n, sgn, a, b, c, d) → a ≠ 0 → xReady s [a, b, c, d] →
       let e := getX (curSlot s) b
       checkAtomic s e n = none → isOwn s e = false → leads s e home dst → idleNi s → plainAct s → (curSlot s).strict = false →
       (curSlot s).cntL < 31 → (curSlot s).cntS < 64 →
       let rq := ROp.amo op n (getX (curSlot s) c) (getX (curSlot s) d)
       exec i s = .next (asked s (askReq s rq e home true (.x a n sgn) true true false)
         { setPendX (curSlot s) a true with cntL := (curSlot s).cntL + 1, cntS := (curSlot s).cntS + 1 } [e, getX (curSlot s) c]
         (firstPacket s rq e true dst))) ∧
     (∀ t a b (c : Option VReg) k, xReady s [b] → vReady s (a :: c.toList) → unbound s (a :: c.toList) → (curSlot s).twin = none →
       let i : Instr := match c with | some c => .vamoaddi t a b c k | none => .vamoadd t a b k
       let e := getX (curSlot s) b
       let act := getM (curSlot s) k
       let idx := c.map (getV (curSlot s))
       checkAdd s e act idx = none → mayRelease s →
       (act = 0 → exec i s = .next (finish s (curSlot s) [])) ∧
       (act ≠ 0 → isLocal s e →
         let off : Fin 32 → Int := fun l => (meshOff e : Int) + 4 * (match idx with | some v => (v[l]).toInt | none => (l.val : Int))
         let R := if ((List.finRange 32).all fun l => !act.getLsbD l.val || inFrame s.cur.2 (off l).toNat) = true then s else released s
         (∀ l : Fin 32, act.getLsbD l.val = true → sound (curCore R) [((off l).toNat, 4)]) →
         completes i s fun u =>
           (curCore u).spad = (List.finRange 32).foldl (fun m l =>
             if act.getLsbD l.val then writeLE m (off l).toNat 4 (match t with
               | .f32 => (roundRne fp32 (exAdd false (valOf fp32 (readLE m (off l).toNat 4)) (valOf fp32 (getV (curSlot s) a)[l].toNat))).bits
               | _ => (readLE m (off l).toNat 4 + (getV (curSlot s) a)[l].toNat) % 2 ^ 32)
             else m) (curCore R).spad ∧
           (curSlot u).pc = fallThrough R ∧ (curSlot u).x = (curSlot R).x ∧ (curSlot u).v = (curSlot R).v)))

/-! ## Messages, channels and patterns -/

/-- A send forms the message of R137 from its name and payload and posts it: S rises and one packet goes to where the name leads. A name
that breaks the layout traps BADSPACE with the name. In a replayable activation every send but SENDC enters the outbox (R137 to R143,
R160, R305). -/
def Obligations.SendsPostTheirMessage : Prop :=
  ∀ (s : State) (i : Instr) (xs : List XReg) (vs : List VReg) (v : Word) (kind : Nat) (gang rel : Bool) (seq : BitVec 16)
    (ws : List Word) (home dst : Endpoint),
    let m := messageOf s v kind gang rel seq ws
    sendForm s i = some (xs, vs, v, kind, gang, rel, seq, ws) → xReady s xs → vReady s vs → unbound s vs →
      (nameBad v → traps i s 0x06 v) ∧
      (¬nameBad v → idleNi s → plainAct s → (curSlot s).cntS < 64 → (curSlot s).strict = false → msgLeads s m home dst →
        exec i s = .next (asked s (askReq s (.msg m) 0 home true .none false true false) { curSlot s with cntS := (curSlot s).cntS + 1 }
          (v :: ws) (firstPacket s (.msg { m with time := BitVec.ofNat 32 s.time }) 0 true dst))) ∧
      (¬nameBad v → kind = 0 → (curSlot s).replayable = true → (curSlot s).outbox.length < 32 → (curCore s).reqs = [] →
        exec i s = .next (finish s
          { curSlot s with outbox := (curSlot s).outbox ++
              [{ op := .msg m, addr := 0, ordered := true, winbase := 0, retAt := (curSlot s).retired + 1, snapReads := [],
                 rect := none }] } (v :: ws)))

/-- SENDM sends one copy to every working user core of its rectangle, row by row, under one count of S and one replay-buffer entry (R144); that
the copies of the entry share one sequence number is inferred from that, and is the model's reading (notes/assumptions/23). A
rectangle with BOTTOM above TOP or RIGHT left of LEFT, a nonzero reserved field or a site outside the partition traps BADSPACE with the
rectangle, and a name with a core or of another device with the name (R144). -/
def Obligations.SendmReachesTheRectangle : Prop :=
  ∀ (s : State) (a b d : XReg) (n : Fin 7),
    let v := getX (curSlot s) a
    let r := getX (curSlot s) d
    let regs := (List.range n.val).map fun k => (Fin.ofNat 32 (b.val + k) : XReg)
    let ws := regs.map (getX (curSlot s))
    let rows := (List.range (bits r 15 5 + 1 - bits r 5 5)).map fun i => bits r 5 5 + i
    let cols := (List.range (bits r 10 5 + 1 - bits r 0 5)).map fun j => bits r 0 5 + j
    let rect := rows.flatMap fun row => cols.map fun col => siteAt (bits r 20 2) row col
    let sites := rect.filter fun x => working s x && !(getCore s x).ctrl
    let m := messageOf s v 0 false false 0 ws
    xReady s (a :: d :: regs) → ¬nameBad v →
      ((bits v 10 13 ≠ 0 ∨ (v.getLsbD 31 = false ∧ bits v 0 10 ≠ s.devid)) → traps (.sendm a b n d) s 0x06 v) ∧
      (bits v 10 13 = 0 → (v.getLsbD 31 = true ∨ bits v 0 10 = s.devid) →
        ((bits r 22 42 ≠ 0 ∨ bits r 15 5 < bits r 5 5 ∨ bits r 10 5 < bits r 0 5 ∨
            ((curCore s).ctrl = false ∧ ∃ x ∈ rect, siteCluster x ∉ (getPart s (corePart s s.cur.1)).clusters)) →
          traps (.sendm a b n d) s 0x06 r) ∧
        (bits r 22 42 = 0 → bits r 5 5 ≤ bits r 15 5 → bits r 0 5 ≤ bits r 10 5 → (curCore s).ctrl = false →
          (∀ x ∈ rect, siteCluster x ∈ (getPart s (corePart s s.cur.1)).clusters) → idleNi s → plainAct s → (curSlot s).cntS < 64 →
          (curSlot s).strict = false → sites ≠ [] →
          completes (.sendm a b n d) s fun t =>
            (curSlot t).cntS = (curSlot s).cntS + 1 ∧ (curSlot t).pc = fallThrough s ∧
            (curCore t).nextSeq = (curCore s).nextSeq + 1 ∧
            t.net = s.net ++ sites.zipIdx.map fun e =>
              { src := .core s.cur.1, dst := .core e.1, cls := .req,
                body := .req
                  { uid := (curCore s).nextUid + e.2, seq := BitVec.ofNat 16 (curCore s).nextSeq,
                    op := .msg { m with dstCore := coreNumber s e.1, time := BitVec.ofNat 32 s.time }, addr := 0, ordered := true,
                    head := false, last := false, part := corePart s s.cur.1, winbase := (curSlot s).winbase,
                    srcCore := coreNumber s s.cur.1, slot := s.cur.2, act := (curSlot s).actId } }))

/-- FORK pushes its message at the newest end of the core's own deque, without the network, after the release of R306. A name of another
core or device traps BADSPACE, a channel that is not configured or not roaming REFUSED.PERM with code 2 or 7 (R145, R306). -/
def Obligations.ForkPushesOnTheDeque : Prop :=
  ∀ (s : State) (a b : XReg) (n : Fin 7),
    let v := getX (curSlot s) a
    let regs := (List.range n.val).map fun k => (Fin.ofNat 32 (b.val + k) : XReg)
    let ch := bits v 23 8
    let m : Msg := { messageOf s v 0 false false 0 (regs.map (getX (curSlot s))) with time := BitVec.ofNat 32 s.time }
    let here := (v.getLsbD 31 = true ∨ bits v 0 10 = s.devid) ∧ (bits v 10 13 = 0x1FFF ∨ bits v 10 13 = coreNumber s s.cur.1)
    xReady s (a :: regs) →
      (nameBad v ∨ ¬here → traps (.fork a b n) s 0x06 v) ∧
      (¬nameBad v → here →
        (∀ p, (curSlot s).twin ≠ some (.secondary p)) →
        (tget (curCore s).chans ch = none → exec (.fork a b n) s = .next (takeTrap s s.cur.1 s.cur.2
          { cause := 0x11, tval := 2, epc := (curSlot s).pc, req := 1 })) ∧
        (∀ x, tget (curCore s).chans ch = some x → x.kind ≠ .roaming → exec (.fork a b n) s = .next (takeTrap s s.cur.1 s.cur.2
          { cause := 0x11, tval := 7, epc := (curSlot s).pc, req := 1 })) ∧
        (∀ x, tget (curCore s).chans ch = some x → x.kind = .roaming → (curSlot s).twin = none → mayRelease s →
          (curCore (released s)).deque.length + (curCore (released s)).strayDeque +
              (((curCore (released s)).chans.filter fun e => e.2.kind == .roaming).map fun e => e.2.held).sum < 64 →
          completes (.fork a b n) s fun t =>
            (curCore t).deque = (curCore (released s)).deque ++ [⟨ch, { msg := m, arrival := s.time, part := corePart s s.cur.1 }⟩] ∧
            ch ∈ (curCore t).marked ∧ t.net = (released s).net ∧ (curSlot t).pc = fallThrough (released s) ∧
            (curSlot t).x = (curSlot (released s)).x))

/-- CHSET and CHCLR answer the lowest status that applies, and on 0 CHSET configures the channel with the fields of its descriptor and
CHCLR removes it (R148 to R150, R152). CHGET stores the descriptor, as CHSET accepted it, with the channel's current NEXTSEQ, and the channel's state behind it; a channel that
is not configured stores zeros with status 7 (R151). -/
def Obligations.ChannelsAreSetReadAndCleared : Prop :=
  (∀ (s : State) (a c b : XReg),
     let R := released s
     let i := (getX (curSlot s) c).toNat
     (record s b 32 → xReady s [a, c, b] → mayRelease s →
       let R := released (afterReading s)
       let d := recordAt s b 32
       let w := fun (lo n : Nat) => d / 2 ^ lo % 2 ^ n
       let st := chsetStatus (curCore R) (!privileged R) i d
       let x : Chan :=
         { kind := match w 112 2 with | 0 => .fifo | 1 => .sequenced | _ => .roaming, cap := w 96 10, peer := decide (w 114 1 = 1),
           code := decide (w 115 1 = 1), faultCh := if w 116 1 = 1 then some (BitVec.ofNat 8 (w 144 8)) else none,
           faultRaw := BitVec.ofNat 8 (w 144 8), ovfBase := BitVec.ofNat 64 (w 0 64), ovfSize := w 64 32, nextSeq := BitVec.ofNat 16 (w 128 16),
           gen := (curCore R).nextGen }
       exec (.chset a c b) s = .next (answers
         (if st = 0 then setCore R R.cur.1 { curCore R with chans := tset (curCore R).chans i x, nextGen := (curCore R).nextGen + 1 } else R)
         a (BitVec.ofNat 64 st)) ∧
       (255 < i → st = 1) ∧
       (i ≤ 255 → (d / 2 ^ 152 ≠ 0 ∨ w 117 11 ≠ 0 ∨ w 106 6 ≠ 0 ∨ w 112 2 = 3 ∨ (w 112 2 ≠ 1 ∧ w 128 16 ≠ 0)) → st = 2) ∧
       (st = 0 → (tget (curCore R).chans i).isNone = true ∧ w 0 6 = 0 ∧ (w 115 1 = 1 → privileged R = true))) ∧
     (xReady s [a, c] → (curSlot s).twin = none → mayRelease s →
       let named := (curCore R).pats.any fun p => p.2.terms.contains i
       exec (.chclr a c) s = .next (
         if 255 < i then answers R a 1
         else if named = true then answers R a 3
         else if (tget (curCore R).chans i).isNone then answers R a 7
         else answers (clearChan R R.cur.1 i) a 0))) ∧
  ((∀ (c : Core) (user : Bool) (i d : Nat), chsetStatus c user i d = 0 → chanDesc (chanOf d) = d) ∧
   (∀ (s : State) (a c b : XReg), xReady s [a, c, b] → record s b 64 →
     let i := (getX (curSlot s) c).toNat
     let o := meshOff (getX (curSlot s) b)
     let stored := fun (st : Word) (v : Nat) => exec (.chget a c b) s = .next (retired s
       { freshen (curCore s) [(o, 64)] with spad := writeLE (curCore s).spad o 64 v } (setX (curSlot s) a st) (fallThrough s) [st])
     (255 < i → exec (.chget a c b) s = .next (answers s a 1)) ∧
     (i ≤ 255 → tget (curCore s).chans i = none → stored 7 0) ∧
     (∀ x, i ≤ 255 → tget (curCore s).chans i = some x → stored 0 (chanDesc x + chanState (curCore s) i x * 2 ^ 256))))

/-- PATSET puts the pattern of its descriptor in the table, whatever stood there and any partial of it discarded, and marks its channels for
examination; PATCLR removes a pattern, PATGET stores the descriptor as it was set; each answers the lowest status that applies (R117, R148,
R149, R153). -/
def Obligations.PatternsAreSetReadAndCleared : Prop :=
  ∀ (s : State) (a c b : XReg),
    let R := released s
    let i := (getX (curSlot s) c).toNat
    let o := meshOff (getX (curSlot s) b)
    (record s b 32 → xReady s [a, c, b] → mayRelease s →
      let R := released (afterReading s)
      let d := recordAt s b 32
      let st := patsetStatus R R.cur.1 i d
      exec (.patset a c b) s = .next (answers (if st = 0 then putPat R R.cur.1 i d else R) a (BitVec.ofNat 64 st)) ∧
      (st = 0 → completes (.patset a c b) s fun t =>
        let p := patOfDesc d
        p.terms = (List.range (d / 2 ^ 34 % 4 + 1)).map (fun k => d / 2 ^ (8 * k) % 256) ∧
        p.qn = (if d / 2 ^ 36 % 2 ^ 12 = 0 then 0 else d / 2 ^ 36 % 2 ^ 12 + 1) ∧ p.replay = decide (d / 2 ^ 52 % 2 = 1) ∧
        p.twin = decide (d / 2 ^ 53 % 2 = 1) ∧ p.gang = d / 2 ^ 54 % 4 ∧ p.prog = none ∧
        (∀ ch ∈ p.terms, ch ∈ (curCore t).marked) ∧ (∀ j, j ≠ i → tget (curCore t).pats j = tget (curCore R).pats j) ∧
        ∃ y, tget (curCore t).pats i = some y ∧ { y with prog := none } = { p with gen := (curCore R).nextGen } ∧
          ((p.qn = 0 ∨ ∀ ch ∈ p.terms, ∀ x, tget (curCore R).chans ch = some x → x.queue = []) → y.prog = none)) ∧
      (63 < i → st = 1) ∧
      (st = 0 → leNat (patOfDesc d).raw = d ∧ (patOfDesc d).entry = BitVec.ofNat 64 (d / 2 ^ 64) ∧
        (patOfDesc d).terms.all (fun ch => (tget (curCore R).chans ch).isSome) = true)) ∧
    (xReady s [a, c] → (curSlot s).twin = none → mayRelease s →
      exec (.patclr a c) s = .next (
        if 63 < i then answers R a 1
        else if (tget (curCore R).pats i).isNone then answers R a 14
        else answers (setCore R R.cur.1 { curCore R with pats := tdel (curCore R).pats i }) a 0)) ∧
    (xReady s [a, c, b] → record s b 32 →
      (63 < i → exec (.patget a c b) s = .next (answers s a 1)) ∧
      (i ≤ 63 → tget (curCore s).pats i = none → exec (.patget a c b) s = .next (answers s a 14)) ∧
      (∀ p, i ≤ 63 → tget (curCore s).pats i = some p → exec (.patget a c b) s = .next (retired s
        { freshen (curCore s) [(o, 32)] with spad := writeLE (curCore s).spad o 32 (leNat p.raw) } (setX (curSlot s) a 0)
        (fallThrough s) [0])))

/-- EXIT sends what is buffered, one request for each outbox entry under one count of S, unbinds the streams and moves the slot to CLOSING
(R156, R305, R306). EXITF of an activation that is not replayable closes the slot after a fault report of kind EXITF with X(A) on the fault
channel of its pattern (R157, R284, R285); a replayable one sends no report: its outbox is dropped, its outstanding requests complete without effect, and the
messages that started it are back at the head of their channel, marked, so that the pattern can fire again and the body run again (R157,
R307). WAIT retires when every counter is at or below its bound, 15 being no bound, and otherwise leaves the slot stalled at the
instruction (R195, R196). That the report stands in its channel in the very step of EXITF is the model's choice (log entry 11). -/
def Obligations.ExitsCloseAndWaitsWait : Prop :=
  (∀ (s : State) (a : XReg), twinBehind (curSlot s) = false → parked (curCore s) s.cur.2 (curSlot s).actId = false →
     let closed := fun (t : State) =>
       (curSlot t).mode = .closing ∧ (curSlot t).streams = Vector.replicate 4 none ∧ (curSlot t).due = [] ∧ (curSlot t).pc = (curSlot s).pc ∧
       (curSlot t).stepOwed = false ∧ (curSlot t).x = (curSlot s).x ∧ (curSlot t).retired = (curSlot s).retired + 1
     (mayRelease s → completes .exit s closed) ∧
     (alone s → mayRelease s → (curCore s).reqs = [] → (curCore s).halted = false → noFailure (curCore s) = true → completes .exit s fun t =>
       (curSlot t).replayable = false ∧
       ((curSlot s).replayable = false → (curCore t).reqs = [] ∧ (curSlot t).outbox = (curSlot s).outbox) ∧
       ((curSlot s).replayable = true → (curSlot t).outbox = [] ∧
         (∀ o, (curSlot s).outbox = [o] → o.rect = none → o.snapReads = [] → (∀ m, o.op ≠ .msg m) →
           (curSlot t).cntS = (curSlot s).cntS + 1 ∧ ∃ r, (curCore t).reqs = [r] ∧ r.op = o.op ∧ r.addr = o.addr ∧ r.cntS = true ∧
             r.ordered = o.ordered ∧ r.slot = s.cur.2 ∧ r.act = (curSlot s).actId ∧ r.status = .flying))) ∧
     (xReady s [a] → (curSlot s).replayable = false → completes (.exitf a) s fun t =>
       closed t ∧ (curSlot t).replayable = false ∧ reports s t 1 0 0 0 0 (getX (curSlot s) a)) ∧
     (xReady s [a] → (curSlot s).replayable = true → alone s → completes (.exitf a) s fun t =>
       closed t ∧ (curSlot t).replayable = false ∧ (curSlot t).outbox = [] ∧ gaveBack s t ∧
       (∀ r ∈ (curCore t).reqs, r.slot = s.cur.2 → r.act = (curSlot s).actId → r.killed = true) ∧
       (curCore t).reqs.length = (curCore s).reqs.length)) ∧
  (∀ (s : State) (l st e m : Fin 16),
     let met := fun (n : Nat) (b : Fin 16) => b.val = 15 ∨ n ≤ b.val
     let all := met (curSlot s).cntL l ∧ met (curSlot s).cntS st ∧ met (curSlot s).cntE e ∧ met (curSlot s).cntM m
     (all → exec (.wait l st e m) s = .next (finish s (curSlot s) [])) ∧
     (¬all → completes (.wait l st e m) s fun t => (curSlot t).mode = .stalled ∧ (curSlot t).pc = (curSlot s).pc))

/-! ## Berths and matrix commands -/

/-- TSET answers the lowest status of R218 that applies and on 0 sets the entry with an empty berth; TSTAT and TREL give the status word, TREL that
before its effect, and a ready berth without pins is freed: EMPTY for input, DRAINING for output; a pinned one waits for its pins (R197,
R200 to R202, R204, R218, R219). -/
def Obligations.BerthsAreSetReleasedAndRead : Prop :=
  ∀ (s : State) (a c b : XReg) (t : TileIx),
    let R := released s
    let i := (getX (curSlot s) c).toNat
    (record s b 32 → xReady s [a, c, b] → mayRelease s →
      let R := released (afterReading s)
      let d := recordAt s b 32
      let st := tsetStatus R R.cur.1 i d
      let w := BitVec.ofNat 64 d
      let x : Tile := { win := meshWin w, off := meshOff w, rows := d / 2 ^ 64 % 256 + 1, groups := d / 2 ^ 72 % 256 + 1,
                        rstride := d / 2 ^ 96 % 2 ^ 19, output := decide (d / 2 ^ 128 % 2 = 1) }
      exec (.tset a c b) s = .next (answers
        (if st = 0 then setCore R R.cur.1 { curCore R with tiles := tset (curCore R).tiles i x } else R) a (BitVec.ofNat 64 st)) ∧
      lowest [(1, 63 < i), (2, d / 2 ^ 129 ≠ 0 ∨ d / 2 ^ 115 % 2 ^ 13 ≠ 0 ∨ d / 2 ^ 80 % 2 ^ 16 ≠ 0),
        (3, ∃ y, getTile (curCore R) i = some y ∧
          (y.state = .filling ∨ y.state = .draining ∨ y.subv = true ∨ y.pin ≠ 0 ∨ y.dest = true ∨ y.relp = true)),
        (4, ¬(space w = 0xF ∧ bits w 48 12 = 0 ∧ bits w 24 11 = 0 ∧ bits w 19 1 = 0 ∧
          (meshCore w = 0x1FFF ∨ meshCore w = coreNumber R R.cur.1) ∧ meshWin w < 14 ∧ meshOff w % 16 = 0)),
        (5, x.rstride % 16 ≠ 0 ∨ x.rstride < x.groups * groupBytes x.win ∨
          0x7C000 < x.off + x.rows * x.rstride + (if 1 ≤ x.win ∧ x.win ≤ 8 then x.rows * x.groups else 0)),
        (6, x.output = true ∧ 1 ≤ x.win ∧ x.win ≤ 7)] 0 st) ∧
    (xReady s [a] → (∀ p, (curSlot s).twin ≠ some (.secondary p)) →
      let v := tileStatus (getTile (curCore s) t.val)
      exec (.tstat a t) s = .next (answers s a v) ∧ (getTile (curCore s) t.val = none → v = 4)) ∧
    (xReady s [a] → (curSlot s).twin = none → mayRelease s →
      let v := tileStatus (getTile (curCore R) t.val)
      (getTile (curCore R) t.val = none → exec (.trel a t) s = .next (answers R a v)) ∧
      (∀ x, getTile (curCore R) t.val = some x → completes (.trel a t) s fun u =>
        getX (curSlot u) a = (if a = 0 then 0 else v) ∧ (curSlot u).pc = fallThrough R ∧
        ∃ y, getTile (curCore u) t.val = some y ∧
          (tileReady x = false → y = x) ∧
          (tileReady x = true → x.pin = 0 → y.state = (if x.output then .draining else .empty) ∧ y.relp = false) ∧
          (tileReady x = true → x.pin ≠ 0 → y.state = .ready ∧ y.relp = true)))

/-- TWAIT completes when the berth is in the state it names, waits for it otherwise, and traps MXGEOM on a tile that is not set (R220). -/
def Obligations.TwaitWaitsForItsBerth : Prop :=
  ∀ (s : State) (t : TileIx) (cond : TileCond), (∀ p, (curSlot s).twin ≠ some (.secondary p)) →
    (getTile (curCore s) t.val = none → traps (.twait t cond) s 0x0A (BitVec.ofNat 64 t.val)) ∧
    (∀ x, getTile (curCore s) t.val = some x →
      let met := match cond with | .ready => x.state = .ready ∧ x.relp = false | .empty => x.state = .empty
      (met → exec (.twait t cond) s = .next (finish s (curSlot s) [])) ∧
      (¬met → completes (.twait t cond) s fun u => (curSlot u).mode = .stalled ∧ (curSlot u).pc = (curSlot s).pc))

/-- SUBSCR sends its descriptor with the shape of the ring and the snapshot to the nearest ferry of the die, counted in E, or answers the
refusal word with bit 63 and the lowest code of R221 that applies (that XBASE of an MX4 tensor is a multiple of 16 bytes is the model's
reading, log entry 85); UNSUB and FSTAT send to the ferry their handle names, counted in L, and a handle with bits above 15 traps
BADSPACE (R205, R210, R216, R221, R222). -/
def Obligations.SubscriptionsAreRequestedOfAFerry : Prop :=
  ∀ (s : State) (a b : XReg), xReady s [a, b] → idleNi s → plainAct s →
    (record s b 64 →
      let d := recordAt s b 64
      let st := subscrStatus (curCore s) d
      (st ≠ 0 → exec (.subscr a b) s = .next (answers s a (BitVec.ofNat 64 (2 ^ 63 + st)))) ∧
      (let g := fun (lo n : Nat) => d / 2 ^ lo % 2 ^ n
       let fmt := g 334 4
       let out := g 333 1 = 1
       let al := formatAlign fmt
       let near := fun (v : Nat) => v / 2 ^ 57 = 0
       let tensor := fun (v : Nat) => near v ∨ (out ∧ v / 2 ^ 56 = 0xE0)
       let odd := fun (lo : Nat) => (BitVec.ofNat 32 (g lo 32)).toInt % (al : Int) ≠ 0
       let first := fun (p : Tile → Prop) => ∃ y, getTile (curCore s) (g 320 6) = some y ∧ p y
       lowest [(1, g 365 3 ≠ 0 ∨ g 350 2 ≠ 0 ∨ 8 ≤ fmt),
         (2, g 326 7 = 0 ∨ 64 < g 320 6 + g 326 7 ∨ ¬∃ t : Tile, ∀ j < g 326 7, ∃ y, getTile (curCore s) (g 320 6 + j) = some y ∧
           y.win = t.win ∧ y.rows = t.rows ∧ y.groups = t.groups ∧ (y.output = true ↔ out) ∧ y.subv = false),
         (3, first fun y => windowFormat y.win ≠ fmt ∨ (out ∧ 1 ≤ y.win ∧ y.win ≤ 7)),
         (4, (if g 340 1 = 1 then g 0 64 ≠ 0 ∨ g 64 64 ≠ 0 else ¬tensor (g 0 64) ∨ g 0 64 % al ≠ 0 ∨
             (if fmt = 3 then ¬tensor (g 64 64) ∨ g 64 64 % 16 ≠ 0 else g 64 64 ≠ 0)) ∨
           g 128 24 % al ≠ 0 ∨ odd 192 ∨ odd 224 ∨ odd 256 ∨
           (if g 338 1 = 1 then ¬near (g 384 64) ∨ g 384 64 % 4 ≠ 0 else g 384 64 ≠ 0) ∨
           (if g 339 1 = 1 ∨ g 340 1 = 1 then ¬near (g 448 64) ∨ g 448 64 % 8 ≠ 0 else g 448 64 ≠ 0)),
         (5, g 288 16 = 0 ∨ g 304 16 = 0 ∨ g 368 16 = 0 ∨ first fun y => y.groups * 32 < g 352 13)] 0 st) ∧
      (∀ t, st = 0 → getTile (curCore s) (d / 2 ^ 320 % 64) = some t → (curSlot s).cntE < 16 →
        let op := ROp.subscr t.win t.rows t.groups [] (readBytes (curCore s).spad (meshOff (getX (curSlot s) b)) 64)
        let f := Endpoint.ferry ((ferriesByDistance s.cur.1).headD 0)
        exec (.subscr a b) s = .next (asked s (askReq s op 0 f false (.x a 8 false) false false true)
          { setPendX (curSlot s) a true with cntE := (curSlot s).cntE + 1 } [getX (curSlot s) b] (firstPacket s op 0 false f)))) ∧
    (∀ i op, (i = Instr.unsub a b ∧ op = ROp.unsub (getX (curSlot s) b) ∨ i = Instr.fstat a b ∧ op = ROp.fstat (getX (curSlot s) b)) →
      let h := getX (curSlot s) b
      (2 ^ 16 ≤ h.toNat → traps i s 0x06 h) ∧
      (h.toNat < 2 ^ 16 → (curSlot s).cntL < 31 →
        let f := Endpoint.ferry (h.toNat / 2 ^ 9)
        exec i s = .next (asked s (askReq s op 0 f true (.x a 8 false) true false false)
          { setPendX (curSlot s) a true with cntL := (curSlot s).cntL + 1 } [h] (firstPacket s op 0 true f))))

/-- MXM and MXD that pass the checks of R234 with their sources ready and their destination free enter the core's queue: M rises, the
sources are pinned and the destination is reserved; MXZ and ADPINV are queued likewise. A failed check traps MXGEOM with its code and
tile, the first of R234 in ascending order, and a source tile whose fill failed traps TICKET.FAILED with the failing address (R213, R235). Stated for the queue as it stands before the array works on it (R230 to R235, R247). MXSTAT gives the status word of the accumulator slot, and DRNLD loads a program that its rules accept into a slot no queued command
names, or answers the lowest status that applies (R248, R249, R258). -/
def Obligations.MatrixInstructionsQueueAndAnswer : Prop :=
  (∀ (s : State) (a b : XReg), plainAct s → (curSlot s).cntM < 16 → (curCore s).mq.length < 16 →
     let x := getCluster s (siteCluster s.cur.1)
     let queued := fun (i : Instr) (pins : Core → Core) (q : MCmd) =>
       exec i s = .next (settle (retired s (pins { curCore s with
           mq := (curCore s).mq ++ [{ q with slot := s.cur.2, act := (curSlot s).actId, pat := patOf (curSlot s), view := (curCore s).spad }] })
         { curSlot s with cntM := (curSlot s).cntM + 1 } (fallThrough s) []) (siteCluster s.cur.1))
     queued .mxz id { kind := .mxz, slot := 0, act := 0, pat := 0 } ∧
     (xReady s [b] →
       let v := getX (curSlot s) b
       (bits v 16 47 ≠ 0 → traps (.adpinv b) s 0x06 v) ∧
       (bits v 16 47 = 0 →
         queued (.adpinv b) id { kind := .adpinv, slot := 0, act := 0, pat := 0, id := bits v 0 16, all := v.getLsbD 63 })) ∧
     (∀ (kind : MKind), kind = .mxm ∨ kind = .mxd → xReady s [a, b] →
       let w1 := getX (curSlot s) a
       let w2 := getX (curSlot s) b
       let q := mxFields kind w1 w2
       let i : Instr := if kind = .mxm then .mxm a b else .mxd a b
       let ahead := chainAhead (curCore s)
       let rows := fun t => ((getTile (curCore s) t).map fun y => y.rows).getD 0
       let mm := kind = .mxm
       let m := if kind = .mxm then rows q.at_ else ahead.m
       let n := if kind = .mxm then rows q.bt else ahead.n
       let unset := fun t => getTile (curCore s) t = none
       let has := fun t (p : Tile → Prop) => ∃ y, getTile (curCore s) t = some y ∧ p y
       let prog := (nth x.progs.toList q.dslot).getD none
       q = { kind := kind, slot := 0, act := 0, pat := 0, at_ := bits w1 0 6, bt := bits w1 6 6, dst := bits w1 12 6, aux := bits w1 18 6,
             adp := bits w1 24 6, p := bits w2 0 5 + 1, kb := (if kind = .mxm then bits w2 5 3 + 1 else 0), acc := w2.getLsbD 8,
             fin := w2.getLsbD 9, dslot := bits w2 10 4, ofmt := bits w2 14 3, auxv := w2.getLsbD 17, adpv := w2.getLsbD 18,
             colb := bits w2 24 8 } ∧
       lowest [(some (1, q.at_), mm ∧ unset q.at_), (some (1, q.bt), mm ∧ unset q.bt), (some (1, q.dst), q.fin = true ∧ unset q.dst),
         (some (1, q.aux), q.auxv = true ∧ unset q.aux), (some (1, q.adp), mm ∧ q.adpv = true ∧ unset q.adp),
         (some (2, q.at_), mm ∧ has q.at_ fun y => y.win = 0 ∨ 7 < y.win ∨ 128 < y.rows),
         (some (3, q.bt), mm ∧ has q.bt fun y => y.win < 8 ∨ 13 < y.win ∨ 256 < y.rows),
         (some (4, q.at_), mm ∧ has q.at_ fun y => y.groups < q.kb), (some (4, q.bt), mm ∧ has q.bt fun y => y.groups < q.kb),
         (some (5, q.dst), q.fin = true ∧ has q.dst fun y => prog = none ∨ y.output = false ∨
           (q.ofmt ≤ 4 ∧ y.win ≠ ([0, 11, 9, 10, 8][q.ofmt]?).getD 0) ∨ y.rows < m ∨ y.groups * 32 < n ∨
           ∃ p, prog = some p ∧ ((hasOp p 22 = true ∧ y.rstride < y.groups * groupBytes y.win + 8) ∨ (outMod p % 4 ≠ 0 ∧ q.ofmt ≠ 4) ∨
             ((usesSrc p 12 19 = true ∨ q.ofmt = 4) ∧ q.auxv = false))),
         (some (6, q.aux), q.auxv = true ∧ has q.aux fun y => y.win ≠ 0 ∨ y.rows < 8 ∨ y.groups < 8),
         (some (7, q.adp), mm ∧ q.adpv = true ∧ has q.adp fun y => y.win ≠ 0 ∨ y.rows < m),
         (some (8, 0), (kind = .mxd ∨ q.acc = true) ∧ ahead.opened = false ∨
           mm ∧ q.acc = true ∧ (ahead.m ≠ m ∨ ahead.n ≠ n ∨ ahead.colb ≠ q.colb)),
         (some (9, 0), bits w1 30 34 ≠ 0 ∨ bits w2 32 32 ≠ 0 ∨ bits w2 19 5 ≠ 0 ∨ 4 < q.ofmt ∨ (q.adpv = false ∧ q.adp ≠ 0) ∨
           (q.auxv = false ∧ q.aux ≠ 0) ∨ (q.fin = false ∧ q.dst ≠ 0) ∨ (q.auxv = true ∧ q.fin = false) ∨ (q.adpv = true ∧ q.acc = true) ∨
           (kind = .mxd ∧ (bits w1 0 12 ≠ 0 ∨ bits w2 0 9 ≠ 0 ∨ q.fin = false ∨ q.adpv = true ∨ q.colb ≠ 0)))]
         none (mxCheck (curCore s) x q w1 w2) ∧
       (∀ e, mxCheck (curCore s) x q w1 w2 = some e → traps i s 0x0A (BitVec.ofNat 64 (e.1 + e.2 * 256))) ∧
       (mxCheck (curCore s) x q w1 w2 = none → (∀ t ∈ mxSources q, ∀ y, getTile (curCore s) t = some y → tileReady y = true) →
         (q.fin = true → ∀ y, getTile (curCore s) q.dst = some y → y.state = .empty ∧ y.dest = false) →
         ∀ t ∈ mxSources q, ∀ y, getTile (curCore s) t = some y → y.fault = true →
           (∀ u ∈ mxSources q, ∀ z, getTile (curCore s) u = some z → z.fault = true → z.failAddr = y.failAddr) →
           traps i s 0x13 y.failAddr) ∧
       (mxCheck (curCore s) x q w1 w2 = none →
         (∀ t ∈ mxSources q, ∀ y, getTile (curCore s) t = some y → tileReady y = true ∧ y.fault = false) →
         (q.fin = true → ∀ y, getTile (curCore s) q.dst = some y → y.state = .empty ∧ y.dest = false) →
         queued i
           (fun c =>
             let c := (mxSources q).foldl (fun c t =>
               match getTile c t with | some y => { c with tiles := tset c.tiles t { y with pin := y.pin + 1 } } | none => c) c
             if q.fin then
               (match getTile c q.dst with | some y => { c with tiles := tset c.tiles q.dst { y with dest := true } } | none => c)
             else c)
           { q with m := m, n := n, apin := decide (kind = .mxm) }))) ∧
  (∀ (s : State) (a c b : XReg),
     (xReady s [a] → (∀ p, (curSlot s).twin ≠ some (.secondary p)) →
       let u := (curCore s).acc
       let v := BitVec.ofNat 64 ((u.flags % 32 &&& 0x1D) + (if u.poison then 2 ^ 11 else 0) + (if u.opened then 2 ^ 12 else 0) +
         min u.kpos 255 * 2 ^ 16 + min u.failed.length 255 * 2 ^ 24 + min u.replay.length 255 * 2 ^ 32 + (curCore s).mq.length % 256 * 2 ^ 40)
       exec (.mxstat a) s = .next (answers s a v)) ∧
     (record s b 256 → xReady s [a, c, b] → mayRelease s →
       let R := released (afterReading s)
       let i := (getX (curSlot s) c).toNat
       let bs := readBytes (curCore s).spad (meshOff (getX (curSlot s) b)) 256
       let st := if 15 < i then 1 else if imgZeros bs = false then 2 else if progOk bs = false then 3
         else if slotBusy R (siteCluster R.cur.1) i = true then 4 else 0
       exec (.drnld a c b) s = .next (answers (if st = 0 then loadDrain R (siteCluster R.cur.1) i bs else R) a (BitVec.ofNat 64 st))))

/-! ## Control registers, traps and returns -/

/-- CSRR gives the value its register holds, in the layout of the spec, to a slot that may read it (R286 to R289, R313, R325). -/
def Obligations.CsrrReadsEveryRegister : Prop :=
  ∀ (s : State) (a : XReg) (n : BitVec 12) (v : Word), csrValue s n.toNat = some v → xReady s [a] →
    (∀ p, (curSlot s).twin ≠ some (.secondary p)) → (n.toNat < 0x100 ∨ privileged s = true) →
    exec (.csrr a n) s = .next (answers s a v)

/-- A written CSR keeps the bits of its layout and reads them back, MODE excepted, and changes no other;
CSRSET and CSRCLR set and clear the bits of A, and write nothing when A is x0. Registers of the core or the cluster are written after the
release of R306 (R5, R286 to R289, R306). Event counter 0, which the write itself then counts as an instruction retired, reads one more
than was written; an event id that R325 does not list, CSRs 0x412 to 0x7FF, takes no write and goes on reading UNAV with a count of 0
(R325). -/
def Obligations.CsrWritesReadBack : Prop :=
  ∀ (s : State) (a : XReg) (n : BitVec 12), xReady s [a] → (curSlot s).twin = none → mayRelease s →
    (n.toNat < 0x100 ∨ privileged s = true) →
    let v := getX (curSlot s) a
    let keeps := fun (i : Instr) (w k : Word) => completes i s fun t =>
      csrValue t n.toNat = some (if n.toNat = 0x105 then (w &&& k) ||| (if (curSlot s).sup then 1 else 0) else w &&& k) ∧
      (curSlot t).x = (curSlot s).x ∧ (curSlot t).v = (curSlot s).v ∧ (curSlot t).m = (curSlot s).m ∧ (curSlot t).sup = (curSlot s).sup ∧
      (curCore t).spad = (curCore s).spad ∧ (curSlot t).pc = fallThrough s ∧
      (∀ j : Nat, j ≠ n.toNat → csrMask j ≠ none → csrValue t j = csrValue s j)
    (∀ k, csrMask n.toNat = some k → keeps (.csrw a n) v k ∧
      (∀ old, csrValue s n.toNat = some old → a ≠ 0 → keeps (.csrset a n) (old ||| v) k ∧ keeps (.csrclr a n) (old &&& ~~~ v) k) ∧
      (a = 0 → exec (.csrset a n) s = .next (finish s (curSlot s) []) ∧ exec (.csrclr a n) s = .next (finish s (curSlot s) []))) ∧
    (n = 0x400 → completes (.csrw a n) s fun t => (curCore t).events[0] = v.setWidth 63 + 1) ∧
    (0x412 ≤ n.toNat → n.toNat < 0x800 → ∀ i : Instr, i = .csrw a n ∨ i = .csrset a n ∨ i = .csrclr a n → completes i s fun t =>
      csrValue t n.toNat = some 0x8000000000000000 ∧ (curCore t).events = (curCore s).events.set 0 ((curCore s).events[0] + 1) ∧
      (curSlot t).x = (curSlot s).x ∧ (curSlot t).pc = fallThrough s ∧ (∀ j : Nat, csrMask j ≠ none → csrValue t j = csrValue s j))

/-- An access to a CSR number that is not listed, or a write of a read-only one, traps ILLEGAL, and otherwise a supervisor register in user
mode, PRIV (R45, R286, R289). For the numbers from 0x800 on it is the model's reading that every one of them traps PRIV outside firmware mode and that
those outside 0x820 to 0x823 are ILLEGAL in it (notes/assumptions/45). The privileged instructions trap PRIV with tval 0 in user mode (R45, R290). -/
def Obligations.PrivilegedAccessesTrap : Prop :=
  (∀ (s : State) (i : Instr) (a : XReg) (n : BitVec 12) (f : Nat) (wr : Bool),
     (i = .csrr a n ∧ f = 0 ∧ wr = false ∨ i = .csrw a n ∧ f = 1 ∧ wr = true ∨ i = .csrset a n ∧ f = 2 ∧ wr = true ∨
       i = .csrclr a n ∧ f = 3 ∧ wr = true) →
     let m := n.toNat
     let readOnly := (0x010 ≤ m ∧ m ≤ 0x014) ∨ m = 0x020 ∨ m = 0x021 ∨ m = 0x030 ∨ (0x200 ≤ m ∧ m ≤ 0x23F)
     let listed := readOnly ∨ m = 0x002 ∨ m = 0x040 ∨ m = 0x050 ∨ (0x100 ≤ m ∧ m ≤ 0x105) ∨ m = 0x110 ∨ m = 0x120 ∨ m = 0x130 ∨ m = 0x140 ∨
       m = 0x150 ∨ (0x300 ≤ m ∧ m ≤ 0x302) ∨ (0x400 ≤ m ∧ m ≤ 0x7FF)
     (m < 0x800 → ¬listed → traps i s 0x01 (csrTval f a m)) ∧
     (wr = true → readOnly → traps i s 0x01 (csrTval f a m)) ∧
     (m < 0x800 → listed → (wr = true → ¬readOnly) → 0x100 ≤ m → (curSlot s).sup = false → (curCore s).ctrl = false → traps i s 0x09 0) ∧
     (0x800 ≤ m → (curCore s).ctrl = false → traps i s 0x09 0) ∧
     (0x800 ≤ m → (m < 0x820 ∨ 0x823 < m) → (curCore s).ctrl = true → traps i s 0x01 (csrTval f a m))) ∧
  (∀ (s : State) (a b : XReg), (curSlot s).sup = false → (curCore s).ctrl = false →
     traps .rte s 0x09 0 ∧ traps (.kill a) s 0x09 0 ∧ traps (.iinv b) s 0x09 0 ∧ traps (.tktq a b) s 0x09 0)

/-- Taking a trap saves the pc, cause, tval and request of the event, PM and MODE, and continues in supervisor mode at the first
instruction of the handler line, all other registers as they were and a STEP that is owed still owed; on a control core PM becomes 1 and the
handler runs in firmware mode, so that a trap there is taken again (R269, R270, R273, R275; that a control core's trap is taken again so
is the model's choice, log entry 8, and that the STEP stays owed log entry 78). -/
def Obligations.TrapEntrySavesAndEntersTheHandler : Prop :=
  ∀ (s : State) (x : Nat) (k : Fin 4) (t : TrapInfo),
    let sl := getSlot s x k
    let u := getSlot (takeTrap s x k t) x k
    (getCore s x).tvec ≠ 0 → (sl.sup = false ∨ sl.nest = true ∨ (getCore s x).ctrl = true) →
      u.cause = t.cause ∧ u.tval = t.tval ∧ u.epc = t.epc ∧ u.treq = t.req ∧ u.late = t.late ∧ u.exact = t.exact ∧
      u.tseq = (match t.seqn with | some n => BitVec.ofNat 17 (2 ^ 16 + n % 2 ^ 16) | none => 0) ∧
      u.pm = (sl.sup || (getCore s x).ctrl) ∧ u.sup = true ∧ u.nest = false ∧ u.pc = (getCore s x).tvec + 16 ∧ u.mode = .run ∧
      u.x = sl.x ∧ u.v = sl.v ∧ u.m = sl.m ∧ u.fexc = sl.fexc ∧ u.streams = sl.streams ∧ u.strict = sl.strict ∧ u.winbase = sl.winbase ∧
      u.cntL = sl.cntL ∧ u.cntS = sl.cntS ∧ u.cntE = sl.cntE ∧ u.cntM = sl.cntM ∧ u.pendX = sl.pendX ∧ u.pendV = sl.pendV ∧
      u.replayable = sl.replayable ∧ u.outbox = sl.outbox ∧ u.stepOwed = sl.stepOwed ∧ u.due = sl.due ∧
      (∀ y, y ≠ x → getCore (takeTrap s x k t) y = getCore s y)

/-- A trap while tvec is 0, or a second one in supervisor mode without NEST, ends the activation as KILL with X(A) = 0 would: the slot closes, its
outbox is dropped, its trap registers stay as they were, and a fault report of kind NOHANDLER or DOUBLE with the trap's cause, tval, epc and
tseq goes to the fault channel of its pattern (R271, R272, R284, R285). On a control core, whose handlers run in firmware mode, no trap is a
double one (R269; the model's choice, log entry 8). That the report stands in its channel in the same step is the model's choice (log entry
11), and so is DOUBLE where both hold, tvec 0 and a handler running (log entry 93). -/
def Obligations.TrapsWithoutAHandlerEndTheActivation : Prop :=
  ∀ (s : State) (t : TrapInfo),
    let x := s.cur.1
    let k := s.cur.2
    let sl := curSlot s
    let double := sl.sup = true ∧ sl.nest = false ∧ (curCore s).ctrl = false
    let tseq := match t.seqn with | some n => 2 ^ 16 + n % 2 ^ 16 | none => 0
    ((curCore s).tvec = 0 ∨ double) →
      let u := getSlot (takeTrap s x k t) x k
      u.mode = .closing ∧ u.streams = Vector.replicate 4 none ∧ u.due = [] ∧ u.outbox = [] ∧ u.replayable = false ∧ u.x = sl.x ∧
      u.pc = sl.pc ∧ u.cause = sl.cause ∧ u.epc = sl.epc ∧ u.stepOwed = false ∧
      (double → reports s (takeTrap s x k t) 8 t.cause.toNat t.tval t.epc tseq 0) ∧
      (¬double → reports s (takeTrap s x k t) 7 t.cause.toNat t.tval t.epc tseq 0)

/-- RTE continues at epc in the mode PM holds, its target checked as a transfer's (R291). KILL ends the activation with a fault report of kind KILL
that carries its code; where bit 0 of the code is set and the activation is replayable, there is no report: its requests complete without
effect and the messages that started it are back at the head of their channel, so that the body runs again (R292, R284, R285, R307). IINV
drops its line and discards a fill of it; TKTQ reads a ticket entry (R293, R294). That the report stands in its channel in the step of KILL
is the model's choice (log entry 11). -/
def Obligations.RteKillIinvAndTktqEffects : Prop :=
  ∀ (s : State) (a b : XReg), privileged s = true →
    (badPc (curSlot s).epc = none → exec .rte s = .next (updCur (retired s (curCore s) (curSlot s) (curSlot s).epc [])
      fun sl => { sl with sup := (curSlot s).pm })) ∧
    (∀ e, badPc (curSlot s).epc = some e → traps .rte s e (curSlot s).epc) ∧
    (xReady s [a] →
      let again := (curSlot s).replayable = true ∧ (getX (curSlot s) a).getLsbD 0 = true
      let killed := fun (t : State) =>
        (curSlot t).mode = .closing ∧ (curSlot t).outbox = [] ∧ (curSlot t).replayable = false ∧ (curSlot t).pc = (curSlot s).pc ∧
        (curSlot t).due = [] ∧ (curSlot t).streams = Vector.replicate 4 none ∧ (curSlot t).stepOwed = false ∧
        (curSlot t).retired = (curSlot s).retired + 1
      (¬again → completes (.kill a) s fun t => killed t ∧ reports s t 2 0 0 0 0 (getX (curSlot s) a)) ∧
      (again → alone s → completes (.kill a) s fun t => killed t ∧ gaveBack s t ∧
        (∀ r ∈ (curCore t).reqs, r.slot = s.cur.2 → r.act = (curSlot s).actId → r.killed = true) ∧
        (curCore t).reqs.length = (curCore s).reqs.length)) ∧
    (xReady s [b] →
      let v := getX (curSlot s) b
      let line := v.toNat / 128 * 128
      ((space v ≠ 0 ∨ bits v 57 3 ≠ 0) → traps (.iinv b) s 0x06 v) ∧
      (space v = 0 → bits v 57 3 = 0 → (curSlot s).twin = none → mayRelease s →
        let c := curCore (released s)
        exec (.iinv b) s = .next (retired (released s)
          { c with icache := c.icache.filter fun l => l.addr != line,
                   fills := c.fills.map fun f => if f.line = line then { f with discard := true } else f }
          (curSlot (released s)) (fallThrough (released s)) []))) ∧
    (xReady s [a, b] →
      let v := getX (curSlot s) b
      (32 ≤ v.toNat → traps (.tktq a b) s 0x06 v) ∧
      (v.toNat < 32 →
        let e := (curCore s).tickets[Fin.ofNat 16 v.toNat]
        exec (.tktq a b) s = .next (answers s a (if 16 ≤ v.toNat then e.page else tktqWord (curCore s) e)) ∧
        (e = {} → tktqWord (curCore s) e = 0)))

/-- What a slot takes at a boundary, in the order of R275: of several due late events that of the oldest request, before a STEP that is owed, and
that before its next instruction. A STEP that a late event displaces stays owed; in supervisor mode without NEST neither is taken, but the
refusal of the very request that STRICT waits for is raised at its instruction (R273, R275, R281, R283, R319). A refused REFUSED.UE in a
replayable activation runs it again (R307). A refused encoding traps with its cause and the tval of R45 (R37, R45, R48). That the displaced
STEP stays owed and how STRICT's own refusal is raised inside a handler is the model's choice (log entry 78), and so is that a control
core's handlers take late events (log entry 8). -/
def Obligations.BoundaryEventsAreTaken : Prop :=
  (∀ (s : State) (k : Fin 4),
    let x := s.cur.1
    let sl := getSlot s x k
    let c := getCore s x
    let here := { s with cur := (x, k) }
    let user := sl.sup = false ∨ c.ctrl = true
    let taken := fun (d : Due) => settleFailed (takeTrap (setSlot s x k fun q => { q with due := q.due.filter fun e => e.uid != d.uid }) x k
      { cause := d.cause, tval := d.tval, epc := sl.pc, seqn := some d.seqn, late := d.late,
        exact := decide (d.strictAt = some sl.pc ∨ sl.retired = d.retAt), req := d.req }) x
    let trapping := fun (d : Due) => d.cause = 0x12 → sl.replayable = false ∧ ∀ f, sl.fired = some f → f.replay = false
    (sl.mode = .run ∨ sl.mode = .stalled) →
      (∀ d ∈ sl.due, (∀ e ∈ sl.due, e ≠ d → d.seqn < e.seqn) → sl.strictReq = none → (user ∨ sl.nest = true) →
        slotTurn exec x k s = exec (.lateTrapTaken x k) here ∧ exec (.step x k) s = .next s ∧
        (trapping d → exec (.lateTrapTaken x k) s = .next (taken d)) ∧
        (trapping d → c.tvec ≠ 0 → completes (.lateTrapTaken x k) s fun t =>
          let u := getSlot t x k
          u.cause = d.cause ∧ u.tval = d.tval ∧ u.epc = sl.pc ∧ u.late = d.late ∧ u.treq = d.req ∧ u.sup = true ∧ u.pc = c.tvec + 16 ∧
          u.stepOwed = sl.stepOwed ∧ u.due = sl.due.filter fun e => e.uid != d.uid) ∧
        (d.cause = 0x12 → sl.replayable = true → s.cur.2 = k → alone s → (∀ f, sl.fired = some f → f.returned = false) →
          completes (.lateTrapTaken x k) s fun t => (getSlot t x k).mode = .closing ∧ (getSlot t x k).due = [] ∧ gaveBack s t)) ∧
      (sl.due = [] → sl.stepOwed = true → sl.strictReq = none → user →
        slotTurn exec x k s = exec (.step x k) here ∧
        exec (.step x k) s = .next (takeTrap (setSlot s x k fun q => { q with stepOwed := false }) x k { cause := 0x19, epc := sl.pc })) ∧
      (sl.sup = true → c.ctrl = false → sl.nest = false → sl.strictReq = none →
        exec (.lateTrapTaken x k) s = .next s ∧ exec (.step x k) s = .next s) ∧
      (∀ d, sl.due = [d] → sl.strictReq = some d.seqn → (∀ r ∈ c.reqs, r.seqn ≠ d.seqn) → trapping d →
        slotTurn exec x k s = exec (.lateTrapTaken x k) here ∧ exec (.lateTrapTaken x k) s = .next (taken d))) ∧
  (∀ (s : State) (tv : BitVec 28),
    traps (.unassignedEncoding .badPrefix tv) s 0x02 (tv.setWidth 64) ∧ traps (.unassignedEncoding .illegal tv) s 0x01 (tv.setWidth 64))

/-! ## Events of the network and the homes -/

/-- An answer ends its request: its counts fall, its pending bit clears, a value goes to its register, a refusal or a failed ticket
becomes a late event of its slot, a handle that no ferry gave lowers E again. A value takes its
place in the fingerprint. A ticket is recorded in the request and the ticket table. A line answer installs its line, unless IINV overtook
it. A request whose snapshot has completed leaves the NI (R23, R77, R104, R143, R192, R221, R273, R278, R281, R293, R310; the place in the
fingerprint is notes/assumptions/82). -/
def Obligations.AnswersEndTheirRequests : Prop :=
  ∀ (s : State) (k site : Nat) (src : Endpoint),
    (∀ r : Req, sole s site r →
      let sl := getSlot s site r.slot
      let l := lowered r sl
      let gives := fun (i : Instr) (a : Answer) (sl' : Slot) =>
        brings s k src (.core site) (.answer r.uid a) → completes i s fun t => ended s t k site r sl'
      (∀ (i : XReg) (n : Nat) (g : Bool), r.dest = .x i n g → 0 < n → n ≤ 8 → handleOp r.op = false →
        (∀ bs, gives (.loadResponse k) (.data bs) (folded r [loaded n g (leNat bs)] (setX l i (loaded n g (leNat bs))))) ∧
        (∀ w, gives (.loadResponse k) (.old w) (folded r [loaded n g w.toNat] (setX l i (loaded n g w.toNat))))) ∧
      (∀ (i : VReg) (act : Mask32) (b : Bool) (d : Lanes), r.dest = .v i act b → handleOp r.op = false →
        let v : Lanes := Vector.ofFn fun j => if act.getLsbD j.val then d[j] else (getV sl i)[j]
        gives (.loadResponse k) (.lanes d) (folded r (vecWords v) (setV l i v))) ∧
      (r.dest = .none → gives (.acknowledgement k) .ack l) ∧
      (∀ (i : XReg) (w : Word), r.dest = .x i 8 false → handleOp r.op = true →
        gives (.handleReply k) (.old w)
          (folded r [w] { setX l i w with cntE := sl.cntE - (if r.cntE ∧ w.getLsbD 63 then 1 else 0) })) ∧
      (∀ (a : Answer) (cause : BitVec 8) (tval : Word),
        ((∃ c, a = .refusePerm c ∧ cause = 0x11 ∧ tval = (match r.op with | .msg _ => BitVec.ofNat 64 c | _ => r.addr)) ∨
          (a = .refuseUE ∧ cause = 0x12 ∧ tval = r.addr) ∨ (a = .failed ∧ cause = 0x13 ∧ tval = r.addr)) →
        (r.cntL = true ∨ r.cntS = true ∨ r.cntE = true) → sl.mode ≠ .closing →
        gives (.lateRefusal k) a
          { l with due := sl.due ++ [{ uid := r.uid, seqn := r.seqn, cause := cause, tval := tval, late := true, retAt := r.retAt,
                                       req := match r.op with | .msg _ => 1 | _ => 0,
                                       strictAt := if sl.strictReq = some r.seqn then some sl.pc else none }] }) ∧
      (∀ w : BitVec 16, (∀ j : Fin 16, (getCore s site).tickets[j] = {}) → brings s k src (.core site) (.answer r.uid (.ticket w false)) →
        completes (.ticketAnswer k) s fun t =>
          t.net = without s k ∧ (getCore t site).slots = (getCore s site).slots ∧
          (getCore t site).reqs = [{ r with status := .ticketed w, home := src, head := false, last := false, ticketAt := s.cycle }] ∧
          (getCore t site).tickets[0] = { state := .opened, ticket := w, home := src, page := BitVec.ofNat 64 (r.addr.toNat / 4096 * 4096),
                                          seqn := r.seqn, slot := r.slot } ∧
          (getCore t site).events = (getCore s site).events.set 2 ((getCore s site).events[2] + 1))) ∧
    (∀ (f : Fill) (bs : List Byte), (getCore s site).fills = [f] → brings s k src (.core site) (.answer f.uid (.data bs)) →
      completes (.lineFillAnswer k) s fun t =>
        t.net = without s k ∧ (getCore t site).fills = [] ∧ (getCore t site).slots = (getCore s site).slots ∧
        (f.discard = true → (getCore t site).icache = (getCore s site).icache) ∧
        (f.discard = false → ∃ l ∈ (getCore t site).icache, l.addr = f.line ∧ l.start = BitVec.ofNat 56 (leNat (bs.take 8)) ∧
          ∀ i < 56, nth l.words i = some (BitVec.ofNat 16 (leNat ((bs.drop (16 + 2 * i)).take 2))))) ∧
    (∀ r : Req, (getCore s site).reqs = [r] → r.status = .held → r.uid ∉ r.snap → r.uid ∉ r.loads → (getCore s site).halted = false →
      (getCore s site).away = [] → (∀ j, (getSlot s site j).due = []) → (∀ j : Fin 16, (getCore s site).tickets[j].state ≠ .failed) → ((∃ f, r.home = .ferry f) ∨ ∃ n, r.home = .landing n) →
      completes (.snapshotRelease site) s fun t =>
        (getCore t site).reqs = [{ r with status := .flying, snap := [], loads := [] }] ∧ (getCore t site).slots = (getCore s site).slots ∧
        ∃ p q, t.net = s.net ++ [p] ∧ p.src = .core site ∧ p.dst = r.home ∧ p.body = .req q ∧ q.uid = r.uid ∧ q.addr = r.addr ∧
          ((∀ m, r.op ≠ .msg m) → q.op = r.op))

/-- A request reaches its home and is performed there in one step and answered: memory behind a translation of a ferry, refused without
the permission and ticketed without a translation, with an access to host memory under the partition's requester and PASID; the scratchpad
of a core, below the slot frames; a message placed in its channel, or refused with the first code of R146 that applies: GONE, NOCORE,
NOTCFG, PEERDENY (which firmware's own messages pass, R377), NOCODE, NOTGANG. The entry landing of a die sends a packet on, in its
place, to the site of its number or refuses NOCORE, and a site that a core has left sends its requests and the switch markers after it
(R146, R147, R162, R170, R175, R182, R277, R300, R336, R339, R357). -/
def Obligations.RequestsArePerformedAtTheirHomes : Prop :=
  ∀ (s : State) (k : Nat) (src : Endpoint) (r : ReqPkt),
    let answers := fun (t : State) (home : Endpoint) (a : Answer) =>
      t.net = without s k ++ [{ src := home, dst := src, cls := .rsp, body := .answer r.uid a }]
    (∀ f : Nat, brings s k src (.ferry f) (.req r) → (getFerry s f).srcs = [] → r.part ≠ fwPart → s.memUE = [] →
      let va := r.addr.toNat % 2 ^ 57
      let pasid := pasidOf s r.part va
      pasid ≠ 0 →
      (∀ e : TlbEnt, (getFerry s f).tlb = [e] → e.pasid = pasid → va / 2 ^ e.log2 = e.va / 2 ^ e.log2 →
        let pa := e.pa + va % 2 ^ e.log2
        let bus : List HostOut := if 2 ^ 64 ≤ pa ∧ pa < 2 ^ 65 then [.hostAccess r.part pasid (pa - 2 ^ 64) r.op] else []
        (∀ n, r.op = .read n → completes (.requestPerform k) s fun t => t.out = s.out ++ (if e.r then bus else []) ∧
          t.mem = s.mem ∧ answers t (.ferry f) (if e.r then .data (readBytes s.mem pa n) else .refusePerm 0)) ∧
        (∀ bs, r.op = .write bs → completes (.requestPerform k) s fun t => t.out = s.out ++ (if e.w then bus else []) ∧
          t.mem = (if e.w then writeBytes s.mem pa bs else s.mem) ∧ answers t (.ferry f) (if e.w then .ack else .refusePerm 0))) ∧
      ((getFerry s f).tlb = [] → (getFerry s f).recs = [] → (∃ n, r.op = .read n) → completes (.requestPerform k) s fun t =>
        t.mem = s.mem ∧ answers t (.ferry f) (.ticket (BitVec.ofNat 16 (f * 256)) false) ∧
        (getFerry t f).recs = [(0, { pasid := pasid, page := va / 4096, need := .read, opened := s.time, sources := [src] })])) ∧
    (∀ site : Nat, brings s k src (.core site) (.req r) →
      let c := getCore s site
      let o := meshOff r.addr
      c.fwd = [] → src ∉ c.awaitMark → c.srcs = [] →
      (meshCore r.addr = coreNumber s site → meshWin r.addr = 0 → c.spadUE = [] → c.spadCE = [] →
        (∀ n, r.op = .read n → n ≠ 0 → completes (.requestPerform k) s fun t =>
          (getCore t site).spad = c.spad ∧
          answers t (.core site) (if o + n ≤ 0x7C000 then .data (leBytes n (readLE c.spad o n)) else .refusePerm 0)) ∧
        (∀ bs, r.op = .write bs → bs ≠ [] → completes (.requestPerform k) s fun t =>
          (getCore t site).spad = (if o + bs.length ≤ 0x7C000 then writeLE c.spad o bs.length (leNat bs) else c.spad) ∧
          answers t (.core site) (if o + bs.length ≤ 0x7C000 then .ack else .refusePerm 0))) ∧
      (∀ m, r.op = .msg m → c.spilling = none → c.inbox = [] → (∀ f, src ≠ .ferry f) → (∀ p, c.part = some p → (getPart s p).dark = false) →
        let gone := ∃ p, c.part = some p ∧ (getPart s p).gone = true
        let refused := fun (code : Nat) => completes (.messageArrival k) s fun t =>
          answers t (.core site) (.refusePerm code) ∧ (getCore t site).chans = c.chans
        (gone → refused 6) ∧ (¬gone → m.dstCore ≠ coreNumber s site → refused 1) ∧
        (¬gone → m.dstCore = coreNumber s site →
          (tget c.chans m.chan = none → refused 2) ∧
          (∀ x, tget c.chans m.chan = some x →
            let peerDeny := x.peer = false ∧ r.part ≠ fwPart ∧ c.part ≠ some r.part
            let noCode := m.kind = 1 ∧ x.code = false
            let notGang := m.gang = true ∧ ∀ p ∈ c.pats, p.2.gang = 0 ∨ m.chan ∉ p.2.terms
            (peerDeny → refused 3) ∧ (¬peerDeny → noCode → refused 4) ∧ (¬peerDeny → ¬noCode → notGang → refused 5) ∧
            (¬peerDeny → ¬noCode → ¬notGang → takesNext c m.chan x → completes (.messageArrival k) s fun t =>
              answers t (.core site) .ack ∧ m.chan ∈ (getCore t site).marked ∧
              tget (getCore t site).chans m.chan = some { x with queue := x.queue ++ [⟨m, s.time, false, r.part⟩] }))))) ∧
    (∀ l lc : Nat, brings s k src (.landing l) (.entryReq lc r) → completes (.entryLanding k) s fun t =>
      match numberSite s (l / 16) ((getDie s (l / 16)).landVer[Fin.ofNat 16 l]) lc with
      | some y => ∃ p, t.net = s.net.set k p ∧ p.src = src ∧ p.dst = .core y ∧ p.body = .req r ∧ p.wire = .queued
      | none => answers t (.landing l) (.refusePerm 1)) ∧
    (∀ site y lc : Nat, tget (getCore s site).fwd lc = some y →
      (brings s k src (.core site) (.req r) → reqNumber r = lc → completes (.forwarding k) s fun t =>
        ∃ p, t.net = without s k ++ [p] ∧ p.src = .core site ∧ p.dst = .core y ∧ p.body = .forward lc r src) ∧
      (∀ e, brings s k src (.core site) (.marker lc e) → completes (.switchMarker k) s fun t =>
        ∃ p, t.net = without s k ++ [p] ∧ p.src = .core site ∧ p.dst = .core y ∧ p.body = .marker lc e)) ∧
    (∀ (site lc : Nat) (e : Endpoint), tget (getCore s site).fwd lc = none → brings s k src (.core site) (.marker lc e) →
      completes (.switchMarker k) s fun t =>
        t.net = without s k ∧ (getCore t site).awaitMark = (getCore s site).awaitMark.filter fun x => x != e)

/-- A replay notice sends the waiting request of its ticket again as a burst, HEAD and LAST on the one request, its table entry
REPLAYING, and the answer to that request ends the burst, ordered or not, and frees the entry; a failure notice makes it a failed ticket
of its slot, the entry FAILED until the failure has been reported. A map commit or a DIEBASE write is installed by its recipient (R278,
R279, R293, R315, R337, R380, R382). Three points are the model's: the end of a burst without ordered requests, and that a notice
that comes before the answer to an ordered request on its way to that home is taken and waits (both log entry 22); and that an invalidation
drops its line and counts in the step in which it comes (log entry 63). -/
def Obligations.NoticesAndBroadcastsTakeEffect : Prop :=
  ∀ (s : State) (k site : Nat) (src : Endpoint),
    (∀ (f : Nat) (w : BitVec 16) (r : Req), src = .ferry f → (getCore s site).reqs = [r] → r.status = .ticketed w → r.home = src →
      (getCore s site).halted = false → (getCore s site).spillOut = none → (getCore s site).restoring = none →
      (getCore s site).fills = [] → (getCore s site).bulks = [] → (getCore s site).notices = [] → s.loads = [] →
      (getCore s site).tickets[0].state = .opened → (getCore s site).tickets[0].ticket = w → (getCore s site).tickets[0].home = src →
      (∀ j : Fin 16, j ≠ 0 → (getCore s site).tickets[j] = {}) →
      (∀ p ∈ s.net, ∀ u v b, p.body ≠ .answer u (.ticket v b)) →
      (brings s k src (.core site) (.notice w) → completes (.replayNotice k) s fun t =>
        (getCore t site).reqs = [{ r with status := .flying, snap := [], loads := [], head := true, last := true, burst := some w }] ∧
        (getCore t site).tickets[0].state = .replaying ∧ (getCore t site).slots = (getCore s site).slots ∧
        ∃ p q, t.net = without s k ++ [p] ∧ p.src = .core site ∧ p.dst = src ∧ p.body = .req q ∧ q.uid = r.uid ∧ q.head = true ∧
          q.last = true) ∧
      (brings s k src (.core site) (.failure w) → r.killed = false → r.tell = none → r.burst = none →
        (getSlot s site r.slot).actId = r.act → parked (getCore s site) r.slot r.act = false → (getSlot s site r.slot).mode ≠ .closing →
        (r.cntL = true ∨ r.cntS = true) →
        completes (.failureNotice k) s fun t =>
          let sl := getSlot s site r.slot
          ended s t k site r { lowered r sl with
            due := sl.due ++ [{ uid := r.uid, seqn := r.seqn, cause := 0x13, tval := r.addr, late := true, retAt := r.retAt,
                                req := (match r.op with | .msg _ => 1 | _ => 0), ticket := some (w, src),
                                strictAt := if sl.strictReq = some r.seqn then some sl.pc else none }] } ∧
          (getCore t site).tickets[0] = { (getCore s site).tickets[0] with state := .failed, hold := r.ordered })) ∧
    (∀ (w : BitVec 16) (r : Req), (getCore s site).reqs = [r] → r.status = .flying → r.dest = .none → r.burst = some w → r.last = true →
      r.home = src → r.killed = false → r.tell = none → (getCore s site).notices = [] → (getCore s site).fills = [] →
      (getCore s site).bulks = [] → (getCore s site).away = [] → (getCore s site).tickets[0].state = .replaying →
      (getCore s site).tickets[0].ticket = w → (getCore s site).tickets[0].home = src → (getCore s site).tickets[0].hold = r.ordered →
      (∀ j : Fin 16, j ≠ 0 → (getCore s site).tickets[j] = {}) → brings s k src (.core site) (.answer r.uid .ack) →
      completes (.acknowledgement k) s fun t => (getCore t site).reqs = [] ∧ (getCore t site).tickets[0] = {} ∧ t.net = without s k) ∧
    (∀ (f : Nat) (w : BitVec 16), src = .ferry f → (getCore s site).tickets[0].state = .failed → (getCore s site).tickets[0].ticket = w →
      (getCore s site).tickets[0].home = src → (∀ j : Fin 16, j ≠ 0 → (getCore s site).tickets[j] = {}) → (getCore s site).reqs = [] →
      (getCore s site).away = [] → (∀ j, (getSlot s site j).due = []) → completes (.snapshotRelease site) s fun t =>
        (getCore t site).tickets[0] = {} ∧ t.net = s.net ∧ (getCore t site).slots = (getCore s site).slots) ∧
    (∀ (f : Nat) (w : BitVec 16) (r : Req), src = .ferry f → r ∈ (getCore s site).reqs → r.ordered = true → r.home = src → r.status = .flying →
      (getCore s site).bulks = [] → s.loads = [] → brings s k src (.core site) (.notice w) → completes (.replayNotice k) s fun t =>
        t.net = without s k ∧ (getCore t site).reqs = (getCore s site).reqs ∧ (getCore t site).tickets = (getCore s site).tickets ∧
        ∃ b, (getCore t site).notices = (getCore s site).notices ++ [{ home := src, ticket := w, ok := true, pages := b }]) ∧
    (∀ die n : Nat, die < 4 →
      (brings s k src (.core site) (.mapCommit die n) → completes (.mapInstall k) s fun t =>
        t.net = without s k ∧ (getCore t site).mapVer = n ∧ .core site ∉ (getDie t die).mapWait) ∧
      (brings s k src (.landing site) (.mapCommit die n) → site < 64 → completes (.mapInstall k) s fun t =>
        t.net = without s k ∧ (getDie t (site / 16)).landVer[Fin.ofNat 16 site] = n ∧ .landing site ∉ (getDie t die).mapWait) ∧
      (brings s k src (.core site) (.dieBase n) → completes (.mapInstall k) s fun t =>
        t.net = without s k ∧ (getCore t site).baseVer = n ∧ (getCore t site).mapVer = (getCore s site).mapVer) ∧
      (brings s k src (.landing site) (.dieBase n) → site < 64 → completes (.mapInstall k) s fun t =>
        t.net = without s k ∧ (getDie t (site / 16)).landBase[Fin.ofNat 16 site] = n)) ∧
    (∀ (line : Word) (id : Nat) (v : InvSvc), brings s k src (.core site) (.inval line id) → tget s.invs id = some v →
      completes (.invalidationMessage k) s fun t =>
        (∀ l ∈ (getCore t site).icache, l.addr ≠ line.toNat / 128 * 128) ∧
        (1 < v.left → t.net = without s k ∧ t.invs = tset s.invs id { v with left := v.left - 1 }) ∧
        (v.left ≤ 1 → (getCore s (ctrlSite s v.die)).reqs = [] → t.invs = tdel s.invs id ∧
          said s t v.die { kind := 2, count := 2, srcCore := 0x1FF0 + v.die, srcDev := s.devid, chan := bits v.reply 23 8,
                           dstCore := bits v.reply 10 13, dstDev := s.devid, words := words6 [3, BitVec.ofNat 64 v.total] }))

/-! ## Events of a core -/

/-- The head entry of the ready queue starts in the lowest free slot with the registers of R8 and R9. A CLOSING slot with nothing
outstanding becomes FREE. The matcher fires the pattern of the first marked channel and puts it on the ready queue, or takes the channel
off the list. An idle core asks its first victim; a victim gives its oldest entry in the thief's set; the thief takes it, and fires its own
pattern on it. A message for a full pool is written to the ring, counted and acknowledged when its writing is, and refused with the
spill's ticket when the writing is ticketed; it is read when there is room, and comes back to its channel (R8 to R10, R15, R120 to R123,
R126, R128, R129, R132, R133, R188). That the first victim before any steal is the first core of the domain, and that a stolen entry with no place waits and is placed by a later FIRE, is
log entry 51; that a core's NI writes one message at a time, and reads one back for each channel by a BULK request, is log entry 69. -/
def Obligations.CoresStartMatchAndSteal : Prop :=
  ∀ (s : State) (site : Nat),
    let c := getCore s site
    (∀ (f : Fired) (rest : List ReadyEnt) (k : Fin 4), coreRuns s site = true → wantedBy s site = none → c.ready = .start f :: rest →
      f.gang = 0 → f.twin = false → c.away = [] → c.dbgctl.getLsbD 1 = false → c.slots[k].mode = .free →
      (∀ j : Fin 4, j < k → c.slots[j].mode ≠ .free) →
      completes (.bodyStart site) s fun t =>
        let q := getSlot t site k
        (getCore t site).ready = rest ∧ q.mode = .run ∧ q.pc = f.entry + 16 ∧ q.x[2] = frameBaseAddr k ∧ q.x[4] = f.comb ∧
        q.x[3] = BitVec.ofNat 64 (f.pat % 64 + f.terms.length * 2 ^ 6 + f.quorum * 2 ^ 11 + f.seq.toNat * 2 ^ 24 + f.sqterm * 2 ^ 40 +
          (if f.sqv then 2 ^ 42 else 0)) ∧
        (∀ (n j : Nat) (hn : n < 4) (hj : j < 6), q.x[8 + 6 * n + j] =
          match nth f.terms n with | some e => if j < e.1 then e.2[j] else 0 | none => 0) ∧
        q.v = Vector.replicate 32 (Vector.replicate 32 0) ∧ q.fexc = 0 ∧ q.cntL = 0 ∧ q.cntS = 0 ∧ q.cntE = 0 ∧ q.cntM = 0 ∧
        q.pendX = 0 ∧ q.pendV = 0 ∧ q.streams = Vector.replicate 4 none ∧ q.strict = false ∧ q.winbase = 0 ∧ q.sup = false ∧
        q.serial = c.slots[k].serial + 1 ∧ q.fired = some f ∧ q.replayable = f.replay ∧
        ∀ j, j ≠ k → getSlot t site j = c.slots[j]) ∧
    (∀ k : Fin 4, c.slots[k].mode = .closing → c.halted = false → c.slots[k].cntL = 0 → c.slots[k].cntS = 0 → c.spillOut = none →
      (∀ r ∈ c.reqs, ¬(r.slot = k ∧ r.act = c.slots[k].actId)) →
      completes (.slotRelease site k) s fun t =>
        (getSlot t site k).mode = .free ∧ (getSlot t site k).serial = c.slots[k].serial ∧ (getSlot t site k).x = c.slots[k].x ∧
        (∀ j, j ≠ k → getSlot t site j = c.slots[j]) ∧ t = { s with cores := t.cores }) ∧
    (∀ ch : Nat, coreRuns s site = true → c.ready.length < 16 → c.away = [] → stolenFits c = false → c.marked = [ch] →
      (∀ (pi : Nat) (p : Pat) (x : Chan) (q : QMsg) (qs : List QMsg), c.pats = [(pi, p)] → pi < 64 → p.terms = [ch] → p.qn = 0 →
        tget c.chans ch = some x → x.kind = .fifo → x.queue = q :: qs →
        completes (.fire site) s fun t =>
          (∃ f, (getCore t site).ready = c.ready ++ [.start f] ∧ f.pat = pi ∧ f.entry = p.entry ∧ f.terms = [(q.msg.count, q.msg.words)] ∧
            f.replay = (p.replay || p.twin) ∧ f.quorum = 1) ∧
          (tget (getCore t site).chans ch).map (fun y => y.queue) = some qs ∧
          (tget (getCore t site).chans ch).map (fun y => y.held) = some (if p.replay || p.twin then x.held + 1 else x.held)) ∧
      (∀ x, c.pats = [] → tget c.chans ch = some x → x.kind = .fifo → completes (.fire site) s fun t =>
        (getCore t site).marked = [] ∧ (getCore t site).ready = c.ready)) ∧
    (∀ d : DeqEnt, coreRuns s site = true → c.ready.length < 16 → c.away = [] → c.stolen = some d → c.spilling = none → c.pats = [] →
      dequeUsed c < 64 → completes (.fire site) s fun t =>
        (getCore t site).deque = c.deque ++ [d] ∧ d.chan ∈ (getCore t site).marked ∧ (getCore t site).stolen = none ∧
        (getCore t site).ready = c.ready) ∧
    (∀ v vs, coreRuns s site = true → c.stealOut = false → c.stolen = none → idleCore c = true → stealSet c ≠ [] → c.lastVictim = none →
      stealVictims s site = v :: vs →
      completes (.steal site) s fun t =>
        (getCore t site).lastVictim = some v ∧ (getCore t site).stealOut = true ∧
        t.net = s.net ++ [{ src := .core site, dst := .core v, cls := .sys, body := .stealReq (stealSet c) }]) ∧
    (∀ (k : Nat) (src : Endpoint) (chs : List Nat), brings s k src (.core site) (.stealReq chs) → c.halted = false → darkCore s site = false →
      (∀ x ∈ c.chans, x.2.waiters = []) →
      (∀ d rest, c.deque = d :: rest → d.chan ∈ chs → completes (.stealRequest k) s fun t =>
        (getCore t site).deque = rest ∧ (getCore t site).events[9] = c.events[9] + 1 ∧
        t.net = without s k ++ [{ src := .core site, dst := src, cls := .sys, body := .stealRep (some d) }]) ∧
      ((∀ d ∈ c.deque, d.chan ∉ chs) → completes (.stealRequest k) s fun t =>
        (getCore t site).deque = c.deque ∧
        t.net = without s k ++ [{ src := .core site, dst := src, cls := .sys, body := .stealRep none }])) ∧
    (∀ (k : Nat) (src : Endpoint) (d : Option DeqEnt), brings s k src (.core site) (.stealRep d) → c.spilling = none →
      c.stolen = none → c.pats = [] → dequeUsed c < 64 →
      completes (.stealReply k) s fun t =>
        t.net = without s k ∧ (getCore t site).stealOut = false ∧
        match d with
        | none => (getCore t site).deque = c.deque
        | some e => (getCore t site).deque = c.deque ++ [e] ∧ e.chan ∈ (getCore t site).marked ∧ (getCore t site).events[8] = c.events[8] + 1) ∧
    (∀ (k : Nat) (src : Endpoint) (e : DeqEnt) (pi : Nat) (p : Pat) (x : Chan), brings s k src (.core site) (.stealRep (some e)) →
      c.pats = [(pi, p)] → pi < 64 → p.terms = [e.chan] → p.qn = 0 → tget c.chans e.chan = some x → x.kind = .roaming → c.ready = [] →
      c.spilling = none → c.away = [] → c.halted = false → c.slots[(0 : Fin 4)].mode = .free → completes (.stealReply k) s fun t =>
        (getCore t site).deque = c.deque ∧ ∃ f, (getCore t site).ready = [.start f] ∧ f.pat = pi ∧ f.entry = p.entry ∧
          f.terms = [(e.qm.msg.count, e.qm.msg.words)]) ∧
    (∀ (k : Nat) (src : Endpoint) (r : ReqPkt) (m : Msg) (x : Chan), brings s k src (.core site) (.req r) → r.op = .msg m →
      m.dstCore = coreNumber s site → c.fwd = [] → c.awaitMark = [] → c.inbox = [] → c.srcs = [] → c.spilling = none → m.kind ≠ 1 → m.gang = false →
      (∀ p, c.part = some p → (getPart s p).dark = false ∧ (getPart s p).gone = false) → (c.part = some r.part ∨ x.peer = true) →
      tget c.chans m.chan = some x → x.kind = .fifo → x.cap ≤ x.queue.length + x.held → x.ovf = [] → 0 < x.ovfSize →
      (∀ p ∈ c.pats, p.2.qn = 0) →
      let i := x.tail % x.ovfSize
      let a := x.ovfBase + BitVec.ofNat 64 (64 * i)
      completes (.messageArrival k) s fun t =>
        (getCore t site).spilling = some { uid := c.nextUid, chan := m.chan, gen := x.gen, ix := i, out := ⟨m, s.time, false, r.part⟩,
                                           come := none, by_ := .source src r } ∧
        (getCore t site).bulks = c.bulks ++ [{ uid := c.nextUid, kind := .ovfSpill, op := .write (msgBytes m), addr := a }] ∧
        (getCore t site).chans = c.chans ∧ ∃ p q, t.net = without s k ++ [p] ∧ p.src = .core site ∧ p.dst = .ferry (homeFerry a) ∧
          p.cls = .bulk ∧ p.body = .req q ∧ q.op = .write (msgBytes m) ∧ q.addr = a ∧ q.part = corePart s site) ∧
    (∀ (k : Nat) (home : Endpoint) (b : Bulk) (p : Spill) (x : Chan) (n : Nat) (r : ReqPkt), c.bulks = [b] → b.kind = .ovfSpill →
      c.spilling = some p → p.uid = b.uid → p.come = none → p.by_ = .source (.core n) r → c.stolen = none → c.reqs = [] →
      c.fills = [] → c.notices = [] → c.reports = [] → c.inbox = [] → c.srcs = [] → c.away = [] →
      tget c.chans p.chan = some x → x.gen = p.gen → p.out.msg.chan = p.chan →
      (brings s k home (.core site) (.answer b.uid .ack) → completes (.acknowledgement k) s fun t =>
        t.net = without s k ++ [{ src := .core site, dst := .core n, cls := .rsp, body := .answer r.uid .ack }] ∧
        (getCore t site).spilling = none ∧ p.chan ∈ (getCore t site).marked ∧ (getCore t site).events[7] = c.events[7] + 1 ∧
        tget (getCore t site).chans p.chan = some
          { x with ovf := x.ovf ++ [⟨p.ix, p.out.msg.seq, p.out.arrival, p.out.returned, p.out.part⟩], tail := (p.ix + 1) % x.ovfSize }) ∧
      (∀ w, brings s k home (.core site) (.answer b.uid (.ticket w false)) → r.ordered = false → completes (.ticketAnswer k) s fun t =>
        let v := BitVec.ofNat 16 (0xFF00 + p.chan)
        t.net = without s k ++ [{ src := .core site, dst := .core n, cls := .rsp, body := .answer r.uid (.ticket v false) }] ∧
        (getCore t site).spilling = none ∧ ∃ y, tget (getCore t site).chans p.chan = some y ∧ .core n ∈ y.waiters ∧ y.ovf = x.ovf)) ∧
    (∀ (ch : Nat) (x : Chan) (e : OvfEnt), c.halted = false → tget c.chans ch = some x → x.kind = .fifo → x.ovf = [e] →
      x.queue.length + x.held < x.cap → (∀ p ∈ c.pats, p.2.qn = 0) →
      let a := x.ovfBase + BitVec.ofNat 64 (64 * e.ix)
      (c.bulks = [] → completes (.overflowReturn site ch) s fun t =>
        (getCore t site).bulks = [{ uid := c.nextUid, kind := .ovfReturn ch x.gen e.ix, op := .read 64, addr := a }] ∧
        (getCore t site).chans = c.chans ∧ ∃ p q, t.net = s.net ++ [p] ∧ p.src = .core site ∧ p.dst = .ferry (homeFerry a) ∧
          p.cls = .bulk ∧ p.body = .req q ∧ q.uid = c.nextUid ∧ q.op = .read 64 ∧ q.addr = a) ∧
      (∀ (k : Nat) (src : Endpoint) (b : Bulk) (bs : List Byte), c.bulks = [b] → b.kind = .ovfReturn ch x.gen e.ix → c.reqs = [] →
        c.fills = [] → c.notices = [] → brings s k src (.core site) (.answer b.uid (.data bs)) → completes (.loadResponse k) s fun t =>
          (getCore t site).bulks = [] ∧ ch ∈ (getCore t site).marked ∧ ∃ y, tget (getCore t site).chans ch = some y ∧ y.ovf = [] ∧
            y.queue = x.queue ++ [⟨msgOf bs, e.arrival, e.returned, e.part⟩]))

/-- A core that is wanted next grants a slot to the lead, and the last grant starts the body on the members at once, or the twins under
one activation id. Twins that agree go on, and twins that differ run again once while they may, or else both end with a machine check. A
slot that waits on a ticket past the threshold goes to its spill frame in four page writes, the slot then FREE, and comes back from it in
four page reads with its context and slot frame (R130, R297, R298, R308, R310, R311). That a group starts in the step of its last grant
is log entry 29; that the frame moves as four BULK pages, and the context is kept beside them, is log entry 17. -/
def Obligations.GangsTwinsAndSpillFrames : Prop :=
  ∀ (s : State) (site : Nat), (∀ x, (getCore s x).dbgctl.getLsbD 1 = false) →
    let c := getCore s site
    (∀ (lead : Nat) (f : Fired) (ms : List Nat) (k : Fin 4), wantedBy s site = some lead → coreRuns s site = true →
      holdsReservation c = false → c.restoring = none → groupOf s lead = some (f, ms) → slotToGrant s site lead f.twin = some k →
      ((getCore s lead).granted.length + 1 < ms.length → completes (.gangGrant site) s fun t =>
        (getSlot t site k).mode = .reserved lead ∧ (getCore t lead).granted = (getCore s lead).granted ++ [site]) ∧
      ((getCore s lead).granted.length + 1 = ms.length → f.twin = false → completes (.gangGrant site) s fun t =>
        (getSlot t site k).mode = .run ∧ (getSlot t site k).pc = f.entry + 16 ∧ (getCore t lead).granted = []) ∧
      ((getCore s lead).granted.length + 1 = ms.length → f.twin = true → lead ≠ site → completes (.gangGrant site) s fun t =>
        let a := getSlot t lead k
        let b := getSlot t site k
        a.mode = .run ∧ b.mode = .run ∧ a.pc = f.entry + 16 ∧ b.pc = f.entry + 16 ∧ a.twin = some (.primary site) ∧
        b.twin = some (.secondary lead) ∧ b.actId = a.actId)) ∧
    (∀ (p : Nat) (k : Fin 4),
      let a := c.slots[k]
      let b := getSlot s p k
      a.twin = some (.primary p) → p ≠ site → a.mode = .stalled → b.mode = .stalled → a.retired = b.retired → a.twinWait = .exchange →
      b.twinWait = .exchange → a.cntL = 0 → b.cntL = 0 → b.actId = a.actId → parked c k a.actId = false →
      parked (getCore s p) k a.actId = false → c.halted = false →
      (a.fprint = b.fprint → completes (.twinExchange site k) s fun t =>
        getSlot t site k = { a with exchanged := some a.retired, twinWait := .none } ∧
        getSlot t p k = { b with exchanged := some a.retired, twinWait := .none }) ∧
      (∀ f g, a.fprint ≠ b.fprint → a.fired = some f → b.fired = some g →
        (a.replayable = true → b.replayable = true → f.reruns = 0 → g.reruns = 0 → completes (.twinExchange site k) s fun t =>
          (getSlot t site k).mode = .run ∧ (getSlot t site k).pc = f.entry + 16 ∧ (getSlot t site k).outbox = [] ∧
          (getSlot t p k).mode = .run ∧ (getSlot t p k).pc = g.entry + 16 ∧ (getSlot t p k).actId = (getSlot t site k).actId) ∧
        (a.replayable = false ∨ b.replayable = false ∨ f.reruns = 1 ∨ g.reruns = 1 → completes (.twinExchange site k) s fun t =>
          (getSlot t site k).mode = .closing ∧ (getSlot t p k).mode = .closing ∧ ∃ l, t.out = l ++ [.machineCheck site 9]))) ∧
    (∀ (k : Fin 4) (n : Nat), coreRuns s site = true → c.ready ≠ [] → c.spillOut = none → spillVictim s c = some k → spillFrame c = some n →
      completes (.slotSpill site) s fun t =>
        (getCore t site).spillOut = some { slot := k, frame := n } ∧ (getSlot t site k).mode = c.slots[k].mode ∧
        (getSlot t site k).x = c.slots[k].x ∧ (getSlot t site k).pc = c.slots[k].pc ∧ pages s t site n true) ∧
    (∀ m : FrameMove, c.spillOut = some m → c.bulks = [] → completes (.slotSpillDone site m.slot) s fun t =>
      (getSlot t site m.slot).mode = .free ∧ (getCore t site).spillOut = none ∧ (getCore t site).events[6] = c.events[6] + 1 ∧
      ∃ a, (getCore t site).away = c.away ++ [a] ∧ a.slot = m.slot ∧ a.frame = m.frame ∧ a.ctx = c.slots[m.slot] ∧
        a.frameBytes = readBytes c.spad (0x7C000 + m.slot.val * 0x1000) 4096) ∧
    (∀ (k : Fin 4) (n : Nat) (rest : List ReadyEnt) (a : Away), working s site = true → c.boot = false → c.restoring = none →
      c.halted = false → wantedBy s site = none → c.ready = .resume k n :: rest → c.slots[k].mode = .free → c.away = [a] → a.slot = k →
      a.frame = n → completes (.slotRestore site) s fun t =>
        (getCore t site).ready = rest ∧ (getCore t site).restoring = some { slot := k, frame := n } ∧ (getCore t site).away = [a] ∧
        (getSlot t site k).mode ≠ .free ∧ (getCore t site).spad = c.spad ∧ pages s t site n false) ∧
    (∀ (m : FrameMove) (a : Away) (b : Bulk) (j pkt : Nat) (src : Endpoint) (bs : List Byte), c.restoring = some m → c.bulks = [b] →
      b.kind = .restorePage j → c.reqs = [] → c.fills = [] → c.notices = [] → c.away = [a] → a.slot = m.slot → a.frame = m.frame →
      a.fillTrap = none → a.ctx.mode ≠ .closing → brings s pkt src (.core site) (.answer b.uid (.data bs)) →
      completes (.loadResponse pkt) s fun t =>
        getSlot t site m.slot = { a.ctx with serial := c.slots[m.slot].serial, waits := [], stallAt := s.cycle } ∧
        (getCore t site).away = [] ∧ (getCore t site).restoring = none ∧
        (getCore t site).spad = writeBytes c.spad (0x7C000 + m.slot.val * 0x1000) a.frameBytes)

/-! ## Events of a ferry -/

/-- The host's answers to a ferry's page records: a present page is installed and closes the record with a replay notice, one without the
permission or of the wrong colour fails it, "not present" leads to a PRI request, which is held while as many are out as the host grants,
and whose success asks again and whose failure, or the ticket limit, fails the record; the answer to a request whose record a teardown has closed
only ends that request; an invalidation takes the matching entries out (R173, R176, R277, R351, R357). -/
def Obligations.PageRecordsFollowTheHost : Prop :=
  ∀ (s : State) (f ix : Nat) (r : PageRec) (src : Endpoint),
    let x := getFerry s f
    let closed := fun (t : State) (b : Body) =>
      (getFerry t f).recs = tdel x.recs ix ∧ t.net = s.net ++ [{ src := .ferry f, dst := src, cls := .sys, body := b }]
    let fails := fun (i : Instr) => completes i s fun t =>
      closed t (.failure (BitVec.ofNat 16 (f * 256 + ix))) ∧ (getFerry t f).tlb = x.tlb ∧
        tget t.nv.ferryFails f = some ((tget s.nv.ferryFails f).getD 0 + 1)
    (tget x.recs ix = some r → r.sources = [src] → sourceDark src = false → sorted s.ferries → sorted x.recs → priWanted s = [] →
      (r.pri = false →
        (priOut s < s.priMax → completes (.atsResponse f ix .notPresent) s fun t =>
          (getFerry t f).recs = tset x.recs ix { r with pri := true, opened := s.time } ∧ t.net = s.net) ∧
        (s.priMax ≤ priOut s → completes (.atsResponse f ix .notPresent) s fun t =>
          (getFerry t f).recs = tset x.recs ix { r with want := some s.stepNo } ∧ t.net = s.net) ∧
        (∀ (pa n : Nat) (rd w e : Bool), n ∈ [12, 14, 16, 18, 20, 21, 24, 26, 28, 30] → s.bar4Base ≤ pa / 2 ^ n * 2 ^ n →
          pa / 2 ^ n * 2 ^ n + 2 ^ n ≤ s.bar4Base + Config.hbmBytes → x.tlb.length < Config.tlbMax →
          let page : TlbEnt :=
            { pasid := r.pasid, va := r.page * 4096 / 2 ^ n * 2 ^ n, log2 := n, pa := pa / 2 ^ n * 2 ^ n - s.bar4Base, r := rd, w := w, x := e }
          (permOk r.need page = true → colourOk page = true → completes (.atsResponse f ix (.present pa n rd w e)) s fun t =>
            closed t (.notice (BitVec.ofNat 16 (f * 256 + ix))) ∧ (getFerry t f).tlb = x.tlb ++ [page]) ∧
          (permOk r.need page = false ∨ colourOk page = false → fails (.atsResponse f ix (.present pa n rd w e))))) ∧
      (r.pri = true →
        (completes (.priResponse f ix .success) s fun t =>
          (getFerry t f).recs = tset x.recs ix { r with pri := false } ∧ t.net = s.net) ∧
        fails (.priResponse f ix .responseFailure) ∧ fails (.priResponse f ix .invalidRequest) ∧
        (r.opened + s.ticketLimit ≤ s.time → fails (.ticketLimitExpiry f ix)))) ∧
    (∀ a : PriAnswer, tget x.recs ix = none → priWanted s = [] → completes (.priResponse f ix a) s fun t =>
      (getFerry t f).priLost = tdel x.priLost ix ∧ (getFerry t f).recs = x.recs ∧ t.net = s.net) ∧
    (∀ pasid va n : Nat, completes (.atsInvalidation f pasid va n) s fun t =>
      (∀ e, e ∈ (getFerry t f).tlb ↔ e ∈ x.tlb ∧
        ¬(e.pasid = pasid ∧ e.va < va / 2 ^ n * 2 ^ n + 2 ^ n ∧ va / 2 ^ n * 2 ^ n < e.va + 2 ^ e.log2)) ∧
      (getFerry t f).recs = x.recs ∧ t.net = s.net)

/-- A ferry takes a subscription into its lowest free entry and answers its handle, passes it on when it has none, and the last one
refuses it. A deferred flag that is met leads to the record, and the record gives the count. Tiles start in order and send their segments,
an output tile's with the bytes of its berth; the first segment to come back turns the berth FILLING with the tile's number and its bytes
are staged, the last one of the oldest tile turns the berth READY, a ticket makes a fix-up, which a replay notice sends again, and a refusal
ends the subscription FAILED. UNSUB cancels, once what it has sent is back, and FSTAT answers the status word (R201 to R203, R209, R210, R212,
R213, R221 to R223). That at most 16 segments are out, that a stopped input ring does not send a ticketed segment again, and that a second
UNSUB while the first is finishing is answered as an ended subscription is, are log entry 85. -/
def Obligations.SubscriptionsMoveTheirTiles : Prop :=
  ∀ (s : State) (f : Nat),
    let x := getFerry s f
    (∀ (k site : Nat) (r : ReqPkt) (win rows groups : Nat) (snap : List Nat) (desc : List Byte),
      brings s k (.core site) (.ferry f) (.req r) → r.op = .subscr win rows groups snap desc →
      let d := subDesc (leNat desc)
      let gen := (tget x.gens 0).getD 0
      (x.subs = [] → ¬(d.dcount = false ∧ d.tcount = 0) → completes (.ferrySubscribe k) s fun t =>
        t.net = without s k ++
          [{ src := .ferry f, dst := .core site, cls := .rsp, body := .answer r.uid (.old (BitVec.ofNat 64 (f % 128 * 2 ^ 9 + gen % 8 * 2 ^ 6))) }] ∧
        tget (getFerry t f).gens 0 = some ((gen + 1) % 8) ∧
        ∃ u, getSub t f 0 = some u ∧ u.part = r.part ∧ u.lcore = r.srcCore ∧ u.slot = r.slot ∧ u.act = r.act ∧ u.d = d ∧ u.rows = rows ∧
          u.groups = groups ∧ u.gen = gen ∧ u.state = (if d.dcount || d.dbase then .waiting else .active)) ∧
      (freeSub x = none → ∀ g, nextFerry site f = some g → completes (.ferrySubscribe k) s fun t =>
        ∃ p, t.net = without s k ++ [p] ∧ p.src = .core site ∧ p.dst = .ferry g ∧ p.body = .req r) ∧
      (freeSub x = none → nextFerry site f = none → completes (.ferrySubscribe k) s fun t =>
        t.net = without s k ++ [{ src := .ferry f, dst := .core site, cls := .rsp, body := .answer r.uid (.old (subscrRefusal 6)) }])) ∧
    (∀ (e : Nat) (u : Sub), getSub s f e = some u →
      (∀ pa, u.state = .waiting → u.defTicket = none → subRuns s u = true → s.memUE = [] →
        translate s (homeFerry u.d.defaddr) u.part (u.d.defaddr.toNat % 2 ^ 57) .read = .pa pa →
        completes (.deferredPoll f e) s fun t => getSub t f e = some
          (if (readLE s.mem pa 2 + 2 ^ 16 - u.d.flagv) % 2 ^ 16 < 0x8000 then { u with state := .record } else u)) ∧
      (∀ pa, u.state = .record → u.defTicket = none → subRuns s u = true → s.memUE = [] → u.d.dcount = true → u.d.dbase = false →
        translate s (homeFerry (u.d.defaddr + 8)) u.part ((u.d.defaddr + 8).toNat % 2 ^ 57) .read = .pa pa →
        0 < readLE s.mem pa 8 → readLE s.mem pa 8 < 2 ^ 24 → baseOk u.d = true → xbaseOk u.d = true →
        completes (.deferredRead f e) s fun t =>
          getSub t f e = some { u with tcount := readLE s.mem pa 8, state := .active }) ∧
      (∀ y, getTile (getCore s (subSite s u)) (berthOf u u.next) = some y → u.state = .active → u.stopping = false → u.fail = none →
        u.next < u.tcount → subRuns s u = true → snapDone (getCore s (subSite s u)) y.relSnap = true → berthFree u y = true → u.jobs = [] →
        u.fixups = [] → (u.d.output = true → (getCore s (subSite s u)).spadUE = []) →
        completes (.ferryTileStart f e) s fun t => ∃ gs : List Seg,
          (u.d.gather = false → gs = rowSegs u u.next some) ∧
          (let out := (gs.take 16).zipIdx.map fun g => (x.nextNote + g.2, g.1)
           let j : TileJob := { tile := u.next, indexed := !u.d.gather, segs := gs.drop 16, flying := out }
           getSub t f e = some { u with next := u.next + 1, jobs := [j] }) ∧
          t.net = s.net ++ (gs.take 16).zipIdx.map fun g => segmentPacket s f u y (x.nextNote + g.2) g.1) ∧
      (∀ (k uid : Nat) (src : Endpoint) (j : TileJob) (g : Seg) (y : Tile), u.state = .active → u.fail = none → u.fixups = [] →
        u.jobs = [j] → j.flying = [(uid, g)] → j.segs.Nodup → g.kind = .row → u.d.output = false → u.stopping = false → x.notes = [] →
        x.subs = [(e, u)] → coreRuns s (subSite s u) = true → getTile (getCore s (subSite s u)) (berthOf u j.tile) = some y →
        let brought := fun (a : Answer) => brings s k src (.ferry f) (.answer uid a)
        let berth := fun (t : State) => getTile (getCore t (subSite s u)) (berthOf u j.tile)
        (∀ bs, brought (.data bs) → (∃ g' ∈ j.segs, g'.row = g.row) → completes (.segmentAnswer f e k) s fun t =>
          berth t = some { y with state := .filling, tnum := j.tile } ∧ ∃ j', getSub t f e = some { u with jobs := [j'] } ∧
            j'.tile = j.tile ∧ j'.stage = writeBytes j.stage (segKey .row g.row g.off) bs ∧
            j'.flying.map Prod.snd = j.segs.take 16 ∧ j'.segs = j.segs.drop 16) ∧
        (∀ bs, brought (.data bs) → j.segs = [] → j.indexed = true → j.tile = u.tdone → u.tdone + 1 < u.tcount → u.d.gather = false →
          u.d.nv = false → (getCore s (subSite s u)).spadUE = [] → completes (.segmentAnswer f e k) s fun t =>
            getSub t f e = some { u with jobs := [], tdone := u.tdone + 1 } ∧ berth t = some { y with state := .ready, tnum := j.tile }) ∧
        (∀ (w : BitVec 16) (n : Nat), src = .ferry n → brought (.ticket w false) → j.segs = [] → completes (.segmentAnswer f e k) s fun t =>
          getSub t f e = some { u with jobs := [{ j with flying := [] }], fixups := [{ ticket := w, home := n, tile := j.tile, seg := g }] } ∧
          berth t = some y) ∧
        (∀ c, brought (.refusePerm c) → j.tile = u.tdone → u.d.nv = false → completes (.segmentAnswer f e k) s fun t =>
          (∃ v, getSub t f e = some v ∧ v.state = .failed) ∧ ∃ z, berth t = some z ∧ z.state = .ready ∧ z.tnum = j.tile ∧
            z.fault = true ∧ z.failAddr = g.addr)) ∧
      (∀ (k uid n : Nat) (w : BitVec 16) (j : TileJob) (g : Seg), u.state = .active → u.fail = none → u.stopping = true → u.d.output = false →
        u.d.nv = false → u.jobs = [j] → j.flying = [(uid, g)] → u.fixups = [] → x.notes = [] → x.subs = [(e, u)] → coreRuns s (subSite s u) = true →
        brings s k (.ferry n) (.ferry f) (.answer uid (.ticket w false)) → completes (.segmentAnswer f e k) s fun t =>
          ∃ v, getSub t f e = some v ∧ v.state = .cancelled ∧ v.jobs = [] ∧ v.fixups = []) ∧
      (∀ (k : Nat) (w : BitVec 16) (z : Fixup) (j : TileJob) (y : Tile), x.subs = [(e, u)] → x.notes = [] → u.fixups = [z] → z.ticket = w →
        brings s k (.ferry z.home) (.ferry f) (.notice w) → u.jobs = [j] → j.tile = z.tile → j.segs = [] → j.flying = [] →
        u.defTicket = none → u.state = .active → u.stopping = false → u.d.output = false → coreRuns s (subSite s u) = true →
        completes (.fixupReplay k) s fun t =>
          getSub t f e = some { u with fixups := [], jobs := [{ j with flying := [(x.nextNote, z.seg)] }] } ∧
          t.net = without s k ++ [segmentPacket s f u y x.nextNote z.seg])) ∧
    (∀ (k : Nat) (src : Endpoint) (r : ReqPkt) (h : Word), brings s k src (.ferry f) (.req r) → x.srcs = [] →
      let e := bits h 0 6
      let answers := fun (t : State) (w : Word) =>
        t.net = without s k ++ [{ src := .ferry f, dst := src, cls := .rsp, body := .answer r.uid (.old w) }]
      (r.op = .unsub h →
        (getSub s f e = none → completes (.unsubAtFerry k) s fun t => answers t 1) ∧
        (∀ u, getSub s f e = some u → u.gen % 8 = bits h 6 3 →
          (u.part ≠ r.part → completes (.unsubAtFerry k) s fun t => answers t 2) ∧
          (u.part = r.part → (u.state = .done ∨ u.state = .failed ∨ u.state = .cancelled) →
            completes (.unsubAtFerry k) s fun t => answers t 3 ∧ getSub t f e = some u) ∧
          (u.part = r.part → (u.state = .waiting ∨ u.state = .active) → u.stopping = false → u.d.output = false → u.d.nv = false →
            ((∀ j ∈ u.jobs, j.flying = []) → completes (.unsubAtFerry k) s fun t =>
              answers t 0 ∧ getSub t f e = some { u with state := .cancelled, jobs := [], fixups := [], defTicket := none }) ∧
            (u.state = .active → (∃ j ∈ u.jobs, j.flying ≠ []) → completes (.unsubAtFerry k) s fun t =>
              answers t 0 ∧ getSub t f e = some { u with stopping := true })) ∧
          (u.part = r.part → u.stopping = true → completes (.unsubAtFerry k) s fun t => answers t 3 ∧ getSub t f e = some u))) ∧
      (r.op = .fstat h →
        (getSub s f e = none → completes (.fstatAtFerry k) s fun t => answers t 7) ∧
        (∀ u, getSub s f e = some u → u.gen % 8 = bits h 6 3 → u.part = r.part → completes (.fstatAtFerry k) s fun t =>
          let code := match u.state with | .waiting => 0 | .record => 0 | .active => 1 | .done => 2 | .failed => 3 | .cancelled => 4
          answers t (BitVec.ofNat 64 (code + u.fixups.length * 2 ^ 3 + min u.drops 255 * 2 ^ 8 + u.tdone * 2 ^ 16 +
            (if code = 0 then 0 else u.tcount) * 2 ^ 40)))))

/-! ## Events of a cluster -/

/-- The array is leased to the core whose command may enter, which opens its chain and takes the rows of the first block as the tiles
hold them; a block folds into the accumulator with one rounding, and the last block of a command without .fin ends it. MXZ closes the chain
and clears the slot, ADPINV takes the id's lines out of the cache and has those on their way discarded, the answer to a fetch brings an
entry's line in. A drain starts on the idle engine, and its last group writes the destination, turns it READY and closes the chain. Each is
stated of a cluster in which one core has one command queued, and of a cache with room for the line, which lines that open chains use may
deny it (log entry 86) (R226 to R228, R233, R236, R238, R239, R242, R244, R250, R256, R260, R261). -/
def Obligations.ArraysFoldFetchAndDrain : Prop :=
  ∀ (s : State) (cl r : Nat) (q : MCmd), r < 4 →
    let site := clusterSite cl r
    let c := getCore s site
    let x := getCluster s cl
    (∀ j < 4, j ≠ r → (rankCore s cl j).mq = []) → c.mq = [q] → c.halted = false → c.slots[q.slot].actId = q.act →
    parked c q.slot q.act = false →
    (∀ ta tb, q.kind = .mxm → getTile c q.at_ = some ta → getTile c q.bt = some tb →
      (x.holder = none → q.started = false → q.folded = false → q.acc = false → completes (.leaseGrant cl) s fun t =>
        let y := getCluster t cl
        y.holder = some r ∧ y.used = 1 ∧ y.limit = max 1 x.lease.toNat ∧ y.lastRank = r ∧
        (getCore t site).acc.opened = true ∧ (getCore t site).acc.m = q.m ∧ (getCore t site).acc.n = q.n ∧
        ∃ q', (getCore t site).mq = [q'] ∧ q'.started = true ∧ q'.folded = false ∧ q'.kind = .mxm ∧ q'.at_ = q.at_ ∧ q'.bt = q.bt ∧
          (q.view = c.spad → q.adpv = false →
            q'.sideA = ((List.range q.m).map fun i => aSide c.spad c.spadUE ta q.p i q.blk) ∧
            q'.sideB = ((List.range q.n).map fun j => bSide c.spad c.spadUE tb j q.blk))) ∧
      (∀ (va vb : List Int) (ea eb : Int), q.started = true → q.folded = false → q.m = 1 → q.n = 1 → q.kb = q.blk + 1 → q.fin = false →
        c.acc.ids = [] → c.acc.replay = [] → c.acc.ue = [] → (c.acc.elems.map fun e => e.1).Nodup →
        q.sideA = [.ints va ea] → q.sideB = [.ints vb eb] →
        completes (.blockFold site) s fun t =>
          (getCore t site).acc.kpos = c.acc.kpos + 1 ∧ (getCore t site).mq = [] ∧
          (getSlot t site q.slot).cntM = c.slots[q.slot].cntM - 1 ∧
          accGet (getCore t site).acc 0 =
            BitVec.ofNat 40 (roundRne a40 (exAdd false (a40Val (accGet c.acc 0)) (fvInt (dotInt va vb) (ea + eb)))).bits)) ∧
    (q.kind = .mxz → completes (.mxzAtHead site) s fun t =>
      (getCore t site).acc.opened = false ∧ (getCore t site).acc.elems = [] ∧ (getCore t site).acc.replay = [] ∧ (getCore t site).mq = [] ∧
      (getSlot t site q.slot).cntM = c.slots[q.slot].cntM - 1) ∧
    (q.kind = .adpinv → (∀ j < 4, (rankCore s cl j).acc.opened = false) → completes (.adpinvAtHead site) s fun t =>
      (getCore t site).mq = [] ∧ (getSlot t site q.slot).cntM = c.slots[q.slot].cntM - 1 ∧
      (∀ l ∈ (getCluster t cl).cache, q.all = false ∧ tagId l.tag ≠ q.id) ∧
      ((∀ f ∈ x.fetches, ∃ p ∈ f.pieces, p.data = none) → ∀ l ∈ x.cache, l.drop = false → q.all = false → tagId l.tag ≠ q.id →
        l ∈ (getCluster t cl).cache) ∧
      ∀ f ∈ (getCluster t cl).fetches, q.all = true ∨ tagId f.tag = q.id → f.discard = true) ∧
    (∀ (k : Nat) (src : Endpoint) (id : Nat) (p : APiece) (bs : List Byte), x.fetches = [{ tag := .entry id, core := r, pieces := [p] }] →
      p.status = .flying → p.data = none → brings s k src (.adapter cl) (.answer p.uid (.data bs)) →
      (cacheSize x.cache + bs.length ≤ 2 ^ 19 ∨ (bs.length ≤ 2 ^ 19 ∧ ∀ j < 4, (rankCore s cl j).acc.opened = false)) →
      completes (.adapterFetch cl k) s fun t => ∃ l ∈ (getCluster t cl).cache, l.tag = .entry id ∧ l.bytes = bs) ∧
    (∀ n, x.drain = none → q.readyAt = some n → (q.kind = .mxd ∨ (q.kind = .mxm ∧ q.fin = true ∧ q.folded = true)) → c.acc.ids = [] →
      c.acc.replay = [] → q.auxv = false → completes (.drainStart cl) s fun t =>
      (∃ d, (getCluster t cl).drain = some d ∧ d.rank = r ∧ d.group = 0 ∧ d.sums = []) ∧
      (getCore t site).mq = [{ q with readyAt := none }]) ∧
    (∀ (d : DrainRun) (p : DrainImg) (y : Tile), x.drain = some d → d.rank = r → d.group = 0 → getTile c q.dst = some y →
      (nth x.progs.toList q.dslot).getD none = some p →
      p.ops = [{ op := 21, dst := 0, s1 := 8, s2 := 0, s3 := 0, md := 0 }, { op := 23, dst := 0, s1 := 0, s2 := 0, s3 := 0, md := 0 }] →
      q.ofmt = 0 → q.auxv = false → c.acc.m = 1 → c.acc.n = 1 → c.acc.ids = [] → c.acc.ue = [] → c.acc.poison = false → c.spadUE = [] →
      Mem.wf c.spad = true → completes (.drainGroupCommit cl) s fun t =>
        readLE (getCore t site).spad y.off 4 = (roundRne fp32 (exOk (a40Val (accGet c.acc 0)))).bits % 2 ^ 32 ∧
        getTile (getCore t site) q.dst = some { y with state := .ready, dest := false } ∧ (getCluster t cl).drain = none ∧
        (getCore t site).acc.opened = false ∧ (getCore t site).mq = [] ∧ (getSlot t site q.slot).cntM = c.slots[q.slot].cntM - 1)

/-! ## Ports and the host -/

/-- A peer's access through an export window is performed at its home and completed, or refused, in its turn among those of its peer; its
operation record and its message write are completed and answered with a result record; a result or a completion answers the request of this
device that it belongs to, once the peer has completed every piece of it. A port that goes down, or a peer that gives no answer in time, has its requests refused, until it is up again. A
link reset gives the sender every credit; a flit crosses a link for a credit of its class and brings the freed ones back, and a null flit
brings them alone (R333, R342, R343, R344, R346, R347, R386). -/
def Obligations.PortsServeTheirPeers : Prop :=
  ∀ (s : State) (p dev part : Nat), p < 16 →
    let x := getPort s p
    let l := landingOfPort p
    let answer := fun (o : LOut) (a : Answer) => ({ src := .landing l, dst := o.src, cls := .rsp, body := .answer o.uid a } : Packet)
    let credits : Fin 4 → Nat := fun i => match i.val with | 2 => 4 | 3 => 24 | _ => 16
    (x.early = [] → x.misses = [] → x.waits = [] → ∀ order : Nat, order ≤ (tget x.inNext dev).getD 0 →
    (∀ (addr : Word) (acc : UaAccess) (va own pa : Nat),
      (space addr ≠ 0 → completes (.ualinkReadWrite p ⟨dev, part⟩ order addr acc) s fun t =>
        (getPort t p).tx = x.tx ++ [{ dev := dev, tag := 0, addr := addr, status := some .refusedPerm }] ∧ t.mem = s.mem) ∧
      (space addr = 0 → va < 2 ^ 57 → s.memUE = [] →
        (∀ n, acc = .read n → 0 < n → n ≤ 256 → va % 4096 + n ≤ 4096 → exported s dev part addr.toNat (fun w => w.rd) va own →
          translate s (va / 2 ^ 12 % 128) own va .read = .pa pa → completes (.ualinkReadWrite p ⟨dev, part⟩ order addr acc) s fun t =>
            (getPort t p).tx = x.tx ++ [{ dev := dev, tag := 0, addr := addr, status := some (.data (readBytes s.mem pa n)) }] ∧
            t.mem = s.mem) ∧
        (∀ bs, acc = .write bs → bs ≠ [] → bs.length ≤ 256 → va % 4096 + bs.length ≤ 4096 →
          exported s dev part addr.toNat (fun w => w.wr) va own → translate s (va / 2 ^ 12 % 128) own va .write = .pa pa →
          completes (.ualinkReadWrite p ⟨dev, part⟩ order addr acc) s fun t =>
            (getPort t p).tx = x.tx ++ [{ dev := dev, tag := 0, addr := addr, status := some .done }] ∧
            t.mem = writeBytes s.mem pa bs)) ∧
      (∀ later, (tget x.inNext dev).getD 0 < later → space addr = 0 → completes (.ualinkReadWrite p ⟨dev, part⟩ later addr acc) s fun t =>
        (getPort t p).early = [{ dev := dev, part := part, order := later, addr := addr, ask := .access acc }] ∧
        (getPort t p).tx = x.tx ∧ t.mem = s.mem)) ∧
    (∀ (b : List Byte) (op : ROp) (va own pa : Nat),
      let d := leNat (b.take 8)
      b.length = 32 → recordOp b = some op → x.peerSrcs = [] → s.memUE = [] → va < 2 ^ 57 →
      (∀ n, op = .read n → exported s dev part (leNat ((b.drop 8).take 8)) (fun w => w.rd) va own →
        translate s (va / 2 ^ 12 % 128) own va .read = .pa pa → completes (.operationRecord p ⟨dev, part⟩ order b) s fun t =>
          t.mem = s.mem ∧ ∃ u v, (getPort t p).tx = x.tx ++ [u, v] ∧ u.dev = dev ∧ u.status = some .done ∧ v.dev = dev ∧
            v.addr = 0x3000000000000000 ∧
            v.bytes = leBytes 8 (d / 2 ^ 16 % 2 ^ 16 * 2 ^ 16 + d / 2 ^ 32 % 2 ^ 13 * 2 ^ 32) ++ leBytes 8 0 ++ readBytes s.mem pa n)) ∧
    (∀ (addr : Word) (b : List Byte) (site : Nat) (y : Chan),
      let m : Msg := { msgOf b with srcDev := dev }
      space addr = 1 → b.length = 80 → x.peerSrcs = [] → m.dstDev = s.devid →
      m.dstCore = bits addr 14 13 → m.chan = bits addr 6 8 → landingFinds s l m.dstCore = some site → m.dstCore = coreNumber s site →
      roomIn s site m.chan y → (getCore s site).srcs = [] → y.peer = true → m.kind ≠ 1 → m.gang = false →
      completes (.ualinkMessageWrite p ⟨dev, part⟩ order ⟨addr, b⟩) s fun t =>
        tookMsg s t site m.chan y m (peerPart + part) ∧ ∃ u v, (getPort t p).tx = x.tx ++ [u, v] ∧ u.status = some .done ∧ v.dev = dev ∧
          v.addr = 0x3000000000000000 ∧
          v.bytes = leBytes 8 (leNat (b.drop 64) % 2 ^ 16 * 2 ^ 16 + m.srcCore % 2 ^ 13 * 2 ^ 32) ++ leBytes 8 0) ∧
    (∀ (o : LOut) (y : Nat), x.outs = [o] → o.dev = dev → o.src = .core y →
      (∀ (b : List Byte), 16 ≤ b.length → b.length ≤ 144 → o.region0 = false →
        let d := leNat (b.take 8)
        o.seq = BitVec.ofNat 16 (d / 2 ^ 16) → o.srccore % 2 ^ 13 = d / 2 ^ 32 % 2 ^ 13 →
        let gives := fun (a : Answer) => completes (.resultRecord p dev b) s fun t =>
          t.net = s.net ++ [answer o a] ∧ (getPort t p).outs = [] ∧
          (getPort t p).tx = x.tx ++ [{ dev := dev, tag := 0, addr := 0x3000000000000000, status := some .done }]
        (d % 256 = 0 → ∀ op n c e, o.op = .amo op n c e → gives (.old (BitVec.ofNat 64 (leNat ((b.drop 8).take 8))))) ∧
        (d % 256 = 0 → ∀ bs, o.op = .write bs → gives .ack) ∧
        (0 < d % 256 → d % 256 < 8 → gives (.refusePerm (d % 256))) ∧
        (d % 256 = 8 → gives (.refusePerm 0)) ∧
        (d % 256 = 9 → gives .refuseUE)) ∧
      (o.region0 = true → 1 < o.left → ∀ bs, o.op = .write bs →
        (completes (.ualinkCompletion p dev o.tag .done) s fun t =>
          (getPort t p).outs = [{ o with left := o.left - 1 }] ∧ t.net = s.net) ∧
        completes (.ualinkCompletion p dev o.tag .refusedPerm) s fun t =>
          (getPort t p).outs = [{ o with left := o.left - 1, err := some (o.err.getD .refusedPerm) }] ∧ t.net = s.net) ∧
      (o.region0 = true → o.left = 1 → o.err = some .refusedPerm → ∀ bs, o.op = .write bs →
        completes (.ualinkCompletion p dev o.tag .done) s fun t =>
          t.net = s.net ++ [answer o (.refusePerm 0)] ∧ (getPort t p).outs = []) ∧
      (o.region0 = true → o.left = 1 → o.err = none →
        let gives := fun (st : UaStatus) (a : Answer) => completes (.ualinkCompletion p dev o.tag st) s fun t =>
          t.net = s.net ++ [answer o a] ∧ (getPort t p).outs = []
        (∀ bs n, o.op = .read n → bs.length = n → gives (.data bs) (.data bs)) ∧
        (∀ bs, o.op = .write bs → gives .done .ack) ∧ gives .refusedPerm (.refusePerm 0) ∧ gives .ticketFailed .failed) ∧
      (x.ltickets = [] →
        let refused := Answer.refusePerm (match o.op with | .msg _ => 1 | _ => 0)
        (completes (.linkDown p) s fun t =>
          t.net = s.net ++ [answer o refused] ∧ (getPort t p).outs = [] ∧ (getPort t p).up = false ∧ (getPort t p).waits = []) ∧
        (o.sentAt + s.linkLimit ≤ s.time → completes (.ualinkTimeout p dev) s fun t =>
          t.net = s.net ++ [answer o refused] ∧ (getPort t p).outs = [] ∧ dev ∈ (getPort t p).downDevs ∧
          (getPort t p).up = x.up))) ∧
    (∀ (i : Nat) (e : LTicket) (y : Nat) (b : List Byte), x.ltickets = [(i, e)] → e.dev = dev → e.sources = [.core y] →
      16 ≤ b.length → b.length ≤ 144 → BitVec.ofNat 16 (leNat (b.take 8) / 2 ^ 48) = e.peer →
      let relays := fun (n : Body) => completes (.resultRecord p dev b) s fun t =>
        t.net = s.net ++ [{ src := .landing l, dst := .core y, cls := .sys, body := n }] ∧ (getPort t p).ltickets = []
      (leNat (b.take 8) % 256 = 0x12 → relays (.notice (BitVec.ofNat 16 ((128 + l) * 256 + i)))) ∧
      (leNat (b.take 8) % 256 = 0x13 → relays (.failure (BitVec.ofNat 16 ((128 + l) * 256 + i)))))) ∧
    (completes (.linkUp p) s fun t => getPort t p = { x with up := true, downDevs := [] }) ∧
    (∀ n : Nat, (∀ q ∈ s.net, q.wire = .queued) →
      let y := getLink s n
      (completes (.linkReset n) s fun t => t.net = s.net ∧ (getLink t n).freed = [] ∧ ∀ i : Fin 4, (getLink t n).credits[i] = credits i) ∧
      (∀ (k : Nat) (q : Packet) (rest : List Nat), nth s.net k = some q → pathOf s q = n :: rest → 0 < flitsOf q.body →
        (∀ o ∈ s.net.take k, sameLane o q = false) → (getLink s (reverseLink n)).freed = [] → ∀ inc : Nat,
        (y.credits[clsIx q.cls] = 0 → exec (.creditReturn n (some k) inc) s = .next s) ∧
        (0 < y.credits[clsIx q.cls] → completes (.creditReturn n (some k) inc) s fun t =>
          (getLink t n).credits = y.credits.set (clsIx q.cls) (y.credits[clsIx q.cls] - 1) ∧
          t.net = s.net.set k { q with wire := .flying (n :: rest) (1 :: List.replicate (flitsOf q.body - 1) 0) })) ∧
      (∀ (c : Cls) (m inc : Nat), s.net = [] → reverseLink n ≠ n → (getLink s (reverseLink n)).freed = List.replicate m c →
        0 < inc → inc ≤ m → inc ≤ 63 → completes (.creditReturn n none inc) s fun t =>
          let r := getLink s (reverseLink n)
          (getLink t (reverseLink n)).freed = List.replicate (m - inc) c ∧
          (getLink t (reverseLink n)).credits = r.credits.set (clsIx c) (r.credits[clsIx c] + inc) ∧
          (getLink t n).credits = y.credits ∧
          (getLink t n).last = some (BitVec.ofNat 64 (2 ^ 32 + inc * 2 ^ 40 + (clsIx c).val * 2 ^ 46))))

/-- A host message that is well formed goes to its core as a message of its partition, and any other is counted; it is done when it is
placed, kept in the store and sent again when it is ticketed, and counted when it is refused. BAR4 reads and writes HBM at its home; NONCE
and ATTADDR take what is written, HDROP and HREFUSE clear, and the counters read as they are; ATTGO writes the report at ATTADDR; a vector
message raises its vector (R352 to R355, R359, R370, R377). That ATTADDR keeps bits 56 to 12, and that the report is made and written
in the step of ATTGO, is log entry 58; the signature in it is SLH-DSA as FIPS 205 has it, log entry 10. -/
def Obligations.HostAccessesTakeEffect : Prop :=
  ∀ (s : State) (vf : Nat),
    let p := getPart s vf
    let fromHost := fun (t : State) (l : List Packet) (dst : Endpoint) (uid : Nat) (op : ROp) (addr : Word) (part : Nat) =>
      ∃ (b : Packet) (q : ReqPkt), t.net = l ++ [b] ∧ b.src = .host ∧ b.dst = dst ∧ b.cls = .req ∧ b.body = .req q ∧
        q.uid = uid ∧ q.op = op ∧ q.addr = addr ∧ q.part = part
    (∀ (off site : Nat) (b : List Byte) (rlx : Bool),
      let d := leNat (b.take 8)
      p.gone = false → off < 2 ^ 27 → off % 64 = 0 → b.length = 64 →
      (d / 2 ^ 19 ≠ 0 ∨ d % 8 = 7 ∨ leNat ((b.drop 8).take 8) ≠ 0 → completes (.hostMessageWrite vf off b rlx) s fun t =>
        getPart t vf = { p with hdrop := p.hdrop + 1 } ∧ t.cores = s.cores ∧ t.net = s.net) ∧
      (d / 2 ^ 19 = 0 → d % 8 < 7 → leNat ((b.drop 8).take 8) = 0 → p.host = [] →
        let core := off / 2 ^ 14 % 8192
        let m : Msg :=
          { time := BitVec.ofNat 32 s.time, seq := BitVec.ofNat 16 (d / 8), count := d % 8, srcCore := 0x1FFC, srcDev := s.devid,
            chan := off / 2 ^ 6 % 256, dstCore := core, dstDev := s.devid,
            words := Vector.ofFn fun i => BitVec.ofNat 64 (leNat ((b.drop (16 + 8 * i.val)).take 8)) }
        siteOf s core = some site → (getCore s site).ctrl = false → (getCore s site).part = some vf →
        routeTo s (ctrlSite s 0) core = .direct site →
        completes (.hostMessageWrite vf off b rlx) s fun t =>
          fromHost t s.net (.core site) s.hostUid (.msg m) 0 vf ∧
          (getPart t vf).host = [{ uid := s.hostUid, msg := m, relaxed := rlx, flying := true }])) ∧
    (∀ (k site : Nat) (h : HostMsg) (w : BitVec 16), s.parts = [(vf, p)] → p.host = [h] → h.stored = false →
      let brought := fun (b : Body) => brings s k (.core site) .host b
      (h.flying = true → brought (.answer h.uid .ack) → completes (.acknowledgement k) s fun t =>
        (getPart t vf).host = [] ∧ (getPart t vf).hrefuse = p.hrefuse) ∧
      (∀ c, h.flying = true → brought (.answer h.uid (.refusePerm c)) → completes (.lateRefusal k) s fun t =>
        (getPart t vf).host = [] ∧ (getPart t vf).hrefuse = p.hrefuse + 1) ∧
      (h.flying = true → brought (.answer h.uid (.ticket w false)) → completes (.ticketAnswer k) s fun t =>
        (getPart t vf).host = [{ h with flying := false, ticket := some (w, .core site), stored := true }] ∧ t.net = without s k) ∧
      (h.flying = false → h.ticket = some (w, .core site) → p.attWait = none → brought (.notice w) →
        routeTo s (ctrlSite s 0) h.msg.dstCore = .direct site → completes (.replayNotice k) s fun t =>
          (getPart t vf).host = [{ h with flying := true, ticket := none }] ∧ fromHost t (without s k) (.core site) h.uid (.msg h.msg) 0 vf)) ∧
    (∀ (off n : Nat) (bs : List Byte), off + n ≤ Config.hbmBytes → 0 < n → off % 4096 + n ≤ 4096 →
      let a := BitVec.ofNat 64 off
      (completes (.bar4Access off (.read n)) s fun t =>
        fromHost t s.net (.ferry (homeFerry a)) s.hostUid (.read n) a fwPart ∧ t.bar4 = s.bar4 ++ [(s.hostUid, off)]) ∧
      (bs.length = n → completes (.bar4Access off (.write bs)) s fun t =>
        fromHost t s.net (.ferry (homeFerry a)) s.hostUid (.write bs) a fwPart ∧ t.bar4 = s.bar4)) ∧
    (∀ (k uid off : Nat) (src : Endpoint) (bs : List Byte), s.bar4 = [(uid, off)] → (∀ e ∈ s.parts, e.2.host = []) →
      brings s k src .host (.answer uid (.data bs)) → completes (.loadResponse k) s fun t =>
        t.out = s.out ++ [.bar4Data off bs] ∧ t.bar4 = [] ∧ t.net = without s k) ∧
    (∀ (k f : Nat) (r : ReqPkt), brings s k .host (.ferry f) (.req r) → r.part = fwPart → (getFerry s f).srcs = [] → s.memUE = [] →
      r.addr.toNat % 2 ^ 57 < Config.hbmBytes →
      let at_ := r.addr.toNat % 2 ^ 57
      let answers := fun (t : State) (a : Answer) =>
        t.net = without s k ++ [{ src := .ferry f, dst := .host, cls := .rsp, body := .answer r.uid a }]
      (∀ n, r.op = .read n → completes (.requestPerform k) s fun t => t.mem = s.mem ∧ answers t (.data (readBytes s.mem at_ n))) ∧
      (∀ bs, r.op = .write bs → completes (.requestPerform k) s fun t => t.mem = writeBytes s.mem at_ bs ∧ answers t .ack)) ∧
    (∀ (off n : Nat), (off, n) ∈ [(0x008, p.hdrop), (0x010, p.hrefuse), (0x018, (p.host.filter fun h => h.stored).length), (0x020, p.hcacc),
        (0x028, p.hcmiss), (0x030, p.evown), (0x038, p.evforeign), (0x040, p.tickets), (0x128, if p.attgo then 1 else 0)] →
      runAct (.vfRead vf off) s = { s with out := s.out ++ [.vfData vf off (BitVec.ofNat 64 n)] }) ∧
    (∀ (v : Word) (j : Nat), j < 4 → p.nonce.length = 32 → completes (.vfRegisterWrite vf (0x100 + 8 * j) v) s fun t =>
      getPart t vf = { p with nonce := p.nonce.take (8 * j) ++ leBytes 8 v.toNat ++ p.nonce.drop (8 * j + 8) }) ∧
    (∀ v : Word, completes (.vfRegisterWrite vf 0x120 v) s fun t => getPart t vf = { p with attaddr := v &&& 0x01FFFFFFFFFFF000 }) ∧
    (completes (.hdrop vf 0) s fun t => getPart t vf = { p with hdrop := 0 }) ∧
    (completes (.hrefuse vf 0) s fun t => getPart t vf = { p with hrefuse := 0 }) ∧
    (∀ pa : Nat, p.attgo = false → p.attaddr.toNat % 4096 = 0 → s.memUE = [] →
      (∀ i < 8, translate s (homeFerry (p.attaddr + BitVec.ofNat 64 (4096 * i))) vf
        ((p.attaddr + BitVec.ofNat 64 (4096 * i)).toNat % 2 ^ 57) .write = .pa (pa + 4096 * i)) →
      completes (.attgo vf 1) s fun t =>
        t.mem = writeBytes s.mem pa (attReport s vf) ∧ (getPart t vf).attgo = false ∧ (attReport s vf).take 32 = (p.nonce ++ List.replicate 32 0).take 32) ∧
    (∀ (x : Chan) (q : QMsg) (qs : List QMsg), tget (getCore s (ctrlSite s 0)).chans 1 = some x → x.queue = q :: qs →
      senderPart s q.msg = some vf → q.msg.count = 1 → completes .msixRequest s fun t =>
        (tget (getCore t (ctrlSite s 0)).chans 1).map (fun y => y.queue) = some qs ∧
        ((q.msg.words[0]).toNat < 16 → t.out = s.out ++ [.msix vf (q.msg.words[0]).toNat]) ∧
        (16 ≤ (q.msg.words[0]).toNat → t.out = s.out ∧
          (getCore t (ctrlSite s 0)).events[17] = (getCore s (ctrlSite s 0)).events[17] + 1))

/-- Firmware of a control core serves the oldest request of a supervisor: it has the effect of R373, and the reply of KIND 2 carries
the code, the status and the value to the reply name; a code that is not listed, a sender that is no supervisor core, a core outside the
partition, a range or an address that no load may have, or an unused word that is not zero is answered with its status (R372 to R374). That a LOAD with an argument that no load may have is
answered BADARG with value 8, and in which order the arguments are checked, is log entry 35. -/
def Obligations.ServicesActAndReply : Prop :=
  ∀ (s : State) (die p : Nat) (m : Msg), asks s die p m →
    let code := bits m.words[0] 0 8
    let spare := m.words[3] ≠ 0 ∨ m.words[4] ≠ 0 ∨ m.words[5] ≠ 0
    let answered := fun (t : State) (status : Nat) (v : Word) => said s t die
      { kind := 2, count := 2, srcCore := 0x1FF0 + die, srcDev := s.devid, chan := bits m.words[1] 23 8, dstCore := bits m.words[1] 10 13,
        dstDev := m.srcDev, words := words6 [BitVec.ofNat 64 (code + status * 2 ^ 8), v] }
    let lc := m.words[2].toNat
    let n := m.words[3].toNat
    ((getPart s p).supcore ≠ some m.srcCore → completes (.badservice die) s fun t => answered t 1 0) ∧
    ((getPart s p).supcore = some m.srcCore → ((code = 0 ∨ 6 < code) → completes (.badservice die) s fun t => answered t 2 0) ∧
      (∀ y, siteOf s lc = some y → (getCore s y).part = some p → (getCore s y).ctrl = false → y ≠ ctrlSite s die →
        (code = 1 → m.words[5] = 0 → ∀ mask, csrMask n = some mask → settable n = true → completes (.setcsr die) s fun t =>
          csrRead t y 0 n = m.words[4] &&& mask ∧ answered t 0 0) ∧
        (code = 2 → m.words[5] = 0 → csrListed false n = true → n < 0x800 →
          (slotCsr n = true → m.words[4].toNat < 4 → completes (.getcsr die) s fun t =>
            answered t 0 (csrRead s y (Fin.ofNat 4 m.words[4].toNat) n)) ∧
          (slotCsr n = false → m.words[4] = 0 → completes (.getcsr die) s fun t => answered t 0 (csrRead s y 0 n))) ∧
        (code = 5 → m.words[3] = 0 → m.words[4] = 0 → m.words[5] = 0 → completes (.super die) s fun t =>
          getPart t p = { getPart s p with supcore := some lc } ∧ answered t 0 (BitVec.ofNat 64 m.srcCore))) ∧
      (siteOf s lc = none → m.words[5] = 0 →
        (code = 1 → completes (.setcsr die) s fun t => answered t 3 0) ∧
        (code = 2 → m.words[4] = 0 → completes (.getcsr die) s fun t => answered t 3 0)) ∧
      (code = 4 → m.words[3] = 0 → m.words[4] = 0 → m.words[5] = 0 →
        (m.words[2] = 0 ∨ nameInPart s p m.words[2] = true) → completes (.nightch die) s fun t =>
          getPart t p = { getPart s p with nightch := m.words[2] } ∧ answered t 0 (getPart s p).nightch) ∧
      (code = 3 → m.words[3] = 0 → m.words[4] = 0 → m.words[5] = 0 → bits m.words[2] 0 7 = 0 → bits m.words[2] 57 7 = 0 →
        partSites s p ≠ [] → completes (.iinvService die) s fun t =>
          t.invs = [(0, { die := die, part := p, reply := m.words[1], total := (partSites s p).length, left := (partSites s p).length })] ∧
          t.net = s.net ++ (partSites s p).map fun x =>
            { src := .core (ctrlSite s (siteDie x)), dst := .core x, cls := .sys, body := .inval m.words[2] 0 }) ∧
      (code = 1 → m.words[5] ≠ 0 → completes (.setcsr die) s fun t => answered t 5 0) ∧
      (code = 2 → m.words[5] ≠ 0 → completes (.getcsr die) s fun t => answered t 5 0) ∧
      (code = 3 → spare → completes (.iinvService die) s fun t => answered t 5 0 ∧ t.invs = []) ∧
      (code = 4 → spare → completes (.nightch die) s fun t => answered t 5 0 ∧ getPart t p = getPart s p) ∧
      (code = 5 → spare → completes (.super die) s fun t => answered t 5 0 ∧ getPart t p = getPart s p) ∧
      (code = 6 → 2 ^ 13 < m.words[4].toNat + m.words[5].toNat → completes (.load die .service) s fun t => answered t 3 0) ∧
      (code = 6 → rangeIn s p m.words[4].toNat m.words[5].toNat = true →
        (bits m.words[2] 57 7 ≠ 0 ∨ bits m.words[3] 57 7 ≠ 0 ∨ bits m.words[3] 0 7 ≠ 0 ∨ m.words[5] = 0) →
        completes (.load die .service) s fun t => answered t 5 8 ∧ t.mem = s.mem))

/-- A LOAD of the host reads the image at its address and ends with the load status: FORMAT, the status of the signature and rollback
checks, BADCODE or NOFIX; an image of code alone that passes has its translation written at the code base, is recorded as the
partition's image, and leaves none of its lines in the instruction cache of a working core of the partition; a load whose ticket has
failed ends with status SPACE (R315, R366 to R369). That a failed ticket ends so, and that the lines leave the caches in the load's own step, is
log entry 59; the status as one byte to the host is log entry 42; the digests and the signature check are those of FIPS 202 and 205, log
entry 10. -/
def Obligations.LoadsEndWithTheirStatus : Prop :=
  ∀ (s : State) (die p first count pa pb : Nat) (image base : Word),
    let x := getPart s p
    dieUp s die = true → x.running = true → x.dark = false → x.halting = false → p ≠ fwPart →
    rangeIn s p first count = true → 0 < count → count ≤ 2 ^ 13 → (∀ y ∈ rangeSites s first count, holdsActivation (getCore s y) = false) →
    bits image 0 12 = 0 → bits image 57 7 = 0 → bits base 0 12 = 0 → bits base 57 7 = 0 → s.memUE = [] →
    let load : Instr := .load die (.host p image.toNat base.toNat first count)
    let refused := fun (n : Nat) => completes load s fun t =>
      t.out = s.out ++ [.mctp [BitVec.ofNat 8 n]] ∧ t.mem = s.mem ∧ (getPart t p).image = x.image ∧ t.loads = []
    let shows := fun (n : Nat) => image.toNat + n < 2 ^ 57 ∧ pa + n < 2 ^ 64 ∧ ∀ i, 4096 * i < n →
      translate s (homeFerry (image + BitVec.ofNat 64 (4096 * i))) p (image.toNat + 4096 * i) .read = .pa (pa + 4096 * i)
    let h := readBytes s.mem pa 64
    let b := readBytes s.mem pa (imgSize (imgSigoff h))
    (∀ w, s.loads = [w] → w.die = die → w.src = .host p image.toNat base.toNat first count → w.failed = true → refused 8) ∧
    (s.loads = [] → shows 64 → headerOk h = false → refused 1) ∧
    (s.loads = [] → shows (64 + imgSize (imgSigoff h)) → headerOk h = true → (parseImg b = none → refused 1) ∧ ∀ g, parseImg b = some g →
      let st := signStatus s g
      (st ≠ 0 → refused st) ∧ (st = 0 → (portableCode g = none → refused 5) ∧
        ∀ l, portableCode g = some l → (translateCode g l = none → refused 6) ∧
          ∀ v, translateCode g l = some v → base.toNat + v.bytes.length < 2 ^ 57 → pb + v.bytes.length < 2 ^ 64 →
            (∀ i, 4096 * i < v.bytes.length →
              translate s (homeFerry (base + BitVec.ofNat 64 (4096 * i))) p (base.toNat + 4096 * i) .write = .pa (pb + 4096 * i)) →
            g.commit = false → g.data = [] → g.spads = [] → g.relocs = [] → g.recs = [] → completes load s fun t =>
              t.out = s.out ++ [.mctp [0]] ∧ t.mem = writeBytes s.mem pb v.bytes ∧ (getPart t p).image = some
                { dp := shake256 g.body, dn := shake256 v.bytes, version := g.version, rbc := g.rbc,
                  codeBase := base.toNat, nLines := v.bytes.length / 128 } ∧
              ∀ y ∈ partSites s p, working s y = true → ∀ i < v.bytes.length / 128,
                ∀ e ∈ (getCore t y).icache, e.addr ≠ base.toNat + 128 * i))

/-- A launch on channel 0 of the control core of die 0 is answered on its reply name: with status 3 where it names no core here, 1
where the partition has no image of that digest, and with status 0 and the first digest bytes once its message is placed (R348, R349). Once
the partition's cores sleep and nothing moves, the nightfall trap disarms and goes to firmware as a packet of the SYS class, and firmware
sends the nightfall message, or reports the event (R136, R332, R374). That the packet goes from the control core's own NI to itself, and
when a core sleeps, is log entry 37; the bytes of the event to the host are log entry 42. -/
def Obligations.LaunchesAndNightfallReport : Prop :=
  ∀ (s : State),
    (∀ (x : Chan) (q : QMsg), dieUp s 0 = true → tget (getCore s (ctrlSite s 0)).chans 0 = some x → x.queue = [q] → x.waiters = [] →
      (getCore s (ctrlSite s 0)).reqs = [] → q.msg.kind = 0 → q.msg.count = 6 →
      let m := q.msg
      let name := m.words[1]
      let lc := bits name 10 13
      let report := fun (t : State) (status part version : Nat) (w : Word) => said s t 0
        { kind := 0, count := 2, srcCore := m.srcCore, srcDev := m.srcDev, chan := bits m.words[2] 23 8, dstCore := bits m.words[2] 10 13,
          dstDev := m.srcDev, words := words6 [BitVec.ofNat 64 (status + part * 2 ^ 8 + version * 2 ^ 16), w] }
      (bits name 32 32 ≠ 0 ∨ siteOf s lc = none → completes (.remoteLaunch 0) s fun t => report t 3 0xFF 0 0) ∧
      (∀ (y p : Nat), bits name 32 32 = 0 → name.getLsbD 31 = true → siteOf s lc = some y → (getCore s y).part = some p →
        ((getPart s p).image = none → completes (.remoteLaunch 0) s fun t => report t 1 p 0 0) ∧
        (∀ (im : Image) (w : Nat × Window) (z : Chan), (getPart s p).image = some im → leNat (im.dp.take 8) = m.words[0].toNat →
          w ∈ s.windows → w.2.size ≠ 0 → w.2.ownpart = p → w.2.idev0 ≤ m.srcDev → m.srcDev ≤ w.2.idev1 → w.2.ipart = 63 →
          y ≠ ctrlSite s 0 → lc = coreNumber s y → (getCore s y).srcs = [] → roomIn s y (bits name 23 8) z →
          completes (.remoteLaunch 0) s fun t =>
            tookMsg s t y (bits name 23 8) z
              { kind := 0, count := 3, rel := true, srcCore := 0x1FF0, srcDev := s.devid, chan := bits name 23 8, dstCore := lc, dstDev := s.devid,
                words := words6 [m.words[3], m.words[4], m.words[5]], time := BitVec.ofNat 32 s.time } fwPart ∧
            report t 0 p im.version (BitVec.ofNat 64 (leNat (im.dn.take 8)))))) ∧
    (∀ part : Nat,
      let p := getPart s part
      let sites := partSites s part
      p.running = true → p.armed = true → p.dark = false → p.halting = false → (∀ x ∈ sites, asleep (getCore s x) = true) →
      nothingMoves s part = true →
      completes (.nightfall part) s fun t =>
        let x := Endpoint.core (ctrlSite s (nightDie s part))
        getPart t part = { p with armed := false } ∧ t.out = s.out ∧
        t.net = s.net ++ [{ src := x, dst := x, cls := .sys, body := .nightfall part }]) ∧
    (∀ (k part site : Nat) (src : Endpoint), brings s k src (.core site) (.nightfall part) →
      let p := getPart s part
      let t := runAct (.manage k) s
      (p.nightch = 0 → getPart t part = { p with nightEvents := p.nightEvents + 1 } ∧ t.net = without s k ∧
        t.out = s.out ++ [.mctp [0x10, BitVec.ofNat 8 part]]) ∧
      (∀ (lc y : Nat), p.nightch ≠ 0 → p.supcore = some lc → siteOf s lc = some y → (getCore s (ctrlSite s (siteDie y))).reqs = [] →
        said s t (siteDie y)
          { kind := 2, count := 3, srcCore := 0x1FF0 + siteDie y, srcDev := s.devid, chan := bits p.nightch 23 8,
            dstCore := bits p.nightch 10 13, dstDev := if p.nightch.getLsbD 31 then s.devid else bits p.nightch 0 10,
            words := words6 [BitVec.ofNat 64 (0x10 + part * 2 ^ 8),
              BitVec.ofNat 64 (min ((partSites s part).foldl (fun n x => n + queuedOn (getCore s x)) 0) (2 ^ 64 - 1)), BitVec.ofNat 64 s.time] }))

/-- The boot CSRs: a write of DISC starts a flood, of packets of the SYS class that go from router to router, south everywhere and east in
row 0; each router it comes to sets its coordinates, and its site, unless it is the control core's, sends its reply with them and its
self-test code; the write is ignored while one runs. MAPW stages an entry; MAPGO commits the staged map and broadcasts it, or waits its turn;
the notice of a commit goes to the control core; DIEBASE is broadcast to the package (R380 to R382). The boot responder of a core in BOOT
state takes the next command of channel 0: its four words go to the scratchpad and into the checksum, the forward bit sends it down the
column, the report bit sends the checksum to the control core, and a command of another form is counted (R383, R384). That a router passes
the flood on in the step in which it comes, with its reply behind it, is log entry 84; that commits are counted, and that the notice
names the control core, is log entry 64. -/
def Obligations.BootRegistersAndCommandsAct : Prop :=
  (∀ (s : State) (die : Nat) (v : Word), dieUp s die = true →
     let d := getDie s die
     let kept : Word := v &&& 0xFF03FF1FFF
     (d.flooding = [] → completes (.discWrite die v) s fun t =>
       getDie t die = { d with disc := v &&& 0xFF, flooding := dieSites s die } ∧ floodsAt s t s.net die (bits v 0 8) (die * 1024) 0 0) ∧
     (d.flooding ≠ [] → exec (.discWrite die v) s = .next s) ∧
     (bits v 16 10 < 1023 → completes (.mapwWrite die v) s fun t =>
       getDie t die = { d with staged := tset d.staged (bits v 16 10) (bits v 0 10) } ∧ t.net = s.net) ∧
     (d.mapQueue = [] → completes (.mapgoWrite die v) s fun t =>
       getDie t die =
         { d with
           mapgo := kept, mapQueue := [kept], mapWait := mapRecipients s die,
           commits := d.commits ++ [⟨bits v 0 13, (List.range (bits v 16 10)).map fun i => (tget d.staged i).map fun x => die * 1024 + x⟩] } ∧
       t.net = s.net ++ (mapRecipients s die).map fun e =>
         { src := .core (ctrlSite s die), dst := e, cls := .sys, body := .mapCommit die (d.commits.length + 1) }) ∧
     (d.mapQueue ≠ [] → completes (.mapgoWrite die v) s fun t =>
       getDie t die = { d with mapgo := kept, mapQueue := d.mapQueue ++ [kept] } ∧ t.net = s.net) ∧
     (∀ w : Word, d.mapQueue = [w] → d.mapWait = [] → (getCore s (ctrlSite s die)).reqs = [] → completes (.mapNotice die) s fun t =>
       getDie t die = { d with mapQueue := [] } ∧ said s t die
         { kind := 2, count := 1, srcCore := 0x1FF0 + die, srcDev := s.devid, chan := bits w 32 8, dstCore := 0x1FF0 + die, dstDev := s.devid,
           words := words6 [BitVec.ofNat 64 (bits w 16 10)] }) ∧
     (completes (.diebaseWrite v) s fun t =>
       t.bases = s.bases ++ [v &&& 0x1FFF1FFF1FFF1FFF] ∧
       t.net = s.net ++ (((List.range 4096).filter (working s)).map Endpoint.core ++ (List.range 64).map Endpoint.landing).map fun e =>
         { src := .core (ctrlSite s (firstDie s)), dst := e, cls := .sys, body := .dieBase (s.bases.length + 1) })) ∧
  (∀ (s : State) (k x row col : Nat) (src : Endpoint), brings s k src (.core x) (.flood row col) →
     floodsAt s (runAct (.manage k) s) (without s k) (siteDie x) (bits (getDie s (siteDie x)).disc 0 8) x row col) ∧
  (∀ (s : State) (site : Nat) (x : Chan) (q : QMsg) (qs : List QMsg),
     let c := getCore s site
     let m := q.msg
     let w := m.words[0]
     let ws := [m.words[1], m.words[2], m.words[3], m.words[4]]
     let off := bits w 0 19
     working s site = true → c.boot = true → tget c.chans 0 = some x → x.queue = q :: qs → x.waiters = [] → c.reqs = [] →
     let taken := fun (t : State) => (tget (getCore t site).chans 0).map (fun y => y.queue) = some qs
     let sum := ws.foldl (fun a v => a + v) c.bootSum
     (m.count ≠ 5 ∨ bits w 32 32 ≠ 0 ∨ bits w 21 3 ≠ 0 ∨ off % 8 ≠ 0 ∨ 0x7C000 < off + 32 → completes (.bootCommand site) s fun t =>
       taken t ∧ (getCore t site).events[16] = c.events[16] + 1 ∧ (getCore t site).spad = c.spad ∧ (getCore t site).bootSum = c.bootSum) ∧
     (m.count = 5 → bits w 32 32 = 0 → bits w 21 3 = 0 → off % 8 = 0 → off + 32 ≤ 0x7C000 → completes (.bootCommand site) s fun t =>
       taken t ∧ (getCore t site).spad = writeBytes c.spad off (ws.flatMap fun v => leBytes 8 v.toNat) ∧ (getCore t site).bootSum = sum ∧
       (w.getLsbD 19 = true → ∀ y ∈ columnBelow s site, ∃ r ∈ (getCore t site).reqs, r.home = .core y ∧ r.op = .msg
         { srcCore := coreNumber s site, srcDev := s.devid, dstDev := s.devid, dstCore := coreNumber s y, count := 5,
           words := words6 ((w &&& ~~~ 0x80000#64) :: ws) }) ∧
       (w.getLsbD 20 = true → ∃ r ∈ (getCore t site).reqs, r.home = .core (ctrlSite s (siteDie site)) ∧ r.op = .msg
         { srcCore := coreNumber s site, srcDev := s.devid, dstDev := s.devid, dstCore := coreNumber s (ctrlSite s (siteDie site)), kind := 2,
           count := 1, chan := bits w 24 8, words := words6 [sum] }) ∧
       (w.getLsbD 19 = false → w.getLsbD 20 = false → (getCore t site).reqs = [] ∧ t.net = s.net)))

/-- Power-on with a firmware image that is not readable: the sites that failed, the dark dies, every user core in BOOT state, the images
in HBM; with one that is readable and configures channel 0 alone, the first message is on channel 0 of each control core. Power loss keeps the nonvolatile store, in which a raise has
happened or not, and what is outside the package (R326, R365, R376 to R379). That an image that is not readable leaves the channels alone is log
entry 61; where the images lie is log entry 19; what else power loss keeps is log entry 62; that a die below 1,000 working cores stays dark
is log entry 90. -/
def Obligations.PowerOnBootsAndPowerLossKeepsTheStore : Prop :=
  ∀ (s : State),
    (∀ (failed : List (Nat × Nat)) (dark : List Nat), parseImg s.nv.firmware = none →
      Config.fwImageAddr + s.nv.firmware.length ≤ Config.hbmBytes → 0x200000 + s.nv.coreImage.length ≤ Config.hbmBytes →
      completes (.powerOn failed dark) s fun t =>
        t.nv = s.nv ∧ t.devid = s.devid ∧ t.time = s.time ∧ t.failed = failures failed ∧
        (∀ i : Fin 4, t.dies[i].dark = dieDark (failures failed) dark i.val) ∧
        t.out = s.out ++ ((List.range 4).filter (dieDark (failures failed) dark)).map (fun d => .machineCheck (d * 1024) 1) ∧
        t.mem = writeBytes (writeBytes (s.mem.filter fun c => decide (2 ^ 64 ≤ c.1)) Config.fwImageAddr s.nv.firmware)
          0x200000 s.nv.coreImage ∧
        ∀ x, getCore t x = if ctrlSite t (x / 1024) = x then { ctrl := true } else bootCore) ∧
    (∀ (failed : List (Nat × Nat)) (dark : List Nat) (g : Img) (l : List PIns) (v : Native) (raw : List Byte),
      parseImg s.nv.firmware = some g → portableCode g = some l → translateCode g l = some v →
      Config.fwCodeBase + v.bytes.length ≤ Config.hbmBytes → g.data = [] → g.spads = [] → g.relocs = [] → g.recs = [(6, 0, raw)] →
      chsetStatus { ctrl := true } false 0 (leNat raw) = 0 → (chanOf (leNat raw)).kind = .fifo → 0 < (chanOf (leNat raw)).cap →
      completes (.powerOn failed dark) s fun t =>
        ∀ d, dieUp t d = true → ∃ m, m.kind = 2 ∧ m.count = 0 ∧ m.srcCore = 0x1FFE ∧
          tget (getCore t (ctrlSite t d)).chans 0 = some { chanOf (leNat raw) with queue := [⟨m, s.time, false, fwPart⟩] }) ∧
    (∀ b : Bool, completes (.powerLoss b) s fun t =>
      t.cores = [] ∧ t.net = [] ∧ (∀ i : Fin 4, t.dies[i].dark = true) ∧ t.mem = (s.mem.filter fun c => decide (2 ^ 64 ≤ c.1)) ∧
      t.nv.raising = none ∧ t.nv.keys = s.nv.keys ∧ t.nv.firmware = s.nv.firmware ∧ t.nv.coreImage = s.nv.coreImage ∧
      t.nv.ids = (match s.nv.raising with
        | some r => if b then s.nv.ids.map fun e => if e.1 = r.1 then (e.1, max e.2 r.2) else e else s.nv.ids
        | none => s.nv.ids))

/-- Management and records: the thermal step moves the clock by 100 MHz; lifetime samples add to the histograms, and the errors that the
cores have corrected since go to the counts of their sites, each once; a management request is answered and does what it names; a trace
sample writes the record of the instruction issued in the same cycle, or one of zeros where none is and no filter is set; a debugger's
write of dbgctl takes effect (R321, R322, R326, R364, R365, R375, R378). The bytes of the answers are log entry 42; how lifetime counts are
kept is log entry 65; that the sample names what issued in its own cycle is log entry 66; a clock without a floor is log entry 67. -/
def Obligations.ManagementAndRecords : Prop :=
  ∀ (s : State),
    (∀ c : Nat, (100 < c → exec (.thermalStep c) s = .next { s with clock := s.clock - 100 }) ∧
      (c < 90 → exec (.thermalStep c) s = .next { s with clock := min (s.clock + 100) 1800 }) ∧
      (90 ≤ c → c ≤ 100 → exec (.thermalStep c) s = .next s)) ∧
    (∀ x : LifeSample, x.die < 4 → x.tempBin < 16 → x.voltBin < 16 →
      (∀ e ∈ s.nv.temp, ¬ (e.1 = x.die ∧ e.2.1 = x.tempBin)) → completes (.lifetimeUpdate [x]) s fun t =>
        t.nv.temp = s.nv.temp ++ [(x.die, x.tempBin, x.seconds)] ∧
        (∀ e ∈ s.nv.volt, e.1 = x.die → e.2.1 = x.voltBin → (x.die, x.voltBin, e.2.2 + x.seconds) ∈ t.nv.volt) ∧
        (∀ y < 4096, (tget t.nv.siteErrs y).getD 0 = (tget s.nv.siteErrs y).getD 0 +
          (s.cores.filter fun e => e.1 % 4096 == y).foldl (fun n e => n + e.2.corrected) 0) ∧
        ∀ y, (getCore t y).corrected = 0 ∧ (getCore t y).events = (getCore s y).events) ∧
    (let asked := fun (r : MgmtReq) (nv : NvStore) (b : List Byte) =>
      exec (.mctpRequest r) s = .next { s with nv := nv, out := s.out ++ [.mctp b] }
    (∃ b, b.length = 4 ∧ asked .readSensors s.nv b) ∧ asked .readLifetime s.nv (lifetimeBytes s.nv) ∧
    (∀ b, asked (.firmwareUpdate b) { s.nv with firmware := b } [0]) ∧ (∀ b, asked (.coreImageUpdate b) { s.nv with coreImage := b } [0]) ∧
    (∀ k, s.nv.keys.length < 8 → asked (.enrolKey k) { s.nv with keys := s.nv.keys ++ [k] } [0]) ∧
    (∀ k, 8 ≤ s.nv.keys.length → asked (.enrolKey k) s.nv [1]) ∧
    (∀ id, (∀ e ∈ s.nv.ids, e.1 ≠ id) → s.nv.ids.length < 256 → asked (.registerImageId id) { s.nv with ids := s.nv.ids ++ [(id, 0)] } [0]) ∧
    (∀ id, (∀ e ∈ s.nv.ids, e.1 ≠ id) → 256 ≤ s.nv.ids.length → asked (.registerImageId id) s.nv [1])) ∧
    (∀ site : Nat,
      let c := getCore s site
      let a := BitVec.ofNat 64 (bits c.dbgctl 16 41 * 2 ^ 16 + c.traceN % (0x10000 * 2 ^ bits c.dbgctl 12 4 / 32) * 32)
      let records := fun (pat : Nat) (act : BitVec 48) (pc : Word) => completes (.traceSample site) s fun t =>
        (getCore t site).traceN = c.traceN + 1 ∧ (getCore t site).bulks.length = c.bulks.length + 1 ∧
        ∃ p r, t.net = s.net ++ [p] ∧ p.src = .core site ∧ p.dst = .ferry (homeFerry a) ∧ p.cls = .bulk ∧ p.body = .req r ∧
          r.addr = a ∧ r.part = corePart s site ∧
          r.op = .write (leBytes 8 (8 + pat % 256 * 2 ^ 8 + act.toNat * 2 ^ 16) ++ leBytes 8 s.time ++ leBytes 8 pc.toNat ++
            leBytes 8 (c.traceN % 2 ^ 32))
      working s site = true → c.dbgctl.getLsbD 2 = true →
        (∀ i : Issued, c.issued = some i → i.cycle = s.cycle → dbgMatch c i.act = true → records i.pat i.act i.pc) ∧
        ((∀ i : Issued, c.issued = some i → i.cycle ≠ s.cycle) → c.dbgctl.getLsbD 3 = false → records 0 0 0)) ∧
    (∀ (site : Nat) (v : Word), working s site = true → completes (.dbgctlWrite site v) s fun t =>
      (getCore t site).dbgctl = v &&& 0x01FFFFFFFFFFFFBE#64 ∧ (v.getLsbD 6 = true → (getCore t site).delay = [] ∧ (getCore t site).others = none))

/-- Migration: a core that may move stops, releases its reservations and injects nothing new; once its requests are answered the
context, the channels, patterns and scratchpad stand at the target under the old number, the old site keeps a forwarding entry, and the
markers of every NI and landing are on their way (R299, R300, R312). That the maps switch in one step, that every NI and landing sends a
marker, that reservations are released and that the instruction cache stays with its site, is log entry 31. -/
def Obligations.MigrationMovesTheCore : Prop :=
  ∀ (s : State) (src dst p lc : Nat),
    let c := getCore s src
    c.lcore = some lc →
    (c.part = some p → working s src = true → c.halted = false → (getPart s p).running = true → canMove c = true →
      canTake s p src dst = true → completes (.migration src dst) s fun t =>
        (getCore t src).halted = true ∧ (getCore t src).moveTo = some dst ∧ (getCore t src).granted = [] ∧
        (c.restoring = none → ∀ (k : Fin 4) (x : Nat), (getSlot t src k).mode ≠ .reserved x) ∧
        (getCore t src).spad = c.spad ∧ (getCore t src).chans = c.chans ∧ (∀ k, (getSlot t src k).pc = (getSlot s src k).pc) ∧ t.net = s.net) ∧
    (c.moveTo = some dst → src ≠ dst → c.halted = true → c.awaitMark = [] → c.reqs = [] → c.fills = [] → c.bulks = [] →
      c.spillOut = none → c.restoring = none → c.stealOut = false → c.away = [] → c.notices = [] → c.dbgctl.getLsbD 1 = false → completes (.migrationStream src) s fun t =>
        let d := getCore t dst
        tget t.moved lc = some dst ∧ tget (getCore t src).fwd lc = some dst ∧ (getCore t src).lcore = none ∧ (getCore t src).slots = ({} : Core).slots ∧
        d.lcore = some lc ∧ d.halted = false ∧ d.moveTo = none ∧ d.spad = c.spad ∧ d.pats = c.pats ∧ d.ready = c.ready ∧ d.tvec = c.tvec ∧
        d.mapVer = (getCore s dst).mapVer ∧ d.icache = (getCore s dst).icache ∧ d.awaitMark = markerSources s src ∧
        (∀ (k : Fin 4), let a := getSlot t dst k; let b := getSlot s src k
          a.x = b.x ∧ a.v = b.v ∧ a.m = b.m ∧ a.pc = b.pc ∧ a.fexc = b.fexc ∧ a.actId = b.actId ∧ (b.mode = .run → a.mode = .run)) ∧
        ∃ l, t.net = l ++ (markerSources s src).map fun e => { src := e, dst := .core src, cls := .req, body := .marker lc e })

/-- Dusk and dawn: the cores of the partition halt; once every request is answered the cores stand in the shadow frames, without their
caches, and their sites are free; at dawn, unless a shadow frame meets an error, they stand on the named clusters and run (R301 to R303).
That the shadow frames are cores outside the sites, and that caches are dropped, is log entry 32; the error at dawn is log entry 18. -/
def Obligations.PartitionsGoAndComeBack : Prop :=
  ∀ (s : State) (part : Nat),
    let p := getPart s part
    let sites := partSites s part
    (p.running = true → p.dark = false → p.halting = false → p.teardown = false → completes (.dusk part) s fun t =>
      getPart t part = { p with halting := true } ∧ t.net = s.net ∧
      ∀ x ∈ sites, (getCore t x).halted = true ∧ (getCore t x).moveTo = none ∧ (getCore t x).granted = [] ∧
        (getCore t x).spad = (getCore s x).spad) ∧
    (p.halting = true → (∀ x ∈ sites, allAnswered (getCore s x) = true) → p.clusters.Nodup → (∀ cl ∈ p.clusters, cl < 1024) →
      completes (.partitionHalted part) s fun t =>
        (getPart t part).dark = true ∧ (getPart t part).halting = false ∧
        (getPart t part).clusters = p.clusters.map (fun cl => 1024 * (part + 1) + cl) ∧
        ∀ x ∈ sites,
          let a := getCore t (4096 * (part + 1) + x)
          let b := getCore s x
          a.spad = b.spad ∧ a.lcore = b.lcore ∧ a.pats = b.pats ∧ a.part = some part ∧ a.icache = [] ∧
          (∀ k : Fin 4, a.slots[k].x = b.slots[k].x ∧ a.slots[k].pc = b.slots[k].pc) ∧
          (getCore t x).part = none ∧ (getCore t x).lcore = none) ∧
    (∀ place : List (Nat × Nat), p.dark = true → dawnOk s part place = true → p.clusters.Nodup →
      (∀ x ∈ sites, 4096 ≤ x) →
      (Config.freeShadow s.stepNo = true → completes (.dawn part place) s fun t => (getPart t part).dark = true ∧ t.cores = s.cores) ∧
      (Config.freeShadow s.stepNo = false → completes (.dawn part place) s fun t =>
        (getPart t part).dark = false ∧
        ∀ x ∈ sites,
          let b := getCore s x
          let a := getCore t (clusterSite (placeOf (place.map fun e => (1024 * (part + 1) + e.1, e.2)) (siteCluster x)) (siteRank x))
          a.halted = false ∧ a.fwd = [] ∧ a.spad = b.spad ∧ a.lcore = b.lcore ∧ a.pats = b.pats ∧
          ∀ k : Fin 4, a.slots[k].x = b.slots[k].x ∧ a.slots[k].pc = b.slots[k].pc))

/-- Firmware builds a partition on free clusters: its user cores leave BOOT state, join it and have their core CSRs at reset values, and
its record is as R358 and R374 say. A teardown, of the PF or by an FLR, marks the partition GONE and halts its cores; then its windows go and
firmware writes zeros to its overflow rings; and when they are written, or if there are none, the partition is cleared (R286, R358, R359,
R374, R379). That the teardown runs in these steps is log entry 33, how the rings are cleared is log entry 89, and that the counts of
corrected errors are kept is log entry 65. -/
def Obligations.PartitionsAreBuiltAndTornDown : Prop :=
  ∀ (s : State) (part : Nat),
    let p := getPart s part
    let sites := partSites s part
    (∀ (cls pasids : List Nat) (lc : Nat) (twins : Bool), p.running = false → p.teardown = false → clustersFree s cls = true →
      pasids.length = 4 → (∀ n ∈ pasids, n < 2 ^ 20) → (∃ x ∈ userSites s cls, (getCore s x).lcore = some lc) →
      completes (.partitionBuild part cls pasids (some lc) twins) s fun t =>
        let q := getPart t part
        q.running = true ∧ q.gone = false ∧ q.clusters = cls ∧ q.pasids = pasids ∧ q.supcore = some lc ∧ q.nightch = 0 ∧ q.armed = true ∧
        q.twins = twins ∧ q.image = none ∧ (∀ cl ∈ cls, (getCluster t cl).lease = 8 ∧ (getCluster t cl).adptab = 0) ∧
        ∀ x ∈ userSites s cls, (∀ d < 4, x ≠ ctrlSite s d) → let c := getCore t x
          c.boot = false ∧ c.part = some part ∧ c.tvec = 0 ∧ c.rotate = 0 ∧ c.stealdom = 0 ∧ c.spill = 0 ∧ c.dbgctl = 0 ∧ c.stepCsr = 0 ∧
          c.lcore = (getCore s x).lcore ∧ ((getCore s x).boot = true → (getCore s x).chans = [(0, bootChan)] → c.chans = [])) ∧
    (∀ i : Instr, i = .flr part ∨ i = .teardownCommand part →
      let told : List HostOut := if i = .flr part then [.flrDone part] else []
      (p.teardown = false → (p.running = true ∨ p.dark = true) → completes i s fun t =>
        getPart t part = { p with gone := true, teardown := true, running := false } ∧ t.out = s.out ∧
        ∀ x ∈ sites, (getCore t x).halted = true ∧ (getCore t x).granted = []) ∧
      (p.teardown = false → p.running = false → p.dark = false → exec i s = .next { s with out := s.out ++ told }) ∧
      (p.teardown = true → p.clearing = true → ringsOut s part = true → exec i s = .next s) ∧
      (∀ (site ch : Nat) (x : Chan), p.teardown = true → p.clearing = false → sites = [site] → (getCore s site).chans = [(ch, x)] →
        0 < x.ovfSize → x.ovfBase.toNat % 4096 = 0 → 64 * x.ovfSize ≤ 4096 → (getCore s site).inbox = [] → (getCore s site).spilling = none →
        x.waiters = [] → p.spills = [] → completes i s fun t =>
          (getPart t part).clearing = true ∧ (getPart t part).teardown = true ∧ t.out = s.out ∧ (∀ w ∈ t.windows, w.2.ownpart ≠ part) ∧
          ringsOut t part = true ∧ ∃ q r, q ∈ t.net ∧ q.src = .core (ctrlSite s (firstDie s)) ∧ q.dst = .ferry (homeFerry x.ovfBase) ∧
            q.cls = .bulk ∧ q.body = .req r ∧ r.part = part ∧ r.addr = x.ovfBase ∧ r.op = .write (List.replicate (64 * x.ovfSize) 0)) ∧
      (p.teardown = true → (∀ cl ∈ p.clusters, cl < 1024) → ringsOut s part = false →
        (p.clearing = true ∨ ∀ x ∈ sites, (∀ e ∈ (getCore s x).chans, e.2.ovfSize = 0) ∧ (getCore s x).spilling = none) → completes i s fun t =>
        getPart t part = { gone := true } ∧ t.out = s.out ++ told ∧ (p.clearing = false → ∀ w ∈ t.windows, w.2.ownpart ≠ part) ∧
        ∀ x ∈ sites, getCore t x =
          { mapVer := (getCore s x).mapVer, baseVer := (getCore s x).baseVer, corrected := (getCore s x).corrected, part := some part,
            lcore := (getCore s x).lcore }))

end
end

