-- ==== Sys2Proof/Laws/State.lean ====
section
/-! SUPPORT. Laws/State.lean: what each update of the state leaves alone, one lemma for each field, and what reading back gives. -/

namespace Sys2Proof.Machine

-- setCore
@[simp] theorem setCore_agenda (s : State) (x : Nat) (c : Core) : (setCore s x c).agenda = s.agenda := rfl
@[simp] theorem setCore_focus (s : State) (x : Nat) (c : Core) : (setCore s x c).focus = s.focus := rfl
@[simp] theorem setCore_cur (s : State) (x : Nat) (c : Core) : (setCore s x c).cur = s.cur := rfl
@[simp] theorem setCore_stepNo (s : State) (x : Nat) (c : Core) : (setCore s x c).stepNo = s.stepNo := rfl
@[simp] theorem setCore_cycle (s : State) (x : Nat) (c : Core) : (setCore s x c).cycle = s.cycle := rfl
@[simp] theorem setCore_time (s : State) (x : Nat) (c : Core) : (setCore s x c).time = s.time := rfl
@[simp] theorem setCore_devid (s : State) (x : Nat) (c : Core) : (setCore s x c).devid = s.devid := rfl
@[simp] theorem setCore_clusters (s : State) (x : Nat) (c : Core) : (setCore s x c).clusters = s.clusters := rfl
@[simp] theorem setCore_ferries (s : State) (x : Nat) (c : Core) : (setCore s x c).ferries = s.ferries := rfl
@[simp] theorem setCore_dies (s : State) (x : Nat) (c : Core) : (setCore s x c).dies = s.dies := rfl
@[simp] theorem setCore_parts (s : State) (x : Nat) (c : Core) : (setCore s x c).parts = s.parts := rfl
@[simp] theorem setCore_ports (s : State) (x : Nat) (c : Core) : (setCore s x c).ports = s.ports := rfl
@[simp] theorem setCore_windows (s : State) (x : Nat) (c : Core) : (setCore s x c).windows = s.windows := rfl
@[simp] theorem setCore_mem (s : State) (x : Nat) (c : Core) : (setCore s x c).mem = s.mem := rfl
@[simp] theorem setCore_memUE (s : State) (x : Nat) (c : Core) : (setCore s x c).memUE = s.memUE := rfl
@[simp] theorem setCore_memCE (s : State) (x : Nat) (c : Core) : (setCore s x c).memCE = s.memCE := rfl
@[simp] theorem setCore_net (s : State) (x : Nat) (c : Core) : (setCore s x c).net = s.net := rfl
@[simp] theorem setCore_links (s : State) (x : Nat) (c : Core) : (setCore s x c).links = s.links := rfl
@[simp] theorem setCore_failed (s : State) (x : Nat) (c : Core) : (setCore s x c).failed = s.failed := rfl
@[simp] theorem setCore_moved (s : State) (x : Nat) (c : Core) : (setCore s x c).moved = s.moved := rfl
@[simp] theorem setCore_bases (s : State) (x : Nat) (c : Core) : (setCore s x c).bases = s.bases := rfl
@[simp] theorem setCore_routers (s : State) (x : Nat) (c : Core) : (setCore s x c).routers = s.routers := rfl
@[simp] theorem setCore_invs (s : State) (x : Nat) (c : Core) : (setCore s x c).invs = s.invs := rfl
@[simp] theorem setCore_loads (s : State) (x : Nat) (c : Core) : (setCore s x c).loads = s.loads := rfl
@[simp] theorem setCore_nv (s : State) (x : Nat) (c : Core) : (setCore s x c).nv = s.nv := rfl
@[simp] theorem setCore_ticketLimit (s : State) (x : Nat) (c : Core) : (setCore s x c).ticketLimit = s.ticketLimit := rfl
@[simp] theorem setCore_linkLimit (s : State) (x : Nat) (c : Core) : (setCore s x c).linkLimit = s.linkLimit := rfl
@[simp] theorem setCore_priMax (s : State) (x : Nat) (c : Core) : (setCore s x c).priMax = s.priMax := rfl
@[simp] theorem setCore_hostUid (s : State) (x : Nat) (c : Core) : (setCore s x c).hostUid = s.hostUid := rfl
@[simp] theorem setCore_bar4 (s : State) (x : Nat) (c : Core) : (setCore s x c).bar4 = s.bar4 := rfl
@[simp] theorem setCore_bar4Base (s : State) (x : Nat) (c : Core) : (setCore s x c).bar4Base = s.bar4Base := rfl
@[simp] theorem setCore_peerLo (s : State) (x : Nat) (c : Core) : (setCore s x c).peerLo = s.peerLo := rfl
@[simp] theorem setCore_peerHi (s : State) (x : Nat) (c : Core) : (setCore s x c).peerHi = s.peerHi := rfl
@[simp] theorem setCore_clock (s : State) (x : Nat) (c : Core) : (setCore s x c).clock = s.clock := rfl
@[simp] theorem setCore_out (s : State) (x : Nat) (c : Core) : (setCore s x c).out = s.out := rfl

-- updCore
@[simp] theorem updCore_agenda (s : State) (x : Nat) (f : Core → Core) : (updCore s x f).agenda = s.agenda := rfl
@[simp] theorem updCore_focus (s : State) (x : Nat) (f : Core → Core) : (updCore s x f).focus = s.focus := rfl
@[simp] theorem updCore_cur (s : State) (x : Nat) (f : Core → Core) : (updCore s x f).cur = s.cur := rfl
@[simp] theorem updCore_stepNo (s : State) (x : Nat) (f : Core → Core) : (updCore s x f).stepNo = s.stepNo := rfl
@[simp] theorem updCore_cycle (s : State) (x : Nat) (f : Core → Core) : (updCore s x f).cycle = s.cycle := rfl
@[simp] theorem updCore_time (s : State) (x : Nat) (f : Core → Core) : (updCore s x f).time = s.time := rfl
@[simp] theorem updCore_devid (s : State) (x : Nat) (f : Core → Core) : (updCore s x f).devid = s.devid := rfl
@[simp] theorem updCore_clusters (s : State) (x : Nat) (f : Core → Core) : (updCore s x f).clusters = s.clusters := rfl
@[simp] theorem updCore_ferries (s : State) (x : Nat) (f : Core → Core) : (updCore s x f).ferries = s.ferries := rfl
@[simp] theorem updCore_dies (s : State) (x : Nat) (f : Core → Core) : (updCore s x f).dies = s.dies := rfl
@[simp] theorem updCore_parts (s : State) (x : Nat) (f : Core → Core) : (updCore s x f).parts = s.parts := rfl
@[simp] theorem updCore_ports (s : State) (x : Nat) (f : Core → Core) : (updCore s x f).ports = s.ports := rfl
@[simp] theorem updCore_windows (s : State) (x : Nat) (f : Core → Core) : (updCore s x f).windows = s.windows := rfl
@[simp] theorem updCore_mem (s : State) (x : Nat) (f : Core → Core) : (updCore s x f).mem = s.mem := rfl
@[simp] theorem updCore_memUE (s : State) (x : Nat) (f : Core → Core) : (updCore s x f).memUE = s.memUE := rfl
@[simp] theorem updCore_memCE (s : State) (x : Nat) (f : Core → Core) : (updCore s x f).memCE = s.memCE := rfl
@[simp] theorem updCore_net (s : State) (x : Nat) (f : Core → Core) : (updCore s x f).net = s.net := rfl
@[simp] theorem updCore_links (s : State) (x : Nat) (f : Core → Core) : (updCore s x f).links = s.links := rfl
@[simp] theorem updCore_failed (s : State) (x : Nat) (f : Core → Core) : (updCore s x f).failed = s.failed := rfl
@[simp] theorem updCore_moved (s : State) (x : Nat) (f : Core → Core) : (updCore s x f).moved = s.moved := rfl
@[simp] theorem updCore_bases (s : State) (x : Nat) (f : Core → Core) : (updCore s x f).bases = s.bases := rfl
@[simp] theorem updCore_routers (s : State) (x : Nat) (f : Core → Core) : (updCore s x f).routers = s.routers := rfl
@[simp] theorem updCore_invs (s : State) (x : Nat) (f : Core → Core) : (updCore s x f).invs = s.invs := rfl
@[simp] theorem updCore_loads (s : State) (x : Nat) (f : Core → Core) : (updCore s x f).loads = s.loads := rfl
@[simp] theorem updCore_nv (s : State) (x : Nat) (f : Core → Core) : (updCore s x f).nv = s.nv := rfl
@[simp] theorem updCore_ticketLimit (s : State) (x : Nat) (f : Core → Core) : (updCore s x f).ticketLimit = s.ticketLimit := rfl
@[simp] theorem updCore_linkLimit (s : State) (x : Nat) (f : Core → Core) : (updCore s x f).linkLimit = s.linkLimit := rfl
@[simp] theorem updCore_priMax (s : State) (x : Nat) (f : Core → Core) : (updCore s x f).priMax = s.priMax := rfl
@[simp] theorem updCore_hostUid (s : State) (x : Nat) (f : Core → Core) : (updCore s x f).hostUid = s.hostUid := rfl
@[simp] theorem updCore_bar4 (s : State) (x : Nat) (f : Core → Core) : (updCore s x f).bar4 = s.bar4 := rfl
@[simp] theorem updCore_bar4Base (s : State) (x : Nat) (f : Core → Core) : (updCore s x f).bar4Base = s.bar4Base := rfl
@[simp] theorem updCore_peerLo (s : State) (x : Nat) (f : Core → Core) : (updCore s x f).peerLo = s.peerLo := rfl
@[simp] theorem updCore_peerHi (s : State) (x : Nat) (f : Core → Core) : (updCore s x f).peerHi = s.peerHi := rfl
@[simp] theorem updCore_clock (s : State) (x : Nat) (f : Core → Core) : (updCore s x f).clock = s.clock := rfl
@[simp] theorem updCore_out (s : State) (x : Nat) (f : Core → Core) : (updCore s x f).out = s.out := rfl

-- setSlot
@[simp] theorem setSlot_agenda (s : State) (x : Nat) (k : Fin 4) (f : Slot → Slot) : (setSlot s x k f).agenda = s.agenda := rfl
@[simp] theorem setSlot_focus (s : State) (x : Nat) (k : Fin 4) (f : Slot → Slot) : (setSlot s x k f).focus = s.focus := rfl
@[simp] theorem setSlot_cur (s : State) (x : Nat) (k : Fin 4) (f : Slot → Slot) : (setSlot s x k f).cur = s.cur := rfl
@[simp] theorem setSlot_stepNo (s : State) (x : Nat) (k : Fin 4) (f : Slot → Slot) : (setSlot s x k f).stepNo = s.stepNo := rfl
@[simp] theorem setSlot_cycle (s : State) (x : Nat) (k : Fin 4) (f : Slot → Slot) : (setSlot s x k f).cycle = s.cycle := rfl
@[simp] theorem setSlot_time (s : State) (x : Nat) (k : Fin 4) (f : Slot → Slot) : (setSlot s x k f).time = s.time := rfl
@[simp] theorem setSlot_devid (s : State) (x : Nat) (k : Fin 4) (f : Slot → Slot) : (setSlot s x k f).devid = s.devid := rfl
@[simp] theorem setSlot_clusters (s : State) (x : Nat) (k : Fin 4) (f : Slot → Slot) : (setSlot s x k f).clusters = s.clusters := rfl
@[simp] theorem setSlot_ferries (s : State) (x : Nat) (k : Fin 4) (f : Slot → Slot) : (setSlot s x k f).ferries = s.ferries := rfl
@[simp] theorem setSlot_dies (s : State) (x : Nat) (k : Fin 4) (f : Slot → Slot) : (setSlot s x k f).dies = s.dies := rfl
@[simp] theorem setSlot_parts (s : State) (x : Nat) (k : Fin 4) (f : Slot → Slot) : (setSlot s x k f).parts = s.parts := rfl
@[simp] theorem setSlot_ports (s : State) (x : Nat) (k : Fin 4) (f : Slot → Slot) : (setSlot s x k f).ports = s.ports := rfl
@[simp] theorem setSlot_windows (s : State) (x : Nat) (k : Fin 4) (f : Slot → Slot) : (setSlot s x k f).windows = s.windows := rfl
@[simp] theorem setSlot_mem (s : State) (x : Nat) (k : Fin 4) (f : Slot → Slot) : (setSlot s x k f).mem = s.mem := rfl
@[simp] theorem setSlot_memUE (s : State) (x : Nat) (k : Fin 4) (f : Slot → Slot) : (setSlot s x k f).memUE = s.memUE := rfl
@[simp] theorem setSlot_memCE (s : State) (x : Nat) (k : Fin 4) (f : Slot → Slot) : (setSlot s x k f).memCE = s.memCE := rfl
@[simp] theorem setSlot_net (s : State) (x : Nat) (k : Fin 4) (f : Slot → Slot) : (setSlot s x k f).net = s.net := rfl
@[simp] theorem setSlot_links (s : State) (x : Nat) (k : Fin 4) (f : Slot → Slot) : (setSlot s x k f).links = s.links := rfl
@[simp] theorem setSlot_failed (s : State) (x : Nat) (k : Fin 4) (f : Slot → Slot) : (setSlot s x k f).failed = s.failed := rfl
@[simp] theorem setSlot_moved (s : State) (x : Nat) (k : Fin 4) (f : Slot → Slot) : (setSlot s x k f).moved = s.moved := rfl
@[simp] theorem setSlot_bases (s : State) (x : Nat) (k : Fin 4) (f : Slot → Slot) : (setSlot s x k f).bases = s.bases := rfl
@[simp] theorem setSlot_routers (s : State) (x : Nat) (k : Fin 4) (f : Slot → Slot) : (setSlot s x k f).routers = s.routers := rfl
@[simp] theorem setSlot_invs (s : State) (x : Nat) (k : Fin 4) (f : Slot → Slot) : (setSlot s x k f).invs = s.invs := rfl
@[simp] theorem setSlot_loads (s : State) (x : Nat) (k : Fin 4) (f : Slot → Slot) : (setSlot s x k f).loads = s.loads := rfl
@[simp] theorem setSlot_nv (s : State) (x : Nat) (k : Fin 4) (f : Slot → Slot) : (setSlot s x k f).nv = s.nv := rfl
@[simp] theorem setSlot_ticketLimit (s : State) (x : Nat) (k : Fin 4) (f : Slot → Slot) : (setSlot s x k f).ticketLimit = s.ticketLimit := rfl
@[simp] theorem setSlot_linkLimit (s : State) (x : Nat) (k : Fin 4) (f : Slot → Slot) : (setSlot s x k f).linkLimit = s.linkLimit := rfl
@[simp] theorem setSlot_priMax (s : State) (x : Nat) (k : Fin 4) (f : Slot → Slot) : (setSlot s x k f).priMax = s.priMax := rfl
@[simp] theorem setSlot_hostUid (s : State) (x : Nat) (k : Fin 4) (f : Slot → Slot) : (setSlot s x k f).hostUid = s.hostUid := rfl
@[simp] theorem setSlot_bar4 (s : State) (x : Nat) (k : Fin 4) (f : Slot → Slot) : (setSlot s x k f).bar4 = s.bar4 := rfl
@[simp] theorem setSlot_bar4Base (s : State) (x : Nat) (k : Fin 4) (f : Slot → Slot) : (setSlot s x k f).bar4Base = s.bar4Base := rfl
@[simp] theorem setSlot_peerLo (s : State) (x : Nat) (k : Fin 4) (f : Slot → Slot) : (setSlot s x k f).peerLo = s.peerLo := rfl
@[simp] theorem setSlot_peerHi (s : State) (x : Nat) (k : Fin 4) (f : Slot → Slot) : (setSlot s x k f).peerHi = s.peerHi := rfl
@[simp] theorem setSlot_clock (s : State) (x : Nat) (k : Fin 4) (f : Slot → Slot) : (setSlot s x k f).clock = s.clock := rfl
@[simp] theorem setSlot_out (s : State) (x : Nat) (k : Fin 4) (f : Slot → Slot) : (setSlot s x k f).out = s.out := rfl

-- updCur
@[simp] theorem updCur_agenda (s : State) (f : Slot → Slot) : (updCur s f).agenda = s.agenda := rfl
@[simp] theorem updCur_focus (s : State) (f : Slot → Slot) : (updCur s f).focus = s.focus := rfl
@[simp] theorem updCur_cur (s : State) (f : Slot → Slot) : (updCur s f).cur = s.cur := rfl
@[simp] theorem updCur_stepNo (s : State) (f : Slot → Slot) : (updCur s f).stepNo = s.stepNo := rfl
@[simp] theorem updCur_cycle (s : State) (f : Slot → Slot) : (updCur s f).cycle = s.cycle := rfl
@[simp] theorem updCur_time (s : State) (f : Slot → Slot) : (updCur s f).time = s.time := rfl
@[simp] theorem updCur_devid (s : State) (f : Slot → Slot) : (updCur s f).devid = s.devid := rfl
@[simp] theorem updCur_clusters (s : State) (f : Slot → Slot) : (updCur s f).clusters = s.clusters := rfl
@[simp] theorem updCur_ferries (s : State) (f : Slot → Slot) : (updCur s f).ferries = s.ferries := rfl
@[simp] theorem updCur_dies (s : State) (f : Slot → Slot) : (updCur s f).dies = s.dies := rfl
@[simp] theorem updCur_parts (s : State) (f : Slot → Slot) : (updCur s f).parts = s.parts := rfl
@[simp] theorem updCur_ports (s : State) (f : Slot → Slot) : (updCur s f).ports = s.ports := rfl
@[simp] theorem updCur_windows (s : State) (f : Slot → Slot) : (updCur s f).windows = s.windows := rfl
@[simp] theorem updCur_mem (s : State) (f : Slot → Slot) : (updCur s f).mem = s.mem := rfl
@[simp] theorem updCur_memUE (s : State) (f : Slot → Slot) : (updCur s f).memUE = s.memUE := rfl
@[simp] theorem updCur_memCE (s : State) (f : Slot → Slot) : (updCur s f).memCE = s.memCE := rfl
@[simp] theorem updCur_net (s : State) (f : Slot → Slot) : (updCur s f).net = s.net := rfl
@[simp] theorem updCur_links (s : State) (f : Slot → Slot) : (updCur s f).links = s.links := rfl
@[simp] theorem updCur_failed (s : State) (f : Slot → Slot) : (updCur s f).failed = s.failed := rfl
@[simp] theorem updCur_moved (s : State) (f : Slot → Slot) : (updCur s f).moved = s.moved := rfl
@[simp] theorem updCur_bases (s : State) (f : Slot → Slot) : (updCur s f).bases = s.bases := rfl
@[simp] theorem updCur_routers (s : State) (f : Slot → Slot) : (updCur s f).routers = s.routers := rfl
@[simp] theorem updCur_invs (s : State) (f : Slot → Slot) : (updCur s f).invs = s.invs := rfl
@[simp] theorem updCur_loads (s : State) (f : Slot → Slot) : (updCur s f).loads = s.loads := rfl
@[simp] theorem updCur_nv (s : State) (f : Slot → Slot) : (updCur s f).nv = s.nv := rfl
@[simp] theorem updCur_ticketLimit (s : State) (f : Slot → Slot) : (updCur s f).ticketLimit = s.ticketLimit := rfl
@[simp] theorem updCur_linkLimit (s : State) (f : Slot → Slot) : (updCur s f).linkLimit = s.linkLimit := rfl
@[simp] theorem updCur_priMax (s : State) (f : Slot → Slot) : (updCur s f).priMax = s.priMax := rfl
@[simp] theorem updCur_hostUid (s : State) (f : Slot → Slot) : (updCur s f).hostUid = s.hostUid := rfl
@[simp] theorem updCur_bar4 (s : State) (f : Slot → Slot) : (updCur s f).bar4 = s.bar4 := rfl
@[simp] theorem updCur_bar4Base (s : State) (f : Slot → Slot) : (updCur s f).bar4Base = s.bar4Base := rfl
@[simp] theorem updCur_peerLo (s : State) (f : Slot → Slot) : (updCur s f).peerLo = s.peerLo := rfl
@[simp] theorem updCur_peerHi (s : State) (f : Slot → Slot) : (updCur s f).peerHi = s.peerHi := rfl
@[simp] theorem updCur_clock (s : State) (f : Slot → Slot) : (updCur s f).clock = s.clock := rfl
@[simp] theorem updCur_out (s : State) (f : Slot → Slot) : (updCur s f).out = s.out := rfl

-- updCurCore
@[simp] theorem updCurCore_agenda (s : State) (f : Core → Core) : (updCurCore s f).agenda = s.agenda := rfl
@[simp] theorem updCurCore_focus (s : State) (f : Core → Core) : (updCurCore s f).focus = s.focus := rfl
@[simp] theorem updCurCore_cur (s : State) (f : Core → Core) : (updCurCore s f).cur = s.cur := rfl
@[simp] theorem updCurCore_stepNo (s : State) (f : Core → Core) : (updCurCore s f).stepNo = s.stepNo := rfl
@[simp] theorem updCurCore_cycle (s : State) (f : Core → Core) : (updCurCore s f).cycle = s.cycle := rfl
@[simp] theorem updCurCore_time (s : State) (f : Core → Core) : (updCurCore s f).time = s.time := rfl
@[simp] theorem updCurCore_devid (s : State) (f : Core → Core) : (updCurCore s f).devid = s.devid := rfl
@[simp] theorem updCurCore_clusters (s : State) (f : Core → Core) : (updCurCore s f).clusters = s.clusters := rfl
@[simp] theorem updCurCore_ferries (s : State) (f : Core → Core) : (updCurCore s f).ferries = s.ferries := rfl
@[simp] theorem updCurCore_dies (s : State) (f : Core → Core) : (updCurCore s f).dies = s.dies := rfl
@[simp] theorem updCurCore_parts (s : State) (f : Core → Core) : (updCurCore s f).parts = s.parts := rfl
@[simp] theorem updCurCore_ports (s : State) (f : Core → Core) : (updCurCore s f).ports = s.ports := rfl
@[simp] theorem updCurCore_windows (s : State) (f : Core → Core) : (updCurCore s f).windows = s.windows := rfl
@[simp] theorem updCurCore_mem (s : State) (f : Core → Core) : (updCurCore s f).mem = s.mem := rfl
@[simp] theorem updCurCore_memUE (s : State) (f : Core → Core) : (updCurCore s f).memUE = s.memUE := rfl
@[simp] theorem updCurCore_memCE (s : State) (f : Core → Core) : (updCurCore s f).memCE = s.memCE := rfl
@[simp] theorem updCurCore_net (s : State) (f : Core → Core) : (updCurCore s f).net = s.net := rfl
@[simp] theorem updCurCore_links (s : State) (f : Core → Core) : (updCurCore s f).links = s.links := rfl
@[simp] theorem updCurCore_failed (s : State) (f : Core → Core) : (updCurCore s f).failed = s.failed := rfl
@[simp] theorem updCurCore_moved (s : State) (f : Core → Core) : (updCurCore s f).moved = s.moved := rfl
@[simp] theorem updCurCore_bases (s : State) (f : Core → Core) : (updCurCore s f).bases = s.bases := rfl
@[simp] theorem updCurCore_routers (s : State) (f : Core → Core) : (updCurCore s f).routers = s.routers := rfl
@[simp] theorem updCurCore_invs (s : State) (f : Core → Core) : (updCurCore s f).invs = s.invs := rfl
@[simp] theorem updCurCore_loads (s : State) (f : Core → Core) : (updCurCore s f).loads = s.loads := rfl
@[simp] theorem updCurCore_nv (s : State) (f : Core → Core) : (updCurCore s f).nv = s.nv := rfl
@[simp] theorem updCurCore_ticketLimit (s : State) (f : Core → Core) : (updCurCore s f).ticketLimit = s.ticketLimit := rfl
@[simp] theorem updCurCore_linkLimit (s : State) (f : Core → Core) : (updCurCore s f).linkLimit = s.linkLimit := rfl
@[simp] theorem updCurCore_priMax (s : State) (f : Core → Core) : (updCurCore s f).priMax = s.priMax := rfl
@[simp] theorem updCurCore_hostUid (s : State) (f : Core → Core) : (updCurCore s f).hostUid = s.hostUid := rfl
@[simp] theorem updCurCore_bar4 (s : State) (f : Core → Core) : (updCurCore s f).bar4 = s.bar4 := rfl
@[simp] theorem updCurCore_bar4Base (s : State) (f : Core → Core) : (updCurCore s f).bar4Base = s.bar4Base := rfl
@[simp] theorem updCurCore_peerLo (s : State) (f : Core → Core) : (updCurCore s f).peerLo = s.peerLo := rfl
@[simp] theorem updCurCore_peerHi (s : State) (f : Core → Core) : (updCurCore s f).peerHi = s.peerHi := rfl
@[simp] theorem updCurCore_clock (s : State) (f : Core → Core) : (updCurCore s f).clock = s.clock := rfl
@[simp] theorem updCurCore_out (s : State) (f : Core → Core) : (updCurCore s f).out = s.out := rfl

-- setFerry
@[simp] theorem setFerry_agenda (s : State) (n : Nat) (x : Ferry) : (setFerry s n x).agenda = s.agenda := rfl
@[simp] theorem setFerry_focus (s : State) (n : Nat) (x : Ferry) : (setFerry s n x).focus = s.focus := rfl
@[simp] theorem setFerry_cur (s : State) (n : Nat) (x : Ferry) : (setFerry s n x).cur = s.cur := rfl
@[simp] theorem setFerry_stepNo (s : State) (n : Nat) (x : Ferry) : (setFerry s n x).stepNo = s.stepNo := rfl
@[simp] theorem setFerry_cycle (s : State) (n : Nat) (x : Ferry) : (setFerry s n x).cycle = s.cycle := rfl
@[simp] theorem setFerry_time (s : State) (n : Nat) (x : Ferry) : (setFerry s n x).time = s.time := rfl
@[simp] theorem setFerry_devid (s : State) (n : Nat) (x : Ferry) : (setFerry s n x).devid = s.devid := rfl
@[simp] theorem setFerry_cores (s : State) (n : Nat) (x : Ferry) : (setFerry s n x).cores = s.cores := rfl
@[simp] theorem setFerry_clusters (s : State) (n : Nat) (x : Ferry) : (setFerry s n x).clusters = s.clusters := rfl
@[simp] theorem setFerry_dies (s : State) (n : Nat) (x : Ferry) : (setFerry s n x).dies = s.dies := rfl
@[simp] theorem setFerry_parts (s : State) (n : Nat) (x : Ferry) : (setFerry s n x).parts = s.parts := rfl
@[simp] theorem setFerry_ports (s : State) (n : Nat) (x : Ferry) : (setFerry s n x).ports = s.ports := rfl
@[simp] theorem setFerry_windows (s : State) (n : Nat) (x : Ferry) : (setFerry s n x).windows = s.windows := rfl
@[simp] theorem setFerry_mem (s : State) (n : Nat) (x : Ferry) : (setFerry s n x).mem = s.mem := rfl
@[simp] theorem setFerry_memUE (s : State) (n : Nat) (x : Ferry) : (setFerry s n x).memUE = s.memUE := rfl
@[simp] theorem setFerry_memCE (s : State) (n : Nat) (x : Ferry) : (setFerry s n x).memCE = s.memCE := rfl
@[simp] theorem setFerry_net (s : State) (n : Nat) (x : Ferry) : (setFerry s n x).net = s.net := rfl
@[simp] theorem setFerry_links (s : State) (n : Nat) (x : Ferry) : (setFerry s n x).links = s.links := rfl
@[simp] theorem setFerry_failed (s : State) (n : Nat) (x : Ferry) : (setFerry s n x).failed = s.failed := rfl
@[simp] theorem setFerry_moved (s : State) (n : Nat) (x : Ferry) : (setFerry s n x).moved = s.moved := rfl
@[simp] theorem setFerry_bases (s : State) (n : Nat) (x : Ferry) : (setFerry s n x).bases = s.bases := rfl
@[simp] theorem setFerry_routers (s : State) (n : Nat) (x : Ferry) : (setFerry s n x).routers = s.routers := rfl
@[simp] theorem setFerry_invs (s : State) (n : Nat) (x : Ferry) : (setFerry s n x).invs = s.invs := rfl
@[simp] theorem setFerry_loads (s : State) (n : Nat) (x : Ferry) : (setFerry s n x).loads = s.loads := rfl
@[simp] theorem setFerry_nv (s : State) (n : Nat) (x : Ferry) : (setFerry s n x).nv = s.nv := rfl
@[simp] theorem setFerry_ticketLimit (s : State) (n : Nat) (x : Ferry) : (setFerry s n x).ticketLimit = s.ticketLimit := rfl
@[simp] theorem setFerry_linkLimit (s : State) (n : Nat) (x : Ferry) : (setFerry s n x).linkLimit = s.linkLimit := rfl
@[simp] theorem setFerry_priMax (s : State) (n : Nat) (x : Ferry) : (setFerry s n x).priMax = s.priMax := rfl
@[simp] theorem setFerry_hostUid (s : State) (n : Nat) (x : Ferry) : (setFerry s n x).hostUid = s.hostUid := rfl
@[simp] theorem setFerry_bar4 (s : State) (n : Nat) (x : Ferry) : (setFerry s n x).bar4 = s.bar4 := rfl
@[simp] theorem setFerry_bar4Base (s : State) (n : Nat) (x : Ferry) : (setFerry s n x).bar4Base = s.bar4Base := rfl
@[simp] theorem setFerry_peerLo (s : State) (n : Nat) (x : Ferry) : (setFerry s n x).peerLo = s.peerLo := rfl
@[simp] theorem setFerry_peerHi (s : State) (n : Nat) (x : Ferry) : (setFerry s n x).peerHi = s.peerHi := rfl
@[simp] theorem setFerry_clock (s : State) (n : Nat) (x : Ferry) : (setFerry s n x).clock = s.clock := rfl
@[simp] theorem setFerry_out (s : State) (n : Nat) (x : Ferry) : (setFerry s n x).out = s.out := rfl

-- setCluster
@[simp] theorem setCluster_agenda (s : State) (n : Nat) (x : Cluster) : (setCluster s n x).agenda = s.agenda := rfl
@[simp] theorem setCluster_focus (s : State) (n : Nat) (x : Cluster) : (setCluster s n x).focus = s.focus := rfl
@[simp] theorem setCluster_cur (s : State) (n : Nat) (x : Cluster) : (setCluster s n x).cur = s.cur := rfl
@[simp] theorem setCluster_stepNo (s : State) (n : Nat) (x : Cluster) : (setCluster s n x).stepNo = s.stepNo := rfl
@[simp] theorem setCluster_cycle (s : State) (n : Nat) (x : Cluster) : (setCluster s n x).cycle = s.cycle := rfl
@[simp] theorem setCluster_time (s : State) (n : Nat) (x : Cluster) : (setCluster s n x).time = s.time := rfl
@[simp] theorem setCluster_devid (s : State) (n : Nat) (x : Cluster) : (setCluster s n x).devid = s.devid := rfl
@[simp] theorem setCluster_cores (s : State) (n : Nat) (x : Cluster) : (setCluster s n x).cores = s.cores := rfl
@[simp] theorem setCluster_ferries (s : State) (n : Nat) (x : Cluster) : (setCluster s n x).ferries = s.ferries := rfl
@[simp] theorem setCluster_dies (s : State) (n : Nat) (x : Cluster) : (setCluster s n x).dies = s.dies := rfl
@[simp] theorem setCluster_parts (s : State) (n : Nat) (x : Cluster) : (setCluster s n x).parts = s.parts := rfl
@[simp] theorem setCluster_ports (s : State) (n : Nat) (x : Cluster) : (setCluster s n x).ports = s.ports := rfl
@[simp] theorem setCluster_windows (s : State) (n : Nat) (x : Cluster) : (setCluster s n x).windows = s.windows := rfl
@[simp] theorem setCluster_mem (s : State) (n : Nat) (x : Cluster) : (setCluster s n x).mem = s.mem := rfl
@[simp] theorem setCluster_memUE (s : State) (n : Nat) (x : Cluster) : (setCluster s n x).memUE = s.memUE := rfl
@[simp] theorem setCluster_memCE (s : State) (n : Nat) (x : Cluster) : (setCluster s n x).memCE = s.memCE := rfl
@[simp] theorem setCluster_net (s : State) (n : Nat) (x : Cluster) : (setCluster s n x).net = s.net := rfl
@[simp] theorem setCluster_links (s : State) (n : Nat) (x : Cluster) : (setCluster s n x).links = s.links := rfl
@[simp] theorem setCluster_failed (s : State) (n : Nat) (x : Cluster) : (setCluster s n x).failed = s.failed := rfl
@[simp] theorem setCluster_moved (s : State) (n : Nat) (x : Cluster) : (setCluster s n x).moved = s.moved := rfl
@[simp] theorem setCluster_bases (s : State) (n : Nat) (x : Cluster) : (setCluster s n x).bases = s.bases := rfl
@[simp] theorem setCluster_routers (s : State) (n : Nat) (x : Cluster) : (setCluster s n x).routers = s.routers := rfl
@[simp] theorem setCluster_invs (s : State) (n : Nat) (x : Cluster) : (setCluster s n x).invs = s.invs := rfl
@[simp] theorem setCluster_loads (s : State) (n : Nat) (x : Cluster) : (setCluster s n x).loads = s.loads := rfl
@[simp] theorem setCluster_nv (s : State) (n : Nat) (x : Cluster) : (setCluster s n x).nv = s.nv := rfl
@[simp] theorem setCluster_ticketLimit (s : State) (n : Nat) (x : Cluster) : (setCluster s n x).ticketLimit = s.ticketLimit := rfl
@[simp] theorem setCluster_linkLimit (s : State) (n : Nat) (x : Cluster) : (setCluster s n x).linkLimit = s.linkLimit := rfl
@[simp] theorem setCluster_priMax (s : State) (n : Nat) (x : Cluster) : (setCluster s n x).priMax = s.priMax := rfl
@[simp] theorem setCluster_hostUid (s : State) (n : Nat) (x : Cluster) : (setCluster s n x).hostUid = s.hostUid := rfl
@[simp] theorem setCluster_bar4 (s : State) (n : Nat) (x : Cluster) : (setCluster s n x).bar4 = s.bar4 := rfl
@[simp] theorem setCluster_bar4Base (s : State) (n : Nat) (x : Cluster) : (setCluster s n x).bar4Base = s.bar4Base := rfl
@[simp] theorem setCluster_peerLo (s : State) (n : Nat) (x : Cluster) : (setCluster s n x).peerLo = s.peerLo := rfl
@[simp] theorem setCluster_peerHi (s : State) (n : Nat) (x : Cluster) : (setCluster s n x).peerHi = s.peerHi := rfl
@[simp] theorem setCluster_clock (s : State) (n : Nat) (x : Cluster) : (setCluster s n x).clock = s.clock := rfl
@[simp] theorem setCluster_out (s : State) (n : Nat) (x : Cluster) : (setCluster s n x).out = s.out := rfl

-- setPart
@[simp] theorem setPart_agenda (s : State) (n : Nat) (x : Part) : (setPart s n x).agenda = s.agenda := rfl
@[simp] theorem setPart_focus (s : State) (n : Nat) (x : Part) : (setPart s n x).focus = s.focus := rfl
@[simp] theorem setPart_cur (s : State) (n : Nat) (x : Part) : (setPart s n x).cur = s.cur := rfl
@[simp] theorem setPart_stepNo (s : State) (n : Nat) (x : Part) : (setPart s n x).stepNo = s.stepNo := rfl
@[simp] theorem setPart_cycle (s : State) (n : Nat) (x : Part) : (setPart s n x).cycle = s.cycle := rfl
@[simp] theorem setPart_time (s : State) (n : Nat) (x : Part) : (setPart s n x).time = s.time := rfl
@[simp] theorem setPart_devid (s : State) (n : Nat) (x : Part) : (setPart s n x).devid = s.devid := rfl
@[simp] theorem setPart_cores (s : State) (n : Nat) (x : Part) : (setPart s n x).cores = s.cores := rfl
@[simp] theorem setPart_clusters (s : State) (n : Nat) (x : Part) : (setPart s n x).clusters = s.clusters := rfl
@[simp] theorem setPart_ferries (s : State) (n : Nat) (x : Part) : (setPart s n x).ferries = s.ferries := rfl
@[simp] theorem setPart_dies (s : State) (n : Nat) (x : Part) : (setPart s n x).dies = s.dies := rfl
@[simp] theorem setPart_ports (s : State) (n : Nat) (x : Part) : (setPart s n x).ports = s.ports := rfl
@[simp] theorem setPart_windows (s : State) (n : Nat) (x : Part) : (setPart s n x).windows = s.windows := rfl
@[simp] theorem setPart_mem (s : State) (n : Nat) (x : Part) : (setPart s n x).mem = s.mem := rfl
@[simp] theorem setPart_memUE (s : State) (n : Nat) (x : Part) : (setPart s n x).memUE = s.memUE := rfl
@[simp] theorem setPart_memCE (s : State) (n : Nat) (x : Part) : (setPart s n x).memCE = s.memCE := rfl
@[simp] theorem setPart_net (s : State) (n : Nat) (x : Part) : (setPart s n x).net = s.net := rfl
@[simp] theorem setPart_links (s : State) (n : Nat) (x : Part) : (setPart s n x).links = s.links := rfl
@[simp] theorem setPart_failed (s : State) (n : Nat) (x : Part) : (setPart s n x).failed = s.failed := rfl
@[simp] theorem setPart_moved (s : State) (n : Nat) (x : Part) : (setPart s n x).moved = s.moved := rfl
@[simp] theorem setPart_bases (s : State) (n : Nat) (x : Part) : (setPart s n x).bases = s.bases := rfl
@[simp] theorem setPart_routers (s : State) (n : Nat) (x : Part) : (setPart s n x).routers = s.routers := rfl
@[simp] theorem setPart_invs (s : State) (n : Nat) (x : Part) : (setPart s n x).invs = s.invs := rfl
@[simp] theorem setPart_loads (s : State) (n : Nat) (x : Part) : (setPart s n x).loads = s.loads := rfl
@[simp] theorem setPart_nv (s : State) (n : Nat) (x : Part) : (setPart s n x).nv = s.nv := rfl
@[simp] theorem setPart_ticketLimit (s : State) (n : Nat) (x : Part) : (setPart s n x).ticketLimit = s.ticketLimit := rfl
@[simp] theorem setPart_linkLimit (s : State) (n : Nat) (x : Part) : (setPart s n x).linkLimit = s.linkLimit := rfl
@[simp] theorem setPart_priMax (s : State) (n : Nat) (x : Part) : (setPart s n x).priMax = s.priMax := rfl
@[simp] theorem setPart_hostUid (s : State) (n : Nat) (x : Part) : (setPart s n x).hostUid = s.hostUid := rfl
@[simp] theorem setPart_bar4 (s : State) (n : Nat) (x : Part) : (setPart s n x).bar4 = s.bar4 := rfl
@[simp] theorem setPart_bar4Base (s : State) (n : Nat) (x : Part) : (setPart s n x).bar4Base = s.bar4Base := rfl
@[simp] theorem setPart_peerLo (s : State) (n : Nat) (x : Part) : (setPart s n x).peerLo = s.peerLo := rfl
@[simp] theorem setPart_peerHi (s : State) (n : Nat) (x : Part) : (setPart s n x).peerHi = s.peerHi := rfl
@[simp] theorem setPart_clock (s : State) (n : Nat) (x : Part) : (setPart s n x).clock = s.clock := rfl
@[simp] theorem setPart_out (s : State) (n : Nat) (x : Part) : (setPart s n x).out = s.out := rfl

-- updPart
@[simp] theorem updPart_agenda (s : State) (n : Nat) (f : Part → Part) : (updPart s n f).agenda = s.agenda := rfl
@[simp] theorem updPart_focus (s : State) (n : Nat) (f : Part → Part) : (updPart s n f).focus = s.focus := rfl
@[simp] theorem updPart_cur (s : State) (n : Nat) (f : Part → Part) : (updPart s n f).cur = s.cur := rfl
@[simp] theorem updPart_stepNo (s : State) (n : Nat) (f : Part → Part) : (updPart s n f).stepNo = s.stepNo := rfl
@[simp] theorem updPart_cycle (s : State) (n : Nat) (f : Part → Part) : (updPart s n f).cycle = s.cycle := rfl
@[simp] theorem updPart_time (s : State) (n : Nat) (f : Part → Part) : (updPart s n f).time = s.time := rfl
@[simp] theorem updPart_devid (s : State) (n : Nat) (f : Part → Part) : (updPart s n f).devid = s.devid := rfl
@[simp] theorem updPart_cores (s : State) (n : Nat) (f : Part → Part) : (updPart s n f).cores = s.cores := rfl
@[simp] theorem updPart_clusters (s : State) (n : Nat) (f : Part → Part) : (updPart s n f).clusters = s.clusters := rfl
@[simp] theorem updPart_ferries (s : State) (n : Nat) (f : Part → Part) : (updPart s n f).ferries = s.ferries := rfl
@[simp] theorem updPart_dies (s : State) (n : Nat) (f : Part → Part) : (updPart s n f).dies = s.dies := rfl
@[simp] theorem updPart_ports (s : State) (n : Nat) (f : Part → Part) : (updPart s n f).ports = s.ports := rfl
@[simp] theorem updPart_windows (s : State) (n : Nat) (f : Part → Part) : (updPart s n f).windows = s.windows := rfl
@[simp] theorem updPart_mem (s : State) (n : Nat) (f : Part → Part) : (updPart s n f).mem = s.mem := rfl
@[simp] theorem updPart_memUE (s : State) (n : Nat) (f : Part → Part) : (updPart s n f).memUE = s.memUE := rfl
@[simp] theorem updPart_memCE (s : State) (n : Nat) (f : Part → Part) : (updPart s n f).memCE = s.memCE := rfl
@[simp] theorem updPart_net (s : State) (n : Nat) (f : Part → Part) : (updPart s n f).net = s.net := rfl
@[simp] theorem updPart_links (s : State) (n : Nat) (f : Part → Part) : (updPart s n f).links = s.links := rfl
@[simp] theorem updPart_failed (s : State) (n : Nat) (f : Part → Part) : (updPart s n f).failed = s.failed := rfl
@[simp] theorem updPart_moved (s : State) (n : Nat) (f : Part → Part) : (updPart s n f).moved = s.moved := rfl
@[simp] theorem updPart_bases (s : State) (n : Nat) (f : Part → Part) : (updPart s n f).bases = s.bases := rfl
@[simp] theorem updPart_routers (s : State) (n : Nat) (f : Part → Part) : (updPart s n f).routers = s.routers := rfl
@[simp] theorem updPart_invs (s : State) (n : Nat) (f : Part → Part) : (updPart s n f).invs = s.invs := rfl
@[simp] theorem updPart_loads (s : State) (n : Nat) (f : Part → Part) : (updPart s n f).loads = s.loads := rfl
@[simp] theorem updPart_nv (s : State) (n : Nat) (f : Part → Part) : (updPart s n f).nv = s.nv := rfl
@[simp] theorem updPart_ticketLimit (s : State) (n : Nat) (f : Part → Part) : (updPart s n f).ticketLimit = s.ticketLimit := rfl
@[simp] theorem updPart_linkLimit (s : State) (n : Nat) (f : Part → Part) : (updPart s n f).linkLimit = s.linkLimit := rfl
@[simp] theorem updPart_priMax (s : State) (n : Nat) (f : Part → Part) : (updPart s n f).priMax = s.priMax := rfl
@[simp] theorem updPart_hostUid (s : State) (n : Nat) (f : Part → Part) : (updPart s n f).hostUid = s.hostUid := rfl
@[simp] theorem updPart_bar4 (s : State) (n : Nat) (f : Part → Part) : (updPart s n f).bar4 = s.bar4 := rfl
@[simp] theorem updPart_bar4Base (s : State) (n : Nat) (f : Part → Part) : (updPart s n f).bar4Base = s.bar4Base := rfl
@[simp] theorem updPart_peerLo (s : State) (n : Nat) (f : Part → Part) : (updPart s n f).peerLo = s.peerLo := rfl
@[simp] theorem updPart_peerHi (s : State) (n : Nat) (f : Part → Part) : (updPart s n f).peerHi = s.peerHi := rfl
@[simp] theorem updPart_clock (s : State) (n : Nat) (f : Part → Part) : (updPart s n f).clock = s.clock := rfl
@[simp] theorem updPart_out (s : State) (n : Nat) (f : Part → Part) : (updPart s n f).out = s.out := rfl

-- setDie
@[simp] theorem setDie_agenda (s : State) (n : Nat) (x : Die) : (setDie s n x).agenda = s.agenda := rfl
@[simp] theorem setDie_focus (s : State) (n : Nat) (x : Die) : (setDie s n x).focus = s.focus := rfl
@[simp] theorem setDie_cur (s : State) (n : Nat) (x : Die) : (setDie s n x).cur = s.cur := rfl
@[simp] theorem setDie_stepNo (s : State) (n : Nat) (x : Die) : (setDie s n x).stepNo = s.stepNo := rfl
@[simp] theorem setDie_cycle (s : State) (n : Nat) (x : Die) : (setDie s n x).cycle = s.cycle := rfl
@[simp] theorem setDie_time (s : State) (n : Nat) (x : Die) : (setDie s n x).time = s.time := rfl
@[simp] theorem setDie_devid (s : State) (n : Nat) (x : Die) : (setDie s n x).devid = s.devid := rfl
@[simp] theorem setDie_cores (s : State) (n : Nat) (x : Die) : (setDie s n x).cores = s.cores := rfl
@[simp] theorem setDie_clusters (s : State) (n : Nat) (x : Die) : (setDie s n x).clusters = s.clusters := rfl
@[simp] theorem setDie_ferries (s : State) (n : Nat) (x : Die) : (setDie s n x).ferries = s.ferries := rfl
@[simp] theorem setDie_parts (s : State) (n : Nat) (x : Die) : (setDie s n x).parts = s.parts := rfl
@[simp] theorem setDie_ports (s : State) (n : Nat) (x : Die) : (setDie s n x).ports = s.ports := rfl
@[simp] theorem setDie_windows (s : State) (n : Nat) (x : Die) : (setDie s n x).windows = s.windows := rfl
@[simp] theorem setDie_mem (s : State) (n : Nat) (x : Die) : (setDie s n x).mem = s.mem := rfl
@[simp] theorem setDie_memUE (s : State) (n : Nat) (x : Die) : (setDie s n x).memUE = s.memUE := rfl
@[simp] theorem setDie_memCE (s : State) (n : Nat) (x : Die) : (setDie s n x).memCE = s.memCE := rfl
@[simp] theorem setDie_net (s : State) (n : Nat) (x : Die) : (setDie s n x).net = s.net := rfl
@[simp] theorem setDie_links (s : State) (n : Nat) (x : Die) : (setDie s n x).links = s.links := rfl
@[simp] theorem setDie_failed (s : State) (n : Nat) (x : Die) : (setDie s n x).failed = s.failed := rfl
@[simp] theorem setDie_moved (s : State) (n : Nat) (x : Die) : (setDie s n x).moved = s.moved := rfl
@[simp] theorem setDie_bases (s : State) (n : Nat) (x : Die) : (setDie s n x).bases = s.bases := rfl
@[simp] theorem setDie_routers (s : State) (n : Nat) (x : Die) : (setDie s n x).routers = s.routers := rfl
@[simp] theorem setDie_invs (s : State) (n : Nat) (x : Die) : (setDie s n x).invs = s.invs := rfl
@[simp] theorem setDie_loads (s : State) (n : Nat) (x : Die) : (setDie s n x).loads = s.loads := rfl
@[simp] theorem setDie_nv (s : State) (n : Nat) (x : Die) : (setDie s n x).nv = s.nv := rfl
@[simp] theorem setDie_ticketLimit (s : State) (n : Nat) (x : Die) : (setDie s n x).ticketLimit = s.ticketLimit := rfl
@[simp] theorem setDie_linkLimit (s : State) (n : Nat) (x : Die) : (setDie s n x).linkLimit = s.linkLimit := rfl
@[simp] theorem setDie_priMax (s : State) (n : Nat) (x : Die) : (setDie s n x).priMax = s.priMax := rfl
@[simp] theorem setDie_hostUid (s : State) (n : Nat) (x : Die) : (setDie s n x).hostUid = s.hostUid := rfl
@[simp] theorem setDie_bar4 (s : State) (n : Nat) (x : Die) : (setDie s n x).bar4 = s.bar4 := rfl
@[simp] theorem setDie_bar4Base (s : State) (n : Nat) (x : Die) : (setDie s n x).bar4Base = s.bar4Base := rfl
@[simp] theorem setDie_peerLo (s : State) (n : Nat) (x : Die) : (setDie s n x).peerLo = s.peerLo := rfl
@[simp] theorem setDie_peerHi (s : State) (n : Nat) (x : Die) : (setDie s n x).peerHi = s.peerHi := rfl
@[simp] theorem setDie_clock (s : State) (n : Nat) (x : Die) : (setDie s n x).clock = s.clock := rfl
@[simp] theorem setDie_out (s : State) (n : Nat) (x : Die) : (setDie s n x).out = s.out := rfl

-- setPort
@[simp] theorem setPort_agenda (s : State) (n : Nat) (x : Port) : (setPort s n x).agenda = s.agenda := rfl
@[simp] theorem setPort_focus (s : State) (n : Nat) (x : Port) : (setPort s n x).focus = s.focus := rfl
@[simp] theorem setPort_cur (s : State) (n : Nat) (x : Port) : (setPort s n x).cur = s.cur := rfl
@[simp] theorem setPort_stepNo (s : State) (n : Nat) (x : Port) : (setPort s n x).stepNo = s.stepNo := rfl
@[simp] theorem setPort_cycle (s : State) (n : Nat) (x : Port) : (setPort s n x).cycle = s.cycle := rfl
@[simp] theorem setPort_time (s : State) (n : Nat) (x : Port) : (setPort s n x).time = s.time := rfl
@[simp] theorem setPort_devid (s : State) (n : Nat) (x : Port) : (setPort s n x).devid = s.devid := rfl
@[simp] theorem setPort_cores (s : State) (n : Nat) (x : Port) : (setPort s n x).cores = s.cores := rfl
@[simp] theorem setPort_clusters (s : State) (n : Nat) (x : Port) : (setPort s n x).clusters = s.clusters := rfl
@[simp] theorem setPort_ferries (s : State) (n : Nat) (x : Port) : (setPort s n x).ferries = s.ferries := rfl
@[simp] theorem setPort_dies (s : State) (n : Nat) (x : Port) : (setPort s n x).dies = s.dies := rfl
@[simp] theorem setPort_parts (s : State) (n : Nat) (x : Port) : (setPort s n x).parts = s.parts := rfl
@[simp] theorem setPort_windows (s : State) (n : Nat) (x : Port) : (setPort s n x).windows = s.windows := rfl
@[simp] theorem setPort_mem (s : State) (n : Nat) (x : Port) : (setPort s n x).mem = s.mem := rfl
@[simp] theorem setPort_memUE (s : State) (n : Nat) (x : Port) : (setPort s n x).memUE = s.memUE := rfl
@[simp] theorem setPort_memCE (s : State) (n : Nat) (x : Port) : (setPort s n x).memCE = s.memCE := rfl
@[simp] theorem setPort_net (s : State) (n : Nat) (x : Port) : (setPort s n x).net = s.net := rfl
@[simp] theorem setPort_links (s : State) (n : Nat) (x : Port) : (setPort s n x).links = s.links := rfl
@[simp] theorem setPort_failed (s : State) (n : Nat) (x : Port) : (setPort s n x).failed = s.failed := rfl
@[simp] theorem setPort_moved (s : State) (n : Nat) (x : Port) : (setPort s n x).moved = s.moved := rfl
@[simp] theorem setPort_bases (s : State) (n : Nat) (x : Port) : (setPort s n x).bases = s.bases := rfl
@[simp] theorem setPort_routers (s : State) (n : Nat) (x : Port) : (setPort s n x).routers = s.routers := rfl
@[simp] theorem setPort_invs (s : State) (n : Nat) (x : Port) : (setPort s n x).invs = s.invs := rfl
@[simp] theorem setPort_loads (s : State) (n : Nat) (x : Port) : (setPort s n x).loads = s.loads := rfl
@[simp] theorem setPort_nv (s : State) (n : Nat) (x : Port) : (setPort s n x).nv = s.nv := rfl
@[simp] theorem setPort_ticketLimit (s : State) (n : Nat) (x : Port) : (setPort s n x).ticketLimit = s.ticketLimit := rfl
@[simp] theorem setPort_linkLimit (s : State) (n : Nat) (x : Port) : (setPort s n x).linkLimit = s.linkLimit := rfl
@[simp] theorem setPort_priMax (s : State) (n : Nat) (x : Port) : (setPort s n x).priMax = s.priMax := rfl
@[simp] theorem setPort_hostUid (s : State) (n : Nat) (x : Port) : (setPort s n x).hostUid = s.hostUid := rfl
@[simp] theorem setPort_bar4 (s : State) (n : Nat) (x : Port) : (setPort s n x).bar4 = s.bar4 := rfl
@[simp] theorem setPort_bar4Base (s : State) (n : Nat) (x : Port) : (setPort s n x).bar4Base = s.bar4Base := rfl
@[simp] theorem setPort_peerLo (s : State) (n : Nat) (x : Port) : (setPort s n x).peerLo = s.peerLo := rfl
@[simp] theorem setPort_peerHi (s : State) (n : Nat) (x : Port) : (setPort s n x).peerHi = s.peerHi := rfl
@[simp] theorem setPort_clock (s : State) (n : Nat) (x : Port) : (setPort s n x).clock = s.clock := rfl
@[simp] theorem setPort_out (s : State) (n : Nat) (x : Port) : (setPort s n x).out = s.out := rfl

-- sendPkt
@[simp] theorem sendPkt_agenda (s : State) (p : Packet) : (sendPkt s p).agenda = s.agenda := rfl
@[simp] theorem sendPkt_focus (s : State) (p : Packet) : (sendPkt s p).focus = s.focus := rfl
@[simp] theorem sendPkt_cur (s : State) (p : Packet) : (sendPkt s p).cur = s.cur := rfl
@[simp] theorem sendPkt_stepNo (s : State) (p : Packet) : (sendPkt s p).stepNo = s.stepNo := rfl
@[simp] theorem sendPkt_cycle (s : State) (p : Packet) : (sendPkt s p).cycle = s.cycle := rfl
@[simp] theorem sendPkt_time (s : State) (p : Packet) : (sendPkt s p).time = s.time := rfl
@[simp] theorem sendPkt_devid (s : State) (p : Packet) : (sendPkt s p).devid = s.devid := rfl
@[simp] theorem sendPkt_cores (s : State) (p : Packet) : (sendPkt s p).cores = s.cores := rfl
@[simp] theorem sendPkt_clusters (s : State) (p : Packet) : (sendPkt s p).clusters = s.clusters := rfl
@[simp] theorem sendPkt_ferries (s : State) (p : Packet) : (sendPkt s p).ferries = s.ferries := rfl
@[simp] theorem sendPkt_dies (s : State) (p : Packet) : (sendPkt s p).dies = s.dies := rfl
@[simp] theorem sendPkt_parts (s : State) (p : Packet) : (sendPkt s p).parts = s.parts := rfl
@[simp] theorem sendPkt_ports (s : State) (p : Packet) : (sendPkt s p).ports = s.ports := rfl
@[simp] theorem sendPkt_windows (s : State) (p : Packet) : (sendPkt s p).windows = s.windows := rfl
@[simp] theorem sendPkt_mem (s : State) (p : Packet) : (sendPkt s p).mem = s.mem := rfl
@[simp] theorem sendPkt_memUE (s : State) (p : Packet) : (sendPkt s p).memUE = s.memUE := rfl
@[simp] theorem sendPkt_memCE (s : State) (p : Packet) : (sendPkt s p).memCE = s.memCE := rfl
@[simp] theorem sendPkt_links (s : State) (p : Packet) : (sendPkt s p).links = s.links := rfl
@[simp] theorem sendPkt_failed (s : State) (p : Packet) : (sendPkt s p).failed = s.failed := rfl
@[simp] theorem sendPkt_moved (s : State) (p : Packet) : (sendPkt s p).moved = s.moved := rfl
@[simp] theorem sendPkt_bases (s : State) (p : Packet) : (sendPkt s p).bases = s.bases := rfl
@[simp] theorem sendPkt_routers (s : State) (p : Packet) : (sendPkt s p).routers = s.routers := rfl
@[simp] theorem sendPkt_invs (s : State) (p : Packet) : (sendPkt s p).invs = s.invs := rfl
@[simp] theorem sendPkt_loads (s : State) (p : Packet) : (sendPkt s p).loads = s.loads := rfl
@[simp] theorem sendPkt_nv (s : State) (p : Packet) : (sendPkt s p).nv = s.nv := rfl
@[simp] theorem sendPkt_ticketLimit (s : State) (p : Packet) : (sendPkt s p).ticketLimit = s.ticketLimit := rfl
@[simp] theorem sendPkt_linkLimit (s : State) (p : Packet) : (sendPkt s p).linkLimit = s.linkLimit := rfl
@[simp] theorem sendPkt_priMax (s : State) (p : Packet) : (sendPkt s p).priMax = s.priMax := rfl
@[simp] theorem sendPkt_hostUid (s : State) (p : Packet) : (sendPkt s p).hostUid = s.hostUid := rfl
@[simp] theorem sendPkt_bar4 (s : State) (p : Packet) : (sendPkt s p).bar4 = s.bar4 := rfl
@[simp] theorem sendPkt_bar4Base (s : State) (p : Packet) : (sendPkt s p).bar4Base = s.bar4Base := rfl
@[simp] theorem sendPkt_peerLo (s : State) (p : Packet) : (sendPkt s p).peerLo = s.peerLo := rfl
@[simp] theorem sendPkt_peerHi (s : State) (p : Packet) : (sendPkt s p).peerHi = s.peerHi := rfl
@[simp] theorem sendPkt_clock (s : State) (p : Packet) : (sendPkt s p).clock = s.clock := rfl
@[simp] theorem sendPkt_out (s : State) (p : Packet) : (sendPkt s p).out = s.out := rfl

-- setX
@[simp] theorem setX_mode (sl : Slot) (i : XReg) (v : Word) : (setX sl i v).mode = sl.mode := by unfold setX; split <;> rfl
@[simp] theorem setX_v (sl : Slot) (i : XReg) (v : Word) : (setX sl i v).v = sl.v := by unfold setX; split <;> rfl
@[simp] theorem setX_m (sl : Slot) (i : XReg) (v : Word) : (setX sl i v).m = sl.m := by unfold setX; split <;> rfl
@[simp] theorem setX_pc (sl : Slot) (i : XReg) (v : Word) : (setX sl i v).pc = sl.pc := by unfold setX; split <;> rfl
@[simp] theorem setX_fexc (sl : Slot) (i : XReg) (v : Word) : (setX sl i v).fexc = sl.fexc := by unfold setX; split <;> rfl
@[simp] theorem setX_cntL (sl : Slot) (i : XReg) (v : Word) : (setX sl i v).cntL = sl.cntL := by unfold setX; split <;> rfl
@[simp] theorem setX_cntS (sl : Slot) (i : XReg) (v : Word) : (setX sl i v).cntS = sl.cntS := by unfold setX; split <;> rfl
@[simp] theorem setX_cntE (sl : Slot) (i : XReg) (v : Word) : (setX sl i v).cntE = sl.cntE := by unfold setX; split <;> rfl
@[simp] theorem setX_cntM (sl : Slot) (i : XReg) (v : Word) : (setX sl i v).cntM = sl.cntM := by unfold setX; split <;> rfl
@[simp] theorem setX_pendX (sl : Slot) (i : XReg) (v : Word) : (setX sl i v).pendX = sl.pendX := by unfold setX; split <;> rfl
@[simp] theorem setX_pendV (sl : Slot) (i : XReg) (v : Word) : (setX sl i v).pendV = sl.pendV := by unfold setX; split <;> rfl
@[simp] theorem setX_streams (sl : Slot) (i : XReg) (v : Word) : (setX sl i v).streams = sl.streams := by unfold setX; split <;> rfl
@[simp] theorem setX_strict (sl : Slot) (i : XReg) (v : Word) : (setX sl i v).strict = sl.strict := by unfold setX; split <;> rfl
@[simp] theorem setX_winbase (sl : Slot) (i : XReg) (v : Word) : (setX sl i v).winbase = sl.winbase := by unfold setX; split <;> rfl
@[simp] theorem setX_cause (sl : Slot) (i : XReg) (v : Word) : (setX sl i v).cause = sl.cause := by unfold setX; split <;> rfl
@[simp] theorem setX_tval (sl : Slot) (i : XReg) (v : Word) : (setX sl i v).tval = sl.tval := by unfold setX; split <;> rfl
@[simp] theorem setX_epc (sl : Slot) (i : XReg) (v : Word) : (setX sl i v).epc = sl.epc := by unfold setX; split <;> rfl
@[simp] theorem setX_tseq (sl : Slot) (i : XReg) (v : Word) : (setX sl i v).tseq = sl.tseq := by unfold setX; split <;> rfl
@[simp] theorem setX_treq (sl : Slot) (i : XReg) (v : Word) : (setX sl i v).treq = sl.treq := by unfold setX; split <;> rfl
@[simp] theorem setX_exact (sl : Slot) (i : XReg) (v : Word) : (setX sl i v).exact = sl.exact := by unfold setX; split <;> rfl
@[simp] theorem setX_late (sl : Slot) (i : XReg) (v : Word) : (setX sl i v).late = sl.late := by unfold setX; split <;> rfl
@[simp] theorem setX_nest (sl : Slot) (i : XReg) (v : Word) : (setX sl i v).nest = sl.nest := by unfold setX; split <;> rfl
@[simp] theorem setX_pm (sl : Slot) (i : XReg) (v : Word) : (setX sl i v).pm = sl.pm := by unfold setX; split <;> rfl
@[simp] theorem setX_sup (sl : Slot) (i : XReg) (v : Word) : (setX sl i v).sup = sl.sup := by unfold setX; split <;> rfl
@[simp] theorem setX_lfsr (sl : Slot) (i : XReg) (v : Word) : (setX sl i v).lfsr = sl.lfsr := by unfold setX; split <;> rfl
@[simp] theorem setX_actId (sl : Slot) (i : XReg) (v : Word) : (setX sl i v).actId = sl.actId := by unfold setX; split <;> rfl
@[simp] theorem setX_serial (sl : Slot) (i : XReg) (v : Word) : (setX sl i v).serial = sl.serial := by unfold setX; split <;> rfl
@[simp] theorem setX_fired (sl : Slot) (i : XReg) (v : Word) : (setX sl i v).fired = sl.fired := by unfold setX; split <;> rfl
@[simp] theorem setX_replayable (sl : Slot) (i : XReg) (v : Word) : (setX sl i v).replayable = sl.replayable := by unfold setX; split <;> rfl
@[simp] theorem setX_outbox (sl : Slot) (i : XReg) (v : Word) : (setX sl i v).outbox = sl.outbox := by unfold setX; split <;> rfl
@[simp] theorem setX_twin (sl : Slot) (i : XReg) (v : Word) : (setX sl i v).twin = sl.twin := by unfold setX; split <;> rfl
@[simp] theorem setX_group (sl : Slot) (i : XReg) (v : Word) : (setX sl i v).group = sl.group := by unfold setX; split <;> rfl
@[simp] theorem setX_twinWait (sl : Slot) (i : XReg) (v : Word) : (setX sl i v).twinWait = sl.twinWait := by unfold setX; split <;> rfl
@[simp] theorem setX_fprint (sl : Slot) (i : XReg) (v : Word) : (setX sl i v).fprint = sl.fprint := by unfold setX; split <;> rfl
@[simp] theorem setX_folds (sl : Slot) (i : XReg) (v : Word) : (setX sl i v).folds = sl.folds := by unfold setX; split <;> rfl
@[simp] theorem setX_retired (sl : Slot) (i : XReg) (v : Word) : (setX sl i v).retired = sl.retired := by unfold setX; split <;> rfl
@[simp] theorem setX_exchanged (sl : Slot) (i : XReg) (v : Word) : (setX sl i v).exchanged = sl.exchanged := by unfold setX; split <;> rfl
@[simp] theorem setX_results (sl : Slot) (i : XReg) (v : Word) : (setX sl i v).results = sl.results := by unfold setX; split <;> rfl
@[simp] theorem setX_due (sl : Slot) (i : XReg) (v : Word) : (setX sl i v).due = sl.due := by unfold setX; split <;> rfl
@[simp] theorem setX_stepOwed (sl : Slot) (i : XReg) (v : Word) : (setX sl i v).stepOwed = sl.stepOwed := by unfold setX; split <;> rfl
@[simp] theorem setX_strictReq (sl : Slot) (i : XReg) (v : Word) : (setX sl i v).strictReq = sl.strictReq := by unfold setX; split <;> rfl
@[simp] theorem setX_strictNext (sl : Slot) (i : XReg) (v : Word) : (setX sl i v).strictNext = sl.strictNext := by unfold setX; split <;> rfl
@[simp] theorem setX_waits (sl : Slot) (i : XReg) (v : Word) : (setX sl i v).waits = sl.waits := by unfold setX; split <;> rfl
@[simp] theorem setX_stallAt (sl : Slot) (i : XReg) (v : Word) : (setX sl i v).stallAt = sl.stallAt := by unfold setX; split <;> rfl
@[simp] theorem setX_startNs (sl : Slot) (i : XReg) (v : Word) : (setX sl i v).startNs = sl.startNs := by unfold setX; split <;> rfl
@[simp] theorem setX_endReport (sl : Slot) (i : XReg) (v : Word) : (setX sl i v).endReport = sl.endReport := by unfold setX; split <;> rfl
@[simp] theorem setX_ilen (sl : Slot) (i : XReg) (v : Word) : (setX sl i v).ilen = sl.ilen := by unfold setX; split <;> rfl

-- setM
@[simp] theorem setM_mode (sl : Slot) (i : MReg) (v : Mask32) : (setM sl i v).mode = sl.mode := by unfold setM; split <;> rfl
@[simp] theorem setM_x (sl : Slot) (i : MReg) (v : Mask32) : (setM sl i v).x = sl.x := by unfold setM; split <;> rfl
@[simp] theorem setM_v (sl : Slot) (i : MReg) (v : Mask32) : (setM sl i v).v = sl.v := by unfold setM; split <;> rfl
@[simp] theorem setM_pc (sl : Slot) (i : MReg) (v : Mask32) : (setM sl i v).pc = sl.pc := by unfold setM; split <;> rfl
@[simp] theorem setM_fexc (sl : Slot) (i : MReg) (v : Mask32) : (setM sl i v).fexc = sl.fexc := by unfold setM; split <;> rfl
@[simp] theorem setM_cntL (sl : Slot) (i : MReg) (v : Mask32) : (setM sl i v).cntL = sl.cntL := by unfold setM; split <;> rfl
@[simp] theorem setM_cntS (sl : Slot) (i : MReg) (v : Mask32) : (setM sl i v).cntS = sl.cntS := by unfold setM; split <;> rfl
@[simp] theorem setM_cntE (sl : Slot) (i : MReg) (v : Mask32) : (setM sl i v).cntE = sl.cntE := by unfold setM; split <;> rfl
@[simp] theorem setM_cntM (sl : Slot) (i : MReg) (v : Mask32) : (setM sl i v).cntM = sl.cntM := by unfold setM; split <;> rfl
@[simp] theorem setM_pendX (sl : Slot) (i : MReg) (v : Mask32) : (setM sl i v).pendX = sl.pendX := by unfold setM; split <;> rfl
@[simp] theorem setM_pendV (sl : Slot) (i : MReg) (v : Mask32) : (setM sl i v).pendV = sl.pendV := by unfold setM; split <;> rfl
@[simp] theorem setM_streams (sl : Slot) (i : MReg) (v : Mask32) : (setM sl i v).streams = sl.streams := by unfold setM; split <;> rfl
@[simp] theorem setM_strict (sl : Slot) (i : MReg) (v : Mask32) : (setM sl i v).strict = sl.strict := by unfold setM; split <;> rfl
@[simp] theorem setM_winbase (sl : Slot) (i : MReg) (v : Mask32) : (setM sl i v).winbase = sl.winbase := by unfold setM; split <;> rfl
@[simp] theorem setM_cause (sl : Slot) (i : MReg) (v : Mask32) : (setM sl i v).cause = sl.cause := by unfold setM; split <;> rfl
@[simp] theorem setM_tval (sl : Slot) (i : MReg) (v : Mask32) : (setM sl i v).tval = sl.tval := by unfold setM; split <;> rfl
@[simp] theorem setM_epc (sl : Slot) (i : MReg) (v : Mask32) : (setM sl i v).epc = sl.epc := by unfold setM; split <;> rfl
@[simp] theorem setM_tseq (sl : Slot) (i : MReg) (v : Mask32) : (setM sl i v).tseq = sl.tseq := by unfold setM; split <;> rfl
@[simp] theorem setM_treq (sl : Slot) (i : MReg) (v : Mask32) : (setM sl i v).treq = sl.treq := by unfold setM; split <;> rfl
@[simp] theorem setM_exact (sl : Slot) (i : MReg) (v : Mask32) : (setM sl i v).exact = sl.exact := by unfold setM; split <;> rfl
@[simp] theorem setM_late (sl : Slot) (i : MReg) (v : Mask32) : (setM sl i v).late = sl.late := by unfold setM; split <;> rfl
@[simp] theorem setM_nest (sl : Slot) (i : MReg) (v : Mask32) : (setM sl i v).nest = sl.nest := by unfold setM; split <;> rfl
@[simp] theorem setM_pm (sl : Slot) (i : MReg) (v : Mask32) : (setM sl i v).pm = sl.pm := by unfold setM; split <;> rfl
@[simp] theorem setM_sup (sl : Slot) (i : MReg) (v : Mask32) : (setM sl i v).sup = sl.sup := by unfold setM; split <;> rfl
@[simp] theorem setM_lfsr (sl : Slot) (i : MReg) (v : Mask32) : (setM sl i v).lfsr = sl.lfsr := by unfold setM; split <;> rfl
@[simp] theorem setM_actId (sl : Slot) (i : MReg) (v : Mask32) : (setM sl i v).actId = sl.actId := by unfold setM; split <;> rfl
@[simp] theorem setM_serial (sl : Slot) (i : MReg) (v : Mask32) : (setM sl i v).serial = sl.serial := by unfold setM; split <;> rfl
@[simp] theorem setM_fired (sl : Slot) (i : MReg) (v : Mask32) : (setM sl i v).fired = sl.fired := by unfold setM; split <;> rfl
@[simp] theorem setM_replayable (sl : Slot) (i : MReg) (v : Mask32) : (setM sl i v).replayable = sl.replayable := by unfold setM; split <;> rfl
@[simp] theorem setM_outbox (sl : Slot) (i : MReg) (v : Mask32) : (setM sl i v).outbox = sl.outbox := by unfold setM; split <;> rfl
@[simp] theorem setM_twin (sl : Slot) (i : MReg) (v : Mask32) : (setM sl i v).twin = sl.twin := by unfold setM; split <;> rfl
@[simp] theorem setM_group (sl : Slot) (i : MReg) (v : Mask32) : (setM sl i v).group = sl.group := by unfold setM; split <;> rfl
@[simp] theorem setM_twinWait (sl : Slot) (i : MReg) (v : Mask32) : (setM sl i v).twinWait = sl.twinWait := by unfold setM; split <;> rfl
@[simp] theorem setM_fprint (sl : Slot) (i : MReg) (v : Mask32) : (setM sl i v).fprint = sl.fprint := by unfold setM; split <;> rfl
@[simp] theorem setM_folds (sl : Slot) (i : MReg) (v : Mask32) : (setM sl i v).folds = sl.folds := by unfold setM; split <;> rfl
@[simp] theorem setM_retired (sl : Slot) (i : MReg) (v : Mask32) : (setM sl i v).retired = sl.retired := by unfold setM; split <;> rfl
@[simp] theorem setM_exchanged (sl : Slot) (i : MReg) (v : Mask32) : (setM sl i v).exchanged = sl.exchanged := by unfold setM; split <;> rfl
@[simp] theorem setM_results (sl : Slot) (i : MReg) (v : Mask32) : (setM sl i v).results = sl.results := by unfold setM; split <;> rfl
@[simp] theorem setM_due (sl : Slot) (i : MReg) (v : Mask32) : (setM sl i v).due = sl.due := by unfold setM; split <;> rfl
@[simp] theorem setM_stepOwed (sl : Slot) (i : MReg) (v : Mask32) : (setM sl i v).stepOwed = sl.stepOwed := by unfold setM; split <;> rfl
@[simp] theorem setM_strictReq (sl : Slot) (i : MReg) (v : Mask32) : (setM sl i v).strictReq = sl.strictReq := by unfold setM; split <;> rfl
@[simp] theorem setM_strictNext (sl : Slot) (i : MReg) (v : Mask32) : (setM sl i v).strictNext = sl.strictNext := by unfold setM; split <;> rfl
@[simp] theorem setM_waits (sl : Slot) (i : MReg) (v : Mask32) : (setM sl i v).waits = sl.waits := by unfold setM; split <;> rfl
@[simp] theorem setM_stallAt (sl : Slot) (i : MReg) (v : Mask32) : (setM sl i v).stallAt = sl.stallAt := by unfold setM; split <;> rfl
@[simp] theorem setM_startNs (sl : Slot) (i : MReg) (v : Mask32) : (setM sl i v).startNs = sl.startNs := by unfold setM; split <;> rfl
@[simp] theorem setM_endReport (sl : Slot) (i : MReg) (v : Mask32) : (setM sl i v).endReport = sl.endReport := by unfold setM; split <;> rfl
@[simp] theorem setM_ilen (sl : Slot) (i : MReg) (v : Mask32) : (setM sl i v).ilen = sl.ilen := by unfold setM; split <;> rfl

-- setPendX
@[simp] theorem setPendX_mode (sl : Slot) (i : XReg) (b : Bool) : (setPendX sl i b).mode = sl.mode := by unfold setPendX; split <;> rfl
@[simp] theorem setPendX_x (sl : Slot) (i : XReg) (b : Bool) : (setPendX sl i b).x = sl.x := by unfold setPendX; split <;> rfl
@[simp] theorem setPendX_v (sl : Slot) (i : XReg) (b : Bool) : (setPendX sl i b).v = sl.v := by unfold setPendX; split <;> rfl
@[simp] theorem setPendX_m (sl : Slot) (i : XReg) (b : Bool) : (setPendX sl i b).m = sl.m := by unfold setPendX; split <;> rfl
@[simp] theorem setPendX_pc (sl : Slot) (i : XReg) (b : Bool) : (setPendX sl i b).pc = sl.pc := by unfold setPendX; split <;> rfl
@[simp] theorem setPendX_fexc (sl : Slot) (i : XReg) (b : Bool) : (setPendX sl i b).fexc = sl.fexc := by unfold setPendX; split <;> rfl
@[simp] theorem setPendX_cntL (sl : Slot) (i : XReg) (b : Bool) : (setPendX sl i b).cntL = sl.cntL := by unfold setPendX; split <;> rfl
@[simp] theorem setPendX_cntS (sl : Slot) (i : XReg) (b : Bool) : (setPendX sl i b).cntS = sl.cntS := by unfold setPendX; split <;> rfl
@[simp] theorem setPendX_cntE (sl : Slot) (i : XReg) (b : Bool) : (setPendX sl i b).cntE = sl.cntE := by unfold setPendX; split <;> rfl
@[simp] theorem setPendX_cntM (sl : Slot) (i : XReg) (b : Bool) : (setPendX sl i b).cntM = sl.cntM := by unfold setPendX; split <;> rfl
@[simp] theorem setPendX_pendV (sl : Slot) (i : XReg) (b : Bool) : (setPendX sl i b).pendV = sl.pendV := by unfold setPendX; split <;> rfl
@[simp] theorem setPendX_streams (sl : Slot) (i : XReg) (b : Bool) : (setPendX sl i b).streams = sl.streams := by unfold setPendX; split <;> rfl
@[simp] theorem setPendX_strict (sl : Slot) (i : XReg) (b : Bool) : (setPendX sl i b).strict = sl.strict := by unfold setPendX; split <;> rfl
@[simp] theorem setPendX_winbase (sl : Slot) (i : XReg) (b : Bool) : (setPendX sl i b).winbase = sl.winbase := by unfold setPendX; split <;> rfl
@[simp] theorem setPendX_cause (sl : Slot) (i : XReg) (b : Bool) : (setPendX sl i b).cause = sl.cause := by unfold setPendX; split <;> rfl
@[simp] theorem setPendX_tval (sl : Slot) (i : XReg) (b : Bool) : (setPendX sl i b).tval = sl.tval := by unfold setPendX; split <;> rfl
@[simp] theorem setPendX_epc (sl : Slot) (i : XReg) (b : Bool) : (setPendX sl i b).epc = sl.epc := by unfold setPendX; split <;> rfl
@[simp] theorem setPendX_tseq (sl : Slot) (i : XReg) (b : Bool) : (setPendX sl i b).tseq = sl.tseq := by unfold setPendX; split <;> rfl
@[simp] theorem setPendX_treq (sl : Slot) (i : XReg) (b : Bool) : (setPendX sl i b).treq = sl.treq := by unfold setPendX; split <;> rfl
@[simp] theorem setPendX_exact (sl : Slot) (i : XReg) (b : Bool) : (setPendX sl i b).exact = sl.exact := by unfold setPendX; split <;> rfl
@[simp] theorem setPendX_late (sl : Slot) (i : XReg) (b : Bool) : (setPendX sl i b).late = sl.late := by unfold setPendX; split <;> rfl
@[simp] theorem setPendX_nest (sl : Slot) (i : XReg) (b : Bool) : (setPendX sl i b).nest = sl.nest := by unfold setPendX; split <;> rfl
@[simp] theorem setPendX_pm (sl : Slot) (i : XReg) (b : Bool) : (setPendX sl i b).pm = sl.pm := by unfold setPendX; split <;> rfl
@[simp] theorem setPendX_sup (sl : Slot) (i : XReg) (b : Bool) : (setPendX sl i b).sup = sl.sup := by unfold setPendX; split <;> rfl
@[simp] theorem setPendX_lfsr (sl : Slot) (i : XReg) (b : Bool) : (setPendX sl i b).lfsr = sl.lfsr := by unfold setPendX; split <;> rfl
@[simp] theorem setPendX_actId (sl : Slot) (i : XReg) (b : Bool) : (setPendX sl i b).actId = sl.actId := by unfold setPendX; split <;> rfl
@[simp] theorem setPendX_serial (sl : Slot) (i : XReg) (b : Bool) : (setPendX sl i b).serial = sl.serial := by unfold setPendX; split <;> rfl
@[simp] theorem setPendX_fired (sl : Slot) (i : XReg) (b : Bool) : (setPendX sl i b).fired = sl.fired := by unfold setPendX; split <;> rfl
@[simp] theorem setPendX_replayable (sl : Slot) (i : XReg) (b : Bool) : (setPendX sl i b).replayable = sl.replayable := by unfold setPendX; split <;> rfl
@[simp] theorem setPendX_outbox (sl : Slot) (i : XReg) (b : Bool) : (setPendX sl i b).outbox = sl.outbox := by unfold setPendX; split <;> rfl
@[simp] theorem setPendX_twin (sl : Slot) (i : XReg) (b : Bool) : (setPendX sl i b).twin = sl.twin := by unfold setPendX; split <;> rfl
@[simp] theorem setPendX_group (sl : Slot) (i : XReg) (b : Bool) : (setPendX sl i b).group = sl.group := by unfold setPendX; split <;> rfl
@[simp] theorem setPendX_twinWait (sl : Slot) (i : XReg) (b : Bool) : (setPendX sl i b).twinWait = sl.twinWait := by unfold setPendX; split <;> rfl
@[simp] theorem setPendX_fprint (sl : Slot) (i : XReg) (b : Bool) : (setPendX sl i b).fprint = sl.fprint := by unfold setPendX; split <;> rfl
@[simp] theorem setPendX_folds (sl : Slot) (i : XReg) (b : Bool) : (setPendX sl i b).folds = sl.folds := by unfold setPendX; split <;> rfl
@[simp] theorem setPendX_retired (sl : Slot) (i : XReg) (b : Bool) : (setPendX sl i b).retired = sl.retired := by unfold setPendX; split <;> rfl
@[simp] theorem setPendX_exchanged (sl : Slot) (i : XReg) (b : Bool) : (setPendX sl i b).exchanged = sl.exchanged := by unfold setPendX; split <;> rfl
@[simp] theorem setPendX_results (sl : Slot) (i : XReg) (b : Bool) : (setPendX sl i b).results = sl.results := by unfold setPendX; split <;> rfl
@[simp] theorem setPendX_due (sl : Slot) (i : XReg) (b : Bool) : (setPendX sl i b).due = sl.due := by unfold setPendX; split <;> rfl
@[simp] theorem setPendX_stepOwed (sl : Slot) (i : XReg) (b : Bool) : (setPendX sl i b).stepOwed = sl.stepOwed := by unfold setPendX; split <;> rfl
@[simp] theorem setPendX_strictReq (sl : Slot) (i : XReg) (b : Bool) : (setPendX sl i b).strictReq = sl.strictReq := by unfold setPendX; split <;> rfl
@[simp] theorem setPendX_strictNext (sl : Slot) (i : XReg) (b : Bool) : (setPendX sl i b).strictNext = sl.strictNext := by unfold setPendX; split <;> rfl
@[simp] theorem setPendX_waits (sl : Slot) (i : XReg) (b : Bool) : (setPendX sl i b).waits = sl.waits := by unfold setPendX; split <;> rfl
@[simp] theorem setPendX_stallAt (sl : Slot) (i : XReg) (b : Bool) : (setPendX sl i b).stallAt = sl.stallAt := by unfold setPendX; split <;> rfl
@[simp] theorem setPendX_startNs (sl : Slot) (i : XReg) (b : Bool) : (setPendX sl i b).startNs = sl.startNs := by unfold setPendX; split <;> rfl
@[simp] theorem setPendX_endReport (sl : Slot) (i : XReg) (b : Bool) : (setPendX sl i b).endReport = sl.endReport := by unfold setPendX; split <;> rfl
@[simp] theorem setPendX_ilen (sl : Slot) (i : XReg) (b : Bool) : (setPendX sl i b).ilen = sl.ilen := by unfold setPendX; split <;> rfl

-- setV
@[simp] theorem setV_mode (sl : Slot) (i : VReg) (v : Lanes) : (setV sl i v).mode = sl.mode := rfl
@[simp] theorem setV_x (sl : Slot) (i : VReg) (v : Lanes) : (setV sl i v).x = sl.x := rfl
@[simp] theorem setV_m (sl : Slot) (i : VReg) (v : Lanes) : (setV sl i v).m = sl.m := rfl
@[simp] theorem setV_pc (sl : Slot) (i : VReg) (v : Lanes) : (setV sl i v).pc = sl.pc := rfl
@[simp] theorem setV_fexc (sl : Slot) (i : VReg) (v : Lanes) : (setV sl i v).fexc = sl.fexc := rfl
@[simp] theorem setV_cntL (sl : Slot) (i : VReg) (v : Lanes) : (setV sl i v).cntL = sl.cntL := rfl
@[simp] theorem setV_cntS (sl : Slot) (i : VReg) (v : Lanes) : (setV sl i v).cntS = sl.cntS := rfl
@[simp] theorem setV_cntE (sl : Slot) (i : VReg) (v : Lanes) : (setV sl i v).cntE = sl.cntE := rfl
@[simp] theorem setV_cntM (sl : Slot) (i : VReg) (v : Lanes) : (setV sl i v).cntM = sl.cntM := rfl
@[simp] theorem setV_pendX (sl : Slot) (i : VReg) (v : Lanes) : (setV sl i v).pendX = sl.pendX := rfl
@[simp] theorem setV_pendV (sl : Slot) (i : VReg) (v : Lanes) : (setV sl i v).pendV = sl.pendV := rfl
@[simp] theorem setV_streams (sl : Slot) (i : VReg) (v : Lanes) : (setV sl i v).streams = sl.streams := rfl
@[simp] theorem setV_strict (sl : Slot) (i : VReg) (v : Lanes) : (setV sl i v).strict = sl.strict := rfl
@[simp] theorem setV_winbase (sl : Slot) (i : VReg) (v : Lanes) : (setV sl i v).winbase = sl.winbase := rfl
@[simp] theorem setV_cause (sl : Slot) (i : VReg) (v : Lanes) : (setV sl i v).cause = sl.cause := rfl
@[simp] theorem setV_tval (sl : Slot) (i : VReg) (v : Lanes) : (setV sl i v).tval = sl.tval := rfl
@[simp] theorem setV_epc (sl : Slot) (i : VReg) (v : Lanes) : (setV sl i v).epc = sl.epc := rfl
@[simp] theorem setV_tseq (sl : Slot) (i : VReg) (v : Lanes) : (setV sl i v).tseq = sl.tseq := rfl
@[simp] theorem setV_treq (sl : Slot) (i : VReg) (v : Lanes) : (setV sl i v).treq = sl.treq := rfl
@[simp] theorem setV_exact (sl : Slot) (i : VReg) (v : Lanes) : (setV sl i v).exact = sl.exact := rfl
@[simp] theorem setV_late (sl : Slot) (i : VReg) (v : Lanes) : (setV sl i v).late = sl.late := rfl
@[simp] theorem setV_nest (sl : Slot) (i : VReg) (v : Lanes) : (setV sl i v).nest = sl.nest := rfl
@[simp] theorem setV_pm (sl : Slot) (i : VReg) (v : Lanes) : (setV sl i v).pm = sl.pm := rfl
@[simp] theorem setV_sup (sl : Slot) (i : VReg) (v : Lanes) : (setV sl i v).sup = sl.sup := rfl
@[simp] theorem setV_lfsr (sl : Slot) (i : VReg) (v : Lanes) : (setV sl i v).lfsr = sl.lfsr := rfl
@[simp] theorem setV_actId (sl : Slot) (i : VReg) (v : Lanes) : (setV sl i v).actId = sl.actId := rfl
@[simp] theorem setV_serial (sl : Slot) (i : VReg) (v : Lanes) : (setV sl i v).serial = sl.serial := rfl
@[simp] theorem setV_fired (sl : Slot) (i : VReg) (v : Lanes) : (setV sl i v).fired = sl.fired := rfl
@[simp] theorem setV_replayable (sl : Slot) (i : VReg) (v : Lanes) : (setV sl i v).replayable = sl.replayable := rfl
@[simp] theorem setV_outbox (sl : Slot) (i : VReg) (v : Lanes) : (setV sl i v).outbox = sl.outbox := rfl
@[simp] theorem setV_twin (sl : Slot) (i : VReg) (v : Lanes) : (setV sl i v).twin = sl.twin := rfl
@[simp] theorem setV_group (sl : Slot) (i : VReg) (v : Lanes) : (setV sl i v).group = sl.group := rfl
@[simp] theorem setV_twinWait (sl : Slot) (i : VReg) (v : Lanes) : (setV sl i v).twinWait = sl.twinWait := rfl
@[simp] theorem setV_fprint (sl : Slot) (i : VReg) (v : Lanes) : (setV sl i v).fprint = sl.fprint := rfl
@[simp] theorem setV_folds (sl : Slot) (i : VReg) (v : Lanes) : (setV sl i v).folds = sl.folds := rfl
@[simp] theorem setV_retired (sl : Slot) (i : VReg) (v : Lanes) : (setV sl i v).retired = sl.retired := rfl
@[simp] theorem setV_exchanged (sl : Slot) (i : VReg) (v : Lanes) : (setV sl i v).exchanged = sl.exchanged := rfl
@[simp] theorem setV_results (sl : Slot) (i : VReg) (v : Lanes) : (setV sl i v).results = sl.results := rfl
@[simp] theorem setV_due (sl : Slot) (i : VReg) (v : Lanes) : (setV sl i v).due = sl.due := rfl
@[simp] theorem setV_stepOwed (sl : Slot) (i : VReg) (v : Lanes) : (setV sl i v).stepOwed = sl.stepOwed := rfl
@[simp] theorem setV_strictReq (sl : Slot) (i : VReg) (v : Lanes) : (setV sl i v).strictReq = sl.strictReq := rfl
@[simp] theorem setV_strictNext (sl : Slot) (i : VReg) (v : Lanes) : (setV sl i v).strictNext = sl.strictNext := rfl
@[simp] theorem setV_waits (sl : Slot) (i : VReg) (v : Lanes) : (setV sl i v).waits = sl.waits := rfl
@[simp] theorem setV_stallAt (sl : Slot) (i : VReg) (v : Lanes) : (setV sl i v).stallAt = sl.stallAt := rfl
@[simp] theorem setV_startNs (sl : Slot) (i : VReg) (v : Lanes) : (setV sl i v).startNs = sl.startNs := rfl
@[simp] theorem setV_endReport (sl : Slot) (i : VReg) (v : Lanes) : (setV sl i v).endReport = sl.endReport := rfl
@[simp] theorem setV_ilen (sl : Slot) (i : VReg) (v : Lanes) : (setV sl i v).ilen = sl.ilen := rfl

-- setPendV
@[simp] theorem setPendV_mode (sl : Slot) (i : VReg) (b : Bool) : (setPendV sl i b).mode = sl.mode := rfl
@[simp] theorem setPendV_x (sl : Slot) (i : VReg) (b : Bool) : (setPendV sl i b).x = sl.x := rfl
@[simp] theorem setPendV_v (sl : Slot) (i : VReg) (b : Bool) : (setPendV sl i b).v = sl.v := rfl
@[simp] theorem setPendV_m (sl : Slot) (i : VReg) (b : Bool) : (setPendV sl i b).m = sl.m := rfl
@[simp] theorem setPendV_pc (sl : Slot) (i : VReg) (b : Bool) : (setPendV sl i b).pc = sl.pc := rfl
@[simp] theorem setPendV_fexc (sl : Slot) (i : VReg) (b : Bool) : (setPendV sl i b).fexc = sl.fexc := rfl
@[simp] theorem setPendV_cntL (sl : Slot) (i : VReg) (b : Bool) : (setPendV sl i b).cntL = sl.cntL := rfl
@[simp] theorem setPendV_cntS (sl : Slot) (i : VReg) (b : Bool) : (setPendV sl i b).cntS = sl.cntS := rfl
@[simp] theorem setPendV_cntE (sl : Slot) (i : VReg) (b : Bool) : (setPendV sl i b).cntE = sl.cntE := rfl
@[simp] theorem setPendV_cntM (sl : Slot) (i : VReg) (b : Bool) : (setPendV sl i b).cntM = sl.cntM := rfl
@[simp] theorem setPendV_pendX (sl : Slot) (i : VReg) (b : Bool) : (setPendV sl i b).pendX = sl.pendX := rfl
@[simp] theorem setPendV_streams (sl : Slot) (i : VReg) (b : Bool) : (setPendV sl i b).streams = sl.streams := rfl
@[simp] theorem setPendV_strict (sl : Slot) (i : VReg) (b : Bool) : (setPendV sl i b).strict = sl.strict := rfl
@[simp] theorem setPendV_winbase (sl : Slot) (i : VReg) (b : Bool) : (setPendV sl i b).winbase = sl.winbase := rfl
@[simp] theorem setPendV_cause (sl : Slot) (i : VReg) (b : Bool) : (setPendV sl i b).cause = sl.cause := rfl
@[simp] theorem setPendV_tval (sl : Slot) (i : VReg) (b : Bool) : (setPendV sl i b).tval = sl.tval := rfl
@[simp] theorem setPendV_epc (sl : Slot) (i : VReg) (b : Bool) : (setPendV sl i b).epc = sl.epc := rfl
@[simp] theorem setPendV_tseq (sl : Slot) (i : VReg) (b : Bool) : (setPendV sl i b).tseq = sl.tseq := rfl
@[simp] theorem setPendV_treq (sl : Slot) (i : VReg) (b : Bool) : (setPendV sl i b).treq = sl.treq := rfl
@[simp] theorem setPendV_exact (sl : Slot) (i : VReg) (b : Bool) : (setPendV sl i b).exact = sl.exact := rfl
@[simp] theorem setPendV_late (sl : Slot) (i : VReg) (b : Bool) : (setPendV sl i b).late = sl.late := rfl
@[simp] theorem setPendV_nest (sl : Slot) (i : VReg) (b : Bool) : (setPendV sl i b).nest = sl.nest := rfl
@[simp] theorem setPendV_pm (sl : Slot) (i : VReg) (b : Bool) : (setPendV sl i b).pm = sl.pm := rfl
@[simp] theorem setPendV_sup (sl : Slot) (i : VReg) (b : Bool) : (setPendV sl i b).sup = sl.sup := rfl
@[simp] theorem setPendV_lfsr (sl : Slot) (i : VReg) (b : Bool) : (setPendV sl i b).lfsr = sl.lfsr := rfl
@[simp] theorem setPendV_actId (sl : Slot) (i : VReg) (b : Bool) : (setPendV sl i b).actId = sl.actId := rfl
@[simp] theorem setPendV_serial (sl : Slot) (i : VReg) (b : Bool) : (setPendV sl i b).serial = sl.serial := rfl
@[simp] theorem setPendV_fired (sl : Slot) (i : VReg) (b : Bool) : (setPendV sl i b).fired = sl.fired := rfl
@[simp] theorem setPendV_replayable (sl : Slot) (i : VReg) (b : Bool) : (setPendV sl i b).replayable = sl.replayable := rfl
@[simp] theorem setPendV_outbox (sl : Slot) (i : VReg) (b : Bool) : (setPendV sl i b).outbox = sl.outbox := rfl
@[simp] theorem setPendV_twin (sl : Slot) (i : VReg) (b : Bool) : (setPendV sl i b).twin = sl.twin := rfl
@[simp] theorem setPendV_group (sl : Slot) (i : VReg) (b : Bool) : (setPendV sl i b).group = sl.group := rfl
@[simp] theorem setPendV_twinWait (sl : Slot) (i : VReg) (b : Bool) : (setPendV sl i b).twinWait = sl.twinWait := rfl
@[simp] theorem setPendV_fprint (sl : Slot) (i : VReg) (b : Bool) : (setPendV sl i b).fprint = sl.fprint := rfl
@[simp] theorem setPendV_folds (sl : Slot) (i : VReg) (b : Bool) : (setPendV sl i b).folds = sl.folds := rfl
@[simp] theorem setPendV_retired (sl : Slot) (i : VReg) (b : Bool) : (setPendV sl i b).retired = sl.retired := rfl
@[simp] theorem setPendV_exchanged (sl : Slot) (i : VReg) (b : Bool) : (setPendV sl i b).exchanged = sl.exchanged := rfl
@[simp] theorem setPendV_results (sl : Slot) (i : VReg) (b : Bool) : (setPendV sl i b).results = sl.results := rfl
@[simp] theorem setPendV_due (sl : Slot) (i : VReg) (b : Bool) : (setPendV sl i b).due = sl.due := rfl
@[simp] theorem setPendV_stepOwed (sl : Slot) (i : VReg) (b : Bool) : (setPendV sl i b).stepOwed = sl.stepOwed := rfl
@[simp] theorem setPendV_strictReq (sl : Slot) (i : VReg) (b : Bool) : (setPendV sl i b).strictReq = sl.strictReq := rfl
@[simp] theorem setPendV_strictNext (sl : Slot) (i : VReg) (b : Bool) : (setPendV sl i b).strictNext = sl.strictNext := rfl
@[simp] theorem setPendV_waits (sl : Slot) (i : VReg) (b : Bool) : (setPendV sl i b).waits = sl.waits := rfl
@[simp] theorem setPendV_stallAt (sl : Slot) (i : VReg) (b : Bool) : (setPendV sl i b).stallAt = sl.stallAt := rfl
@[simp] theorem setPendV_startNs (sl : Slot) (i : VReg) (b : Bool) : (setPendV sl i b).startNs = sl.startNs := rfl
@[simp] theorem setPendV_endReport (sl : Slot) (i : VReg) (b : Bool) : (setPendV sl i b).endReport = sl.endReport := rfl
@[simp] theorem setPendV_ilen (sl : Slot) (i : VReg) (b : Bool) : (setPendV sl i b).ilen = sl.ilen := rfl

-- Tables

@[simp] theorem tget_tset_self {α : Type} (t : Table α) (i : Nat) (v : α) : tget (tset t i v) i = some v := by
  induction t with
  | nil => simp [tset, tget]
  | cons e t ih =>
    obtain ⟨k, w⟩ := e
    unfold tset
    split
    · simp [tget]
    · split
      · simp [tget]
      · simp only [tget]
        rw [if_neg (by omega), ih]

theorem tget_tset_of_ne {α : Type} (t : Table α) {i j : Nat} (v : α) (h : j ≠ i) : tget (tset t i v) j = tget t j := by
  induction t with
  | nil => simp [tset, tget, Ne.symm h]
  | cons e t ih =>
    obtain ⟨k, w⟩ := e
    unfold tset
    split
    · simp [tget, Ne.symm h]
    · split
      · subst_vars; simp [tget, Ne.symm h]
      · simp only [tget, ih]

-- Reading back

@[simp] theorem ctrlSite_setCore (s : State) (x : Nat) (c : Core) (d : Nat) : ctrlSite (setCore s x c) d = ctrlSite s d := rfl
@[simp] theorem getCore_setCore_self (s : State) (x : Nat) (c : Core) : getCore (setCore s x c) x = c := by
  simp [getCore, setCore]
theorem getCore_setCore_of_ne (s : State) {x y : Nat} (c : Core) (h : y ≠ x) : getCore (setCore s x c) y = getCore s y := by
  simp only [getCore, setCore, tget_tset_of_ne _ _ h]; rfl
@[simp] theorem getCore_updCore_self (s : State) (x : Nat) (f : Core → Core) : getCore (updCore s x f) x = f (getCore s x) := by
  simp [updCore]
theorem getCore_updCore_of_ne (s : State) {x y : Nat} (f : Core → Core) (h : y ≠ x) : getCore (updCore s x f) y = getCore s y :=
  getCore_setCore_of_ne s _ h
@[simp] theorem getSlot_setSlot_self (s : State) (x : Nat) (k : Fin 4) (f : Slot → Slot) :
    getSlot (setSlot s x k f) x k = f (getSlot s x k) := by
  simp [getSlot, setSlot]
theorem getSlot_setSlot_of_ne (s : State) (x : Nat) {k j : Fin 4} (f : Slot → Slot) (h : j ≠ k) :
    getSlot (setSlot s x k f) x j = getSlot s x j := by
  simp only [getSlot, setSlot, getCore_updCore_self]
  exact Vector.getElem_set_ne _ _ (by intro e; exact h (Fin.ext e.symm))
theorem getCore_setSlot_of_ne (s : State) {x y : Nat} (k : Fin 4) (f : Slot → Slot) (h : y ≠ x) :
    getCore (setSlot s x k f) y = getCore s y := getCore_updCore_of_ne s _ h
@[simp] theorem curSlot_updCur (s : State) (f : Slot → Slot) : curSlot (updCur s f) = f (curSlot s) :=
  getSlot_setSlot_self s s.cur.1 s.cur.2 f
@[simp] theorem curCore_updCurCore (s : State) (f : Core → Core) : curCore (updCurCore s f) = f (curCore s) :=
  getCore_updCore_self s s.cur.1 f
@[simp] theorem curCore_updCur (s : State) (f : Slot → Slot) :
    curCore (updCur s f) = { curCore s with slots := (curCore s).slots.set s.cur.2 (f (curSlot s)) } :=
  getCore_updCore_self s s.cur.1 _
@[simp] theorem getFerry_setFerry_self (s : State) (n : Nat) (x : Ferry) : getFerry (setFerry s n x) n = x := by
  simp [getFerry, setFerry]
@[simp] theorem getCluster_setCluster_self (s : State) (n : Nat) (x : Cluster) : getCluster (setCluster s n x) n = x := by
  simp [getCluster, setCluster]
@[simp] theorem getPart_setPart_self (s : State) (n : Nat) (x : Part) : getPart (setPart s n x) n = x := by
  simp [getPart, setPart]
@[simp] theorem getPart_updPart_self (s : State) (n : Nat) (f : Part → Part) : getPart (updPart s n f) n = f (getPart s n) := by
  simp [updPart]
@[simp] theorem getDie_setDie_self (s : State) (n : Nat) (x : Die) : getDie (setDie s n x) n = x := by
  simp [getDie, setDie]
@[simp] theorem getPort_setPort_self (s : State) (n : Nat) (x : Port) : getPort (setPort s n x) n = x := by
  simp [getPort, setPort]

-- Registers

@[simp] theorem getX_zero (sl : Slot) : getX sl 0 = 0 := rfl
@[simp] theorem setX_zero (sl : Slot) (v : Word) : setX sl 0 v = sl := rfl
theorem getX_setX_self (sl : Slot) {i : XReg} (v : Word) (h : i ≠ 0) : getX (setX sl i v) i = v := by
  simp [getX, setX, h]
theorem getX_setX_of_ne (sl : Slot) {i j : XReg} (v : Word) (h : j ≠ i) : getX (setX sl i v) j = getX sl j := by
  unfold getX setX
  split
  · rfl
  · split
    · rfl
    · exact Vector.getElem_set_ne i.isLt j.isLt (by intro e; exact h (Fin.ext e.symm))
@[simp] theorem getM_zero (sl : Slot) : getM sl 0 = BitVec.allOnes 32 := rfl
@[simp] theorem setM_zero (sl : Slot) (v : Mask32) : setM sl 0 v = sl := rfl
theorem getM_setM_self (sl : Slot) {i : MReg} (v : Mask32) (h : i ≠ 0) : getM (setM sl i v) i = v := by
  simp [getM, setM, h]
@[simp] theorem getV_setV_self (sl : Slot) (i : VReg) (v : Lanes) : getV (setV sl i v) i = v := by
  simp [getV, setV]

end Sys2Proof.Machine
end

