-- ==== Sys2Proof/Laws/Fetch.lean ====
section
/-! SUPPORT. Laws/Fetch.lean: the adapter cache stays within its 512 KiB (spec/00 R2). -/

namespace Sys2Proof.Machine

theorem cacheSize_concat (ls : List ALine) (l : ALine) : cacheSize (ls ++ [l]) = cacheSize ls + l.bytes.length := by
  simp [cacheSize, List.foldl_append]

/-- A line that has come never makes the cache larger than it is (R2). -/
theorem installFetch_cacheSize (s : State) (cl : Nat) (f : AFetch) (h : cacheSize (getCluster s cl).cache ≤ Config.adpCache) :
    cacheSize (getCluster (installFetch s cl f) cl).cache ≤ Config.adpCache := by
  unfold installFetch
  dsimp only
  split
  · simpa using h
  · split
    · next hr => simpa [cacheSize_concat] using hr
    · exact h

/-- Nor do several that have come together. -/
theorem installFetches_cacheSize (s : State) (cl : Nat) (h : cacheSize (getCluster s cl).cache ≤ Config.adpCache) :
    cacheSize (getCluster (installFetches s cl) cl).cache ≤ Config.adpCache := by
  unfold installFetches
  generalize (getCluster s cl).fetches.filter fetchWhole = fs
  induction fs generalizing s with
  | nil => exact h
  | cons f fs ih => exact ih _ (installFetch_cacheSize s cl f h)

end Sys2Proof.Machine
end

