-- ==== Sys2Proof/Laws/Mem.lean ====
section
/-! SUPPORT. Laws/Mem.lean: byte memory: writes keep the canonical form, a read after a write gives what was written, and other bytes
stay. -/

namespace Sys2Proof.Machine

theorem wfFrom_mono {lo lo' : Nat} {m : Mem} (h : Mem.wfFrom lo m = true) (hl : lo' ≤ lo) : Mem.wfFrom lo' m = true := by
  cases m with
  | nil => rfl
  | cons e m =>
    simp only [Mem.wfFrom, Bool.and_eq_true, decide_eq_true_eq] at h ⊢
    exact ⟨⟨by omega, h.1.2⟩, h.2⟩

theorem wfFrom_writeByte {m : Mem} {lo a : Nat} (h : Mem.wfFrom lo m = true) (ha : lo ≤ a) (v : Byte) :
    Mem.wfFrom lo (writeByte m a v) = true := by
  induction m generalizing lo with
  | nil => by_cases hv : v = unlisted <;> simp [writeByte, Mem.wfFrom, hv, ha]
  | cons e m ih =>
    obtain ⟨b, w⟩ := e
    simp only [Mem.wfFrom, Bool.and_eq_true, decide_eq_true_eq, bne_iff_ne] at h
    unfold writeByte
    split
    · split
      · simp [Mem.wfFrom, h.1.1, h.1.2, h.2]
      · rename_i hb hv
        simp only [Mem.wfFrom, Bool.and_eq_true, decide_eq_true_eq, bne_iff_ne]
        exact ⟨⟨ha, hv⟩, ⟨by omega, h.1.2⟩, h.2⟩
    · split
      · subst_vars
        split
        · exact wfFrom_mono h.2 (by omega)
        · rename_i hv
          simp only [Mem.wfFrom, Bool.and_eq_true, decide_eq_true_eq, bne_iff_ne]
          exact ⟨⟨ha, hv⟩, h.2⟩
      · simp only [Mem.wfFrom, Bool.and_eq_true, decide_eq_true_eq, bne_iff_ne]
        exact ⟨h.1, ih h.2 (by omega)⟩

/-- A write keeps the canonical form. -/
theorem wf_writeByte {m : Mem} (h : Mem.wf m = true) (a : Nat) (v : Byte) : Mem.wf (writeByte m a v) = true :=
  wfFrom_writeByte h (Nat.zero_le a) v

theorem wf_writeBytes {m : Mem} (h : Mem.wf m = true) (a : Nat) (bs : List Byte) : Mem.wf (writeBytes m a bs) = true := by
  induction bs generalizing m a with
  | nil => exact h
  | cons b bs ih => exact ih (wf_writeByte h a b) (a + 1)

theorem wf_writeLE {m : Mem} (h : Mem.wf m = true) (a n v : Nat) : Mem.wf (writeLE m a n v) = true := wf_writeBytes h a _

theorem readByte_below {m : Mem} {lo a : Nat} (h : Mem.wfFrom lo m = true) (ha : a < lo) : readByte m a = unlisted := by
  induction m generalizing lo with
  | nil => rfl
  | cons e m ih =>
    obtain ⟨b, w⟩ := e
    simp only [Mem.wfFrom, Bool.and_eq_true, decide_eq_true_eq] at h
    unfold readByte
    rw [if_neg (by omega)]
    exact ih h.2 (by omega)

/-- Other bytes stay. -/
theorem readByte_writeByte_of_ne (m : Mem) {a c : Nat} (v : Byte) (hne : c ≠ a) : readByte (writeByte m a v) c = readByte m c := by
  induction m with
  | nil => by_cases hv : v = unlisted <;> simp [writeByte, readByte, hv, Ne.symm hne]
  | cons e m ih =>
    obtain ⟨b, w⟩ := e
    unfold writeByte
    split
    · split
      · rfl
      · simp [readByte, Ne.symm hne]
    · split
      · subst_vars
        split <;> simp [readByte, Ne.symm hne]
      · simp only [readByte, ih]

theorem readByte_writeByte_from {m : Mem} {lo a : Nat} (h : Mem.wfFrom lo m = true) (v : Byte) : readByte (writeByte m a v) a = v := by
  induction m generalizing lo with
  | nil => by_cases hv : v = unlisted <;> simp [writeByte, readByte, hv]
  | cons e m ih =>
    obtain ⟨b, w⟩ := e
    simp only [Mem.wfFrom, Bool.and_eq_true, decide_eq_true_eq] at h
    unfold writeByte
    split
    · split
      · subst_vars
        have := readByte_below h.2 (show a < b + 1 by omega)
        simp [readByte, this, show ¬b = a by omega]
      · simp [readByte]
    · split
      · subst_vars
        split
        · subst_vars; exact readByte_below h.2 (by omega)
        · simp [readByte]
      · simp only [readByte]
        rw [if_neg (by omega)]
        exact ih h.2

/-- A read after a write to the same byte gives the value written. -/
theorem readByte_writeByte_self {m : Mem} (h : Mem.wf m = true) (a : Nat) (v : Byte) : readByte (writeByte m a v) a = v :=
  readByte_writeByte_from h v

theorem readByte_writeBytes_outside (m : Mem) (a c : Nat) (bs : List Byte) (h : c < a ∨ a + bs.length ≤ c) :
    readByte (writeBytes m a bs) c = readByte m c := by
  induction bs generalizing m a with
  | nil => rfl
  | cons b bs ih =>
    simp only [List.length_cons] at h
    rw [writeBytes, ih _ _ (by omega), readByte_writeByte_of_ne _ _ (by omega)]

theorem readBytes_writeBytes_self {m : Mem} (h : Mem.wf m = true) (a : Nat) (bs : List Byte) :
    readBytes (writeBytes m a bs) a bs.length = bs := by
  induction bs generalizing m a with
  | nil => rfl
  | cons b bs ih =>
    simp only [List.length_cons, readBytes, writeBytes]
    rw [readByte_writeBytes_outside _ _ _ _ (by omega), readByte_writeByte_self h, ih (wf_writeByte h a b)]

@[simp] theorem length_leBytes (n v : Nat) : (leBytes n v).length = n := by
  induction n generalizing v with
  | zero => rfl
  | succ n ih => simp [leBytes, ih]

theorem leNat_leBytes (n v : Nat) : leNat (leBytes n v) = v % 256 ^ n := by
  induction n generalizing v with
  | zero => simp [leBytes, leNat, Nat.mod_one]
  | succ n ih =>
    simp only [leBytes, leNat, BitVec.toNat_ofNat, ih]
    rw [show (256 : Nat) ^ (n + 1) = 256 * 256 ^ n by rw [Nat.pow_succ, Nat.mul_comm], Nat.mod_mul]

/-- A little-endian read after a little-endian write of the same place. -/
theorem readLE_writeLE_self {m : Mem} (h : Mem.wf m = true) (a n v : Nat) : readLE (writeLE m a n v) a n = v % 256 ^ n := by
  have := readBytes_writeBytes_self h a (leBytes n v)
  rw [length_leBytes] at this
  rw [readLE, writeLE, this, leNat_leBytes]

theorem readByte_writeLE_outside (m : Mem) (a n v c : Nat) (h : c < a ∨ a + n ≤ c) : readByte (writeLE m a n v) c = readByte m c :=
  readByte_writeBytes_outside m a c _ (by simpa using h)

end Sys2Proof.Machine
end

