-- ==== Sys2Proof/Laws/Hash.lean ====
section
/-! SUPPORT. Laws/Hash.lean: the sizes of what SHAKE256 and SLH-DSA-SHAKE-256s give, up to the 30,096 bytes of an attestation report (R370). -/

namespace Sys2Proof.Machine

/-- A list of n pieces of k bytes each has n × k bytes. -/
theorem length_flatMap_const {α : Type} (l : List α) (f : α → List Byte) (k : Nat) (h : ∀ a ∈ l, (f a).length = k) :
    (l.flatMap f).length = l.length * k := by
  induction l with
  | nil => simp
  | cons a l ih =>
    simp only [List.flatMap_cons, List.length_append, List.length_cons, Nat.succ_mul]
    rw [h a (by simp), ih fun b hb => h b (by simp [hb])]
    omega

theorem giveOut_length (n : Nat) (w : Sponge) : (giveOut n w).length = n * 136 := by
  induction n generalizing w with
  | zero => rfl
  | succ n ih =>
    simp only [giveOut, List.length_append, ih]
    rw [length_flatMap_const _ _ 8 fun _ _ => length_leBytes 8 _]
    simp
    omega

@[simp] theorem shakeN_length (n : Nat) (m : List Byte) : (shakeN n m).length = n := by
  simp only [shakeN, List.length_take, giveOut_length]
  omega

@[simp] theorem slhHash_length (seed adrs m : List Byte) : (slhHash seed adrs m).length = 32 := shakeN_length 32 _
@[simp] theorem slhSecret_length (seed secret adrs : List Byte) : (slhSecret seed secret adrs).length = 32 := shakeN_length 32 _

@[simp] theorem slhDigits_length (x : List Byte) (b out : Nat) : (slhDigits x b out).length = out := by simp [slhDigits]
@[simp] theorem wotsDigits_length (m : List Byte) : (wotsDigits m).length = 67 := by simp [wotsDigits]

theorem slhTree_length (seed : List Byte) (adrs : Nat → Nat → List Byte) (leaf : Nat → List Byte) (h : ∀ i, (leaf i).length = 32) (z i : Nat) :
    (slhTree seed adrs leaf z i).length = 32 := by
  cases z with
  | zero => exact h i
  | succ z => exact slhHash_length _ _ _

theorem slhBeside_length (seed : List Byte) (adrs : Nat → Nat → List Byte) (leaf : Nat → List Byte) (h : ∀ i, (leaf i).length = 32) (n ix : Nat) :
    (slhBeside seed adrs leaf n ix).length = n * 32 := by
  rw [slhBeside, length_flatMap_const _ _ 32 fun j _ => slhTree_length seed adrs leaf h j _]
  simp

theorem forsSign_length (seed secret md : List Byte) (tree leaf : Nat) : (forsSign seed secret md tree leaf).length = 10560 := by
  simp only [forsSign]
  rw [length_flatMap_const _ _ 480]
  · simp
  · intro e _
    simp [slhBeside_length]

theorem wotsChain_length (seed : List Byte) (adrs : Nat → List Byte) (n i : Nat) (x : List Byte) (h : x.length = 32) :
    (wotsChain seed adrs n i x).length = 32 := by
  induction n generalizing i x with
  | zero => exact h
  | succ n ih => exact ih _ _ (slhHash_length _ _ _)

theorem xmssSign_length (seed secret m : List Byte) (layer tree leaf : Nat) : (xmssSign seed secret m layer tree leaf).length = 2400 := by
  simp only [xmssSign, List.length_append, wotsAt]
  rw [length_flatMap_const _ _ 32 fun e _ => wotsChain_length _ _ _ _ _ (slhSecret_length _ _ _),
    slhBeside_length _ _ (xmssLeaf seed secret layer tree) (fun _ => slhHash_length _ _ _)]
  simp

theorem hyperSign_length (seed secret : List Byte) (n layer tree leaf : Nat) (node : List Byte) :
    (hyperSign seed secret n layer tree leaf node).length = n * 2400 := by
  induction n generalizing layer tree leaf node with
  | zero => simp [hyperSign]
  | succ n ih =>
    simp only [hyperSign, List.length_append, xmssSign_length, ih]
    omega

/-- A signature of SLH-DSA-SHAKE-256s has 29,792 bytes (R364, R370). -/
theorem slhSign_length (secret prf seed random m : List Byte) : (slhSign secret prf seed random m).length = 29792 := by
  simp [slhSign, forsSign_length, hyperSign_length]

/-- The attestation report has 30,096 bytes (R370). -/
theorem attReport_length (s : State) (vf : Nat) : (attReport s vf).length = 30096 := by
  have h := slhSign_length (key32 Config.keySeed) (key32 Config.keyPrf) (key32 Config.keyPublicSeed) (key32 (Config.signRandom s.stepNo))
    (shake256 (reportHead s vf))
  have pad : ∀ (n : Nat) (b : List Byte), (reportHead.padTo n b).length = n := fun n b => by
    simp only [reportHead.padTo, List.length_take, List.length_append, List.length_replicate]
    omega
  simp only [attReport, deviceSign, List.length_append, h]
  simp only [reportHead, List.length_append, length_leBytes, pad]

end Sys2Proof.Machine
end

