-- ==== Sys2Proof/Laws/Ops.lean ====
section
/-! SUPPORT. Laws/Ops.lean: what the shared operations do: waiting for registers, retiring, traps, irrevocable operations. -/

namespace Sys2Proof.Machine

open Sys2Proof.Terms

theorem tset_tset {α : Type} (t : Table α) (i : Nat) (v w : α) : tset (tset t i v) i w = tset t i w := by
  induction t with
  | nil => simp [tset]
  | cons e t ih =>
    obtain ⟨k, u⟩ := e
    simp only [tset]
    split
    · simp [tset]
    · split
      · simp [tset]
      · simp only [tset]
        split
        · omega
        · simp_all

@[simp] theorem setCore_setCore (s : State) (x : Nat) (c d : Core) : setCore (setCore s x c) x d = setCore s x d := by
  simp only [setCore, tset_tset]

/-- Waiting for registers that await nothing goes on at once. -/
theorem needX_ready {s : State} {rs : List XReg} (k : Slot → Res) (h : xReady s rs) : needX s rs k = k (curSlot s) := by
  have : rs.any (pendingX (curSlot s)) = false := by simpa [List.any_eq_false, xReady] using h
  simp [needX, this]

theorem needXV_ready {s : State} {rs : List XReg} {vs : List VReg} (k : Slot → Res) (h : xReady s rs) (h' : vReady s vs) :
    needXV s rs vs k = k (curSlot s) := by
  have : rs.any (pendingX (curSlot s)) = false := by simpa [List.any_eq_false, xReady] using h
  have : vs.any (pendingV (curSlot s)) = false := by simpa [List.any_eq_false, vReady] using h'
  simp [needXV, *]

theorem curSlot_eq (s : State) : curSlot s = (curCore s).slots[s.cur.2] := rfl

/-- Retiring after an update of the current slot. -/
theorem retireTo_updCur (s : State) (f : Slot → Slot) (pc : Word) (ws : List Word) :
    retireTo (updCur s f) pc ws = retired s (curCore s) (f (curSlot s)) pc ws := by
  simp only [retireTo, updCurCore, updCur, setSlot, updCore, getCore_setCore_self, setCore_setCore, setCore_cur, retired, countEv, curSlot,
    curCore, foldPrint]
  simp
  rfl

theorem retireTo_eq (s : State) (pc : Word) (ws : List Word) : retireTo s pc ws = retired s (curCore s) (curSlot s) pc ws := by
  simp only [retireTo, updCurCore, updCore, retired, countEv, curSlot, curCore, foldPrint]
  simp

/-- Retiring with the instruction after it next. -/
theorem retire_updCur (s : State) (f : Slot → Slot) (ws : List Word) (hp : (f (curSlot s)).pc = (curSlot s).pc)
    (hi : (f (curSlot s)).ilen = (curSlot s).ilen) : retire (updCur s f) ws = finish s (f (curSlot s)) ws := by
  rw [retire, retireTo_updCur, curSlot_updCur, hp, hi]
  rfl

theorem retire_eq (s : State) (ws : List Word) : retire s ws = finish s (curSlot s) ws := by
  rw [retire, retireTo_eq]
  rfl

theorem retireX_eq (s : State) (a : XReg) (v : Word) : retireX s a v = finish s (setX (curSlot s) a v) [v] := by
  rw [retireX, retire_updCur]
  · exact setX_pc _ _ _
  · exact setX_ilen _ _ _

end Sys2Proof.Machine
end

