-- ==== Sys2Proof/Laws/PerInstr.lean ====
section
/-! SUPPORT. Laws/PerInstr.lean: one lemma per constructor. Family Enc: the fields the encoder writes fit the bit fields of a prefix
chain and of a base word (spec/03 R34 to R41), and the base word is no prefix halfword. -/

namespace Sys2Proof.Laws.Enc

/-- Every field fits its bits, the base word has a major below 31, and at most four IMM prefixes stand (R34 to R37). -/
structure InRange (x : Fields) : Prop where
  page : x.page < 8
  mod6 : x.mod6 < 64
  a : x.a < 32
  b : x.b < 32
  c : x.c < 32
  w : x.w < 4
  d : x.d < 32
  x4 : x.x4 < 16
  imms : ∀ i ∈ x.imms, i < 512
  m : x.m < 31
  f : x.f < 8

/-- An encoder's fields are in range; an event has none. -/
def Statement (i : Instr) : Prop := ∀ x, encodeFields i = some x → InRange x

theorem digits512_lt (n u : Nat) : ∀ i ∈ digits512 n u, i < 512 := by
  induction n generalizing u with
  | zero => simp [digits512]
  | succ n ih =>
    intro i hi
    simp only [digits512, List.mem_append, List.mem_singleton] at hi
    obtain h | rfl := hi
    · exact ih _ _ h
    · omega

theorem immFields_imms_lt (v : Int) (wb least : Nat) : ∀ i ∈ (immFields v wb least).2, i < 512 := digits512_lt _ _

theorem immFields_base_lt (v : Int) (wb least : Nat) : (immFields v wb least).1 < 2 ^ wb := Nat.mod_lt _ (by positivity)

theorem rnd_code_le (r : Rnd) : r.code ≤ 4 := by cases r <;> decide
theorem rmod_code_lt (m : RMod) : m.code < 64 := by
  have := rnd_code_le m.rnd
  unfold RMod.code; split <;> omega
theorem fwidth_code_lt (w : FWidth) : w.code < 4 := by cases w <;> decide
theorem vty_code_lt (t : VTy) : t.code < 4 := by cases t <;> decide
theorem amoSize_code_lt (z : AmoSize) : z.code < 4 := by cases z <;> decide
theorem e8_code_lt (e : E8) : e.code < 16 := by cases e <;> decide
theorem iwidth_code_lt (w : IWidth) : w.code < 4 := by cases w <;> decide
theorem rlxCode_lt (r : Bool) : rlxCode r < 64 := by cases r <;> decide

theorem eTri_inRange {m f : Nat} (a c b : XReg) (hm : m < 31) (hf : f < 8) : InRange (eTri m f a c b) := by
  constructor <;> simp [eTri] <;> omega

theorem eUna_inRange {m f w : Nat} (a b : XReg) (hm : m < 31) (hf : f < 8) (hw : w < 4) : InRange (eUna m f a b w) := by
  constructor <;> simp [eUna] <;> omega

theorem eRim_inRange {m : Nat} (a b : XReg) (v : Int) (hm : m < 31) : InRange (eRim m a b v) := by
  have := immFields_base_lt v 3 0
  constructor <;> simp only [eRim] <;> first | exact immFields_imms_lt _ _ _ | omega

theorem eShf_inRange {f : Nat} (a b : XReg) (n : Fin 64) (hf : f < 8) : InRange (eShf f a b n) := by
  constructor <;> simp [eShf] <;> omega

theorem eMem_inRange {m f : Nat} (a b : XReg) (v : Int) (r : Bool) (hm : m < 31) (hf : f < 8) : InRange (eMem m f a b v r) := by
  have := rlxCode_lt r
  constructor <;> simp only [eMem] <;> first | exact immFields_imms_lt _ _ _ | omega

theorem eCbr_inRange {f : Nat} (a b : XReg) (v : Int) (hf : f < 8) : InRange (eCbr f a b v) := by
  constructor <;> simp only [eCbr] <;> first | exact immFields_imms_lt _ _ _ | omega

theorem eJmp_inRange {m : Nat} (v : Int) (hm : m < 31) : InRange (eJmp m v) := by
  have := immFields_base_lt v 11 0
  constructor <;> simp only [eJmp] <;> first | exact immFields_imms_lt _ _ _ | omega

theorem eF_inRange {m f mod6 x4 : Nat} (w : FWidth) (a c b : XReg) (hm : m < 31) (hf : f < 8) (h6 : mod6 < 64) (hx : x4 < 16) :
    InRange (eF m f w mod6 a c b x4) := by
  have := fwidth_code_lt w
  constructor <;> simp [eF] <;> omega

theorem eV_inRange {m f w mod6 a c b d : Nat} {imms : List Nat} (k : MReg) (hm : m < 31) (hf : f < 8) (hw : w < 4) (h6 : mod6 < 64)
    (ha : a < 32) (hc : c < 32) (hb : b < 32) (hd : d < 32) (hi : ∀ i ∈ imms, i < 512) : InRange (eV m f w mod6 a c b k d imms) := by
  constructor <;> simp only [eV] <;> first | exact hi | omega

theorem eS_inRange {f a b d : Nat} (n : Fin 7) (hf : f < 8) (ha : a < 32) (hb : b < 32) (hd : d < 32) : InRange (eS f a b n d) := by
  constructor <;> simp [eS] <;> omega

theorem eP_inRange {page m f a c b w d x4 : Nat} {imms : List Nat} (hp : page < 8) (hm : m < 31) (hf : f < 8) (ha : a < 32)
    (hc : c < 32) (hb : b < 32) (hw : w < 4) (hd : d < 32) (hx : x4 < 16) (hi : ∀ i ∈ imms, i < 512) :
    InRange (eP page m f a c b w d x4 imms) := by
  constructor <;> simp only [eP] <;> first | exact hi | omega

theorem eCsr_inRange {f : Nat} (a : XReg) (n : BitVec 12) (hf : f < 8) : InRange (eCsr f a n) := by
  have := n.isLt
  apply eP_inRange <;> first | omega | (intro i hi; simp only [List.mem_singleton] at hi; omega)

theorem of_some {i : Instr} {y : Fields} (h : encodeFields i = some y) (hy : InRange y) : Statement i := by
  intro x hx
  rw [h] at hx
  cases hx
  exact hy

theorem of_none {i : Instr} (h : encodeFields i = none) : Statement i := by
  intro x hx
  rw [h] at hx
  cases hx

theorem add p q r : Statement (.add p q r) := of_some rfl (eTri_inRange _ _ _ (by decide) (by decide))
theorem sub p q r : Statement (.sub p q r) := of_some rfl (eTri_inRange _ _ _ (by decide) (by decide))
theorem and p q r : Statement (.and p q r) := of_some rfl (eTri_inRange _ _ _ (by decide) (by decide))
theorem or p q r : Statement (.or p q r) := of_some rfl (eTri_inRange _ _ _ (by decide) (by decide))
theorem xor p q r : Statement (.xor p q r) := of_some rfl (eTri_inRange _ _ _ (by decide) (by decide))
theorem andn p q r : Statement (.andn p q r) := of_some rfl (eTri_inRange _ _ _ (by decide) (by decide))
theorem orn p q r : Statement (.orn p q r) := of_some rfl (eTri_inRange _ _ _ (by decide) (by decide))
theorem xnor p q r : Statement (.xnor p q r) := of_some rfl (eTri_inRange _ _ _ (by decide) (by decide))
theorem shl p q r : Statement (.shl p q r) := of_some rfl (eTri_inRange _ _ _ (by decide) (by decide))
theorem shr p q r : Statement (.shr p q r) := of_some rfl (eTri_inRange _ _ _ (by decide) (by decide))
theorem sar p q r : Statement (.sar p q r) := of_some rfl (eTri_inRange _ _ _ (by decide) (by decide))
theorem rol p q r : Statement (.rol p q r) := of_some rfl (eTri_inRange _ _ _ (by decide) (by decide))
theorem ror p q r : Statement (.ror p q r) := of_some rfl (eTri_inRange _ _ _ (by decide) (by decide))
theorem min p q r : Statement (.min p q r) := of_some rfl (eTri_inRange _ _ _ (by decide) (by decide))
theorem max p q r : Statement (.max p q r) := of_some rfl (eTri_inRange _ _ _ (by decide) (by decide))
theorem minn p q r : Statement (.minn p q r) := of_some rfl (eTri_inRange _ _ _ (by decide) (by decide))
theorem mul p q r : Statement (.mul p q r) := of_some rfl (eTri_inRange _ _ _ (by decide) (by decide))
theorem mulh p q r : Statement (.mulh p q r) := of_some rfl (eTri_inRange _ _ _ (by decide) (by decide))
theorem mulhn p q r : Statement (.mulhn p q r) := of_some rfl (eTri_inRange _ _ _ (by decide) (by decide))
theorem div p q r : Statement (.div p q r) := of_some rfl (eTri_inRange _ _ _ (by decide) (by decide))
theorem divn p q r : Statement (.divn p q r) := of_some rfl (eTri_inRange _ _ _ (by decide) (by decide))
theorem rem p q r : Statement (.rem p q r) := of_some rfl (eTri_inRange _ _ _ (by decide) (by decide))
theorem remn p q r : Statement (.remn p q r) := of_some rfl (eTri_inRange _ _ _ (by decide) (by decide))
theorem maxn p q r : Statement (.maxn p q r) := of_some rfl (eTri_inRange _ _ _ (by decide) (by decide))
theorem seq p q r : Statement (.seq p q r) := of_some rfl (eTri_inRange _ _ _ (by decide) (by decide))
theorem sne p q r : Statement (.sne p q r) := of_some rfl (eTri_inRange _ _ _ (by decide) (by decide))
theorem slt p q r : Statement (.slt p q r) := of_some rfl (eTri_inRange _ _ _ (by decide) (by decide))
theorem sltn p q r : Statement (.sltn p q r) := of_some rfl (eTri_inRange _ _ _ (by decide) (by decide))
theorem sle p q r : Statement (.sle p q r) := of_some rfl (eTri_inRange _ _ _ (by decide) (by decide))
theorem slen p q r : Statement (.slen p q r) := of_some rfl (eTri_inRange _ _ _ (by decide) (by decide))
theorem sel p q r s : Statement (.sel p q r s) := of_some rfl (by constructor <;> simp [eTri] <;> omega)
theorem clz p q : Statement (.clz p q) := of_some rfl (eUna_inRange _ _ (by decide) (by decide) (by decide))
theorem ctz p q : Statement (.ctz p q) := of_some rfl (eUna_inRange _ _ (by decide) (by decide) (by decide))
theorem popc p q : Statement (.popc p q) := of_some rfl (eUna_inRange _ _ (by decide) (by decide) (by decide))
theorem brev p q : Statement (.brev p q) := of_some rfl (eUna_inRange _ _ (by decide) (by decide) (by decide))
theorem bswap p q : Statement (.bswap p q) := of_some rfl (eUna_inRange _ _ (by decide) (by decide) (by decide))
theorem sext p q r : Statement (.sext p q r) := of_some rfl (eUna_inRange _ _ (by decide) (by decide) (iwidth_code_lt _))
theorem zext p q r : Statement (.zext p q r) := of_some rfl (eUna_inRange _ _ (by decide) (by decide) (iwidth_code_lt _))
theorem mov p q : Statement (.mov p q) := of_some rfl (eUna_inRange _ _ (by decide) (by decide) (by decide))
theorem addi p q r : Statement (.addi p q r) := of_some rfl (eRim_inRange _ _ _ (by decide))
theorem li p q : Statement (.li p q) := of_some rfl (by
  have := immFields_base_lt q 7 0
  constructor <;> dsimp only <;> first | exact immFields_imms_lt _ _ _ | omega)
theorem andi p q r : Statement (.andi p q r) := of_some rfl (eRim_inRange _ _ _ (by decide))
theorem ori p q r : Statement (.ori p q r) := of_some rfl (eRim_inRange _ _ _ (by decide))
theorem xori p q r : Statement (.xori p q r) := of_some rfl (eRim_inRange _ _ _ (by decide))
theorem shli p q r : Statement (.shli p q r) := of_some rfl (eShf_inRange _ _ _ (by decide))
theorem shri p q r : Statement (.shri p q r) := of_some rfl (eShf_inRange _ _ _ (by decide))
theorem sari p q r : Statement (.sari p q r) := of_some rfl (eShf_inRange _ _ _ (by decide))
theorem rori p q r : Statement (.rori p q r) := of_some rfl (eShf_inRange _ _ _ (by decide))
theorem ldSb p q r s : Statement (.ldSb p q r s) := of_some rfl (eMem_inRange _ _ _ _ (by decide) (by decide))
theorem ldNb p q r s : Statement (.ldNb p q r s) := of_some rfl (eMem_inRange _ _ _ _ (by decide) (by decide))
theorem ldSh p q r s : Statement (.ldSh p q r s) := of_some rfl (eMem_inRange _ _ _ _ (by decide) (by decide))
theorem ldNh p q r s : Statement (.ldNh p q r s) := of_some rfl (eMem_inRange _ _ _ _ (by decide) (by decide))
theorem ldSw p q r s : Statement (.ldSw p q r s) := of_some rfl (eMem_inRange _ _ _ _ (by decide) (by decide))
theorem ldNw p q r s : Statement (.ldNw p q r s) := of_some rfl (eMem_inRange _ _ _ _ (by decide) (by decide))
theorem ldD p q r s : Statement (.ldD p q r s) := of_some rfl (eMem_inRange _ _ _ _ (by decide) (by decide))
theorem stB p q r s : Statement (.stB p q r s) := of_some rfl (eMem_inRange _ _ _ _ (by decide) (by decide))
theorem stH p q r s : Statement (.stH p q r s) := of_some rfl (eMem_inRange _ _ _ _ (by decide) (by decide))
theorem stW p q r s : Statement (.stW p q r s) := of_some rfl (eMem_inRange _ _ _ _ (by decide) (by decide))
theorem stD p q r s : Statement (.stD p q r s) := of_some rfl (eMem_inRange _ _ _ _ (by decide) (by decide))
theorem bcEq p q r : Statement (.bcEq p q r) := of_some rfl (eCbr_inRange _ _ _ (by decide))
theorem bcNe p q r : Statement (.bcNe p q r) := of_some rfl (eCbr_inRange _ _ _ (by decide))
theorem bcLt p q r : Statement (.bcLt p q r) := of_some rfl (eCbr_inRange _ _ _ (by decide))
theorem bcGe p q r : Statement (.bcGe p q r) := of_some rfl (eCbr_inRange _ _ _ (by decide))
theorem bcLtn p q r : Statement (.bcLtn p q r) := of_some rfl (eCbr_inRange _ _ _ (by decide))
theorem bcGen p q r : Statement (.bcGen p q r) := of_some rfl (eCbr_inRange _ _ _ (by decide))
theorem br p : Statement (.br p) := of_some rfl (eJmp_inRange _ (by decide))
theorem call p : Statement (.call p) := of_some rfl (eJmp_inRange _ (by decide))
theorem jr p : Statement (.jr p) := of_some rfl (by constructor <;> simp <;> omega)
theorem callr p : Statement (.callr p) := of_some rfl (by constructor <;> simp <;> omega)
theorem ret : Statement .ret := of_some rfl (by constructor <;> simp <;> omega)
theorem nop : Statement .nop := of_some rfl (by constructor <;> simp <;> omega)
theorem brk : Statement .brk := of_some rfl (by constructor <;> simp <;> omega)
theorem fadd p q r s t : Statement (.fadd p q r s t) := of_some rfl (eF_inRange _ _ _ _ (by decide) (by decide) (rmod_code_lt _) (by decide))
theorem fsub p q r s t : Statement (.fsub p q r s t) := of_some rfl (eF_inRange _ _ _ _ (by decide) (by decide) (rmod_code_lt _) (by decide))
theorem fmul p q r s t : Statement (.fmul p q r s t) := of_some rfl (eF_inRange _ _ _ _ (by decide) (by decide) (rmod_code_lt _) (by decide))
theorem fdiv p q r s t : Statement (.fdiv p q r s t) := of_some rfl (eF_inRange _ _ _ _ (by decide) (by decide) (rmod_code_lt _) (by decide))
theorem fmin p q r s : Statement (.fmin p q r s) := of_some rfl (eF_inRange _ _ _ _ (by decide) (by decide) (by decide) (by decide))
theorem fmax p q r s : Statement (.fmax p q r s) := of_some rfl (eF_inRange _ _ _ _ (by decide) (by decide) (by decide) (by decide))
theorem fsqrt p q r s : Statement (.fsqrt p q r s) := of_some rfl (eF_inRange _ _ _ _ (by decide) (by decide) (rmod_code_lt _) (by decide))
theorem fma p q r s t : Statement (.fma p q r s t) := of_some rfl (eF_inRange _ _ _ _ (by decide) (by decide) (rmod_code_lt _) (by decide))
theorem fms p q r s t : Statement (.fms p q r s t) := of_some rfl (eF_inRange _ _ _ _ (by decide) (by decide) (rmod_code_lt _) (by decide))
theorem fnma p q r s t : Statement (.fnma p q r s t) := of_some rfl (eF_inRange _ _ _ _ (by decide) (by decide) (rmod_code_lt _) (by decide))
theorem fnms p q r s t : Statement (.fnms p q r s t) := of_some rfl (eF_inRange _ _ _ _ (by decide) (by decide) (rmod_code_lt _) (by decide))
theorem feq p q r s : Statement (.feq p q r s) := of_some rfl (eF_inRange _ _ _ _ (by decide) (by decide) (by decide) (by decide))
theorem flt p q r s : Statement (.flt p q r s) := of_some rfl (eF_inRange _ _ _ _ (by decide) (by decide) (by decide) (by decide))
theorem fle p q r s : Statement (.fle p q r s) := of_some rfl (eF_inRange _ _ _ _ (by decide) (by decide) (by decide) (by decide))
theorem funord p q r s : Statement (.funord p q r s) := of_some rfl (eF_inRange _ _ _ _ (by decide) (by decide) (by decide) (by decide))
theorem fclass p q r : Statement (.fclass p q r) := of_some rfl (eF_inRange _ _ _ _ (by decide) (by decide) (by decide) (by decide))
theorem fabs p q r : Statement (.fabs p q r) := of_some rfl (eF_inRange _ _ _ _ (by decide) (by decide) (by decide) (by decide))
theorem fneg p q r : Statement (.fneg p q r) := of_some rfl (eF_inRange _ _ _ _ (by decide) (by decide) (by decide) (by decide))
theorem fsign p q r s : Statement (.fsign p q r s) := of_some rfl (eF_inRange _ _ _ _ (by decide) (by decide) (by decide) (by decide))
theorem fcvtF2i p q r s : Statement (.fcvtF2i p q r s) := of_some rfl (eF_inRange _ _ _ _ (by decide) (by decide) (by have := rnd_code_le q; omega) (by decide))
theorem fcvtF2n p q r s : Statement (.fcvtF2n p q r s) := of_some rfl (eF_inRange _ _ _ _ (by decide) (by decide) (by have := rnd_code_le q; omega) (by decide))
theorem fcvtI2f p q r s : Statement (.fcvtI2f p q r s) := of_some rfl (eF_inRange _ _ _ _ (by decide) (by decide) (rmod_code_lt _) (by decide))
theorem fcvtN2f p q r s : Statement (.fcvtN2f p q r s) := of_some rfl (eF_inRange _ _ _ _ (by decide) (by decide) (rmod_code_lt _) (by decide))
theorem fcvtFf p q r s t : Statement (.fcvtFf p q r s t) := of_some rfl (eF_inRange _ _ _ _ (by decide) (by decide) (rmod_code_lt _) (fwidth_code_lt _ |>.trans (by decide)))
theorem fcvtF2e p q r s t : Statement (.fcvtF2e p q r s t) := of_some rfl (eF_inRange _ _ _ _ (by decide) (by decide) (rmod_code_lt _) (e8_code_lt _))
theorem fcvtE2f p q r s : Statement (.fcvtE2f p q r s) := of_some rfl (eF_inRange _ _ _ _ (by decide) (by decide) (by decide) (e8_code_lt _))
theorem vadd p q r s t u : Statement (.vadd p q r s t u) := of_some rfl (eV_inRange _ (by decide) (by decide) (vty_code_lt _) (rmod_code_lt _) (by omega) (by omega) (by omega) (by omega) (by simp))
theorem vsub p q r s t u : Statement (.vsub p q r s t u) := of_some rfl (eV_inRange _ (by decide) (by decide) (vty_code_lt _) (rmod_code_lt _) (by omega) (by omega) (by omega) (by omega) (by simp))
theorem vmul p q r s t u : Statement (.vmul p q r s t u) := of_some rfl (eV_inRange _ (by decide) (by decide) (vty_code_lt _) (rmod_code_lt _) (by omega) (by omega) (by omega) (by omega) (by simp))
theorem vmin p q r s t : Statement (.vmin p q r s t) := of_some rfl (eV_inRange _ (by decide) (by decide) (vty_code_lt _) (by decide) (by omega) (by omega) (by omega) (by omega) (by simp))
theorem vmax p q r s t : Statement (.vmax p q r s t) := of_some rfl (eV_inRange _ (by decide) (by decide) (vty_code_lt _) (by decide) (by omega) (by omega) (by omega) (by omega) (by simp))
theorem vand p q r s : Statement (.vand p q r s) := of_some rfl (eV_inRange _ (by decide) (by decide) (by decide) (by decide) (by omega) (by omega) (by omega) (by omega) (by simp))
theorem vor p q r s : Statement (.vor p q r s) := of_some rfl (eV_inRange _ (by decide) (by decide) (by decide) (by decide) (by omega) (by omega) (by omega) (by omega) (by simp))
theorem vxor p q r s : Statement (.vxor p q r s) := of_some rfl (eV_inRange _ (by decide) (by decide) (by decide) (by decide) (by omega) (by omega) (by omega) (by omega) (by simp))
theorem vshl p q r s : Statement (.vshl p q r s) := of_some rfl (eV_inRange _ (by decide) (by decide) (by decide) (by decide) (by omega) (by omega) (by omega) (by omega) (by simp))
theorem vshr p q r s : Statement (.vshr p q r s) := of_some rfl (eV_inRange _ (by decide) (by decide) (by decide) (by decide) (by omega) (by omega) (by omega) (by omega) (by simp))
theorem vsar p q r s : Statement (.vsar p q r s) := of_some rfl (eV_inRange _ (by decide) (by decide) (by decide) (by decide) (by omega) (by omega) (by omega) (by omega) (by simp))
theorem vabs p q r s : Statement (.vabs p q r s) := of_some rfl (eV_inRange _ (by decide) (by decide) (vty_code_lt _) (by decide) (by omega) (by omega) (by omega) (by omega) (by simp))
theorem vneg p q r s : Statement (.vneg p q r s) := of_some rfl (eV_inRange _ (by decide) (by decide) (vty_code_lt _) (by decide) (by omega) (by omega) (by omega) (by omega) (by simp))
theorem vdiv p q r s t u : Statement (.vdiv p q r s t u) := of_some rfl (eV_inRange _ (by decide) (by decide) (vty_code_lt _) (rmod_code_lt _) (by omega) (by omega) (by omega) (by omega) (by simp))
theorem vsqrt p q r s : Statement (.vsqrt p q r s) := of_some rfl (eV_inRange _ (by decide) (by decide) (by decide) (rmod_code_lt _) (by omega) (by omega) (by omega) (by omega) (by simp))
theorem vfma p q r s t u : Statement (.vfma p q r s t u) := of_some rfl (eV_inRange _ (by decide) (by decide) (vty_code_lt _) (rmod_code_lt _) (by omega) (by omega) (by omega) (by omega) (by simp))
theorem vfms p q r s t u : Statement (.vfms p q r s t u) := of_some rfl (eV_inRange _ (by decide) (by decide) (vty_code_lt _) (rmod_code_lt _) (by omega) (by omega) (by omega) (by omega) (by simp))
theorem vfnma p q r s t u : Statement (.vfnma p q r s t u) := of_some rfl (eV_inRange _ (by decide) (by decide) (vty_code_lt _) (rmod_code_lt _) (by omega) (by omega) (by omega) (by omega) (by simp))
theorem vfnms p q r s t u : Statement (.vfnms p q r s t u) := of_some rfl (eV_inRange _ (by decide) (by decide) (vty_code_lt _) (rmod_code_lt _) (by omega) (by omega) (by omega) (by omega) (by simp))
theorem vceq p q r s t : Statement (.vceq p q r s t) := of_some rfl (eV_inRange _ (by decide) (by decide) (vty_code_lt _) (by decide) (by omega) (by omega) (by omega) (by omega) (by simp))
theorem vcne p q r s t : Statement (.vcne p q r s t) := of_some rfl (eV_inRange _ (by decide) (by decide) (vty_code_lt _) (by decide) (by omega) (by omega) (by omega) (by omega) (by simp))
theorem vclt p q r s t : Statement (.vclt p q r s t) := of_some rfl (eV_inRange _ (by decide) (by decide) (vty_code_lt _) (by decide) (by omega) (by omega) (by omega) (by omega) (by simp))
theorem vcle p q r s t : Statement (.vcle p q r s t) := of_some rfl (eV_inRange _ (by decide) (by decide) (vty_code_lt _) (by decide) (by omega) (by omega) (by omega) (by omega) (by simp))
theorem vsel p q r s t : Statement (.vsel p q r s t) := of_some rfl (eV_inRange _ (by decide) (by decide) (by decide) (by decide) (by omega) (by omega) (by omega) (by omega) (by simp))
theorem vmov p q r : Statement (.vmov p q r) := of_some rfl (eV_inRange _ (by decide) (by decide) (by decide) (by decide) (by omega) (by omega) (by omega) (by omega) (by simp))
theorem vbcast p q r : Statement (.vbcast p q r) := of_some rfl (eV_inRange _ (by decide) (by decide) (by decide) (by decide) (by omega) (by omega) (by omega) (by omega) (by simp))
theorem vins p q r : Statement (.vins p q r) := of_some rfl (eV_inRange _ (by decide) (by decide) (by decide) (by decide) (by omega) (by omega) (by omega) (by omega) (by simp))
theorem vext p q r s : Statement (.vext p q r s) := of_some rfl (eV_inRange _ (by decide) (by decide) (vty_code_lt _) (by decide) (by omega) (by omega) (by omega) (by omega) (by simp))
theorem viota p q r : Statement (.viota p q r) := of_some rfl (eV_inRange _ (by decide) (by decide) (by decide) (by decide) (by omega) (by omega) (by omega) (by omega) (by simp))
theorem vperm p q r s : Statement (.vperm p q r s) := of_some rfl (eV_inRange _ (by decide) (by decide) (by decide) (by decide) (by omega) (by omega) (by omega) (by omega) (by simp))
theorem vradd p q r s t : Statement (.vradd p q r s t) := of_some rfl (eV_inRange _ (by decide) (by decide) (vty_code_lt _) (by have := rnd_code_le q; omega) (by omega) (by omega) (by omega) (by omega) (by simp))
theorem vrmin p q r s : Statement (.vrmin p q r s) := of_some rfl (eV_inRange _ (by decide) (by decide) (vty_code_lt _) (by decide) (by omega) (by omega) (by omega) (by omega) (by simp))
theorem vrmax p q r s : Statement (.vrmax p q r s) := of_some rfl (eV_inRange _ (by decide) (by decide) (vty_code_lt _) (by decide) (by omega) (by omega) (by omega) (by omega) (by simp))
theorem vrand p q r : Statement (.vrand p q r) := of_some rfl (eV_inRange _ (by decide) (by decide) (by decide) (by decide) (by omega) (by omega) (by omega) (by omega) (by simp))
theorem vror p q r : Statement (.vror p q r) := of_some rfl (eV_inRange _ (by decide) (by decide) (by decide) (by decide) (by omega) (by omega) (by omega) (by omega) (by simp))
theorem vscan p q r s t : Statement (.vscan p q r s t) := of_some rfl (eV_inRange _ (by decide) (by decide) (vty_code_lt _) (by have := rnd_code_le q; omega) (by omega) (by omega) (by omega) (by omega) (by simp))
theorem vexp2 p q r s : Statement (.vexp2 p q r s) := of_some rfl (eV_inRange _ (by decide) (by decide) (by decide) (rmod_code_lt _) (by omega) (by omega) (by omega) (by omega) (by simp))
theorem vlog2 p q r s : Statement (.vlog2 p q r s) := of_some rfl (eV_inRange _ (by decide) (by decide) (by decide) (rmod_code_lt _) (by omega) (by omega) (by omega) (by omega) (by simp))
theorem vrcp p q r s : Statement (.vrcp p q r s) := of_some rfl (eV_inRange _ (by decide) (by decide) (by decide) (rmod_code_lt _) (by omega) (by omega) (by omega) (by omega) (by simp))
theorem vrsq p q r s : Statement (.vrsq p q r s) := of_some rfl (eV_inRange _ (by decide) (by decide) (by decide) (rmod_code_lt _) (by omega) (by omega) (by omega) (by omega) (by simp))
theorem vtanh p q r s : Statement (.vtanh p q r s) := of_some rfl (eV_inRange _ (by decide) (by decide) (by decide) (rmod_code_lt _) (by omega) (by omega) (by omega) (by omega) (by simp))
theorem vsigm p q r s : Statement (.vsigm p q r s) := of_some rfl (eV_inRange _ (by decide) (by decide) (by decide) (rmod_code_lt _) (by omega) (by omega) (by omega) (by omega) (by simp))
theorem vcvtF2s p q r s : Statement (.vcvtF2s p q r s) := of_some rfl (eV_inRange _ (by decide) (by decide) (by decide) (by have := rnd_code_le p; omega) (by omega) (by omega) (by omega) (by omega) (by simp))
theorem vcvtS2f p q r s : Statement (.vcvtS2f p q r s) := of_some rfl (eV_inRange _ (by decide) (by decide) (by decide) (rmod_code_lt _) (by omega) (by omega) (by omega) (by omega) (by simp))
theorem vcvtF2n p q r s : Statement (.vcvtF2n p q r s) := of_some rfl (eV_inRange _ (by decide) (by decide) (by decide) (by have := rnd_code_le p; omega) (by omega) (by omega) (by omega) (by omega) (by simp))
theorem vcvtN2f p q r s : Statement (.vcvtN2f p q r s) := of_some rfl (eV_inRange _ (by decide) (by decide) (by decide) (rmod_code_lt _) (by omega) (by omega) (by omega) (by omega) (by simp))
theorem vcvtFrnd p q r s : Statement (.vcvtFrnd p q r s) := of_some rfl (eV_inRange _ (by decide) (by decide) (by decide) (by have := rnd_code_le p; omega) (by omega) (by omega) (by omega) (by omega) (by simp))
theorem vcvtF2bf p q r s : Statement (.vcvtF2bf p q r s) := of_some rfl (eV_inRange _ (by decide) (by decide) (by decide) (rmod_code_lt _) (by omega) (by omega) (by omega) (by omega) (by simp))
theorem vcvtF2e4 p q r s : Statement (.vcvtF2e4 p q r s) := of_some rfl (eV_inRange _ (by decide) (by decide) (by decide) (rmod_code_lt _) (by omega) (by omega) (by omega) (by omega) (by simp))
theorem vcvtF2e5 p q r s : Statement (.vcvtF2e5 p q r s) := of_some rfl (eV_inRange _ (by decide) (by decide) (by decide) (rmod_code_lt _) (by omega) (by omega) (by omega) (by omega) (by simp))
theorem vld p q r s t : Statement (.vld p q r s t) := of_some rfl (eV_inRange _ (by decide) (by decide) (by decide) (rlxCode_lt _) (by omega) (by omega) (by omega) (by omega) (immFields_imms_lt _ _ _))
theorem vst p q r s t : Statement (.vst p q r s t) := of_some rfl (eV_inRange _ (by decide) (by decide) (by decide) (rlxCode_lt _) (by omega) (by omega) (by omega) (by omega) (immFields_imms_lt _ _ _))
theorem vldx p q r s : Statement (.vldx p q r s) := of_some rfl (eV_inRange _ (by decide) (by decide) (by decide) (by decide) (by omega) (by omega) (by omega) (by omega) (by simp))
theorem vstx p q r s : Statement (.vstx p q r s) := of_some rfl (eV_inRange _ (by decide) (by decide) (by decide) (by decide) (by omega) (by omega) (by omega) (by omega) (by simp))
theorem vldb p q r s t : Statement (.vldb p q r s t) := of_some rfl (eV_inRange _ (by decide) (by decide) (by decide) (rlxCode_lt _) (by omega) (by omega) (by omega) (by omega) (immFields_imms_lt _ _ _))
theorem vldt p q r s : Statement (.vldt p q r s) := of_some rfl (eV_inRange _ (by decide) (by decide) (by decide) (by decide) (by omega) (by omega) (by omega) (by omega) (by simp; omega))
theorem vstt p q r s : Statement (.vstt p q r s) := of_some rfl (eV_inRange _ (by decide) (by decide) (by decide) (by decide) (by omega) (by omega) (by omega) (by omega) (by simp; omega))
theorem mand p q r : Statement (.mand p q r) := of_some rfl (eV_inRange _ (by decide) (by decide) (by decide) (by decide) (by omega) (by omega) (by omega) (by omega) (by simp))
theorem mor p q r : Statement (.mor p q r) := of_some rfl (eV_inRange _ (by decide) (by decide) (by decide) (by decide) (by omega) (by omega) (by omega) (by omega) (by simp))
theorem mxor p q r : Statement (.mxor p q r) := of_some rfl (eV_inRange _ (by decide) (by decide) (by decide) (by decide) (by omega) (by omega) (by omega) (by omega) (by simp))
theorem mnot p q : Statement (.mnot p q) := of_some rfl (eV_inRange _ (by decide) (by decide) (by decide) (by decide) (by omega) (by omega) (by omega) (by omega) (by simp))
theorem mpop p q : Statement (.mpop p q) := of_some rfl (eV_inRange _ (by decide) (by decide) (by decide) (by decide) (by omega) (by omega) (by omega) (by omega) (by simp))
theorem mfirst p q : Statement (.mfirst p q) := of_some rfl (eV_inRange _ (by decide) (by decide) (by decide) (by decide) (by omega) (by omega) (by omega) (by omega) (by simp))
theorem mset p q : Statement (.mset p q) := of_some rfl (eV_inRange _ (by decide) (by decide) (by decide) (by decide) (by omega) (by omega) (by omega) (by omega) (by simp))
theorem mget p q : Statement (.mget p q) := of_some rfl (eV_inRange _ (by decide) (by decide) (by decide) (by decide) (by omega) (by omega) (by omega) (by omega) (by simp))
theorem sbind p q r : Statement (.sbind p q r) := of_some rfl (eV_inRange _ (by decide) (by decide) (by decide) (by decide) (by omega) (by omega) (by omega) (by omega) (by simp))
theorem sunbind p : Statement (.sunbind p) := of_some rfl (eV_inRange _ (by decide) (by decide) (by decide) (by decide) (by omega) (by omega) (by omega) (by omega) (by simp))
theorem srem p q : Statement (.srem p q) := of_some rfl (eV_inRange _ (by decide) (by decide) (by decide) (by decide) (by omega) (by omega) (by omega) (by omega) (by simp))
theorem bstr p q : Statement (.bstr p q) := of_some rfl (eV_inRange _ (by decide) (by decide) (by decide) (by decide) (by omega) (by omega) (by omega) (by omega) (by simp))
theorem send p q r : Statement (.send p q r) := of_some rfl (eS_inRange _ (by decide) (by omega) (by omega) (by omega))
theorem sendR p q r : Statement (.sendR p q r) := of_some rfl (eS_inRange _ (by decide) (by omega) (by omega) (by omega))
theorem sendm p q r s : Statement (.sendm p q r s) := of_some rfl (eS_inRange _ (by decide) (by omega) (by omega) (by omega))
theorem sendg p q r : Statement (.sendg p q r) := of_some rfl (eS_inRange _ (by decide) (by omega) (by omega) (by omega))
theorem fork p q r : Statement (.fork p q r) := of_some rfl (eS_inRange _ (by decide) (by omega) (by omega) (by omega))
theorem sendc p q r : Statement (.sendc p q r) := of_some rfl (eS_inRange _ (by decide) (by omega) (by omega) (by omega))
theorem sendv p q r : Statement (.sendv p q r) := of_some rfl (eS_inRange _ (by decide) (by omega) (by omega) (by omega))
theorem sendQ p q r s : Statement (.sendQ p q r s) := of_some rfl (eS_inRange _ (by decide) (by omega) (by omega) (by omega))
theorem chset p q r : Statement (.chset p q r) := of_some rfl (eP_inRange (by decide) (by decide) (by decide) (by omega) (by omega) (by omega) (by decide) (by omega) (by omega) (by simp))
theorem chget p q r : Statement (.chget p q r) := of_some rfl (eP_inRange (by decide) (by decide) (by decide) (by omega) (by omega) (by omega) (by decide) (by omega) (by omega) (by simp))
theorem chclr p q : Statement (.chclr p q) := of_some rfl (eP_inRange (by decide) (by decide) (by decide) (by omega) (by omega) (by omega) (by decide) (by omega) (by omega) (by simp))
theorem patset p q r : Statement (.patset p q r) := of_some rfl (eP_inRange (by decide) (by decide) (by decide) (by omega) (by omega) (by omega) (by decide) (by omega) (by omega) (by simp))
theorem patclr p q : Statement (.patclr p q) := of_some rfl (eP_inRange (by decide) (by decide) (by decide) (by omega) (by omega) (by omega) (by decide) (by omega) (by omega) (by simp))
theorem patget p q r : Statement (.patget p q r) := of_some rfl (eP_inRange (by decide) (by decide) (by decide) (by omega) (by omega) (by omega) (by decide) (by omega) (by omega) (by simp))
theorem exit : Statement .exit := of_some rfl (eP_inRange (by decide) (by decide) (by decide) (by omega) (by omega) (by omega) (by decide) (by omega) (by omega) (by simp))
theorem exitf p : Statement (.exitf p) := of_some rfl (eP_inRange (by decide) (by decide) (by decide) (by omega) (by omega) (by omega) (by decide) (by omega) (by omega) (by simp))
theorem amoadd p q r s : Statement (.amoadd p q r s) := of_some rfl (eP_inRange (by decide) (by decide) (by decide) (by omega) (by omega) (by omega) (amoSize_code_lt _) (by omega) (by omega) (by simp))
theorem amoand p q r s : Statement (.amoand p q r s) := of_some rfl (eP_inRange (by decide) (by decide) (by decide) (by omega) (by omega) (by omega) (amoSize_code_lt _) (by omega) (by omega) (by simp))
theorem amoor p q r s : Statement (.amoor p q r s) := of_some rfl (eP_inRange (by decide) (by decide) (by decide) (by omega) (by omega) (by omega) (amoSize_code_lt _) (by omega) (by omega) (by simp))
theorem amoxor p q r s : Statement (.amoxor p q r s) := of_some rfl (eP_inRange (by decide) (by decide) (by decide) (by omega) (by omega) (by omega) (amoSize_code_lt _) (by omega) (by omega) (by simp))
theorem amomin p q r s : Statement (.amomin p q r s) := of_some rfl (eP_inRange (by decide) (by decide) (by decide) (by omega) (by omega) (by omega) (amoSize_code_lt _) (by omega) (by omega) (by simp))
theorem amomax p q r s : Statement (.amomax p q r s) := of_some rfl (eP_inRange (by decide) (by decide) (by decide) (by omega) (by omega) (by omega) (amoSize_code_lt _) (by omega) (by omega) (by simp))
theorem amoswap p q r s : Statement (.amoswap p q r s) := of_some rfl (eP_inRange (by decide) (by decide) (by decide) (by omega) (by omega) (by omega) (amoSize_code_lt _) (by omega) (by omega) (by simp))
theorem amocas p q r s t : Statement (.amocas p q r s t) := of_some rfl (eP_inRange (by decide) (by decide) (by decide) (by omega) (by omega) (by omega) (amoSize_code_lt _) (by omega) (by omega) (by simp))
theorem amofadd p q r : Statement (.amofadd p q r) := of_some rfl (eP_inRange (by decide) (by decide) (by decide) (by omega) (by omega) (by omega) (by decide) (by omega) (by omega) (by simp))
theorem amofadd64 p q r : Statement (.amofadd64 p q r) := of_some rfl (eP_inRange (by decide) (by decide) (by decide) (by omega) (by omega) (by omega) (by decide) (by omega) (by omega) (by simp))
theorem amominn p q r s : Statement (.amominn p q r s) := of_some rfl (eP_inRange (by decide) (by decide) (by decide) (by omega) (by omega) (by omega) (amoSize_code_lt _) (by omega) (by omega) (by simp))
theorem amomaxn p q r s : Statement (.amomaxn p q r s) := of_some rfl (eP_inRange (by decide) (by decide) (by decide) (by omega) (by omega) (by omega) (amoSize_code_lt _) (by omega) (by omega) (by simp))
theorem vamoadd p q r s : Statement (.vamoadd p q r s) := of_some rfl (eP_inRange (by decide) (by decide) (by decide) (by omega) (by omega) (by omega) (vty_code_lt _) (by omega) (by omega) (by simp))
theorem vamoaddi p q r s t : Statement (.vamoaddi p q r s t) := of_some rfl (eP_inRange (by decide) (by decide) (by decide) (by omega) (by omega) (by omega) (vty_code_lt _) (by omega) (by omega) (by simp))
theorem wait p q r s : Statement (.wait p q r s) := of_some rfl (eP_inRange (by decide) (by decide) (by omega) (by omega) (by omega) (by omega) (by decide) (by decide) (by decide) (by simp; omega))
theorem tset p q r : Statement (.tset p q r) := of_some rfl (eP_inRange (by decide) (by decide) (by decide) (by omega) (by omega) (by omega) (by decide) (by omega) (by omega) (by simp))
theorem trel p q : Statement (.trel p q) := of_some rfl (eP_inRange (by decide) (by decide) (by decide) (by omega) (by omega) (by omega) (by decide) (by omega) (by omega) (by simp; omega))
theorem tstat p q : Statement (.tstat p q) := of_some rfl (eP_inRange (by decide) (by decide) (by decide) (by omega) (by omega) (by omega) (by decide) (by omega) (by omega) (by simp; omega))
theorem twait p q : Statement (.twait p q) := of_some rfl (eP_inRange (by decide) (by decide) (by decide) (by decide) (by decide) (by decide) (by decide) (by decide) (by decide) (by simp; split <;> omega))
theorem subscr p q : Statement (.subscr p q) := of_some rfl (eP_inRange (by decide) (by decide) (by decide) (by omega) (by omega) (by omega) (by decide) (by omega) (by omega) (by simp))
theorem unsub p q : Statement (.unsub p q) := of_some rfl (eP_inRange (by decide) (by decide) (by decide) (by omega) (by omega) (by omega) (by decide) (by omega) (by omega) (by simp))
theorem fstat p q : Statement (.fstat p q) := of_some rfl (eP_inRange (by decide) (by decide) (by decide) (by omega) (by omega) (by omega) (by decide) (by omega) (by omega) (by simp))
theorem mxm p q : Statement (.mxm p q) := of_some rfl (eP_inRange (by decide) (by decide) (by decide) (by omega) (by omega) (by omega) (by decide) (by omega) (by omega) (by simp))
theorem mxz : Statement .mxz := of_some rfl (eP_inRange (by decide) (by decide) (by decide) (by omega) (by omega) (by omega) (by decide) (by omega) (by omega) (by simp))
theorem mxd p q : Statement (.mxd p q) := of_some rfl (eP_inRange (by decide) (by decide) (by decide) (by omega) (by omega) (by omega) (by decide) (by omega) (by omega) (by simp))
theorem mxstat p : Statement (.mxstat p) := of_some rfl (eP_inRange (by decide) (by decide) (by decide) (by omega) (by omega) (by omega) (by decide) (by omega) (by omega) (by simp))
theorem drnld p q r : Statement (.drnld p q r) := of_some rfl (eP_inRange (by decide) (by decide) (by decide) (by omega) (by omega) (by omega) (by decide) (by omega) (by omega) (by simp))
theorem adpinv p : Statement (.adpinv p) := of_some rfl (eP_inRange (by decide) (by decide) (by decide) (by omega) (by omega) (by omega) (by decide) (by omega) (by omega) (by simp))
theorem csrr p q : Statement (.csrr p q) := of_some rfl (eCsr_inRange _ _ (by decide))
theorem csrw p q : Statement (.csrw p q) := of_some rfl (eCsr_inRange _ _ (by decide))
theorem csrset p q : Statement (.csrset p q) := of_some rfl (eCsr_inRange _ _ (by decide))
theorem csrclr p q : Statement (.csrclr p q) := of_some rfl (eCsr_inRange _ _ (by decide))
theorem trap p : Statement (.trap p) := of_some rfl (by
  have := p.isLt
  refine eP_inRange (by decide) (by decide) (by decide) (by omega) (by omega) (by omega) (by decide) (by decide) (by decide) ?_
  intro i hi
  split at hi
  · simp at hi
  · simp only [List.mem_singleton] at hi; omega)
theorem rte : Statement .rte := of_some rfl (eP_inRange (by decide) (by decide) (by decide) (by omega) (by omega) (by omega) (by decide) (by omega) (by omega) (by simp))
theorem kill p : Statement (.kill p) := of_some rfl (eP_inRange (by decide) (by decide) (by decide) (by omega) (by omega) (by omega) (by decide) (by omega) (by omega) (by simp))
theorem iinv p : Statement (.iinv p) := of_some rfl (eP_inRange (by decide) (by decide) (by decide) (by omega) (by omega) (by omega) (by decide) (by omega) (by omega) (by simp))
theorem tktq p q : Statement (.tktq p q) := of_some rfl (eP_inRange (by decide) (by decide) (by decide) (by omega) (by omega) (by omega) (by decide) (by omega) (by omega) (by simp))
theorem lateTrapTaken p q : Statement (.lateTrapTaken p q) := of_none rfl
theorem step p q : Statement (.step p q) := of_none rfl
theorem unassignedEncoding p q : Statement (.unassignedEncoding p q) := of_none rfl
theorem discWrite p q : Statement (.discWrite p q) := of_none rfl
theorem mapwWrite p q : Statement (.mapwWrite p q) := of_none rfl
theorem mapgoWrite p q : Statement (.mapgoWrite p q) := of_none rfl
theorem mapInstall p : Statement (.mapInstall p) := of_none rfl
theorem mapNotice p : Statement (.mapNotice p) := of_none rfl
theorem diebaseWrite p : Statement (.diebaseWrite p) := of_none rfl
theorem powerOn p q : Statement (.powerOn p q) := of_none rfl
theorem bootCommand p : Statement (.bootCommand p) := of_none rfl
theorem bodyStart p : Statement (.bodyStart p) := of_none rfl
theorem slotRelease p q : Statement (.slotRelease p q) := of_none rfl
theorem lineFillAnswer p : Statement (.lineFillAnswer p) := of_none rfl
theorem loadResponse p : Statement (.loadResponse p) := of_none rfl
theorem acknowledgement p : Statement (.acknowledgement p) := of_none rfl
theorem snapshotRelease p : Statement (.snapshotRelease p) := of_none rfl
theorem requestPerform p : Statement (.requestPerform p) := of_none rfl
theorem messageArrival p : Statement (.messageArrival p) := of_none rfl
theorem overflowReturn p q : Statement (.overflowReturn p q) := of_none rfl
theorem fire p : Statement (.fire p) := of_none rfl
theorem steal p : Statement (.steal p) := of_none rfl
theorem stealRequest p : Statement (.stealRequest p) := of_none rfl
theorem stealReply p : Statement (.stealReply p) := of_none rfl
theorem gangGrant p : Statement (.gangGrant p) := of_none rfl
theorem nightfall p : Statement (.nightfall p) := of_none rfl
theorem slotSpill p : Statement (.slotSpill p) := of_none rfl
theorem slotSpillDone p q : Statement (.slotSpillDone p q) := of_none rfl
theorem slotRestore p : Statement (.slotRestore p) := of_none rfl
theorem ticketAnswer p : Statement (.ticketAnswer p) := of_none rfl
theorem replayNotice p : Statement (.replayNotice p) := of_none rfl
theorem failureNotice p : Statement (.failureNotice p) := of_none rfl
theorem atsResponse p q r : Statement (.atsResponse p q r) := of_none rfl
theorem priResponse p q r : Statement (.priResponse p q r) := of_none rfl
theorem ticketLimitExpiry p q : Statement (.ticketLimitExpiry p q) := of_none rfl
theorem atsInvalidation p q r s : Statement (.atsInvalidation p q r s) := of_none rfl
theorem lateRefusal p : Statement (.lateRefusal p) := of_none rfl
theorem twinExchange p q : Statement (.twinExchange p q) := of_none rfl
theorem ferrySubscribe p : Statement (.ferrySubscribe p) := of_none rfl
theorem handleReply p : Statement (.handleReply p) := of_none rfl
theorem deferredPoll p q : Statement (.deferredPoll p q) := of_none rfl
theorem deferredRead p q : Statement (.deferredRead p q) := of_none rfl
theorem ferryTileStart p q : Statement (.ferryTileStart p q) := of_none rfl
theorem segmentAnswer p q r : Statement (.segmentAnswer p q r) := of_none rfl
theorem fixupReplay p : Statement (.fixupReplay p) := of_none rfl
theorem unsubAtFerry p : Statement (.unsubAtFerry p) := of_none rfl
theorem fstatAtFerry p : Statement (.fstatAtFerry p) := of_none rfl
theorem leaseGrant p : Statement (.leaseGrant p) := of_none rfl
theorem blockFold p : Statement (.blockFold p) := of_none rfl
theorem adapterFetch p q : Statement (.adapterFetch p q) := of_none rfl
theorem mxzAtHead p : Statement (.mxzAtHead p) := of_none rfl
theorem adpinvAtHead p : Statement (.adpinvAtHead p) := of_none rfl
theorem drainStart p : Statement (.drainStart p) := of_none rfl
theorem drainGroupCommit p : Statement (.drainGroupCommit p) := of_none rfl
theorem migration p q : Statement (.migration p q) := of_none rfl
theorem migrationStream p : Statement (.migrationStream p) := of_none rfl
theorem switchMarker p : Statement (.switchMarker p) := of_none rfl
theorem forwarding p : Statement (.forwarding p) := of_none rfl
theorem dusk p : Statement (.dusk p) := of_none rfl
theorem partitionHalted p : Statement (.partitionHalted p) := of_none rfl
theorem dawn p q : Statement (.dawn p q) := of_none rfl
theorem flr p : Statement (.flr p) := of_none rfl
theorem teardownCommand p : Statement (.teardownCommand p) := of_none rfl
theorem hostMessageWrite p q r s : Statement (.hostMessageWrite p q r s) := of_none rfl
theorem bar4Access p q : Statement (.bar4Access p q) := of_none rfl
theorem vfRegisterWrite p q r : Statement (.vfRegisterWrite p q r) := of_none rfl
theorem hdrop p q : Statement (.hdrop p q) := of_none rfl
theorem hrefuse p q : Statement (.hrefuse p q) := of_none rfl
theorem attgo p q : Statement (.attgo p q) := of_none rfl
theorem msixRequest : Statement .msixRequest := of_none rfl
theorem invalidationMessage p : Statement (.invalidationMessage p) := of_none rfl
theorem ualinkMessageWrite p q r s : Statement (.ualinkMessageWrite p q r s) := of_none rfl
theorem operationRecord p q r s : Statement (.operationRecord p q r s) := of_none rfl
theorem resultRecord p q r : Statement (.resultRecord p q r) := of_none rfl
theorem linkDown p : Statement (.linkDown p) := of_none rfl
theorem ualinkTimeout p q : Statement (.ualinkTimeout p q) := of_none rfl
theorem linkUp p : Statement (.linkUp p) := of_none rfl
theorem linkReset p : Statement (.linkReset p) := of_none rfl
theorem remoteLaunch p : Statement (.remoteLaunch p) := of_none rfl
theorem setcsr p : Statement (.setcsr p) := of_none rfl
theorem getcsr p : Statement (.getcsr p) := of_none rfl
theorem iinvService p : Statement (.iinvService p) := of_none rfl
theorem nightch p : Statement (.nightch p) := of_none rfl
theorem super p : Statement (.super p) := of_none rfl
theorem load p q : Statement (.load p q) := of_none rfl
theorem thermalStep p : Statement (.thermalStep p) := of_none rfl
theorem lifetimeUpdate p : Statement (.lifetimeUpdate p) := of_none rfl
theorem traceSample p : Statement (.traceSample p) := of_none rfl
theorem dbgctlWrite p q : Statement (.dbgctlWrite p q) := of_none rfl
theorem partitionBuild p q r s t : Statement (.partitionBuild p q r s t) := of_none rfl
theorem powerLoss p : Statement (.powerLoss p) := of_none rfl
theorem mctpRequest p : Statement (.mctpRequest p) := of_none rfl
theorem badservice p : Statement (.badservice p) := of_none rfl
theorem ualinkReadWrite p q r s t : Statement (.ualinkReadWrite p q r s t) := of_none rfl
theorem ualinkCompletion p q r s : Statement (.ualinkCompletion p q r s) := of_none rfl
theorem entryLanding p : Statement (.entryLanding p) := of_none rfl
theorem creditReturn p q r : Statement (.creditReturn p q r) := of_none rfl

end Sys2Proof.Laws.Enc
end

