-- ==== Sys2Proof/Laws/Vec.lean ====
section
/-! SUPPORT. Laws/Vec.lean: what the shared operations of floating-point and vector instructions do when no register named is a bound
stream. -/

namespace Sys2Proof.Machine

open Sys2Proof.Terms

theorem updCur_updCur (s : State) (f g : Slot → Slot) : updCur (updCur s f) g = updCur s fun sl => g (f sl) := by
  simp only [updCur, setSlot, updCore, setCore_setCore, getCore_setCore_self, setCore_cur]
  simp

/-- A floating-point result: the destination, the flags gathered, the generator. -/
theorem floatResult_eq (s : State) (a : XReg) (v : Nat) (e : FEnv) :
    floatResult s a v e =
      .next (finish s (setX { curSlot s with fexc := (curSlot s).fexc ||| BitVec.ofNat 5 e.fl, lfsr := e.lfsr } a (BitVec.ofNat 64 v))
        [BitVec.ofNat 64 v]) := by
  rw [floatResult, retireX, updCur_updCur, retire_updCur] <;> simp [putEnv]

/-- Streams that an instruction does not name stay where they are. -/
theorem consume_unbound (sl : Slot) (rs : List VReg) (h : ∀ r ∈ rs, streamOf sl r = none) : consume sl rs = sl := by
  have key : (Vector.ofFn fun i : Fin 4 =>
      match sl.streams[i] with
      | some t => if rs.any (fun r => r.val == 28 + i.val) then some { t with pos := min (t.pos + 32) t.count } else some t
      | none => none) = sl.streams := by
    ext1 i hi
    rw [Vector.getElem_ofFn]
    change _ = sl.streams[(⟨i, hi⟩ : Fin 4)]
    cases hs : sl.streams[(⟨i, hi⟩ : Fin 4)] with
    | none => rfl
    | some t =>
      have : (rs.any fun r => r.val == 28 + i) = false := by
        rw [List.any_eq_false]
        intro r hr hh
        have hn := h r hr
        unfold streamOf at hn
        simp only [beq_iff_eq] at hh
        rw [dif_pos (by omega)] at hn
        have e : (⟨r.val - 28, by omega⟩ : Fin 4) = ⟨i, hi⟩ := by ext; simp; omega
        simp only [e] at hn
        rw [hs] at hn
        cases hn
      simp [this]
  exact congrArg (fun t => ({ sl with streams := t } : Slot)) key

theorem readSources_unbound (s : State) (sl : Slot) (rs : List VReg) (h : ∀ r ∈ rs, streamOf sl r = none) :
    readSources s sl rs = .ok (rs.map (getV sl), s) := by
  induction rs with
  | nil => rfl
  | cons r rs ih =>
    simp only [readSources, readSource, h r (by simp), ih (fun q hq => h q (by simp [hq]))]
    rfl

theorem streamFault_unbound (sl : Slot) (a b c : List VReg) (h : ∀ r ∈ a ++ b ++ c, streamOf sl r = none) :
    streamFault sl a b c = none := by
  have : ∀ r, streamFault1 sl a b c r = none := by
    intro r
    unfold streamFault1
    split
    · rfl
    · rename_i t ht
      have h1 : r ∉ a ∧ r ∉ b ∧ r ∉ c := by
        refine ⟨?_, ?_, ?_⟩ <;> intro hm <;> (rw [h r (by simp [hm])] at ht; cases ht)
      simp [h1]
  simp [streamFault, this]

/-- Lanes collected in order and then put in place are lanes put in place one after another. -/
theorem mapLanes_run (act : Mask32) (g : Fin 32 → FEnv → Nat × FEnv) (old : Lanes) (e : FEnv) :
    (putLanes old (mapLanes act g e).1, (mapLanes act g e).2) = laneRun act g old e := by
  unfold mapLanes laneRun laneList putLanes
  generalize List.finRange 32 = L
  suffices H : ∀ (ls : List (Fin 32 × Nat)),
      (List.foldl (fun v e => v.set e.1 (BitVec.ofNat 32 e.2)) old
        ((List.foldl (fun r l => let y := g l r.2; (r.1 ++ [(l, y.1)], y.2)) (ls, e) (List.filter (fun l => act.getLsbD l.val) L)).1 :
          List (Fin 32 × Nat)),
       (List.foldl (fun r l => let y := g l r.2; (r.1 ++ [(l, y.1)], y.2)) (ls, e) (List.filter (fun l => act.getLsbD l.val) L)).2) =
      List.foldl (fun (r : Lanes × FEnv) (l : Fin 32) =>
        if act.getLsbD l.val then ((r.1.set l (BitVec.ofNat 32 (g l r.2).1)), (g l r.2).2) else r)
        (List.foldl (fun v e => v.set e.1 (BitVec.ofNat 32 e.2)) old ls, e) L by
    simpa using H []
  intro ls
  induction L generalizing ls e with
  | nil => simp
  | cons l L ih =>
    by_cases hb : act.getLsbD l.val = true
    · simp only [List.filter_cons, hb, if_true, List.foldl_cons]
      rw [ih]; simp
    · simp only [List.filter_cons, hb, List.foldl_cons]
      simpa using ih e ls

/-- A vector instruction on unbound registers: its lanes written over the old destination. -/
theorem vecOp_unbound (s : State) (xs : List XReg) (srcs : List VReg) (a : VReg)
    (f : Slot → List Lanes → FEnv → List (Fin 32 × Nat) × FEnv) (hx : xReady s xs) (hv : vReady s (a :: srcs))
    (hu : unbound s (a :: srcs)) :
    vecOp s xs srcs a f =
      let r := f (curSlot s) (srcs.map (getV (curSlot s))) (envOf (curSlot s))
      .next (finish s (setV (putEnv (curSlot s) r.2) a (putLanes (getV (curSlot s) a) r.1))
        (vecWords (putLanes (getV (curSlot s) a) r.1))) := by
  unfold vecOp
  rw [needXV_ready _ hx hv, streamFault_unbound _ _ _ _ (by intro r hr; apply hu; simp at hr ⊢; tauto)]
  simp only [readSources_unbound s (curSlot s) srcs (fun r hr => hu r (by simp [hr])), orUE]
  unfold writeDest
  simp only [hu a (by simp)]
  have : ∀ r : List (Fin 32 × Nat) × FEnv,
      (updCur s fun sl => setV (putEnv (consume sl (a :: srcs)) r.2) a (putLanes (curSlot s).v[a] r.1)) =
        updCur s fun sl => setV (putEnv sl r.2) a (putLanes (curSlot s).v[a] r.1) := by
    intro r
    simp only [updCur, setSlot, updCore]
    congr 3
    have := consume_unbound (curSlot s) (a :: srcs) hu
    unfold curSlot curCore at this
    simp only [this]
  rw [this, retire_updCur]
  · rfl
  · simp [putEnv]
  · simp [putEnv]

end Sys2Proof.Machine
end

