-- ==== Sys2Proof/Laws/Requests.lean ====
section
/-! SUPPORT. Laws/Requests.lean: what the NI does with a request when nothing is outstanding, and what irrevocable operations do. -/

namespace Sys2Proof.Machine
open Sys2Proof.Terms

/-- Without a failed ticket none holds the requests to a home. -/
theorem none_held (c : Core) (h : Endpoint) (hf : noFailure c = true) :
    (c.tickets.toList.any fun e => e.state == .failed && e.hold && e.home == h) = false := by
  rw [List.any_eq_false]
  intro e he
  have := List.all_eq_true.mp hf e he
  simp_all

/-- An NI with nothing outstanding takes a request and sends it at once. -/
theorem pump_one (s : State) (site : Nat) (c : Core) (r : Req) (hr : c.reqs = [r]) (hh : c.halted = false) (hst : r.status = .held)
    (hs : r.snap = []) (hl : r.loads = []) (hf : noFailure c = true) : pump (setCore s site c) site =
      launch (setCore s site { c with reqs := [{ r with status := .flying }] }) site { r with status := .flying } := by
  have hm : mayGo c r = true := by
    simp only [mayGo, unheld, snapDone, hs, hl, holding, none_held c _ hf]
    simp [hr, hst]
  have e : ({ r with status := .flying, snap := [], loads := [] } : Req) = { r with status := .flying } := by rw [hs, hl]
  simp only [pump, getCore_setCore_self, hr, List.filter_cons, hst, List.filter_nil]
  simp only [beq_self_eq_true, if_true, pumpList, getCore_setCore_self, hh, hm, Bool.not_false, Bool.and_self, setReq, hr, List.map_cons, List.map_nil, setCore_setCore, e]

/-- A request whose address leads somewhere is put on its way there. -/
theorem launch_leads (s : State) (site : Nat) (r : Req) (home dst : Endpoint) (hl : leads s r.addr home dst) (hsite : site = s.cur.1) (hh : r.home = home) (hp : r.phys = false)
   (hm : ∀ m, r.op ≠ .msg m) : launch s site r = sendPkt s { src := .core site, dst := dst, cls := .req, body := .req (reqPkt s site r) } := by
  have hc : reqCls r.op = .req := by
    unfold reqCls; split
    · exact absurd ‹_› (hm _)
    · rfl
  have hd : dstNumber r = if space r.addr = 0xF then some (meshCore r.addr) else none := by
    unfold dstNumber; split
    · exact absurd ‹_› (hm _)
    · rfl
  subst hh hsite
  unfold launch
  rw [hp, hd, hc]
  rcases hl with ⟨h0, h1, rfl⟩ | ⟨h0, h1, rfl⟩ | ⟨h0, x, y, h1, h2, h3, rfl⟩
  · simp [h0, h1]
  · simp [h0, h1]
  · simp [h0, h3, h2]
/-- Where an address leads depends on the maps, the faulty sites and the bases alone. -/
theorem leads_congr {s t : State} (hc : t.cur = s.cur) (hd : t.dies = s.dies) (hf : t.failed = s.failed) (hm : t.moved = s.moved) (hv : t.devid = s.devid)
   (hb : t.bases = s.bases) (h1 : (curCore t).mapVer = (curCore s).mapVer) (h2 : (curCore t).baseVer = (curCore s).baseVer) (a : Word) (home dst : Endpoint) :
   leads t a home dst = leads s a home dst := by
  have hdie : ∀ d, getDie t d = getDie s d := by intro d; simp [getDie, hd]
  have hw : ∀ x, working t x = working s x := by intro x; simp [working, hf, hd]
  have hn : ∀ d v l, numberSite t d v l = numberSite s d v l := by intro d v l; simp [numberSite, hdie, hw, hm]
  have hct : ∀ d, ctrlSite t d = ctrlSite s d := by intro d; simp [ctrlSite, hf]
  have hs : ∀ l, siteOf t l = siteOf s l := by intro l; simp [siteOf, hdie, hn, hct]
  have hr : ∀ l, routeTo t t.cur.1 l = routeTo s s.cur.1 l := by
    intro l
    unfold curCore at h1 h2
    simp only [routeTo, hdie, hn, hct, hc, basesAt, hb] at *
    rw [h1, h2]
  simp only [leads, hs, hr, hv]

/-- A request taken by an idle NI. -/
theorem injectAll_one (s : State) (r : Req) (home dst : Endpoint) (h1 : (curCore s).reqs = []) (h2 : (curCore s).halted = false)
   (hs : r.snap = []) (hld : r.loads = []) (hf : noFailure (curCore s) = true) (hh : r.home = home) (hp : r.phys = false) (hm : ∀ m, r.op ≠ .msg m) (hl : leads s r.addr home dst) :
   let q : Req := { r with uid := (curCore s).nextUid, seqn := (curCore s).nextSeq, status := .flying }
   injectAll s s.cur.1 [r] = sendPkt (setCore s s.cur.1 { curCore s with nextSeq := (curCore s).nextSeq + 1, nextUid := (curCore s).nextUid + 1, reqs := [q] })
     { src := .core s.cur.1, dst := dst, cls := .req, body := .req (reqPkt s s.cur.1 q) } := by
  intro q
  unfold injectAll
  have hc : getCore s s.cur.1 = curCore s := rfl
  simp only [hc, List.length_singleton, List.zipIdx_singleton, List.map_cons, List.map_nil, h1, List.nil_append]
  rw [pump_one s s.cur.1 _ { r with uid := (curCore s).nextUid, seqn := (curCore s).nextSeq, status := .held } (by simp) (by simpa using h2) rfl hs hld (by exact hf)]
  rw [launch_leads (home := home) (dst := dst) (hsite := by simp) (hh := by exact hh) (hp := by exact hp) (hm := by exact hm)]
  · obtain ⟨op, hop⟩ : ∃ op, r.op = op := ⟨_, rfl⟩
    simp only [reqPkt, coreNumber, getCore_setCore_self, q, hop]
    cases op <;> first | exact absurd hop (hm _) | rfl
  · rw [leads_congr (s := s)]
    · exact hl
    all_goals (try rfl)
    all_goals simp [curCore]

theorem afterRemote_eq (u : State) (ws : List Word) (h : (curSlot u).strict = false) :
    afterRemote u ws = .next (finish u (curSlot u) ws) := by
  simp [afterRemote, h, retire_eq]

theorem curSlot_sent (u : State) (c : Core) (p : Packet) : curSlot (sendPkt (setCore u u.cur.1 c) p) = c.slots[u.cur.2] := by
  change (getCore (setCore u u.cur.1 c) u.cur.1).slots[u.cur.2] = _
  rw [getCore_setCore_self]

theorem finish_sent (u : State) (c : Core) (p : Packet) (sl : Slot) (ws : List Word) (pc : Word) :
    retired (sendPkt (setCore u u.cur.1 c) p) c sl pc ws = { retired (setCore u u.cur.1 c) c sl pc ws with net := u.net ++ [p] } := rfl

theorem retired_setCore (u : State) (c c' : Core) (sl : Slot) (ws : List Word) (pc : Word) :
    retired (setCore u u.cur.1 c') c sl pc ws = setCore u u.cur.1 { c with
      slots := c'.slots.set u.cur.2
        { sl with pc := pc, mode := .run, retired := sl.retired + 1, fprint := ws.foldl (fun f w => f.rotateLeft 5 ^^^ w) sl.fprint,
                  folds := sl.folds + ws.length, stepOwed := sl.stepOwed || owesStep c u.cur.2 sl },
      events := c.events.set 0 (c.events[0] + 1) } := by
  unfold retired
  simp only [curCore, setCore_cur, getCore_setCore_self, setCore_setCore]

/-- An instruction's request at an idle NI: it enters the table, its packet leaves, and the instruction retires. -/
theorem sendReq_idle (s : State) (op : ROp) (addr : Word) (home dst : Endpoint) (ordered : Bool) (dest : RDest) (l st e : Bool) (ws : List Word)
   (hi : idleNi s) (hl : l = true → (curSlot s).cntL < 31) (hs : st = true → (curSlot s).cntS < 64) (hstr : (curSlot s).strict = false)
   (hm : ∀ m, op ≠ .msg m) (hld : leads s addr home dst) :
   sendReq s (mkReq s op addr home ordered dest l st e) ws = .next (asked s (askReq s op addr home ordered dest l st e)
      (raiseFor (curSlot s) (askReq s op addr home ordered dest l st e)) ws (firstPacket s op addr ordered dst)) := by
  obtain ⟨h1, h2, h3, h4⟩ := hi
  have hroom : roomFor s l st = true := by
    simp only [roomFor, h3, replayUsed, h1, List.filter_nil, List.map_nil]
    cases l <;> cases st <;> simp_all [Config.replayMax]
  have hr : ∀ sl r, (raiseFor sl r).strict = sl.strict ∧ (raiseFor sl r).pc = sl.pc ∧ (raiseFor sl r).ilen = sl.ilen := by
    intro sl r
    unfold raiseFor
    cases r.dest <;> simp [setPendX, setPendV]
    split <;> simp
  unfold sendReq
  have e1 : (mkReq s op addr home ordered dest l st e).cntL = l := rfl
  have e2 : (mkReq s op addr home ordered dest l st e).cntS = st := rfl
  rw [e1, e2, if_pos hroom]
  have hraise : raiseFor (curSlot s) (mkReq s op addr home ordered dest l st e) = raiseFor (curSlot s) (askReq s op addr home ordered dest l st e) := rfl
  generalize hsl : raiseFor (curSlot s) (askReq s op addr home ordered dest l st e) = sl at hraise
  have hr' := hr (curSlot s) (askReq s op addr home ordered dest l st e)
  rw [hsl] at hr'
  have hu : (updCur s fun sl => raiseFor sl (mkReq s op addr home ordered dest l st e)) = setCore s s.cur.1 { curCore s with slots := (curCore s).slots.set s.cur.2 sl } := by
    rw [← hraise]; rfl
  rw [hu]
  generalize hs1 : setCore s s.cur.1 { curCore s with slots := (curCore s).slots.set s.cur.2 sl } = s1
  have hcur : s1.cur = s.cur := by rw [← hs1]; rfl
  have hcc : curCore s1 = { curCore s with slots := (curCore s).slots.set s.cur.2 sl } := by
    rw [← hs1]; simp [curCore]
  rw [← hcur, injectAll_one s1 _ home dst (by rw [hcc]; exact h1) (by rw [hcc]; exact h2) rfl rfl (by rw [hcc]; exact h4) rfl rfl hm]
  · generalize hp : ({ src := .core s1.cur.1, dst := dst, cls := .req, body := _ } : Packet) = p
    have hb : ∀ c : Core, curCore (sendPkt (setCore s1 s1.cur.1 c) p) = c := by
      intro c; change getCore (setCore s1 s1.cur.1 c) s1.cur.1 = c; rw [getCore_setCore_self]
    have hsl1 : ((curCore s1).slots)[s1.cur.2] = sl := by simp [hcc, hcur]
    rw [afterRemote_eq]
    · unfold finish fallThrough
      rw [curSlot_sent, hb, finish_sent, retired_setCore]
      have hpc : streamStep sl.pc sl.ilen = fallThrough s := by rw [hr'.2.1, hr'.2.2]; rfl
      simp only [hsl1, hpc]
      unfold asked
      congr 1
      rw [← hp]
      simp only [hcc, hcur]
      subst hs1
      simp only [setCore_setCore, Vector.set_set, retired, reqPkt, firstPacket, coreNumber, getCore_setCore_self]
      cases op <;> first | exact absurd rfl (hm _) | rfl
    · rw [curSlot_sent]; simp only [hsl1, hr'.1, hstr]
  · rw [leads_congr (s := s)]
    · exact hld
    all_goals (try rw [hcc])
    all_goals (first | exact hcur | (rw [← hs1]; rfl) | rfl)

/-- Without a twin an irrevocable operation that does not stall, and whose outbox has room, is performed after the release. -/
theorem irrevocable_solo (s : State) (dest : XReg) (side : State → State) (k : State → Res) (t : State) (ht : (curSlot s).twin = none)
    (hroom : (curSlot s).replayable = true → outboxRoom s s.cur.1 s.cur.2 = true) (hk : k (released s) = .next t) (hm : (curSlot t).mode ≠ .stalled ∨ (curSlot t).strictReq ≠ none) :
    irrevocable s dest side k = .next t := by
  have hn : ((curSlot s).replayable && !outboxRoom s s.cur.1 s.cur.2) = false := by
    cases h : (curSlot s).replayable <;> simp_all
  unfold irrevocable needOutbox
  rw [hn]
  unfold released at hk
  simp only [ht, hk, Bool.false_eq_true, if_false]
  rw [if_neg]
  tauto

/-- Nothing is released where nothing is buffered. -/
theorem released_plain (s : State) (h : (curSlot s).replayable = false) : released s = s := by
  have : (getSlot s s.cur.1 s.cur.2).replayable = false := h
  simp [released, release, this]

theorem homeOf_leads (s : State) (a : Word) (home dst : Endpoint) (h : leads s a home dst) : homeOf s a = home := by
  rcases h with ⟨h0, h1, -⟩ | ⟨h0, h1, -⟩ | ⟨h0, x, y, h1, h2, h3, -⟩ <;> simp [homeOf, h0, *]

theorem retired_mode (s : State) (c : Core) (sl : Slot) (pc : Word) (ws : List Word) : (curSlot (retired s c sl pc ws)).mode = .run := by
  simp [retired, curSlot, curCore]

/-- A posted request of an activation that is neither replayable nor a twin, at an idle NI. -/
theorem postReq_plain (s : State) (op : ROp) (a : Word) (home dst : Endpoint) (ordered : Bool) (ws : List Word) (hp : plainAct s)
    (hi : idleNi s) (hs : (curSlot s).cntS < 64) (hstr : (curSlot s).strict = false) (hm : ∀ m, op ≠ .msg m) (hl : leads s a home dst) :
    postReq s op a ordered ws = .next (asked s (askReq s op a home ordered .none false true false)
      { curSlot s with cntS := (curSlot s).cntS + 1 } (a :: ws) (firstPacket s op a ordered dst)) := by
  obtain ⟨h1, h2⟩ := hp
  have : postReq s op a ordered ws = sendReq s (mkReq s op a home ordered .none false true false) (a :: ws) := by
    unfold postReq
    simp only [h1, h2, id_eq, Bool.false_eq_true, if_false, homeOf_leads s a home dst hl]
  rw [this, sendReq_idle (dst := dst) (hi := hi) (hl := by simp) (hs := fun _ => hs) (hstr := hstr) (hm := hm) (hld := hl)]
  rfl

/-- A posted request of a replayable activation enters the outbox. -/
theorem postReq_buffered (s : State) (op : ROp) (a : Word) (ordered : Bool) (ws : List Word) (hr : (curSlot s).replayable = true)
    (hn : (curSlot s).outbox.length < 32) :
    postReq s op a ordered ws = .next (finish s { curSlot s with
      outbox := (curSlot s).outbox ++
        [{ op := op, addr := a, ordered := ordered, winbase := (curSlot s).winbase, retAt := (curSlot s).retired + 1, snapReads := [],
           rect := none }] }
      (a :: ws)) := by
  have h : postReq s op a ordered ws = .next (retire (updCur s fun sl =>
      { sl with outbox := sl.outbox ++
          [{ op := op, addr := a, ordered := ordered, winbase := sl.winbase, retAt := sl.retired + 1, snapReads := [], rect := none }] })
      (a :: ws)) := by
    unfold postReq
    simp only [hr, if_true, id_eq, Bool.false_eq_true, if_false, show Config.outboxMax = 32 from rfl, hn]
  rw [h, retire_updCur] <;> rfl

end Sys2Proof.Machine
end

