-- ==== Sys2Proof/Laws/Spill.lean ====
section
/-! SUPPORT. Laws/Spill.lean: what the NI does when it starts a BULK access and a spill (spec/07 R132, spec/11 R188). -/

namespace Sys2Proof.Machine

/-- The BULK access that a core's NI starts next. -/
def nextBulk (s : State) (site : Nat) (k : BulkKind) (a : Word) (op : ROp) : Bulk :=
  { uid := (getCore s site).nextUid, kind := k, op := op, addr := a }

/-- A BULK access puts one packet of the bulk class, to the home of its address, behind those on the network. -/
theorem sendBulk_net (s : State) (site : Nat) (k : BulkKind) (a : Word) (op : ROp) :
    ∃ p, (sendBulk s site k a op).net = s.net ++ [p] ∧ p.src = .core site ∧ p.dst = .ferry (homeFerry a) ∧ p.cls = .bulk :=
  ⟨_, rfl, rfl, rfl, rfl⟩

/-- It enters the NI's list under the next number, and nothing else of the core changes. -/
theorem sendBulk_core (s : State) (site : Nat) (k : BulkKind) (a : Word) (op : ROp) :
    getCore (sendBulk s site k a op) site =
      { getCore s site with nextUid := (getCore s site).nextUid + 1, bulks := (getCore s site).bulks ++ [nextBulk s site k a op] } := by
  simp [sendBulk, flyBulk, sendPkt, getCore, setCore, nextBulk]

/-- A spill that starts is the core's spill under the number of its write, and its message and the one that came are not placed yet. -/
theorem startSpill_core (s : State) (site ch : Nat) (x : Chan) (out : QMsg) (come : Option QMsg) (b : Spiller) :
    let c := getCore s site
    let p : Spill := { uid := c.nextUid, chan := ch, gen := x.gen, ix := spillIx x, out := out, come := come, by_ := b }
    let t := startSpill s site ch x out come b
    (getCore t site).spilling = some p ∧ (getCore t site).chans = c.chans ∧
      (getCore t site).bulks =
        c.bulks ++ [{ uid := p.uid, kind := .ovfSpill, op := .write (msgBytes out.msg), addr := x.ovfBase + BitVec.ofNat 64 (64 * p.ix) }] := by
  intro c p t
  have h := sendBulk_core (setCore s site { c with spilling := some p }) site .ovfSpill (x.ovfBase + BitVec.ofNat 64 (64 * p.ix)) (.write (msgBytes out.msg))
  refine ⟨?_, ?_, ?_⟩ <;> (show _ = _; simp only [t, startSpill, p, c] at h ⊢; rw [h]; simp [nextBulk])

end Sys2Proof.Machine
end

