-- ==== Sys2Proof/Tests/Slice0.lean ====
section
/-! SUPPORT. Tests/Slice0.lean: ill-formed terms refused, words of the spec's encodings decoded, and for each statement a concrete state
that meets its hypotheses with what the rules give there. Words come from the opcode map and the formats of spec/03; results are worked out
by hand from the rules named. -/

set_option maxRecDepth 20000

namespace Sys2Proof.Tests

open Machine Terms

-- Helpers: a user core at site 1 of partition 0, a slot, and what holds after one step

def regs (l : List (Nat × Word)) : Vector Word 32 := Vector.ofFn fun i => (tget l i.val).getD 0
def slotOf (l : List (Nat × Word)) : Slot := { mode := .run, pc := 0x100010, x := regs l, actId := 5 }
def coreOf (sl : Slot) : Core := { part := some 0, lcore := some 1, mapVer := 1, slots := #v[sl, {}, {}, {}] }
def map0 : Die := { commits := [⟨0, [none, some 1, some 2, some 3]⟩] }
def baseState : State :=
  { cur := (1, 0), focus := 1, dies := #v[map0, {}, {}, {}],
    parts := [(0, { running := true, clusters := [0], pasids := [7, 7, 7, 7], supcore := some 1 })] }
def stateOf (c : Core) : State := { baseState with cores := [(1, c)] }
def run (l : List (Nat × Word)) : State := stateOf (coreOf (slotOf l))
/-- The step gives a next state with the property. -/
def after (r : Res) (p : State → Bool) : Bool :=
  match r with
  | .next t => p t
  | _ => false
def isX (s : State) (a : XReg) (v : Word) : Bool := getX (curSlot s) a == v
/-- The current slot has entered its handler with this cause and value. -/
def trapped (cause : BitVec 8) (tval : Word) (t : State) : Bool := (curSlot t).cause == cause && (curSlot t).tval == tval
def handled (c : Core) : State := stateOf { c with tvec := 0x200000 }

-- Well-formedness

theorem test_wf_offset : (Instr.ldD 1 2 (2 ^ 35) false).wf = false ∧ (Instr.ldD 1 2 (2 ^ 35 - 1) false).wf = true := by decide
theorem test_wf_addi : (Instr.addi 1 2 (2 ^ 38)).wf = false ∧ (Instr.addi 1 2 (-(2 ^ 38))).wf = true := by decide
theorem test_wf_li : (Instr.li 1 (2 ^ 42)).wf = false := by decide
theorem test_wf_store : (Instr.stB 1 2 (-(2 ^ 35) - 1) false).wf = false := by decide
theorem test_wf_branch : (Instr.bcEq 1 2 (2 ^ 35)).wf = false ∧ (Instr.br (2 ^ 46)).wf = false := by decide
theorem test_wf_fp16 : (Instr.fadd .f16 ⟨.rne, false⟩ 1 2 3).wf = false ∧ (Instr.fcvtFf .f16 .f32 ⟨.rne, false⟩ 1 2).wf = true := by decide
theorem test_wf_lane_rounding : (Instr.vadd .s32 ⟨.rz, false⟩ 1 2 3 0).wf = false ∧ (Instr.vdiv .n32 ⟨.rne, true⟩ 1 2 3 0).wf = false ∧
    (Instr.vadd .s32 ⟨.rne, true⟩ 1 2 3 0).wf = true := by decide
theorem test_wf_vabs : (Instr.vabs .n32 1 2 0).wf = false := by decide
theorem test_wf_scan_rounding : (Instr.vscan .n32 .ru 1 2 0).wf = false := by decide
theorem test_wf_vector_offset : (Instr.vld 1 2 (2 ^ 35) false 0).wf = false := by decide
theorem test_wf_payload : (Instr.send 1 28 5).wf = false ∧ (Instr.send 1 28 4).wf = true := by decide
theorem test_wf_low_registers : (Instr.exitf 16).wf = false ∧ (Instr.csrr 16 0x104).wf = false ∧ (Instr.iinv 16).wf = false ∧
    (Instr.tktq 1 16).wf = false := by decide
theorem test_wf_events : (Instr.setcsr 4).wf = false ∧ (Instr.bodyStart 4096).wf = false ∧ (Instr.overflowReturn 1 256).wf = false ∧
    (Instr.migration 1 4096).wf = false ∧ (Instr.dusk 48).wf = false ∧ (Instr.deferredPoll 128 0).wf = false ∧
    (Instr.leaseGrant 1024).wf = false ∧ (Instr.hdrop 48 0).wf = false ∧ (Instr.linkUp 16).wf = false := by decide

-- Words, from the opcode map (R47) and the formats (R35 to R41)

/-- The decoder reads the word as the instruction, whole. -/
def reads (e : List Half × Instr) : Bool :=
  match decode e.1 with
  | .ok (i, n) => decide (i = e.2) && n == e.1.length
  | .error _ => false

theorem test_words_integer_1 :
    ([([0xFAA8, 0x0C98], .add 9 10 19),
      ([0xFAA8, 0x0C99], .sub 9 10 19),
      ([0xFAA8, 0x0C9A], .and 9 10 19),
      ([0xFAA8, 0x0C9B], .or 9 10 19),
      ([0xFAA8, 0x0C9C], .xor 9 10 19),
      ([0xFAA8, 0x0C9D], .andn 9 10 19),
      ([0xFAA8, 0x0C9E], .orn 9 10 19),
      ([0xFAA8, 0x0C9F], .xnor 9 10 19),
      ([0xFAA8, 0x1498], .shl 9 10 19),
      ([0xFAA8, 0x1499], .shr 9 10 19),
      ([0xFAA8, 0x149A], .sar 9 10 19),
      ([0xFAA8, 0x149B], .rol 9 10 19),
      ([0xFAA8, 0x149C], .ror 9 10 19),
      ([0xFAA8, 0x149D], .min 9 10 19),
      ([0xFAA8, 0x149E], .max 9 10 19),
      ([0xFAA8, 0x149F], .minn 9 10 19),
      ([0xFAA8, 0x1C98], .mul 9 10 19),
      ([0xFAA8, 0x1C99], .mulh 9 10 19),
      ([0xFAA8, 0x1C9A], .mulhn 9 10 19),
      ([0xFAA8, 0x1C9B], .div 9 10 19)] : List (List Half × Instr)).all reads = true := by decide

theorem test_words_integer_2 :
    ([([0xFAA8, 0x1C9C], .divn 9 10 19),
      ([0xFAA8, 0x1C9D], .rem 9 10 19),
      ([0xFAA8, 0x1C9E], .remn 9 10 19),
      ([0xFAA8, 0x1C9F], .maxn 9 10 19),
      ([0xFAA8, 0x2498], .seq 9 10 19),
      ([0xFAA8, 0x2499], .sne 9 10 19),
      ([0xFAA8, 0x249A], .slt 9 10 19),
      ([0xFAA8, 0x249B], .sltn 9 10 19),
      ([0xFAA8, 0x249C], .sle 9 10 19),
      ([0xFAA8, 0x249D], .slen 9 10 19),
      ([0xFAA8, 0xFE50, 0x249E], .sel 9 10 19 5),
      ([0x2CD8], .clz 9 11),
      ([0x2CD9], .ctz 9 11),
      ([0x2CDA], .popc 9 11),
      ([0x2CDB], .brev 9 11),
      ([0x2CDC], .bswap 9 11),
      ([0x2CDF], .mov 9 11),
      ([0xFA25, 0x2CDD], .sext .h 9 11),
      ([0xFA26, 0x2CDE], .zext .w 9 11)] : List (List Half × Instr)).all reads = true := by decide

theorem test_words_immediate :
    ([([0x34DE], .addi 9 11 (-2)),
      ([0x44DE], .andi 9 11 (-2)),
      ([0x4CDE], .ori 9 11 (-2)),
      ([0x54DE], .xori 9 11 (-2)),
      ([0x3CC0], .li 9 (-64)),
      ([0xF821, 0x5CD8], .shli 9 11 33),
      ([0xF821, 0x5CD9], .shri 9 11 33),
      ([0xF821, 0x5CDA], .sari 9 11 33),
      ([0xF821, 0x5CDB], .rori 9 11 33)] : List (List Half × Instr)).all reads = true := by decide

theorem test_words_memory :
    ([([0xFC01, 0xF9F8, 0x64D8], .ldSb 9 11 (-8) true),
      ([0xFC01, 0xF9F8, 0x64D9], .ldNb 9 11 (-8) true),
      ([0xFC01, 0xF9F8, 0x64DA], .ldSh 9 11 (-8) true),
      ([0xFC01, 0xF9F8, 0x64DB], .ldNh 9 11 (-8) true),
      ([0xFC01, 0xF9F8, 0x64DC], .ldSw 9 11 (-8) true),
      ([0xFC01, 0xF9F8, 0x64DD], .ldNw 9 11 (-8) true),
      ([0xFC01, 0xF9F8, 0x64DE], .ldD 9 11 (-8) true),
      ([0xFC01, 0xF9F8, 0x6CD8], .stB 9 11 (-8) true),
      ([0xFC01, 0xF9F8, 0x6CD9], .stH 9 11 (-8) true),
      ([0xFC01, 0xF9F8, 0x6CDA], .stW 9 11 (-8) true),
      ([0xFC01, 0xF9F8, 0x6CDB], .stD 9 11 (-8) true)] : List (List Half × Instr)).all reads = true := by decide

theorem test_words_branch :
    ([([0xF9FD, 0x74D8], .bcEq 9 11 (-3)),
      ([0xF9FD, 0x74D9], .bcNe 9 11 (-3)),
      ([0xF9FD, 0x74DA], .bcLt 9 11 (-3)),
      ([0xF9FD, 0x74DB], .bcGe 9 11 (-3)),
      ([0xF9FD, 0x74DC], .bcLtn 9 11 (-3)),
      ([0xF9FD, 0x74DD], .bcGen 9 11 (-3)),
      ([0x792C], .br 300),
      ([0x87FF], .call (-1)),
      ([0x8858], .jr 11),
      ([0x8859], .callr 11),
      ([0x8802], .ret),
      ([0xF000], .nop),
      ([0xF007], .brk)] : List (List Half × Instr)).all reads = true := by decide

theorem test_words_float_1 :
    ([([0xFC54, 0xFA29, 0x04D8], .fadd .f64 ⟨.rd, true⟩ 9 10 11),
      ([0xFC54, 0xFA29, 0x04D9], .fsub .f64 ⟨.rd, true⟩ 9 10 11),
      ([0xFC54, 0xFA29, 0x04DA], .fmul .f64 ⟨.rd, true⟩ 9 10 11),
      ([0xFC54, 0xFA29, 0x04DB], .fdiv .f64 ⟨.rd, true⟩ 9 10 11),
      ([0xFC54, 0xFA29, 0x0CD8], .fma .f64 ⟨.rd, true⟩ 9 10 11),
      ([0xFC54, 0xFA29, 0x0CD9], .fms .f64 ⟨.rd, true⟩ 9 10 11),
      ([0xFC54, 0xFA29, 0x0CDA], .fnma .f64 ⟨.rd, true⟩ 9 10 11),
      ([0xFC54, 0xFA29, 0x0CDB], .fnms .f64 ⟨.rd, true⟩ 9 10 11),
      ([0xFC54, 0xFA25, 0x04DE], .fsqrt .f64 ⟨.rd, true⟩ 9 11),
      ([0xFC40, 0xFA2A, 0x04DC], .fmin .bf16 9 10 11),
      ([0xFC40, 0xFA2A, 0x04DD], .fmax .bf16 9 10 11),
      ([0xFC40, 0xFA2A, 0x14D8], .feq .bf16 9 10 11),
      ([0xFC40, 0xFA2A, 0x14D9], .flt .bf16 9 10 11),
      ([0xFC40, 0xFA2A, 0x14DA], .fle .bf16 9 10 11),
      ([0xFC40, 0xFA2A, 0x14DB], .funord .bf16 9 10 11),
      ([0xFC40, 0xFA2A, 0x14DF], .fsign .bf16 9 10 11),
      ([0xFC40, 0xFA26, 0x14DC], .fclass .bf16 9 11),
      ([0xFC40, 0xFA26, 0x14DD], .fabs .bf16 9 11),
      ([0xFC40, 0xFA26, 0x14DE], .fneg .bf16 9 11),
      ([0xFC48, 0xFA25, 0x1CD8], .fcvtF2i .f64 .rz 9 11)] : List (List Half × Instr)).all reads = true := by decide

theorem test_words_float_2 :
    ([([0xFC48, 0xFA25, 0x1CD9], .fcvtF2n .f64 .rz 9 11),
      ([0xFC54, 0xFA25, 0x1CDA], .fcvtI2f .f64 ⟨.rd, true⟩ 9 11),
      ([0xFC54, 0xFA25, 0x1CDB], .fcvtN2f .f64 ⟨.rd, true⟩ 9 11),
      ([0xFC54, 0xFA27, 0xFE01, 0x1CDC], .fcvtFf .f16 .f64 ⟨.rd, true⟩ 9 11),
      ([0xFC54, 0xFE01, 0x1CDD], .fcvtF2e .f32 .e5m2 ⟨.rd, true⟩ 9 11),
      ([0xFC40, 0xFE01, 0x1CDE], .fcvtE2f .f32 .e5m2 9 11)] : List (List Half × Instr)).all reads = true := by decide

theorem test_words_lanes_1 :
    ([([0xFC94, 0xFAA8, 0xFE03, 0x04A8], .vadd .f32 ⟨.rd, true⟩ 9 10 21 3),
      ([0xFC94, 0xFAA8, 0xFE03, 0x04A9], .vsub .f32 ⟨.rd, true⟩ 9 10 21 3),
      ([0xFC94, 0xFAA8, 0xFE03, 0x04AA], .vmul .f32 ⟨.rd, true⟩ 9 10 21 3),
      ([0xFC94, 0xFAA8, 0xFE03, 0x0CAD], .vdiv .f32 ⟨.rd, true⟩ 9 10 21 3),
      ([0xFC94, 0xFAA8, 0xFE03, 0x14A8], .vfma .f32 ⟨.rd, true⟩ 9 10 21 3),
      ([0xFC94, 0xFAA8, 0xFE03, 0x14A9], .vfms .f32 ⟨.rd, true⟩ 9 10 21 3),
      ([0xFC94, 0xFAA8, 0xFE03, 0x14AA], .vfnma .f32 ⟨.rd, true⟩ 9 10 21 3),
      ([0xFC94, 0xFAA8, 0xFE03, 0x14AB], .vfnms .f32 ⟨.rd, true⟩ 9 10 21 3),
      ([0xFC80, 0xFAAA, 0xFE03, 0x04AB], .vmin .n32 9 10 21 3),
      ([0xFC80, 0xFAAA, 0xFE03, 0x04AC], .vmax .n32 9 10 21 3),
      ([0xFC80, 0xFAAA, 0xFE03, 0x1AA8], .vceq .n32 5 10 21 3),
      ([0xFC80, 0xFAAA, 0xFE03, 0x1AA9], .vcne .n32 5 10 21 3),
      ([0xFC80, 0xFAAA, 0xFE03, 0x1AAA], .vclt .n32 5 10 21 3),
      ([0xFC80, 0xFAAA, 0xFE03, 0x1AAB], .vcle .n32 5 10 21 3),
      ([0xFC80, 0xFAA8, 0xFE03, 0x04AD], .vand 9 10 21 3),
      ([0xFC80, 0xFAA8, 0xFE03, 0x04AE], .vor 9 10 21 3),
      ([0xFC80, 0xFAA8, 0xFE03, 0x04AF], .vxor 9 10 21 3),
      ([0xFC80, 0xFAA8, 0xFE03, 0x0CA8], .vshl 9 10 21 3),
      ([0xFC80, 0xFAA8, 0xFE03, 0x0CA9], .vshr 9 10 21 3),
      ([0xFC80, 0xFAA8, 0xFE03, 0x0CAA], .vsar 9 10 21 3)] : List (List Half × Instr)).all reads = true := by decide

theorem test_words_lanes_2 :
    ([([0xFC80, 0xFAA8, 0xFE03, 0x24AE], .vperm 9 10 21 3),
      ([0xFC80, 0xFAA8, 0xFE63, 0x24A8], .vsel 9 10 21 6 3),
      ([0xFC80, 0xFA25, 0xFE03, 0x0CDB], .vabs .s32 9 11 3),
      ([0xFC80, 0xFA25, 0xFE03, 0x0CDC], .vneg .s32 9 11 3),
      ([0xFC80, 0xFA25, 0xFE03, 0x2CD9], .vrmin .s32 9 11 3),
      ([0xFC80, 0xFA25, 0xFE03, 0x2CDA], .vrmax .s32 9 11 3),
      ([0xFC94, 0xFE03, 0x0CDE], .vsqrt ⟨.rd, true⟩ 9 11 3),
      ([0xFC94, 0xFE03, 0x34D8], .vexp2 ⟨.rd, true⟩ 9 11 3),
      ([0xFC94, 0xFE03, 0x34D9], .vlog2 ⟨.rd, true⟩ 9 11 3),
      ([0xFC94, 0xFE03, 0x34DA], .vrcp ⟨.rd, true⟩ 9 11 3),
      ([0xFC94, 0xFE03, 0x34DB], .vrsq ⟨.rd, true⟩ 9 11 3),
      ([0xFC94, 0xFE03, 0x34DC], .vtanh ⟨.rd, true⟩ 9 11 3),
      ([0xFC94, 0xFE03, 0x34DD], .vsigm ⟨.rd, true⟩ 9 11 3),
      ([0xFC94, 0xFE03, 0x3CD9], .vcvtS2f ⟨.rd, true⟩ 9 11 3),
      ([0xFC94, 0xFE03, 0x3CDB], .vcvtN2f ⟨.rd, true⟩ 9 11 3),
      ([0xFC94, 0xFE03, 0x3CDD], .vcvtF2bf ⟨.rd, true⟩ 9 11 3),
      ([0xFC94, 0xFE03, 0x3CDE], .vcvtF2e4 ⟨.rd, true⟩ 9 11 3),
      ([0xFC94, 0xFE03, 0x3CDF], .vcvtF2e5 ⟨.rd, true⟩ 9 11 3),
      ([0xFC98, 0xFE03, 0x3CD8], .vcvtF2s .ru 9 11 3),
      ([0xFC98, 0xFE03, 0x3CDA], .vcvtF2n .ru 9 11 3)] : List (List Half × Instr)).all reads = true := by decide

theorem test_words_lanes_3 :
    ([([0xFC98, 0xFE03, 0x3CDC], .vcvtFrnd .ru 9 11 3),
      ([0xFC98, 0xFE03, 0x2CD8], .vradd .f32 .ru 9 11 3),
      ([0xFC98, 0xFE03, 0x2CDD], .vscan .f32 .ru 9 11 3),
      ([0xFC80, 0xFE03, 0x24D9], .vmov 9 11 3),
      ([0xFC80, 0xFE03, 0x24DA], .vbcast 9 11 3),
      ([0xFC80, 0xFE03, 0x2CDB], .vrand 9 11 3),
      ([0xFC80, 0xFE03, 0x2CDC], .vror 9 11 3),
      ([0xFC80, 0xFE03, 0x24AD], .viota 9 5 3),
      ([0xFC80, 0xFA44, 0x24DB], .vins 9 11 17),
      ([0xFC80, 0xFA45, 0x24DC], .vext .s32 9 11 17)] : List (List Half × Instr)).all reads = true := by decide

theorem test_words_vmem :
    ([([0xFC80, 0xFE03, 0xF880, 0x44D8], .vld 9 11 128 false 3),
      ([0xFC80, 0xFE03, 0xF880, 0x44D9], .vst 9 11 128 false 3),
      ([0xFC80, 0xFE03, 0xF880, 0x44DC], .vldb 9 11 128 false 3),
      ([0xFC80, 0xFA28, 0xFE03, 0x44DA], .vldx 9 11 10 3),
      ([0xFC80, 0xFA28, 0xFE03, 0x44DB], .vstx 9 11 10 3),
      ([0xFC80, 0xFE03, 0xF821, 0x44DD], .vldt 9 33 11 3),
      ([0xFC80, 0xFE03, 0xF821, 0x44DE], .vstt 9 33 11 3)] : List (List Half × Instr)).all reads = true := by decide

theorem test_words_masks :
    ([([0xFC80, 0xFA08, 0x4898], .mand 1 2 3),
      ([0xFC80, 0xFA08, 0x4899], .mor 1 2 3),
      ([0xFC80, 0xFA08, 0x489A], .mxor 1 2 3),
      ([0xFC80, 0x489B], .mnot 1 3),
      ([0xFC80, 0x4C9C], .mpop 9 3),
      ([0xFC80, 0x4C9D], .mfirst 9 3),
      ([0xFC80, 0x4C9F], .mget 9 3),
      ([0xFC80, 0x48DE], .mset 1 11),
      ([0xFC80, 0xFB28, 0x5758], .sbind 2 11 10),
      ([0xFC80, 0xFB78, 0x5701], .sunbind 2),
      ([0xFC80, 0xFAA4, 0x54F2], .srem 9 2),
      ([0xFC80, 0xFB78, 0x5F58], .bstr 2 11)] : List (List Half × Instr)).all reads = true := by decide

theorem test_words_messages :
    ([([0xFD00, 0xFE04, 0x04D8], .send 9 11 4),
      ([0xFD00, 0xFE04, 0x04D9], .sendR 9 11 4),
      ([0xFD00, 0xFE04, 0x04DB], .sendg 9 11 4),
      ([0xFD00, 0xFE04, 0x04DC], .fork 9 11 4),
      ([0xFD00, 0xFE04, 0x04DD], .sendc 9 11 4),
      ([0xFD00, 0xFE04, 0x04DE], .sendv 9 11 4),
      ([0xFD00, 0xFE54, 0x04DA], .sendm 9 11 4 5),
      ([0xFD00, 0xFE54, 0x04DF], .sendQ 9 11 4 5),
      ([0xFD00, 0xFA28, 0x0CD8], .chset 9 10 11),
      ([0xFD00, 0xFA28, 0x0CD9], .chget 9 10 11),
      ([0xFD00, 0xFA28, 0x14D8], .patset 9 10 11),
      ([0xFD00, 0xFA28, 0x14DA], .patget 9 10 11),
      ([0xFD00, 0xFA28, 0x0C82], .chclr 9 10),
      ([0xFD00, 0xFA28, 0x1481], .patclr 9 10),
      ([0xFD00, 0x1800], .exit),
      ([0xFD00, 0x1C81], .exitf 9)] : List (List Half × Instr)).all reads = true := by decide

theorem test_words_atomics :
    ([([0xFD40, 0xFA29, 0x04D8], .amoadd .w 9 11 10),
      ([0xFD40, 0xFA29, 0x04D9], .amoand .w 9 11 10),
      ([0xFD40, 0xFA29, 0x04DA], .amoor .w 9 11 10),
      ([0xFD40, 0xFA29, 0x04DB], .amoxor .w 9 11 10),
      ([0xFD40, 0xFA29, 0x04DC], .amomin .w 9 11 10),
      ([0xFD40, 0xFA29, 0x04DD], .amomax .w 9 11 10),
      ([0xFD40, 0xFA29, 0x04DE], .amoswap .w 9 11 10),
      ([0xFD40, 0xFA29, 0x0CDA], .amominn .w 9 11 10),
      ([0xFD40, 0xFA29, 0x0CDB], .amomaxn .w 9 11 10),
      ([0xFD40, 0xFA28, 0xFEC0, 0x04DF], .amocas .d 9 11 10 12),
      ([0xFD40, 0xFA28, 0x0CD8], .amofadd 9 11 10),
      ([0xFD40, 0xFA28, 0x0CD9], .amofadd64 9 11 10),
      ([0xFD40, 0xFA25, 0xFE03, 0x0CDC], .vamoadd .s32 9 11 3),
      ([0xFD40, 0xFA2A, 0xFE03, 0x0CDD], .vamoaddi .n32 9 11 10 3),
      ([0xFD40, 0xF808, 0x1321], .wait 1 2 3 4)] : List (List Half × Instr)).all reads = true := by decide

theorem test_words_tiles :
    ([([0xFD80, 0xFA28, 0x04D8], .tset 9 10 11),
      ([0xFD80, 0xF821, 0x0481], .trel 9 33),
      ([0xFD80, 0xF821, 0x0482], .tstat 9 33),
      ([0xFD80, 0xF861, 0x0003], .twait 33 .empty),
      ([0xFD80, 0x0CD8], .subscr 9 11),
      ([0xFD80, 0x0CD9], .unsub 9 11),
      ([0xFD80, 0x0CDA], .fstat 9 11),
      ([0xFD80, 0x14D8], .mxm 9 11),
      ([0xFD80, 0x14DA], .mxd 9 11),
      ([0xFD80, 0x1001], .mxz),
      ([0xFD80, 0x1483], .mxstat 9),
      ([0xFD80, 0xFA28, 0x14DC], .drnld 9 10 11),
      ([0xFD80, 0x105D], .adpinv 11)] : List (List Half × Instr)).all reads = true := by decide

theorem test_words_system :
    ([([0xFDC0, 0xF810, 0x04A0], .csrr 9 0x104),
      ([0xFDC0, 0xF810, 0x04A1], .csrw 9 0x104),
      ([0xFDC0, 0xF810, 0x04A2], .csrset 9 0x104),
      ([0xFDC0, 0xF810, 0x04A3], .csrclr 9 0x104),
      ([0xFDC0, 0xF812, 0x09A0], .trap 0x1234),
      ([0xFDC0, 0x0801], .rte),
      ([0xFDC0, 0x0C82], .kill 9),
      ([0xFDC0, 0x085B], .iinv 11),
      ([0xFDC0, 0x0CDC], .tktq 9 11)] : List (List Half × Instr)).all reads = true := by decide

-- Encoding and stepping

theorem witness_decode_of_encode : (Instr.add 8 0 16).wf = true ∧ encode (.add 8 0 16) = some [0xFA80, 0x0C00] := by decide
theorem witness_decoder_accepts : decode [0xF000, 0x1234] = .ok (.nop, 1) := rfl
theorem witness_refused_order : decode [0xFBFF, 0xFDFF] = .error ⟨.badPrefix, tvalDecode 0xFDFF 1 0 0⟩ ∧
    decode [0xFA00, 0xFBFF] = .error ⟨.badPrefix, tvalDecode 0xFBFF 1 0 0⟩ := ⟨rfl, rfl⟩
theorem witness_refused_cells : decode [0xFCC0, 0xF7FF] = .error ⟨.illegal, tvalDecode 0xF7FF 1 0 3⟩ ∧
    decode [0x07FF] = .error ⟨.illegal, tvalDecode 0x07FF 0 0 0⟩ := ⟨rfl, rfl⟩
theorem witness_agenda : ∃ t, step { baseState with agenda := [.event (.linkUp 3)] } = .next t := ⟨_, rfl⟩

/-- A line with NOP in its first halfword, then ADD x8, x0, x16. -/
def lineOf (ws : List Half) (target : BitVec 56) : CLine :=
  { addr := 0x100000, words := ws ++ List.replicate (56 - ws.length) 0xF000, start := BitVec.allOnes 56, target := target, ok := true, used := 0 }
def fetching : State := stateOf { coreOf (slotOf []) with icache := [lineOf [] 0] }
theorem witness_step_runs : fetching.agenda = [] ∧ working fetching 1 = true ∧ runnable (curSlot fetching) = true ∧
    (0 : Fin 4) = Fin.ofNat 4 ((curCore fetching).lastIssued + 1) ∧ skidFull (curCore fetching) 0 = false ∧
    twinDue (curSlot fetching) = false ∧ findLine (curCore fetching) (curSlot fetching).pc.toNat = some (lineOf [] 0) ∧
    (lineOf [] 0).start.getLsbD (lineOff (curSlot fetching).pc) = true ∧
    (match decode ((lineOf [] 0).words.drop (lineOff (curSlot fetching).pc)) with
      | .ok (i, n) => decide (i = .nop ∧ n = 1)
      | .error _ => false) = true := by decide
theorem witness_step_retires : after (step fetching) (fun t => (getSlot t 1 0).pc == 0x100012 && (getSlot t 1 0).retired == 1) = true := by decide
theorem witness_memories : memoriesWf State.reset = true ∧ ∃ t, step State.reset = .next t := ⟨rfl, _, rfl⟩
theorem test_reset_sites : (getCore State.reset 1024).ctrl = true ∧ (getCore State.reset 1025).boot = true := by decide
theorem witness_read_after_write : (0x12345678 : Nat) < 2 ^ (8 * 4) ∧ readLE (writeLE [] 3 4 0x12345678) 3 4 = 0x12345678 ∧
    readByte (writeLE [] 3 4 0x12345678) 3 = 0x78 ∧ readByte (writeLE [] 3 4 0x12345678) 7 = 0 := by decide

-- Scalar instructions

theorem ready_run (l : List (Nat × Word)) (rs : List XReg) : xReady (run l) rs := by
  intro r _
  simp [pendingX, curSlot, curCore, run, stateOf, getCore, baseState, tget, coreOf, slotOf]

theorem witness_integer : intResult (getX (curSlot (run [(1, 5), (2, -7)]))) (.div 3 2 1) = some (3, [3, 2, 1], -1) ∧
    after (exec (.div 3 2 1) (run [(1, 5), (2, -7)])) (isX · 3 (-1)) = true := by decide
theorem test_div_by_zero : after (exec (.div 3 2 1) (run [(2, 9)])) (isX · 3 (-1)) = true ∧
    after (exec (.rem 3 2 1) (run [(2, 9)])) (isX · 3 9) = true := by decide
theorem test_mulh : after (exec (.mulh 3 2 1) (run [(1, -1), (2, 5)])) (isX · 3 (-1)) = true := by decide
theorem test_x0_discards : after (exec (.li 0 5) (run [])) (isX · 0 0) = true := by decide
theorem witness_float : (∃ r, fpResult (getX (curSlot (run [(1, 0x3F800000), (2, 0x40000000)]))) { lfsr := 1 } (.fadd .f32 ⟨.rne, false⟩ 3 2 1) =
      some (3, [3, 2, 1], r)) ∧
    after (exec (.fadd .f32 ⟨.rne, false⟩ 3 2 1) (run [(1, 0x3F800000), (2, 0x40000000)])) (isX · 3 0x40400000) = true :=
  ⟨⟨_, rfl⟩, by decide⟩
theorem test_fdiv_by_zero : after (exec (.fdiv .f32 ⟨.rne, false⟩ 3 2 1) (run [(2, 0x3F800000)]))
    (fun t => isX t 3 0x7F800000 && (curSlot t).fexc == 2) = true := by decide
theorem witness_page_zero : ∃ t, exec (.nop) (run []) = .next t := ⟨_, rfl⟩
theorem test_brk : after (exec .brk (handled (coreOf (slotOf [])))) (trapped 0x18 0) = true := by decide
theorem test_trap : after (exec (.trap 0x1F00F) (handled (coreOf (slotOf []))))
    (fun t => trapped 0x1A 0x1F00F t && (curSlot t).epc == 0x100012) = true := by decide

-- Transfers: a target line at 0x100000

def jump (l : List (Nat × Word)) (target : BitVec 56) : State := stateOf { coreOf (slotOf l) with icache := [lineOf [] target], tvec := 0x200000 }
theorem witness_branch_not_taken : after (exec (.bcEq 1 0 2) (jump [(1, 1)] 0)) (fun t => (curSlot t).pc == 0x100012) = true := by decide
theorem witness_branch_taken : after (exec (.bcEq 1 0 2) (jump [] 4)) (fun t => (curSlot t).pc == 0x100014) = true ∧
    after (exec (.bcEq 1 0 2) (jump [] 0)) (trapped 0x04 0x100014) = true := by decide
theorem witness_call : after (exec (.callr 5) (jump [(5, 0x100020)] (BitVec.allOnes 56))) (fun t => (curSlot t).pc == 0x100020 && isX t 1 0x100012) = true := by
  decide
theorem witness_bad_targets : after (exec (.jr 5) (jump [(5, 0xE000000000000020)] 0)) (trapped 0x06 0xE000000000000020) = true ∧
    after (exec (.jr 5) (jump [(5, 0x10000E)] 0)) (trapped 0x04 0x10000E) = true ∧
    after (exec (.jr 5) (jump [(5, 0x100011)] 0)) (trapped 0x04 0x100011) = true ∧
    after (exec .ret (jump [(1, 0x100030)] 0)) (trapped 0x04 0x100030) = true := by decide

-- Vectors: v1 holds 1.0 in every lane, v2 its lane number, m1 lanes 0 and 31

def vecSlot : Slot :=
  { slotOf [(1, 7)] with
    v := ((Vector.replicate 32 (Vector.replicate 32 0)).set 1 (Vector.replicate 32 0x3F800000)).set 2 (Vector.ofFn fun i => BitVec.ofNat 32 i.val),
    m := (Vector.replicate 8 0).set 1 0x80000001 }
def vecState : State := stateOf (coreOf vecSlot)
def lane (t : State) (r : VReg) (l : Fin 32) : Lane := (getV (curSlot t) r)[l]

theorem witness_vec_ready (rs : List VReg) : vReady vecState rs ∧ unbound vecState rs := by
  constructor <;> intro r _
  · simp [pendingV, curSlot, curCore, vecState, stateOf, getCore, baseState, tget, coreOf, vecSlot, slotOf]
  · simp [streamOf, curSlot, curCore, vecState, stateOf, getCore, baseState, tget, coreOf, vecSlot, slotOf]
theorem witness_lanes : after (exec (.vadd .f32 ⟨.rne, false⟩ 3 1 1 1) vecState)
    (fun t => lane t 3 0 == 0x40000000 && lane t 3 31 == 0x40000000 && lane t 3 1 == 0) = true := by decide
theorem test_lane_saturation : after (exec (.vsub .n32 ⟨.rne, true⟩ 3 2 1 0) vecState) (fun t => lane t 3 5 == 0) = true := by decide
theorem witness_compares : after (exec (.vclt .s32 2 2 1 0) vecState) (fun t => getM (curSlot t) 2 == 0xFFFFFFFF) = true ∧
    after (exec (.vceq .f32 2 1 1 1) vecState) (fun t => getM (curSlot t) 2 == 0x80000001) = true := by decide
theorem witness_reduction : after (exec (.vradd .s32 .rne 3 2 0) vecState) (fun t => lane t 3 0 == 496 && lane t 3 1 == 0) = true := by decide
theorem witness_reduction_masked : after (exec (.vrmin .s32 3 2 1) vecState) (fun t => lane t 3 0 == 0) = true := by decide
theorem witness_scan : after (exec (.vscan .s32 .rne 3 2 0) vecState) (fun t => lane t 3 4 == 10 && lane t 3 31 == 496) = true := by decide
theorem witness_masks : after (exec (.mpop 4 1) vecState) (isX · 4 2) = true ∧ after (exec (.mfirst 4 2) vecState) (isX · 4 32) = true ∧
    after (exec (.mnot 2 1) vecState) (fun t => getM (curSlot t) 2 == 0x7FFFFFFE) = true := by decide
theorem test_m0_discards : after (exec (.mset 0 1) vecState) (fun t => getM (curSlot t) 0 == 0xFFFFFFFF) = true := by decide
theorem witness_insert_extract : after (exec (.vins 2 1 31) vecState) (fun t => lane t 2 31 == 7 && lane t 2 30 == 30) = true ∧
    after (exec (.vext .n32 4 1 31) vecState) (isX · 4 0x3F800000) = true := by decide

-- Streams of RAW words at offset 0x100 of the own scratchpad

def streamBase : Word := meshAddr 0x1FFF 0 0x100
def streaming (write : Bool) (pos : Nat) : State :=
  stateOf { coreOf { vecSlot with streams := #v[some { base := streamBase, count := 40, stride := 1, write := write, pos := pos }, none, none, none] } with
    spad := writeLE [] 0x180 4 99, tvec := 0x200000 }
theorem witness_bind : bindOk (run [(1, streamBase), (2, 40)]) { base := streamBase, count := 40, stride := 1, write := false, pos := 0 } = true ∧
    after (exec (.sbind 0 1 2) (run [(1, streamBase), (2, 40)])) (fun t => (curSlot t).streams[0] ==
      some { base := streamBase, count := 40, stride := 1, write := false, pos := 0 }) = true := by decide
theorem witness_bind_refused : (2 : Nat) ^ 32 ≤ (getX (curSlot (run [(1, streamBase), (2, 0x100000000)])) 2).toNat ∧
    after (exec (.sbind 0 1 2) (stateOf { coreOf (slotOf [(1, streamBase), (2, 0x100000000)]) with tvec := 0x200000 }))
      (trapped 0x0B 0x1C01) = true := by decide
def described (w2 : Nat) : State :=
  stateOf { coreOf (slotOf [(1, meshAddr 0x1FFF 0 0x40)]) with
    spad := writeLE (writeLE (writeLE [] 0x40 8 streamBase.toNat) 0x48 8 (40 + 2 ^ 32)) 0x50 8 w2, tvec := 0x200000 }
theorem witness_bstr : descOk (described 1) (getX (curSlot (described 1)) 1) 32 = true ∧ spadSite (described 1) 0x40 = 1 ∧
    after (exec (.bstr 3 1) (described 1)) (fun t => (curSlot t).streams[3] ==
      some { base := streamBase, count := 40, stride := 1, write := true, pos := 0 }) = true := by decide
theorem witness_bstr_refused : after (exec (.bstr 3 1) (described 2)) (trapped 0x0B 0x1F01) = true ∧
    descOk (run [(1, 0x41)]) 0x41 32 = false ∧
    after (exec (.bstr 3 1) (stateOf { coreOf (slotOf [(1, 0x41)]) with tvec := 0x200000 })) (trapped 0x0B 0x1F01) = true := by decide
theorem witness_unbind : after (exec (.sunbind 0) (streaming false 3)) (fun t => (curSlot t).streams[0] == none) = true ∧
    after (exec (.srem 4 0) (streaming false 3)) (isX · 4 37) = true ∧ after (exec (.srem 4 1) (streaming false 3)) (isX · 4 0) = true := by decide
theorem witness_stream_read : streamOf (curSlot (streaming false 32)) 28 = some { base := streamBase, count := 40, stride := 1, write := false, pos := 32 } ∧
    streamOf (curSlot (streaming false 32)) 3 = none ∧
    after (exec (.vmov 3 28 0) (streaming false 32)) (fun t => lane t 3 0 == 99 && lane t 3 8 == 0 &&
      ((curSlot t).streams[0].map fun y => y.pos) == some 40) = true := by decide
theorem witness_stream_write : (curSlot (streaming true 0)).replayable = false ∧
    after (exec (.vmov 28 2 0) (streaming true 0)) (fun t => readLE (curCore t).spad 0x17C 4 == 31 &&
      ((curSlot t).streams[0].map fun y => y.pos) == some 32) = true := by decide
theorem witness_stream_traps : after (exec (.vmov 3 28 0) (streaming true 0)) (trapped 0x0B 0x1C03) = true ∧
    after (exec (.vmov 28 3 0) (streaming false 0)) (trapped 0x0B 0x1C03) = true ∧
    after (exec (.vmov 3 28 0) (streaming false 40)) (trapped 0x0B 0x1C02) = true ∧
    after (exec (.vmov 28 3 0) (streaming true 40)) (trapped 0x0B 0x1C02) = true := by decide

-- Scratchpad accesses: an own address is core 0x1FFF

def own (off : Nat) : Word := meshAddr 0x1FFF 0 off
def withSpad (l : List (Nat × Word)) (m : Mem) : State := stateOf { coreOf (slotOf l) with spad := m, tvec := 0x200000 }
def elem16 : State := withSpad [(1, meshAddr 0x1FFF 11 0x20), (2, 0x40000000)] (writeLE [] 0x20 4 0xC0003F80)
theorem witness_local : isLocal (withSpad [(1, own 0x23)] []) (own 0x24) ∧ isLocal (stateOf (coreOf vecSlot)) (own 0x180) := ⟨⟨rfl, rfl⟩, rfl, rfl⟩
theorem witness_local_load : checkScalar (withSpad [(1, own 0x23)] []) (own 0x24) 4 true = none ∧
    after (exec (.ldSw 3 1 1 false) (withSpad [(1, own 0x23)] (writeLE [] 0x24 4 0x80000001))) (isX · 3 0xFFFFFFFF80000001) = true := by decide
theorem witness_window_load : checkScalar elem16 (meshAddr 0x1FFF 11 0x20) 4 true = none ∧ meshWin (meshAddr 0x1FFF 11 0x20) = 11 ∧
    checkScalar elem16 (meshAddr 0x1FFF 11 0x20) 8 true = none := by decide
theorem witness_load_error : readScalar { coreOf (slotOf []) with spadUE := [0x20] } 0 0 0x24 4 = .error 0x20 ∧
    after (exec (.ldNw 3 1 0 false) (stateOf { coreOf (slotOf [(1, own 0x24)]) with spadUE := [0x20], tvec := 0x200000 }))
      (trapped 0x10 0x20) = true := by
  refine ⟨rfl, by decide⟩
theorem witness_corrected : (0x20 : Nat) ∈ wordsOf 0x24 4 ∧
    after (exec (.ldNw 3 1 0 false) (stateOf { coreOf (slotOf [(1, own 0x24)]) with spadCE := [0x20] }))
      (fun t => (curCore t).events[11] == 1 && (curCore t).spadCE == []) = true := by decide
theorem witness_local_store : inFrame 0 0x7C008 = true ∧ inFrame 0 0x100 = false ∧
    after (exec (.stD 2 1 0 false) (withSpad [(1, own 0x100), (2, 0x1122334455667788)] []))
      (fun t => readByte (curCore t).spad 0x107 == 0x11 && readByte (curCore t).spad 0x108 == 0) = true := by decide
theorem witness_frame_store : after (exec (.stB 2 1 0 false) (withSpad [(1, own 0x7C008), (2, 0x1FF)] []))
    (fun t => (curCore t).spad == [(0x7C008, 0xFF)]) = true := by decide
theorem witness_store_frame : (∃ c', writeScalar (coreOf (slotOf [])) 0 0 0x10 2 0xABCD = .ok ((), c')) ∧
    (∃ c', writeVec (coreOf (slotOf [])) 0 0 0x80 1 (Vector.replicate 32 5) = .ok ((), c')) ∧ isPlane 3 = true ∧
    (∃ c', writeVec (coreOf (slotOf [])) 0 3 0x80 1 (Vector.replicate 32 5) = .ok ((), c')) := ⟨⟨_, rfl⟩, ⟨_, rfl⟩, rfl, ⟨_, rfl⟩⟩

-- The checks of R76, one case each
def access (i : Instr) (e : Word) : Res := exec i (stateOf { coreOf (slotOf [(1, e)]) with tvec := 0x200000 })
theorem witness_bad_space : after (access (.ldD 3 1 0 false) 0x1000000000000000) (trapped 0x06 0x1000000000000000) = true ∧
    after (access (.stW 3 1 0 false) 0x0200000000000000) (trapped 0x06 0x0200000000000000) = true ∧
    after (access (.ldD 3 1 0 false) (meshAddr 0x100 0 0)) (trapped 0x06 (meshAddr 0x100 0 0)) = true := by decide
theorem witness_bad_window : after (access (.ldD 3 1 0 false) (meshAddr 0x1FFF 14 0)) (trapped 0x07 (meshAddr 0x1FFF 14 0)) = true ∧
    after (access (.ldD 3 1 0 false) (meshAddr 0x1FFF 1 0)) (trapped 0x08 (meshAddr 0x1FFF 1 0)) = true ∧
    after (access (.ldSh 3 1 0 false) (meshAddr 0x1FFF 8 0)) (trapped 0x07 (meshAddr 0x1FFF 8 0)) = true := by decide
theorem witness_uneven : after (access (.ldSh 3 1 0 false) (own 1)) (trapped 0x05 (own 1)) = true ∧
    after (access (.ldD 3 1 0 false) (meshAddr 0x1FFF 11 2)) (trapped 0x05 (meshAddr 0x1FFF 11 2)) = true := by decide

-- Remote accesses: a global address whose home is ferry 3
def remote : Word := 0x3008
theorem witness_idle : (curCore (run [(1, remote)])).reqs = [] ∧ niFull (curCore (run [(1, remote)])) = false ∧ isOwn (run [(1, remote)]) remote = false ∧
    checkScalar (run [(1, remote)]) remote 8 true = none ∧ space remote = 0 ∧ homeFerry remote = 3 := by decide
theorem witness_leads_mesh : siteOf (run []) 2 = some 2 ∧ routeTo (run []) 1 2 = .direct 2 ∧ inPart (run []) 0 2 = false := by decide
theorem witness_remote_load : after (exec (.ldSw 3 1 0 false) (run [(1, remote)])) (fun t =>
    (curSlot t).cntL == 1 && pendingX (curSlot t) 3 && (t.net.map fun p => p.dst) == [.ferry 3] && (curSlot t).retired == 1) = true := by decide
theorem witness_remote_vector : checkVec vecState (curSlot vecState) remote false true 1 = none ∧
    after (exec (.vldb 3 4 0 true 1) (stateOf (coreOf { vecSlot with x := regs [(4, remote)] })))
      (fun t => (curSlot t).cntL == 1 && pendingV (curSlot t) 3 && (t.net.map fun p => match p.body with | .req r => r.ordered | _ => true) == [false]) = true := by decide
theorem witness_strict : (curSlot (stateOf (coreOf { slotOf [(1, remote)] with strict := true }))).strict = true ∧
    after (exec (.ldD 3 1 0 false) (stateOf (coreOf { slotOf [(1, remote)] with strict := true })))
      (fun t => (curSlot t).mode == .stalled && (curSlot t).strictReq == some 0) = true := by decide
theorem witness_posted : checkAtomic (run [(1, remote)]) remote 8 = none ∧
    after (exec (.amoadd .d 0 1 2) (run [(1, remote), (2, 5)])) (fun t => (curSlot t).cntS == 1 && (curSlot t).cntL == 0 && t.net.length == 1) = true ∧
    after (exec (.stW 2 1 0 false) (run [(1, remote), (2, 5)])) (fun t => (curSlot t).cntS == 1) = true := by decide
def buffering : State := stateOf (coreOf { slotOf [(1, remote), (2, 5)] with replayable := true })
theorem witness_buffered : (curSlot buffering).replayable = true ∧
    after (exec (.stW 2 1 0 false) buffering) (fun t => (curSlot t).outbox.length == 1 && t.net == [] && (curSlot t).cntS == 0) = true := by decide
theorem witness_posted_vector : checkVec vecState (curSlot vecState) 0x3000 true false 1 = none ∧ checkAdd vecState 0x3000 1 none = none ∧
    checkAdd vecState 0x3000 1 (some (Vector.replicate 32 1)) = none := by decide

-- Local vector accesses
def vecAt (e : Word) : State := stateOf { coreOf { vecSlot with x := regs [(4, e)] } with spad := writeLE [] 0x1FC 4 77, tvec := 0x200000 }
theorem witness_vector_load : checkVec (vecAt (own 0x180)) (curSlot (vecAt (own 0x180))) (own 0x180) false false 0x80000001 = none ∧
    after (exec (.vld 3 4 0 false 1) (vecAt (own 0x180))) (fun t => lane t 3 31 == 77 && lane t 3 1 == 0) = true := by decide
theorem witness_gather : checkGather (vecAt (own 0x180)) (own 0x180) (Vector.ofFn fun i => BitVec.ofNat 32 i.val) 0xFFFFFFFF = none ∧
    after (exec (.vldx 3 4 2 0) (vecAt (own 0x180))) (fun t => lane t 3 31 == 77) = true := by decide
def tileA : Tile := { win := 0, off := 0x180, rows := 1, groups := 1, rstride := 0x80, output := false, state := .ready }
def withTile (t : Tile) (l : List (Nat × Word)) : State :=
  stateOf { coreOf { vecSlot with x := regs l } with spad := writeLE [] 0x1FC 4 77, tiles := [(5, t)], tvec := 0x200000 }
theorem witness_tile_load : selOk (some tileA) 0 false = true ∧ tileReady tileA = true ∧
    after (exec (.vldt 3 5 4 0) (withTile tileA [])) (fun t => lane t 3 31 == 77) = true := by decide
theorem witness_vector_store : vecInside 0 0 0 0x7C000 0xFFFFFFFF = true ∧ vecInside 0 0 0 0x180 0xFFFFFFFF = false ∧
    after (exec (.vst 2 4 0 false 1) (vecAt (own 0x7C000))) (fun t => readLE (curCore t).spad 0x7C07C 4 == 31) = true ∧
    after (exec (.vstx 2 4 2 0) (vecAt (own 0x180))) (fun t => readLE (curCore t).spad 0x1FC 4 == 31) = true := by decide
theorem witness_tile_store : selOk (some { tileA with state := .empty, output := true }) 0x8000000000000000 true = true ∧
    after (exec (.vstt 2 5 4 0) (withTile { tileA with state := .empty, output := true } [(4, 0x8000000000000000)]))
      (fun t => readLE (curCore t).spad 0x1FC 4 == 31 && ((getTile (curCore t) 5).map fun y => y.state) == some .ready) = true := by decide

-- Atomics
theorem witness_local_atomic : checkAtomic (withSpad [(1, own 0x24)] []) (own 0x24) 4 = none ∧
    after (exec (.amomin .w 3 1 2) (withSpad [(1, own 0x24), (2, 5)] (writeLE [] 0x24 4 0xFFFFFFFE)))
      (fun t => isX t 3 (-2) && readLE (curCore t).spad 0x24 4 == 0xFFFFFFFE) = true ∧
    after (exec (.amocas .d 3 1 2 4) (withSpad [(1, own 0x28), (2, 7), (4, 9)] (writeLE [] 0x28 8 7)))
      (fun t => isX t 3 7 && readLE (curCore t).spad 0x28 8 == 9) = true := by decide
theorem witness_remote_atomic : after (exec (.amoadd .d 3 1 2) (run [(1, remote), (2, 5)]))
    (fun t => (curSlot t).cntS == 1 && (curSlot t).cntL == 1 && pendingX (curSlot t) 3) = true := by decide
theorem witness_vector_add : checkAdd (vecAt (own 0x180)) (own 0x180) 0x80000001 none = none ∧
    after (exec (.vamoadd .s32 2 4 1) (vecAt (own 0x180))) (fun t => readLE (curCore t).spad 0x1FC 4 == 108) = true ∧
    after (exec (.vamoadd .s32 2 4 2) (vecAt (own 0x180))) (fun t => readLE (curCore t).spad 0x1FC 4 == 77) = true := by decide

-- Messages: core 2 of the own device, channel 3

def nameOf (core ch : Nat) : Word := BitVec.ofNat 64 (2 ^ 31 + ch * 2 ^ 23 + core * 2 ^ 10)
def sending : State := run [(1, nameOf 2 3), (2, 0xAA), (4, 0x77)]
theorem witness_send_name : ¬nameBad (nameOf 2 3) ∧ getX (curSlot sending) 1 = nameOf 2 3 := by
  refine ⟨?_, rfl⟩
  unfold nameBad; decide
theorem witness_send : (curSlot sending).replayable = false ∧ (curSlot sending).twin = none ∧
    (messageOf sending (nameOf 2 3) 0 false false 0 [0xAA]).dstDev = sending.devid ∧
    (messageOf sending (nameOf 2 3) 0 false false 0 [0xAA]).dstCore = 2 ∧ siteOf sending 2 = some 2 ∧ routeTo sending 1 2 = .direct 2 ∧
    after (exec (.send 1 2 1) sending) (fun t => (curSlot t).cntS == 1 && (t.net.map fun p => p.dst) == [.core 2] && (curSlot t).retired == 1) = true := by
  decide
theorem witness_send_abroad : (messageOf (run [(1, 0x5)]) 0x5 0 false false 0 []).dstDev ≠ (run [(1, 0x5)]).devid ∧
    after (exec (.sendQ 1 2 6 4) (run [(1, 0x5), (4, 0x77)])) (fun t => (t.net.map fun p => p.dst) == [.landing (landingOfPort 5)]) = true := by decide
theorem witness_bad_names : nameBad 0x100000000 ∧ nameBad 0x80000001 := by unfold nameBad; decide
theorem witness_send_bad_name :
    after (exec (.sendg 1 2 0) (stateOf { coreOf (slotOf [(1, 0x80000001)]) with tvec := 0x200000 })) (trapped 0x06 0x80000001) = true ∧
    after (exec (.sendv 1 2 6) (stateOf { coreOf (slotOf [(1, 0x100000000)]) with tvec := 0x200000 })) (trapped 0x06 0x100000000) = true := by decide
def sendingLater : State := stateOf (coreOf { slotOf [(1, nameOf 2 3)] with replayable := true })
theorem witness_send_buffered : after (exec (.sendR 1 2 0) sendingLater) (fun t => (curSlot t).outbox.length == 1 && t.net == []) = true ∧
    after (exec (.sendc 1 2 0) sendingLater) (fun t => (curSlot t).outbox.length == 0 && t.net.length == 1) = true := by decide
/-- Row 0, columns 0 to 1 of die 0: the control core at site 0 gets no copy. -/
def rectTwo : Word := BitVec.ofNat 64 (1 * 2 ^ 10)
theorem witness_sendm : siteCluster 0 ∈ (getPart sending 0).clusters ∧ siteCluster 1 ∈ (getPart sending 0).clusters ∧
    after (exec (.sendm 1 2 0 6) (run [(1, nameOf 0 3), (6, rectTwo)])) (fun t => (curSlot t).cntS == 1 && (t.net.map fun p => p.dst) == [.core 1]) = true := by
  decide
def sendmAt (v r : Word) : State := stateOf { coreOf (slotOf [(1, v), (6, r)]) with tvec := 0x200000 }
theorem witness_sendm_refused : after (exec (.sendm 1 2 0 6) (sendmAt (nameOf 2 3) rectTwo)) (trapped 0x06 (nameOf 2 3)) = true ∧
    after (exec (.sendm 1 2 0 6) (sendmAt 0x1 rectTwo)) (trapped 0x06 0x1) = true ∧
    after (exec (.sendm 1 2 0 6) (sendmAt (nameOf 0 3) 0x400000)) (trapped 0x06 0x400000) = true ∧
    after (exec (.sendm 1 2 0 6) (sendmAt (nameOf 0 3) 0x20)) (trapped 0x06 0x20) = true ∧
    after (exec (.sendm 1 2 0 6) (sendmAt (nameOf 0 3) 0x401)) (trapped 0x06 0x401) = false ∧
    after (exec (.sendm 1 2 0 6) (sendmAt (nameOf 0 3) 0x1)) (trapped 0x06 0x1) = true ∧
    after (exec (.sendm 1 2 0 6) (sendmAt (nameOf 0 3) 0x800)) (trapped 0x06 0x800) = true := by decide
def chanR : Chan := { kind := .roaming, cap := 0, peer := false, code := false, faultCh := none, faultRaw := 0, ovfBase := 0, ovfSize := 0, nextSeq := 0 }
def chanF : Chan := { chanR with kind := .fifo, cap := 4 }
def forking (chans : Table Chan) (v : Word) : State := stateOf { coreOf (slotOf [(1, v), (2, 0xAA)]) with chans := chans, tvec := 0x200000 }
theorem witness_fork : after (exec (.fork 1 2 1) (forking [(3, chanR)] (nameOf 1 3))) (fun t =>
      ((curCore t).deque.map fun d => (d.chan, d.qm.msg.words[0])) == [(3, 0xAA)] && t.net == []) = true ∧
    after (exec (.fork 1 2 1) (forking [] (nameOf 1 3))) (trapped 0x11 2) = true ∧
    after (exec (.fork 1 2 1) (forking [(3, chanF)] (nameOf 0x1FFF 3))) (trapped 0x11 7) = true ∧
    after (exec (.fork 1 2 1) (forking [(3, chanR)] (nameOf 2 3))) (trapped 0x06 (nameOf 2 3)) = true ∧
    after (exec (.fork 1 2 1) (forking [(3, chanR)] 0x1801403)) (trapped 0x06 0x1801403) = true := by decide

-- Descriptors in the own scratchpad at 0x200

def describing (l : List (Nat × Word)) (d : Nat) (c : Core) : State :=
  stateOf { c with slots := #v[slotOf ((1, own 0x200) :: l), {}, {}, {}], spad := writeLE [] 0x200 64 d, tvec := 0x200000 }
def plain : Core := coreOf (slotOf [])
/-- A FIFO channel with CAP 4, FAULTV and FAULTCH 255. -/
def chanDescF : Nat := 4 * 2 ^ 96 + 2 ^ 116 + 255 * 2 ^ 144
theorem witness_record : checkRecord (describing [(2, 7)] chanDescF plain) (own 0x200) 32 = none ∧ (describing [(2, 7)] chanDescF plain |> curCore).spadUE = [] := by
  decide
theorem witness_chset : recordAt (describing [(2, 255)] chanDescF plain) 1 32 = chanDescF ∧ chsetStatus plain true 255 chanDescF = 0 ∧
    after (exec (.chset 3 2 1) (describing [(2, 255)] chanDescF plain)) (fun t => isX t 3 0 &&
      ((tget (curCore t).chans 255).map fun x => (x.kind, x.cap, x.faultCh)) == some (.fifo, 4, some 255)) = true := by decide
theorem witness_chset_refused : after (exec (.chset 3 2 1) (describing [(2, 256)] chanDescF plain)) (isX · 3 1) = true ∧
    after (exec (.chset 3 2 1) (describing [(2, 255)] (2 ^ 152) plain)) (isX · 3 2) = true ∧
    after (exec (.chset 3 2 1) (describing [(2, 255)] (chanDescF + 3 * 2 ^ 112) plain)) (isX · 3 2) = true ∧
    after (exec (.chset 3 2 1) (describing [(2, 255)] chanDescF { plain with chans := [(255, chanF)] })) (isX · 3 3) = true := by decide
theorem witness_chclr : after (exec (.chclr 3 2) (describing [(2, 256)] 0 plain)) (isX · 3 1) = true ∧
    after (exec (.chclr 3 2) (describing [(2, 255)] 0 plain)) (isX · 3 7) = true ∧
    after (exec (.chclr 3 2) (describing [(2, 255)] 0 { plain with chans := [(255, chanF)] })) (fun t => isX t 3 0 && (curCore t).chans == []) = true := by
  decide
theorem witness_chget : checkRecord (describing [(2, 7)] chanDescF plain) (own 0x200) 64 = none ∧
    after (exec (.chget 3 2 1) (describing [(2, 256)] 9 plain)) (fun t => isX t 3 1 && readByte (curCore t).spad 0x200 == 9) = true ∧
    after (exec (.chget 3 2 1) (describing [(2, 255)] 9 plain)) (fun t => isX t 3 7 && readByte (curCore t).spad 0x200 == 0) = true ∧
    after (exec (.chget 3 2 1) (describing [(2, 255)] 9 { plain with chans := [(255, chanOf chanDescF)] }))
      (fun t => isX t 3 0 && readLE (curCore t).spad 0x200 32 == chanDescF) = true := by decide
/-- One term: channel 3; the line of the entry is 0x100000. -/
def patDescOne : Nat := 3 + 0x100000 * 2 ^ 64
def fifoCore : Core := { plain with chans := [(3, chanF)] }
theorem witness_patset : patsetStatus (describing [(2, 63)] patDescOne fifoCore) 1 63 patDescOne = 0 ∧
    after (exec (.patset 3 2 1) (describing [(2, 63)] patDescOne fifoCore)) (fun t => isX t 3 0 &&
      ((tget (curCore t).pats 63).map fun p => (p.terms, p.entry)) == some ([3], 0x100000)) = true ∧
    after (exec (.patset 3 2 1) (describing [(2, 64)] patDescOne fifoCore)) (isX · 3 1) = true ∧
    after (exec (.patset 3 2 1) (describing [(2, 63)] patDescOne plain)) (isX · 3 7) = true := by decide
def patOne : Pat := { raw := leBytes 32 patDescOne, terms := [3], qn := 0, comb := .none, replay := false, twin := false, gang := 0, entry := 0x100000 }
theorem witness_patclr : after (exec (.patclr 3 2) (describing [(2, 64)] 0 plain)) (isX · 3 1) = true ∧
    after (exec (.patclr 3 2) (describing [(2, 63)] 0 plain)) (isX · 3 14) = true ∧
    after (exec (.patclr 3 2) (describing [(2, 63)] 0 { fifoCore with pats := [(63, patOne)] })) (fun t => isX t 3 0 && (curCore t).pats == []) = true := by
  decide
theorem witness_patget : after (exec (.patget 3 2 1) (describing [(2, 64)] 0 plain)) (isX · 3 1) = true ∧
    after (exec (.patget 3 2 1) (describing [(2, 63)] 0 plain)) (isX · 3 14) = true ∧
    after (exec (.patget 3 2 1) (describing [(2, 63)] 0 { fifoCore with pats := [(63, patOne)] }))
      (fun t => isX t 3 0 && readLE (curCore t).spad 0x200 32 == patDescOne) = true := by decide
def firedZero : Fired :=
  { pat := 0, entry := 0x100000, terms := [], comb := 0, sqv := false, sqterm := 0, seq := 0, quorum := 0, gang := 0, replay := true, twin := false,
    held := [], returned := false, delays := [] }
theorem witness_exit : after (exec .exit (run [])) (fun t => (curSlot t).mode == .closing && (curSlot t).retired == 1) = true ∧
    after (exec (.exitf 1) (run [(1, 3)])) (fun t => (curSlot t).mode == .closing) = true ∧
    after (exec (.exitf 1) (stateOf (coreOf { slotOf [] with replayable := true, fired := some firedZero })))
      (fun t => (curSlot t).mode == .closing && (curSlot t).outbox == [] && !(curSlot t).replayable) = true := by decide
theorem witness_wait : after (exec (.wait 0 15 0 15) (stateOf (coreOf { slotOf [] with cntS := 9 }))) (fun t => (curSlot t).retired == 1) = true ∧
    after (exec (.wait 0 8 15 15) (stateOf (coreOf { slotOf [] with cntS := 9 }))) (fun t => (curSlot t).mode == .stalled) = true := by decide

-- Berths

/-- Window 0 at offset 0x180, one row of one group, RSTRIDE 128. -/
def tileDesc : Nat := (own 0x180).toNat + 128 * 2 ^ 96
def tileCore (t : Tile) : Core := { plain with tiles := [(63, t)] }
theorem witness_tset : tsetStatus (describing [(2, 63)] tileDesc plain) 1 63 tileDesc = 0 ∧
    after (exec (.tset 3 2 1) (describing [(2, 63)] tileDesc plain)) (fun t => isX t 3 0 &&
      ((getTile (curCore t) 63).map fun y => (y.win, y.off, y.rows, y.groups, y.rstride)) == some (0, 0x180, 1, 1, 128)) = true ∧
    after (exec (.tset 3 2 1) (describing [(2, 64)] tileDesc plain)) (isX · 3 1) = true ∧
    after (exec (.tset 3 2 1) (describing [(2, 63)] tileDesc (tileCore { tileA with pin := 1 }))) (isX · 3 3) = true := by decide
theorem witness_tile_status : after (exec (.tstat 3 63) (stateOf plain)) (isX · 3 4) = true ∧
    after (exec (.trel 3 63) (stateOf plain)) (isX · 3 4) = true ∧
    after (exec (.tstat 3 63) (stateOf (tileCore tileA))) (isX · 3 2) = true := by decide
theorem witness_trel : tileReady tileA = true ∧ tileReady { tileA with state := .filling } = false ∧
    after (exec (.trel 3 63) (stateOf (tileCore tileA))) (fun t => isX t 3 2 && ((getTile (curCore t) 63).map fun y => y.state) == some .empty) = true ∧
    after (exec (.trel 3 63) (stateOf (tileCore { tileA with output := true })))
      (fun t => (getTile (curCore t) 63).map (fun y => y.state) == some .draining) = true ∧
    after (exec (.trel 3 63) (stateOf (tileCore { tileA with pin := 1 })))
      (fun t => (getTile (curCore t) 63).map (fun y => (y.state, y.relp)) == some (.ready, true)) = true ∧
    after (exec (.trel 3 63) (stateOf (tileCore { tileA with state := .filling })))
      (fun t => (getTile (curCore t) 63).map (fun y => y.state) == some .filling) = true := by decide
theorem witness_twait : after (exec (.twait 63 .ready) (stateOf { plain with tvec := 0x200000 })) (trapped 0x0A 63) = true ∧
    after (exec (.twait 63 .ready) (stateOf (tileCore tileA))) (fun t => (curSlot t).retired == 1) = true ∧
    after (exec (.twait 63 .empty) (stateOf (tileCore { tileA with state := .empty }))) (fun t => (curSlot t).retired == 1) = true ∧
    after (exec (.twait 63 .empty) (stateOf (tileCore tileA))) (fun t => (curSlot t).mode == .stalled) = true ∧
    after (exec (.twait 63 .ready) (stateOf (tileCore { tileA with relp := true }))) (fun t => (curSlot t).mode == .stalled) = true := by decide

-- Subscriptions: a RAW input ring of one tile, entry 63, tensor at address 0

/-- C1 = C2 = C3 = 1, RFIRST = 63, RLEN = 1, KLEN = 32. -/
def subDescOne : Nat := 2 ^ 288 + 2 ^ 304 + 2 ^ 368 + 63 * 2 ^ 320 + 2 ^ 326 + 32 * 2 ^ 352
def tileE : Tile := { tileA with state := .empty }
theorem witness_subscr : subscrStatus (tileCore tileE) subDescOne = 0 ∧ subDescOne / 2 ^ 320 % 64 = 63 ∧ ferriesByDistance 1 ≠ [] ∧
    after (exec (.subscr 3 1) (describing [] subDescOne (tileCore tileE)))
      (fun t => (curSlot t).cntE == 1 && pendingX (curSlot t) 3 && (t.net.map fun p => p.dst) == [.ferry 0]) = true := by decide
theorem witness_subscr_refused : subscrStatus plain subDescOne = 2 ∧ subscrStatus (tileCore tileE) (subDescOne + 2 ^ 350) = 1 ∧
    after (exec (.subscr 3 1) (describing [] subDescOne plain)) (isX · 3 0x8000000000000002) = true := by decide
theorem witness_unsub : after (exec (.unsub 3 1) (run [(1, 0xFFFF)])) (fun t => (curSlot t).cntL == 1 && (t.net.map fun p => p.dst) == [.ferry 127]) = true ∧
    after (exec (.fstat 3 1) (run [(1, 0x1FF)])) (fun t => (t.net.map fun p => p.dst) == [.ferry 0]) = true ∧
    after (exec (.unsub 3 1) (stateOf { coreOf (slotOf [(1, 0x10000)]) with tvec := 0x200000 })) (trapped 0x06 0x10000) = true := by decide

-- Matrix commands: tile 0 is a P8 input of 2 rows, tile 1 an FP8 input of 3 rows, tile 2 a RAW output

def tileP : Tile := { win := 2, off := 0x800, rows := 2, groups := 1, rstride := 32, output := false, state := .ready }
def tileB : Tile := { win := 10, off := 0x1000, rows := 3, groups := 1, rstride := 32, output := false, state := .ready }
def mxCore : Core := { plain with tiles := [(0, tileP), (1, tileB), (2, { tileA with output := true, state := .empty })], tvec := 0x200000 }
def mxState (w1 w2 : Word) : State := stateOf { mxCore with slots := #v[slotOf [(1, w1), (2, w2)], {}, {}, {}] }
theorem witness_mxm : mxCheck mxCore {} (mxFields .mxm 0x40 0) 0x40 0 = none ∧ mxSources (mxFields .mxm 0x40 0) = [0, 1] ∧
    after (exec (.mxm 1 2) (mxState 0x40 0)) (fun t => (curSlot t).cntM == 1 && (curCore t).mq.length == 1 &&
      ((getTile (curCore t) 0).map fun y => y.pin) == some 1 && ((curCore t).mq.map fun q => (q.m, q.n)) == [(2, 3)]) = true := by decide
theorem witness_mxm_refused : mxCheck mxCore {} (mxFields .mxm 0xC0 0) 0xC0 0 = some (1, 3) ∧ mxCheck mxCore {} (mxFields .mxm 0x41 0) 0x41 0 = some (2, 1) ∧
    mxCheck mxCore {} (mxFields .mxm 0x40 0x20) 0x40 0x20 = some (4, 0) ∧ mxCheck mxCore {} (mxFields .mxm 0x40 0x100) 0x40 0x100 = some (8, 0) ∧
    after (exec (.mxm 1 2) (mxState 0x41 0)) (trapped 0x0A 0x102) = true := by decide
/-- A program that OUTputs the accumulator as FP32: op 21, then END. -/
def mxOpen : State := stateOf { mxCore with slots := #v[slotOf [(1, 0x2000), (2, 0x200)], {}, {}, {}], acc := { opened := true, m := 1, n := 1 } }
def mxProg : State := { mxOpen with clusters := [(0, { progs := (Vector.replicate 16 none).set 0 (some { ops := [], consts := [] }) })] }
theorem witness_mxd : mxCheck (curCore mxProg) (getCluster mxProg 0) (mxFields .mxd 0x2000 0x200) 0x2000 0x200 = none ∧
    (mxFields .mxd 0x2000 0x200).fin = true ∧ mxSources (mxFields .mxd 0x2000 0x200) = [] ∧
    after (exec (.mxd 1 2) mxProg) (fun t => (curSlot t).cntM == 1 && ((getTile (curCore t) 2).map fun y => y.dest) == some true) = true := by decide
theorem witness_mxz : after (exec .mxz (run [])) (fun t => (curSlot t).cntM == 1 && ((curCore t).mq.map fun q => q.kind) == [.mxz]) = true ∧
    after (exec (.adpinv 1) (run [(1, 0x800000000000FFFF)])) (fun t => ((curCore t).mq.map fun q => (q.id, q.all)) == [(65535, true)]) = true ∧
    after (exec (.adpinv 1) (stateOf { coreOf (slotOf [(1, 0x10000)]) with tvec := 0x200000 })) (trapped 0x06 0x10000) = true := by decide
theorem witness_mxstat : after (exec (.mxstat 3) (stateOf { plain with acc := { opened := true, m := 1, n := 1, kpos := 5, flags := 0x1F } }))
    (isX · 3 0x5101D) = true := by decide
/-- END as the only micro-op is a program without an output (R257). -/
theorem witness_drnld : checkRecord (describing [(2, 16)] 0 plain) (own 0x200) 256 = none ∧
    after (exec (.drnld 3 2 1) (describing [(2, 16)] 0 plain)) (isX · 3 1) = true ∧
    after (exec (.drnld 3 2 1) (describing [(2, 15)] 23 plain)) (isX · 3 3) = true := by decide

-- Control registers

def asSup (l : List (Nat × Word)) : State := stateOf { coreOf { slotOf l with sup := true, nest := true } with tvec := 0x200000 }
theorem witness_csrr : csrValue (run []) 0x013 = some 1 ∧ after (exec (.csrr 3 0x013) (run [])) (isX · 3 1) = true ∧
    after (exec (.csrr 3 0x012) (run [])) (isX · 3 0) = true ∧ privileged (asSup []) = true ∧ csrValue (asSup []) 0x105 = some 0x65 ∧
    after (exec (.csrr 3 0x104) (asSup [])) (isX · 3 0x200000) = true ∧ after (exec (.csrr 3 0x412) (asSup [])) (isX · 3 0x8000000000000000) = true ∧
    after (exec (.csrr 3 0x7FF) (asSup [])) (isX · 3 0x8000000000000000) = true ∧ after (exec (.csrr 3 0x23F) (asSup [])) (isX · 3 0) = true ∧
    after (exec (.csrr 3 0x120) (asSup [])) (isX · 3 8) = true := by decide
theorem witness_csrw : csrMask 0x050 = some 0x0007FFFF0007FFFF ∧
    after (exec (.csrw 1 0x050) (run [(1, -1)])) (fun t => csrValue t 0x050 == some 0x0007FFFF0007FFFF) = true ∧
    after (exec (.csrset 1 0x002) (run [(1, 0x25)])) (fun t => csrValue t 0x002 == some 5) = true ∧
    after (exec (.csrclr 1 0x002) (stateOf (coreOf { slotOf [(1, 4)] with fexc := 5 }))) (fun t => csrValue t 0x002 == some 1) = true ∧
    after (exec (.csrset 0 0x002) (run [])) (fun t => csrValue t 0x002 == some 0) = true ∧
    after (exec (.csrw 1 0x105) (asSup [(1, -1)])) (fun t => csrValue t 0x105 == some 0x7F) = true ∧
    after (exec (.csrw 1 0x400) (asSup [(1, 9)])) (fun t => csrValue t 0x400 == some 10) = true ∧
    after (exec (.csrw 1 0x411) (asSup [(1, -1)])) (fun t => csrValue t 0x411 == some 0x7FFFFFFFFFFFFFFF) = true := by decide
def asUser (i : Instr) : Res := exec i (stateOf { coreOf (slotOf [(1, 9)]) with tvec := 0x200000 })
theorem witness_csr_traps : after (asUser (.csrr 3 0x7FF)) (trapped 0x09 0) = true ∧ after (asUser (.csrr 3 0x0FF)) (trapped 0x01 (csrTval 0 3 0x0FF)) = true ∧
    after (asUser (.csrw 1 0x010)) (trapped 0x01 (csrTval 1 1 0x010)) = true ∧ after (asUser (.csrset 1 0x23F)) (trapped 0x01 (csrTval 2 1 0x23F)) = true ∧
    after (asUser (.csrclr 1 0x240)) (trapped 0x01 (csrTval 3 1 0x240)) = true ∧ after (asUser (.csrr 3 0x800)) (trapped 0x09 0) = true ∧
    after (asUser (.csrw 1 0x100)) (trapped 0x09 0) = true ∧ after (asUser (.csrr 3 0x200)) (trapped 0x09 0) = true := by decide
theorem witness_csr_firmware : (getCore (State.reset) 0).ctrl = true ∧
    after (exec (.csrr 3 0x824) { baseState with cur := (0, 0), cores := [(0, { ctrlCore with slots := #v[{ sup := true }, {}, {}, {}], tvec := 0x200000 })] })
      (trapped 0x01 (csrTval 0 3 0x824)) = true ∧
    after (exec (.csrr 3 0x824) { baseState with cur := (0, 0), cores := [(0, { ctrlCore with slots := #v[{ sup := true, nest := true }, {}, {}, {}], tvec := 0x200000 })] })
      (trapped 0x01 (csrTval 0 3 0x824)) = true := by decide
theorem witness_privileged : after (asUser .rte) (trapped 0x09 0) = true ∧ after (asUser (.kill 1)) (trapped 0x09 0) = true ∧
    after (asUser (.iinv 1)) (trapped 0x09 0) = true ∧ after (asUser (.tktq 3 1)) (trapped 0x09 0) = true := by decide
theorem witness_trap_entry : (getCore (handled plain) 1).tvec ≠ 0 ∧ (getSlot (handled plain) 1 0).sup = false ∧
    (getSlot (takeTrap (handled plain) 1 0 { cause := 0x10, tval := 7, epc := 0x44, seqn := some 0x1FFFF }) 1 0).tseq = 0x1FFFF ∧
    (getSlot (takeTrap (handled plain) 1 0 { cause := 0x10, tval := 7, epc := 0x44 }) 1 0).pc = 0x200010 := by decide
theorem witness_no_handler : (getCore (stateOf plain) 1).tvec = 0 ∧ (getSlot (takeTrap (stateOf plain) 1 0 { cause := 0x10, epc := 0x44 }) 1 0).mode = .closing ∧
    (getSlot (takeTrap (handled (coreOf { slotOf [] with sup := true })) 1 0 { cause := 0x10, epc := 0x44 }) 1 0).mode = .closing := by decide
def returning (e : Word) (pm : Bool) : State := stateOf { coreOf { slotOf [] with sup := true, nest := true, epc := e, pm := pm } with tvec := 0x200000 }
theorem witness_rte : badPc 0x100014 = none ∧ badPc 0x10000E = some 0x04 ∧
    after (exec .rte (returning 0x100014 false)) (fun t => (curSlot t).pc == 0x100014 && !(curSlot t).sup) = true ∧
    after (exec .rte (returning 0x10000E false)) (trapped 0x04 0x10000E) = true := by decide
theorem witness_kill : after (exec (.kill 1) (asSup [(1, 3)])) (fun t => (curSlot t).mode == .closing) = true ∧
    after (exec (.kill 1) (stateOf (coreOf { slotOf [(1, 1)] with sup := true, replayable := true, fired := some firedZero })))
      (fun t => (curSlot t).mode == .closing && !(curSlot t).replayable) = true := by decide
def cached : Core :=
  { coreOf { slotOf [(1, 0x10007F)] with sup := true } with icache := [lineOf [] 0], fills := [{ line := 0x100000, uid := 7, status := .flying }] }
theorem witness_iinv : after (exec (.iinv 1) (stateOf cached))
      (fun t => (curCore t).icache == [] && (curCore t).fills.map (fun f => f.discard) == [true]) = true ∧
    after (exec (.iinv 1) (asSup [(1, 0x0200000000000000)])) (trapped 0x06 0x0200000000000000) = true ∧
    after (exec (.iinv 1) (asSup [(1, own 0)])) (trapped 0x06 (own 0)) = true := by decide
def ticketed7 : TicketEnt := { state := .opened, ticket := 5, home := .ferry 0, page := 0x7000 }
theorem witness_tktq : after (exec (.tktq 3 1) (asSup [(1, 32)])) (trapped 0x06 32) = true ∧ after (exec (.tktq 3 1) (asSup [(1, 15)])) (isX · 3 0) = true ∧
    after (exec (.tktq 3 1) (stateOf { coreOf { slotOf [(1, 31)] with sup := true } with tickets := (Vector.replicate 16 {}).set 15 ticketed7 })) (isX · 3 0x7000) = true := by decide
def late1 : Due := { uid := 4, seqn := 9, cause := 0x13, tval := 0x3000, req := 0, late := true, retAt := 0 }
theorem witness_late : late1.cause ≠ 0x12 ∧ after (exec (.lateTrapTaken 1 0) (stateOf { coreOf { slotOf [] with due := [late1] } with tvec := 0x200000 }))
      (fun t => trapped 0x13 0x3000 t && (curSlot t).late && (curSlot t).exact && (curSlot t).due == []) = true ∧
    after (exec (.step 1 0) (stateOf { coreOf { slotOf [] with stepOwed := true } with tvec := 0x200000 })) (trapped 0x19 0) = true := by decide
theorem witness_refused_encoding : after (asUser (.unassignedEncoding .illegal 0x0123456)) (trapped 0x01 0x0123456) = true ∧
    after (asUser (.unassignedEncoding .badPrefix 0xFFFFFFF)) (trapped 0x02 0xFFFFFFF) = true := by decide

-- Events of the network: one packet on its way

def bringing (s : State) (src dst : Endpoint) (cls : Cls) (b : Body) : State := { s with net := [{ src := src, dst := dst, cls := cls, body := b, wire := .flying [] [] }] }
def reqX : Req :=
  { uid := 7, seqn := 6, slot := 0, act := 5, op := .read 4, addr := 0x3008, home := .ferry 3, ordered := true, dest := .x 3 4 true,
    cntL := true, cntS := false, cntE := false, status := .flying, part := 0, winbase := 0, retAt := 0 }
def waitingOn (r : Req) : State := stateOf { coreOf { slotOf [] with cntL := 1, cntS := 2, cntE := 1, pendX := 8, pendV := 8 } with reqs := [r], tvec := 0x200000 }
def answered (r : Req) (a : Answer) : State := bringing (waitingOn r) (.ferry 3) (.core 1) .rsp (.answer 7 a)
def postX : Req := { reqX with op := .write [1, 2, 3, 4], dest := .none, cntL := false, cntS := true }
def subX : Req := { reqX with op := .subscr 0 1 1 [] [], dest := .x 3 8 false, cntL := false, cntE := true, ordered := false }
theorem witness_sole : (getCore (answered reqX .ack) 1).reqs = [reqX] ∧ reqX.killed = false ∧ (getSlot (answered reqX .ack) 1 0).actId = reqX.act ∧
    (arriving (answered reqX .ack) 0).isSome = true := by decide
theorem witness_load_answer : after (exec (.loadResponse 0) (answered reqX (.data [1, 2, 3, 0x80])))
      (fun t => (getSlot t 1 0).x[3] == 0xFFFFFFFF80030201 && (getSlot t 1 0).cntL == 0 && (getSlot t 1 0).pendX == 0 && (getCore t 1).reqs == []) = true ∧
    after (exec (.loadResponse 0) (answered { reqX with op := .amo .add 4 1 1 } (.old 0x80000000)))
      (fun t => (getSlot t 1 0).x[3] == 0xFFFFFFFF80000000) = true ∧
    after (exec (.loadResponse 0) (answered { reqX with op := .vread 0x80000001 false, dest := .v 3 0x80000001 false } (.lanes (Vector.replicate 32 9))))
      (fun t => (getSlot t 1 0).v[3][31] == 9 && (getSlot t 1 0).v[3][1] == 0 && (getSlot t 1 0).pendV == 0) = true := by decide
theorem witness_acknowledged : after (exec (.acknowledgement 0) (answered postX .ack))
      (fun t => (getSlot t 1 0).cntS == 1 && (getSlot t 1 0).cntL == 1 && (getCore t 1).reqs == [] && t.net == []) = true := by decide
theorem witness_handle : handleOp subX.op = true ∧
    after (exec (.handleReply 0) (answered subX (.old 0x8000000000000006))) (fun t => (getSlot t 1 0).x[3] == 0x8000000000000006 && (getSlot t 1 0).cntE == 0) = true ∧
    after (exec (.handleReply 0) (answered subX (.old 0x600))) (fun t => (getSlot t 1 0).x[3] == 0x600 && (getSlot t 1 0).cntE == 1) = true := by decide
def sendX : Req := { postX with op := .msg {}, addr := 0 }
theorem witness_late_refusal : after (exec (.lateRefusal 0) (answered postX (.refusePerm 0)))
      (fun t => (getSlot t 1 0).due.map (fun d => (d.cause, d.tval)) == [(0x11, 0x3008)] && (getSlot t 1 0).cntS == 1) = true ∧
    after (exec (.lateRefusal 0) (answered reqX .refuseUE)) (fun t => (getSlot t 1 0).due.map (fun d => (d.cause, d.tval)) == [(0x12, 0x3008)]) = true ∧
    after (exec (.lateRefusal 0) (answered reqX .failed)) (fun t => (getSlot t 1 0).due.map (fun d => (d.cause, d.tval)) == [(0x13, 0x3008)]) = true ∧
    after (exec (.lateRefusal 0) (answered sendX (.refusePerm 2))) (fun t => (getSlot t 1 0).due.map (fun d => (d.cause, d.tval, d.req)) == [(0x11, 2, 1)]) = true := by
  decide
theorem witness_ticket : (∀ j : Fin 16, (getCore (answered reqX (.ticket 0x300 false)) 1).tickets[j] = {}) ∧
    after (exec (.ticketAnswer 0) (answered reqX (.ticket 0x300 false)))
      (fun t => (getCore t 1).reqs.map (fun r => r.status) == [.ticketed 0x300] && (getCore t 1).tickets[0].page == 0x3000 &&
        (getCore t 1).events[2] == 1) = true := by decide
def filling (d : Bool) : State :=
  bringing (stateOf { plain with fills := [{ line := 0x100000, uid := 7, status := .flying, discard := d }] }) (.ferry 0) (.core 1) .rsp
    (.answer 7 (.data (leBytes 16 1 ++ leBytes 112 0xF000)))
theorem witness_line_fill : after (exec (.lineFillAnswer 0) (filling false))
      (fun t => (getCore t 1).fills == [] && (getCore t 1).icache.map (fun l => (l.addr, l.start, nth l.words 0)) == [(0x100000, 1, some 0xF000)]) = true ∧
    after (exec (.lineFillAnswer 0) (filling true)) (fun t => (getCore t 1).fills == [] && (getCore t 1).icache == []) = true := by decide
theorem witness_snapshot : reqX.uid ∉ ([3] : List Nat) ∧
    after (exec (.snapshotRelease 1) (waitingOn { sendX with status := .held, home := .landing 2, snap := [3] }))
      (fun t => (getCore t 1).reqs.map (fun r => (r.status, r.snap)) == [(.flying, [])] && t.net.map (fun p => p.dst) == [.landing 2]) = true := by decide

-- Homes: a ferry with one page of PASID 7 at 0x8000, a core, an entry landing, a vacated site

def pkt (op : ROp) (a : Word) : ReqPkt :=
  { uid := 7, seq := 6, op := op, addr := a, ordered := true, head := false, last := false, part := 0, winbase := 0, srcCore := 1, slot := 0, act := 5 }
def pageOf (r w : Bool) : TlbEnt := { pasid := 7, va := 0x3000, log2 := 12, pa := 0x8000, r := r, w := w, x := false }
def asking (f : Ferry) (m : Mem) (op : ROp) : State :=
  bringing { baseState with ferries := [(3, f)], mem := m } (.core 1) (.ferry 3) .req (.req (pkt op 0x3008))
def lastAnswer (t : State) : Option Body := t.net.getLast?.map fun p => p.body
theorem witness_home_read : pasidOf (asking {} [] (.read 2)) 0 0x3008 = 7 ∧ tlbHit (pageOf true false) 7 0x3008 = true ∧
    after (exec (.requestPerform 0) (asking { tlb := [pageOf true false] } [(0x8009, 5)] (.read 2))) (fun t => lastAnswer t == some (.answer 7 (.data [0, 5]))) = true ∧
    after (exec (.requestPerform 0) (asking { tlb := [pageOf false true] } [] (.read 2))) (fun t => lastAnswer t == some (.answer 7 (.refusePerm 0))) = true := by
  decide
theorem witness_home_write : after (exec (.requestPerform 0) (asking { tlb := [pageOf false true] } [] (.write [4, 6])))
      (fun t => t.mem == [(0x8008, 4), (0x8009, 6)] && lastAnswer t == some (.answer 7 .ack)) = true ∧
    after (exec (.requestPerform 0) (asking { tlb := [pageOf true false] } [] (.write [4, 6])))
      (fun t => t.mem == [] && lastAnswer t == some (.answer 7 (.refusePerm 0))) = true := by decide
theorem witness_home_ticket : after (exec (.requestPerform 0) (asking {} [] (.read 2)))
      (fun t => lastAnswer t == some (.answer 7 (.ticket 0x300 false)) && (getFerry t 3).recs.map (fun r => (r.2.pasid, r.2.page)) == [(7, 3)]) = true := by
  decide
def askingCore (c : Core) (op : ROp) (a : Word) : State := bringing (stateOf c) (.core 2) (.core 1) .req (.req (pkt op a))
theorem witness_core_home : meshCore (meshAddr 1 0 0x7BFFE) = coreNumber (stateOf plain) 1 ∧
    after (exec (.requestPerform 0) (askingCore { plain with spad := [(0x7BFFF, 3)] } (.read 2) (meshAddr 1 0 0x7BFFE)))
      (fun t => lastAnswer t == some (.answer 7 (.data [0, 3]))) = true ∧
    after (exec (.requestPerform 0) (askingCore plain (.read 2) (meshAddr 1 0 0x7C000))) (fun t => lastAnswer t == some (.answer 7 (.refusePerm 0))) = true ∧
    after (exec (.requestPerform 0) (askingCore plain (.write [3, 4]) (meshAddr 1 0 0x7BFFE))) (fun t => (getCore t 1).spad == [(0x7BFFE, 3), (0x7BFFF, 4)]) = true ∧
    after (exec (.requestPerform 0) (askingCore plain (.write [3, 4]) (meshAddr 1 0 0x7C000))) (fun t => (getCore t 1).spad == []) = true := by decide
def msgTo (core ch : Nat) : Msg := { chan := ch, dstCore := core, count := 1, srcCore := 2 }
theorem witness_message : after (exec (.messageArrival 0) (askingCore fifoCore (.msg (msgTo 1 3)) 0))
      (fun t => lastAnswer t == some (.answer 7 .ack) && (getCore t 1).marked == [3] &&
        ((tget (getCore t 1).chans 3).map fun x => x.queue) == some [⟨msgTo 1 3, 0, false, 0⟩]) = true ∧
    after (exec (.messageArrival 0) (askingCore fifoCore (.msg (msgTo 1 4)) 0)) (fun t => lastAnswer t == some (.answer 7 (.refusePerm 2))) = true := by
  decide
def arrivingAt (lc : Nat) : State :=
  bringing { baseState with dies := #v[{ map0 with landVer := (Vector.replicate 16 0).set 2 1 }, {}, {}, {}] } (.core 1030) (.landing 2) .req
    (.entryReq lc (pkt (.msg (msgTo lc 3)) 0))
theorem witness_entry : numberSite (arrivingAt 2) 0 1 2 = some 2 ∧ numberSite (arrivingAt 9) 0 1 9 = none ∧
    after (exec (.entryLanding 0) (arrivingAt 2)) (fun t => t.net.map (fun p => (p.src, p.dst)) == [(.core 1030, .core 2)]) = true ∧
    after (exec (.entryLanding 0) (arrivingAt 9)) (fun t => lastAnswer t == some (.answer 7 (.refusePerm 1))) = true := by decide
def vacated (b : Body) (cls : Cls) : State := bringing (stateOf { plain with fwd := [(2, 3)], awaitMark := [.core 5] }) (.core 9) (.core 1) cls b
theorem witness_forwarding : after (exec (.forwarding 0) (vacated (.req (pkt (.msg (msgTo 2 3)) 0)) .req)) (fun t => t.net.map (fun p => p.dst) == [.core 3]) = true ∧
    after (exec (.switchMarker 0) (vacated (.marker 2 (.core 5)) .sys)) (fun t => t.net.map (fun p => p.dst) == [.core 3]) = true ∧
    after (exec (.switchMarker 0) (vacated (.marker 1 (.core 5)) .sys)) (fun t => t.net == [] && (getCore t 1).awaitMark == []) = true := by decide
def ticketTable : Vector TicketEnt 16 := (Vector.replicate 16 {}).set 0 { state := .opened, ticket := 0x305, home := .ferry 3, page := 0x3000, seqn := 6 }
def noticed (b : Body) : State :=
  bringing (stateOf { coreOf { slotOf [] with cntL := 1, pendX := 8 } with reqs := [{ reqX with status := .ticketed 0x305 }], tickets := ticketTable })
    (.ferry 3) (.core 1) .sys b
theorem witness_notice : after (exec (.replayNotice 0) (noticed (.notice 0x305))) (fun t =>
      (getCore t 1).reqs.map (fun r => (r.status, r.head, r.last)) == [(.flying, true, true)] && (getCore t 1).tickets[0].state == .replaying && t.net.length == 1) = true ∧
    after (exec (.failureNotice 0) (noticed (.failure 0x305))) (fun t =>
      (getCore t 1).reqs == [] && (getSlot t 1 0).due.map (fun d => d.cause) == [0x13] && (getCore t 1).tickets[0].state == .failed) = true ∧
    after (exec (.snapshotRelease 1) (stateOf { plain with tickets := ticketTable.set 0 { state := .failed, ticket := 0x305, home := .ferry 3, hold := true } }))
      (fun t => (getCore t 1).tickets[0] == {}) = true ∧
    after (exec (.replayNotice 0) (bringing (waitingOn reqX) (.ferry 3) (.core 1) .sys (.notice 0x305)))
      (fun t => (getCore t 1).notices == [⟨.ferry 3, 0x305, true, false⟩] && t.net == []) = true := by decide
theorem witness_map_install : after (exec (.mapInstall 0) (bringing (stateOf plain) (.core 0) (.core 1) .sys (.mapCommit 0 5)))
      (fun t => (getCore t 1).mapVer == 5 && t.net == []) = true ∧
    after (exec (.mapInstall 0) (bringing (stateOf plain) (.core 0) (.landing 63) .sys (.mapCommit 3 5))) (fun t => (getDie t 3).landVer[15] == 5) = true ∧
    after (exec (.mapInstall 0) (bringing (stateOf plain) (.core 0) (.core 1) .sys (.dieBase 2))) (fun t => (getCore t 1).baseVer == 2 && (getCore t 1).mapVer == 1) = true ∧
    after (exec (.mapInstall 0) (bringing (stateOf plain) (.core 0) (.landing 0) .sys (.dieBase 2))) (fun t => (getDie t 0).landBase[0] == 2) = true := by
  decide
def invalidating (left : Nat) : State :=
  bringing { stateOf { plain with icache := [lineOf [] 0] } with invs := [(4, { die := 0, part := 0, reply := nameOf 2 3, total := 2, left := left })] }
    (.core 0) (.core 1) .sys (.inval 0x10003F 4)
theorem witness_invalidation : after (exec (.invalidationMessage 0) (invalidating 2)) (fun t => (getCore t 1).icache == [] && (t.invs.map fun v => v.2.left) == [1]) = true ∧
    after (exec (.invalidationMessage 0) (invalidating 1)) (fun t => t.invs == [] && (getCore t 0).reqs.length == 1) = true := by decide

-- Events of a core

def firedTwo : Fired := { firedZero with pat := 63, terms := [(2, #v[0xA, 0xB, 0xC, 0, 0, 0])], comb := 5, seq := 0xFFFF, sqterm := 3, sqv := true, quorum := 1, replay := false }
def idle : Core := { part := some 0, lcore := some 1, mapVer := 1 }
def starting : State := stateOf { idle with ready := [.start firedTwo], slots := #v[slotOf [], { serial := 4 }, {}, {}] }
theorem witness_start : coreRuns starting 1 = true ∧ wantedBy starting 1 = none ∧
    after (exec (.bodyStart 1) starting) (fun t => (getSlot t 1 1).mode == .run && (getSlot t 1 1).pc == 0x100010 && (getSlot t 1 1).x[8] == 0xA &&
      (getSlot t 1 1).x[9] == 0xB && (getSlot t 1 1).x[10] == 0 && (getSlot t 1 1).x[31] == 0 && (getSlot t 1 1).x[4] == 5 &&
      (getSlot t 1 1).x[3] == 0x7FFFF00087F && (getSlot t 1 1).x[2] == 0xF000FFF80007D000 && (getSlot t 1 1).serial == 5) = true := by decide
theorem witness_release : after (exec (.slotRelease 1 0) (stateOf (coreOf { slotOf [(3, 7)] with mode := .closing })))
    (fun t => (getSlot t 1 0).mode == .free && (getSlot t 1 0).x[3] == 7) = true := by decide
def matching : State := stateOf { idle with chans := [(3, { chanF with queue := [⟨msgTo 1 3, 0, false, 0⟩] })], pats := [(63, patOne)], marked := [3] }
theorem witness_fire : coreRuns matching 1 = true ∧
    after (exec (.fire 1) matching) (fun t => (getCore t 1).ready.length == 1 && ((tget (getCore t 1).chans 3).map fun x => x.queue.length) == some 0) = true ∧
    after (exec (.fire 1) (stateOf { idle with chans := [(3, { chanF with queue := [⟨msgTo 1 3, 0, false, 0⟩] })], marked := [3] }))
      (fun t => (getCore t 1).marked == [] && (getCore t 1).ready == []) = true := by decide
def thief : Core := { idle with chans := [(3, chanR)], pats := [(63, patOne)] }
theorem witness_steal : idleCore thief = true ∧ stealSet thief = [3] ∧ stealVictims (stateOf thief) 1 = [32, 33] ∧
    after (exec (.steal 1) (stateOf thief)) (fun t => t.net.map (fun p => p.dst) == [.core 32] && (getCore t 1).stealOut) = true := by decide
def deq3 : DeqEnt := ⟨3, ⟨msgTo 1 3, 0, false, 0⟩⟩
def robbed (d : List DeqEnt) : State := bringing (stateOf { idle with chans := [(3, chanR)], deque := d }) (.core 2) (.core 1) .sys (.stealReq [3])
theorem witness_stolen : after (exec (.stealRequest 0) (robbed [deq3])) (fun t => (getCore t 1).deque == [] && lastAnswer t == some (.stealRep (some deq3))) = true ∧
    after (exec (.stealRequest 0) (robbed [{ deq3 with chan := 4 }])) (fun t => (getCore t 1).deque.length == 1 && lastAnswer t == some (.stealRep none)) = true ∧
    after (exec (.stealReply 0) (bringing (stateOf { idle with chans := [(3, chanR)], stealOut := true }) (.core 2) (.core 1) .sys (.stealRep (some deq3))))
      (fun t => (getCore t 1).deque == [deq3] && !(getCore t 1).stealOut) = true ∧
    after (exec (.stealReply 0) (bringing (stateOf { idle with stealOut := true }) (.core 2) (.core 1) .sys (.stealRep none)))
      (fun t => (getCore t 1).deque == [] && !(getCore t 1).stealOut) = true := by decide
theorem witness_stolen_fires :
    after (exec (.stealReply 0) (bringing (stateOf { idle with chans := [(3, chanR)], pats := [(63, patOne)], stealOut := true }) (.core 2) (.core 1) .sys
      (.stealRep (some deq3)))) (fun t => (getCore t 1).deque == [] && (getCore t 1).ready.length == 1) = true := by decide
def spilled : State :=
  { stateOf { idle with chans := [(3, { chanF with ovfBase := 0x3000, ovfSize := 4, ovf := [⟨0, 0, 9, false, 0⟩] })] } with
    ferries := [(3, { tlb := [pageOf true true] })], mem := writeBytes [] 0x8000 (msgBytes (msgTo 1 3)) }
def backAgain : State :=
  bringing (stateOf { getCore spilled 1 with bulks := [{ uid := 4, kind := .ovfReturn 3 0 0, op := .read 64, addr := 0x3000 }] }) (.ferry 3) (.core 1) .rsp
    (.answer 4 (.data (msgBytes (msgTo 1 3))))
theorem witness_overflow : homeFerry 0x3000 = 3 ∧
    after (exec (.overflowReturn 1 3) spilled) (fun t => t.net.map (fun p => (p.dst, p.cls)) == [(.ferry 3, .bulk)] &&
      (getCore t 1).bulks.map (fun b => b.kind) == [.ovfReturn 3 0 0]) = true ∧
    after (exec (.loadResponse 0) backAgain) (fun t => (getCore t 1).bulks == [] &&
      ((tget (getCore t 1).chans 3).map fun x => x.queue) == some [⟨msgTo 1 3, 9, false, 0⟩]) = true := by decide

-- Gangs, twins and spill frames: a GANG of the lead at site 0 and site 1

def ganged (granted : List Nat) : State :=
  { baseState with parts := [(0, { running := true, clusters := [1] })],
                   cores := [(2, { idle with ready := [.start { firedTwo with gang := 1 }], granted := granted, slots := #v[{ mode := if granted = [] then .free else .reserved 2 }, {}, {}, {}] }),
                             (3, idle)] }
theorem witness_gang : wantedBy (ganged []) 2 = some 2 ∧ slotToGrant (ganged []) 2 2 false = some 0 ∧ wantedBy (ganged [2]) 3 = some 2 ∧
    after (exec (.gangGrant 2) (ganged [])) (fun t => (getSlot t 2 0).mode == .reserved 2 && (getCore t 2).granted == [2]) = true ∧
    after (exec (.gangGrant 3) (ganged [2])) (fun t => (getSlot t 3 0).mode == .run && (getSlot t 2 0).mode == .run && (getSlot t 3 0).pc == 0x100010) = true := by
  decide
def twinSlot (role : TwinRole) (fp : Word) : Slot :=
  { slotOf [] with mode := .stalled, twin := some role, fprint := fp, retired := 8, exchanged := some 4, twinWait := .exchange, replayable := true, fired := some { firedZero with twin := true } }
def twins (a b : Word) : State :=
  { baseState with cores := [(2, { idle with slots := #v[twinSlot (.primary 3) a, {}, {}, {}] }), (3, { idle with slots := #v[twinSlot (.secondary 2) b, {}, {}, {}] })] }
theorem witness_twins : after (exec (.twinExchange 2 0) (twins 5 5)) (fun t => (getSlot t 2 0).exchanged == some 8 && (getSlot t 3 0).exchanged == some 8) = true ∧
    after (exec (.twinExchange 2 0) (twins 5 6)) (fun t => (getSlot t 2 0).mode == .run && (getSlot t 3 0).mode == .run && (getSlot t 2 0).pc == 0x100010) = true := by
  decide
/-- One frame at 0x10000, threshold 256 cycles; its four pages live at ferries 16 to 19. -/
def frameFerries : Table Ferry := (List.range 4).map fun j => (16 + j, { tlb := [{ pasid := 7, va := 0x10000 + 0x1000 * j, log2 := 12, pa := 0x10000 + 0x1000 * j, r := true, w := true, x := false }] })
def stuckCore : Core :=
  { coreOf { slotOf [] with mode := .stalled, waits := [7] } with
    spill := 0x10010, ready := [.start firedTwo], reqs := [{ reqX with status := .ticketed 5 }] }
def waitingLong : State :=
  { stateOf stuckCore with cycle := 256, ferries := frameFerries }
theorem witness_spill : spillVictim waitingLong (getCore waitingLong 1) = some 0 ∧ spillFrame (getCore waitingLong 1) = some 0 ∧
    frameAddr (getCore waitingLong 1) 0 3 = 0x13000 ∧ homeFerry 0x13000 = 19 ∧ translate waitingLong 19 0 0x13000 .write = .pa 0x13000 ∧
    spillVictim { waitingLong with cycle := 255 } (getCore waitingLong 1) = none ∧
    after (exec (.slotSpill 1) waitingLong) (fun t => (getCore t 1).spillOut == some { slot := 0, frame := 0 } && (getCore t 1).bulks.length == 4 &&
      t.net.map (fun p => p.dst) == [.ferry 16, .ferry 17, .ferry 18, .ferry 19]) = true := by decide
theorem witness_spill_done : after (exec (.slotSpillDone 1 0) (stateOf { coreOf (slotOf [(3, 9)]) with spillOut := some { slot := 0, frame := 0 } }))
    (fun t => (getSlot t 1 0).mode == .free && (getCore t 1).away.map (fun a => (a.frame, a.ctx.x[3])) == [(0, 9)]) = true := by decide
def awayX : Away := { slot := 0, frame := 0, ctx := slotOf [(3, 9)], frameBytes := List.replicate 4096 0, frameUE := [], waits := [] }
def returningFrame : State :=
  { stateOf { idle with spill := 0x10010, ready := [.resume 0 0], away := [awayX] } with ferries := frameFerries }
def lastPage : State :=
  bringing (stateOf { idle with spill := 0x10010, away := [awayX], restoring := some { slot := 0, frame := 0 }, slots := #v[{ mode := .reserved 1 }, {}, {}, {}],
                                bulks := [{ uid := 4, kind := .restorePage 3, op := .read 4096, addr := 0x13000 }] }) (.ferry 19) (.core 1) .rsp
    (.answer 4 (.data []))
theorem witness_restore :
    after (exec (.slotRestore 1) returningFrame) (fun t => (getCore t 1).bulks.length == 4 && (getCore t 1).ready.length == 0 &&
      t.net.map (fun p => p.dst) == [.ferry 16, .ferry 17, .ferry 18, .ferry 19] && (getSlot t 1 0).mode != .free) = true ∧
    after (exec (.loadResponse 0) lastPage) (fun t => (getSlot t 1 0).x[3] == 9 && (getCore t 1).away.length == 0 && (getCore t 1).restoring == none) = true := by
  decide

-- A ferry's page records

def rec3 (pri : Bool) : PageRec := { pasid := 7, page := 3, need := .read, pri := pri, opened := 0, sources := [.core 1] }
def recording (pri : Bool) : State := { stateOf plain with ferries := [(3, { recs := [(5, rec3 pri)] })], time := 1000000000 }
theorem witness_ats : after (exec (.atsResponse 3 5 .notPresent) (recording false)) (fun t => (getFerry t 3).recs.map (fun r => r.2.pri) == [true] && t.net == []) = true ∧
    after (exec (.atsResponse 3 5 (.present 0x83000 12 true false false)) (recording false))
      (fun t => (getFerry t 3).recs == [] && (getFerry t 3).tlb.map (fun e => e.pa) == [0x83000] && lastAnswer t == some (.notice 0x305)) = true ∧
    after (exec (.atsResponse 3 5 (.present 0x83000 12 false true true)) (recording false)) (fun t => lastAnswer t == some (.failure 0x305) && (getFerry t 3).tlb == []) = true ∧
    colourOk { pasid := 7, va := 0x3000, log2 := 12, pa := 0x23000, r := true, w := true, x := true } = false ∧
    after (exec (.atsResponse 3 5 (.present 0x23000 12 true true true)) (recording false)) (fun t => lastAnswer t == some (.failure 0x305)) = true := by decide
theorem witness_pri : after (exec (.priResponse 3 5 .success) (recording true)) (fun t => (getFerry t 3).recs.map (fun r => r.2.pri) == [false]) = true ∧
    after (exec (.priResponse 3 5 .invalidRequest) (recording true)) (fun t => lastAnswer t == some (.failure 0x305)) = true ∧
    after (exec (.priResponse 3 5 .responseFailure) (recording true)) (fun t => lastAnswer t == some (.failure 0x305)) = true ∧
    (rec3 true).opened + (recording true).ticketLimit ≤ (recording true).time ∧
    after (exec (.ticketLimitExpiry 3 5) (recording true)) (fun t => lastAnswer t == some (.failure 0x305)) = true := by decide
theorem witness_ats_invalidation : after (exec (.atsInvalidation 3 7 0x3FFF 12) (asking { tlb := [pageOf true true] } [] .line)) (fun t => (getFerry t 3).tlb == []) = true ∧
    after (exec (.atsInvalidation 3 7 0x4000 12) (asking { tlb := [pageOf true true] } [] .line)) (fun t => (getFerry t 3).tlb.length == 1) = true := by decide

-- Subscriptions at ferry 3, the tensor in the page at 0x3000

def subX1 (st : SubState) : Sub :=
  { gen := 0, part := 0, lcore := 1, slot := 0, act := 5, snap := [], d := subDesc (subDescOne + 0x3000 + 4 * 2 ^ 152), rows := 1, groups := 1, win := 0,
    state := st, tcount := 4 }
def subState (u : Sub) (m : Mem) : State := { stateOf (tileCore tileE) with ferries := [(3, { tlb := [pageOf true true], subs := [(0, u)] })], mem := m }
def subscribing (f : Ferry) (d : Nat) : State :=
  bringing { stateOf (tileCore tileE) with ferries := [(3, f)] } (.core 1) (.ferry 3) .req (.req (pkt (.subscr 0 1 1 [] (leBytes 64 d)) 0))
theorem witness_ferry_subscribe : after (exec (.ferrySubscribe 0) (subscribing {} (subDescOne + 0x3000 + 2 ^ 152)))
      (fun t => lastAnswer t == some (.answer 7 (.old 0x600)) && ((getSub t 3 0).map fun u => u.state) == some .active) = true ∧
    after (exec (.ferrySubscribe 0) (subscribing {} (subDescOne + 2 ^ 339 + 0x3100 * 2 ^ 448)))
      (fun t => ((getSub t 3 0).map fun u => u.state) == some .waiting) = true := by decide
def fullFerry : Ferry := { subs := (List.range 64).map fun e => (e, subX1 .active) }
theorem witness_ferry_full : freeSub fullFerry = none ∧ nextFerry 1 3 = some 4 ∧ nextFerry 1 31 = none ∧
    after (exec (.ferrySubscribe 0) (subscribing fullFerry (subDescOne + 2 ^ 152))) (fun t => t.net.map (fun p => p.dst) == [.ferry 4]) = true := by decide
/-- A deferred subscription: DCOUNT, its record at 0x3100, flag 3. -/
def deferred (st : SubState) : Sub := { subX1 st with d := subDesc (subDescOne + 0x3000 + 3 * 2 ^ 176 + 2 ^ 339 + 0x3100 * 2 ^ 448), tcount := 0 }
theorem witness_deferred : subRuns (subState (deferred .waiting) []) (deferred .waiting) = true ∧
    translate (subState (deferred .waiting) []) 3 0 0x3100 .read = .pa 0x8100 ∧
    after (exec (.deferredPoll 3 0) (subState (deferred .waiting) [(0x8100, 3)])) (fun t => ((getSub t 3 0).map fun u => u.state) == some .record) = true ∧
    after (exec (.deferredPoll 3 0) (subState (deferred .waiting) [(0x8100, 2)])) (fun t => ((getSub t 3 0).map fun u => u.state) == some .waiting) = true ∧
    after (exec (.deferredRead 3 0) (subState (deferred .record) [(0x8108, 9)])) (fun t => ((getSub t 3 0).map fun u => (u.state, u.tcount)) == some (.active, 9)) = true := by
  decide
theorem witness_tile_start : berthOf (subX1 .active) 0 = 63 ∧ berthFree (subX1 .active) tileE = true ∧
    after (exec (.ferryTileStart 3 0) (subState (subX1 .active) [])) (fun t => ((getSub t 3 0).map fun u => (u.next, u.jobs.map fun j => (j.tile, j.segs.length, j.flying.map fun g => (g.2.addr, g.2.len)))) ==
      some (1, [(0, 0, [(0x3000, 128)])]) && t.net.map (fun p => (p.dst, p.cls)) == [(.ferry 3, .bulk)]) = true := by decide
def segZ : Seg := { id := 0, kind := .row, row := 0, off := 0, addr := 0x3000, len := 128 }
def moving (segs : List Seg) (flying : List (Nat × Seg)) : Sub :=
  { subX1 .active with next := 1, jobs := [{ tile := 0, segs := segs, flying := flying, indexed := true }] }
def segBack (segs : List Seg) (a : Answer) : State := bringing (subState (moving segs [(9, segZ)]) []) (.ferry 3) (.ferry 3) .rsp (.answer 9 a)
theorem witness_segment : coreRuns (segBack [] .ack) 1 = true ∧
    after (exec (.segmentAnswer 3 0 0) (segBack [{ segZ with off := 128 }] (.data [0, 6])))
      (fun t => ((getSub t 3 0).map fun u => u.jobs.map fun j => (j.segs.length, j.flying.length, j.stage)) == some [(0, 1, [(1, 6)])] &&
        ((getTile (getCore t 1) 63).map fun y => y.state) == some .filling) = true ∧
    after (exec (.segmentAnswer 3 0 0) (segBack [] (.data (leBytes 128 0x600)))) (fun t => ((getSub t 3 0).map fun u => (u.tdone, u.jobs.length)) == some (1, 0) &&
      ((getTile (getCore t 1) 63).map fun y => y.state) == some .ready && readLE (getCore t 1).spad 0x180 4 == 0x600) = true := by decide
theorem witness_segment_stops : after (exec (.segmentAnswer 3 0 0) (segBack [] (.ticket 0x305 false)))
      (fun t => ((getSub t 3 0).map fun u => u.fixups.map fun z => (z.ticket, z.home)) == some [(0x305, 3)]) = true ∧
    after (exec (.segmentAnswer 3 0 0) (segBack [] (.refusePerm 0))) (fun t => ((getSub t 3 0).map fun u => u.state) == some .failed &&
      ((getTile (getCore t 1) 63).map fun y => (y.fault, y.failAddr)) == some (true, 0x3000)) = true := by decide
def fixed : Sub := { moving [] [] with fixups := [{ ticket := 0x405, home := 4, tile := 0, seg := segZ }] }
theorem witness_fixup : after (exec (.fixupReplay 0) (bringing (subState fixed []) (.ferry 4) (.ferry 3) .sys (.notice 0x405)))
    (fun t => ((getSub t 3 0).map fun u => (u.fixups.length, u.jobs.map fun j => j.flying)) == some (0, [[(0, segZ)]]) && t.net.length == 1) = true := by decide
def toFerry (u : Sub) (op : ROp) : State := bringing (subState u []) (.core 1) (.ferry 3) .req (.req (pkt op 0))
theorem witness_unsub_answers : after (exec (.unsubAtFerry 0) (bringing { baseState with ferries := [] } (.core 1) (.ferry 3) .req (.req (pkt (.unsub 0x600) 0))))
      (fun t => lastAnswer t == some (.answer 7 (.old 1))) = true ∧
    after (exec (.unsubAtFerry 0) (toFerry { subX1 .active with part := 9 } (.unsub 0x600))) (fun t => lastAnswer t == some (.answer 7 (.old 2))) = true ∧
    after (exec (.unsubAtFerry 0) (toFerry (subX1 .done) (.unsub 0x600))) (fun t => lastAnswer t == some (.answer 7 (.old 3))) = true ∧
    after (exec (.unsubAtFerry 0) (toFerry (moving [segZ] []) (.unsub 0x600))) (fun t => lastAnswer t == some (.answer 7 (.old 0)) &&
      ((getSub t 3 0).map fun u => u.state) == some .cancelled) = true := by decide
theorem witness_fstat_answers : after (exec (.fstatAtFerry 0) (bringing { baseState with ferries := [] } (.core 1) (.ferry 3) .req (.req (pkt (.fstat 0x600) 0))))
      (fun t => lastAnswer t == some (.answer 7 (.old 7))) = true ∧
    after (exec (.fstatAtFerry 0) (toFerry { moving [segZ] [] with tdone := 2, drops := 300 } (.fstat 0x600))) (fun t => lastAnswer t == some (.answer 7 (.old 0x4000002FF01))) = true ∧
    after (exec (.fstatAtFerry 0) (toFerry (deferred .record) (.fstat 0x600))) (fun t => lastAnswer t == some (.answer 7 (.old 0))) = true := by decide

-- The array of cluster 0, the command of rank 1 (site 1): tile 0 holds 1 in element 0 of a P8 row, tile 1 the FP8 code of 1.0

def cmdM : MCmd := { (mxFields .mxm 0x40 0) with slot := 0, act := 5, m := 1, n := 1, kb := 1 }
def arrayCore (q : MCmd) (a : Acc) : Core := { mxCore with slots := #v[{ slotOf [] with cntM := 1 }, {}, {}, {}], mq := [q], acc := a }
def arrayState (q : MCmd) (a : Acc) (x : Cluster) : State := { stateOf (arrayCore q a) with clusters := [(0, x)] }
theorem witness_lease : (∀ j < 4, j ≠ 1 → (rankCore (arrayState cmdM {} {}) 0 j).mq = []) ∧ clusterSite 0 1 = 1 ∧
    after (exec (.leaseGrant 0) (arrayState cmdM {} {})) (fun t => (getCluster t 0).holder == some 1 && (getCluster t 0).limit == 8 && (getCore t 1).acc.opened) = true ∧
    after (exec (.leaseGrant 0) (arrayState cmdM {} { lease := 0 })) (fun t => (getCluster t 0).limit == 1) = true := by decide
/-- Plane 7 of the P8 group is the sign plane; the last plane carries bit 0: element 0 is 1, exponent byte 127. The B group: 1.0 in E4M3 is 0x38. -/
def seenM : Mem := writeLE (writeLE (writeLE [] (0x800 + 28) 4 1) (0x800 + 64) 1 127) 0x1000 1 0x38
def foldCmd : MCmd := { cmdM with started := true, sideA := [aSide seenM [] tileP 0 0 0], sideB := [bSide seenM [] tileB 0 0] }
def isInts : Side → Bool
  | .ints _ _ => true
  | _ => false
theorem witness_fold : foldCmd.sideA.map isInts = [true] ∧ foldCmd.sideB.map isInts = [true] ∧
    after (exec (.blockFold 1) (arrayState foldCmd { opened := true, m := 1, n := 1 } { holder := some 1, used := 1 }))
      (fun t => (getCore t 1).acc.kpos == 1 && (getCore t 1).mq.length == 0 && (getSlot t 1 0).cntM == 0) = true := by decide
theorem witness_mxz_event : after (exec (.mxzAtHead 1) (arrayState { cmdM with kind := .mxz } { opened := true, m := 1, n := 1, elems := [(0, 5)] } {}))
      (fun t => !(getCore t 1).acc.opened && (getCore t 1).acc.elems == [] && (getSlot t 1 0).cntM == 0) = true ∧
    after (exec (.adpinvAtHead 1) (arrayState { cmdM with kind := .adpinv, id := 4 } {} { cache := [⟨.entry 4, [], 0, false⟩, ⟨.entry 5, [], 0, false⟩] }))
      (fun t => (getCluster t 0).cache.map (fun l => l.tag) == [.entry 5]) = true ∧
    after (exec (.adpinvAtHead 1) (arrayState { cmdM with kind := .adpinv, all := true } {} { cache := [⟨.entry 5, [], 0, false⟩] }))
      (fun t => (getCluster t 0).cache.length == 0) = true := by decide
def fetchingEntry : State :=
  bringing (arrayState cmdM { adptab := 0x3000 } { fetches := [{ tag := .entry 4, core := 1, pieces := [{ uid := 9, addr := 0x3080, len := 128 }] }] })
    (.ferry 3) (.adapter 0) .rsp (.answer 9 (.data [6]))
theorem witness_adapter_fetch :
    after (exec (.adapterFetch 0 0) fetchingEntry) (fun t => (getCluster t 0).cache.map (fun l => (l.tag, l.bytes.head?)) == [(.entry 4, some 6)]) = true := by
  decide
def outOnly : DrainImg :=
  { ops := [{ op := 21, dst := 0, s1 := 8, s2 := 0, s3 := 0, md := 0 }, { op := 23, dst := 0, s1 := 0, s2 := 0, s3 := 0, md := 0 }], consts := List.replicate 16 0 }
/-- 1.0 in the accumulator's form. -/
def accOne : Acc := { opened := true, m := 1, n := 1, elems := [(0, a40One)] }
def draining (d : Option DrainRun) (ready : Option Nat) : State :=
  arrayState { cmdM with kind := .mxd, dst := 2, fin := true, readyAt := ready } accOne { progs := (Vector.replicate 16 none).set 0 (some outOnly), drain := d, holder := some 1 }
theorem witness_drain : after (exec (.drainStart 0) (draining none (some 0))) (fun t => ((getCluster t 0).drain.map fun d => (d.rank, d.group)) == some (1, 0)) = true ∧
    after (exec (.drainGroupCommit 0) (draining (some { rank := 1 }) none)) (fun t => readLE (getCore t 1).spad 0x180 4 == 0x3F800000 &&
      ((getTile (getCore t 1) 2).map fun y => (y.state, y.dest)) == some (.ready, false) && (getCluster t 0).drain.isNone && !(getCore t 1).acc.opened) = true := by
  decide

-- Ports: device 5 on port 5; window 0 exports the page at 0x3000 to partition 2 of device 5

def winX : Window := { base := 0x3000, size := 1, idev0 := 5, idev1 := 5, ipart := 2, ownpart := 0, at_ := true, wr := true, rd := true }
def withPort (x : Port) : State := { stateOf plain with ports := (Vector.replicate 16 {}).set 5 x }
def exporting : State := { stateOf plain with windows := [(0, winX)], ferries := [(3, { tlb := [pageOf true true] })], mem := [(0x8FFF, 6)] }
def txOf (t : State) : List (Option UaStatus) := (getPort t 5).tx.map fun u => u.status
def lastTx (t : State) : List Byte := ((getPort t 5).tx.getLast?.map fun u => u.bytes).getD []
theorem witness_exported : exported exporting 5 2 0xFFE (fun w => w.rd) 0x3FFE 0 ∧ translate exporting 3 0 0x3FFE .read = .pa 0x8FFE ∧
    translate exporting 3 0 0x3FFE .write = .pa 0x8FFE := by
  refine ⟨⟨winX, rfl, ?_⟩, by decide⟩
  decide
theorem witness_peer_access : after (exec (.ualinkReadWrite 5 ⟨5, 2⟩ 0 0xFFE (.read 2)) exporting) (fun t => txOf t == [some (.data [0, 6])]) = true ∧
    after (exec (.ualinkReadWrite 5 ⟨5, 2⟩ 0 0xFFE (.write [7, 8])) exporting) (fun t => txOf t == [some .done] && t.mem == [(0x8FFE, 7), (0x8FFF, 8)]) = true ∧
    after (exec (.ualinkReadWrite 5 ⟨5, 2⟩ 0 0x1000000000000000 (.read 2)) exporting) (fun t => txOf t == [some .refusedPerm]) = true ∧
    after (exec (.ualinkReadWrite 5 ⟨5, 2⟩ 1 0xFFE (.read 2)) exporting) (fun t => txOf t == [] && (getPort t 5).early.map (fun q => q.order) == [1]) = true := by decide
/-- A read of 2 bytes at 0xFFE, sequence number 6, core 9. -/
def readRec : List Byte := leBytes 8 (1 + 6 * 2 ^ 16 + 9 * 2 ^ 32) ++ leBytes 8 0xFFE ++ leBytes 8 2 ++ leBytes 8 0
theorem witness_operation : readRec.length = 32 ∧ recordOp readRec = some (.read 2) ∧
    after (exec (.operationRecord 5 ⟨5, 2⟩ 0 readRec) exporting) (fun t => txOf t == [some .done, none] &&
      lastTx t == leBytes 8 (6 * 2 ^ 16 + 9 * 2 ^ 32) ++ leBytes 8 0 ++ [0, 6]) = true := by decide
def msgRec : List Byte := msgBytes { msgTo 1 3 with srcCore := 9 } ++ leBytes 16 6
def taking : State :=
  { stateOf { plain with chans := [(3, { chanF with peer := true })] } with dies := #v[{ map0 with landVer := Vector.replicate 16 1 }, {}, {}, {}] }
theorem witness_message_write : msgRec.length = 80 ∧ (messageAddr (msgTo 1 3)) = 0x10000000000040C0 ∧
    landingFinds taking (landingOfPort 1) 1 = some 1 ∧
    after (exec (.ualinkMessageWrite 1 ⟨5, 2⟩ 0 ⟨0x10000000000040C0, msgRec⟩) taking) (fun t =>
      ((tget (getCore t 1).chans 3).map fun x => x.queue.map fun q => (q.msg.srcDev, q.msg.srcCore)) == some [(5, 9)] &&
      (getPort t 1).tx.getLast?.map (fun u => u.bytes) == some (leBytes 8 (6 * 2 ^ 16 + 9 * 2 ^ 32) ++ leBytes 8 0)) = true := by decide
def outX (op : ROp) (region0 : Bool) : LOut :=
  { tag := 4, src := .core 1, uid := 7, dev := 5, srccore := 1, seq := 6, op := op, last := false, region0 := region0, sentAt := 0 }
def pending (o : LOut) : State := { withPort { outs := [o] } with time := 1000000 }
def resRec (st : Nat) (v : Nat) : List Byte := leBytes 8 (st + 6 * 2 ^ 16 + 2 ^ 32) ++ leBytes 8 v
def answeredAt5 (r : Res) (a : Answer) : Bool := after r fun t => lastAnswer t == some (.answer 7 a) && (getPort t 5).outs.length == 0
theorem witness_results : answeredAt5 (exec (.resultRecord 5 5 (resRec 0 99)) (pending (outX (.amo .add 8 1 0) false))) (.old 99) = true ∧
    answeredAt5 (exec (.resultRecord 5 5 (resRec 0 0)) (pending (outX (.write [1]) false))) .ack = true ∧
    answeredAt5 (exec (.resultRecord 5 5 (resRec 7 0)) (pending (outX (.read 4) false))) (.refusePerm 7) = true ∧
    answeredAt5 (exec (.resultRecord 5 5 (resRec 1 0)) (pending (outX (.read 4) false))) (.refusePerm 1) = true ∧
    answeredAt5 (exec (.resultRecord 5 5 (resRec 8 0)) (pending (outX (.read 4) false))) (.refusePerm 0) = true ∧
    answeredAt5 (exec (.resultRecord 5 5 (resRec 9 0)) (pending (outX (.read 4) false))) .refuseUE = true := by decide
theorem witness_completions : answeredAt5 (exec (.ualinkCompletion 5 5 4 (.data [1, 2])) (pending (outX (.read 2) true))) (.data [1, 2]) = true ∧
    answeredAt5 (exec (.ualinkCompletion 5 5 4 .done) (pending (outX (.write [1]) true))) .ack = true ∧
    answeredAt5 (exec (.ualinkCompletion 5 5 4 .refusedPerm) (pending (outX (.read 2) true))) (.refusePerm 0) = true ∧
    answeredAt5 (exec (.ualinkCompletion 5 5 4 .ticketFailed) (pending (outX (.write [1]) true))) .failed = true := by decide
theorem witness_link_down : after (exec (.linkDown 5) (pending (outX (.read 2) false))) (fun t => lastAnswer t == some (.answer 7 (.refusePerm 0)) && !(getPort t 5).up) = true ∧
    after (exec (.linkDown 5) (pending (outX (.msg {}) false))) (fun t => lastAnswer t == some (.answer 7 (.refusePerm 1))) = true ∧
    (outX (.read 2) false).sentAt + (pending (outX (.read 2) false)).linkLimit ≤ (pending (outX (.read 2) false)).time ∧
    after (exec (.ualinkTimeout 5 5) (pending (outX (.read 2) false))) (fun t => lastAnswer t == some (.answer 7 (.refusePerm 0)) && (getPort t 5).downDevs == [5]) = true := by
  decide
def relaying : State := withPort { ltickets := [(2, { dev := 5, peer := 0xABC, sources := [.core 1] })] }
theorem witness_relay : after (exec (.resultRecord 5 5 (leBytes 8 (0x12 + 0xABC * 2 ^ 48) ++ leBytes 8 0)) relaying)
      (fun t => lastAnswer t == some (.notice (BitVec.ofNat 16 ((128 + landingOfPort 5) * 256 + 2))) && (getPort t 5).ltickets.length == 0) = true ∧
    after (exec (.resultRecord 5 5 (leBytes 8 (0x13 + 0xABC * 2 ^ 48) ++ leBytes 8 0)) relaying)
      (fun t => lastAnswer t == some (.failure (BitVec.ofNat 16 ((128 + landingOfPort 5) * 256 + 2)))) = true := by decide
theorem witness_link : after (exec (.linkUp 5) (withPort { up := false, downDevs := [5] })) (fun t => (getPort t 5).up && (getPort t 5).downDevs == []) = true ∧
    (getPort (withPort { up := false, downDevs := [5] }) 5).up = false := by decide
/-- A request of core 1 for a core east of it, and the link that it takes first with these credits. -/
def eastward : Packet := { src := .core 1, dst := .core 2, cls := .req, body := .req (pkt (.read 2) 0) }
def crossing (c : Nat) : State :=
  { baseState with net := [eastward], links := [(4, { credits := Vector.replicate 4 c })] }
theorem witness_flit : pathOf (crossing 3) eastward = [4] ∧ flitsOf eastward.body = 1 ∧
    after (exec (.creditReturn 4 (some 0) 63) (crossing 0)) (fun t => decide (t = crossing 0)) = true ∧
    after (exec (.creditReturn 4 (some 0) 63) (crossing 3)) (fun t => (getLink t 4).credits == #v[2, 3, 3, 3] &&
      t.net.map (fun q => q.wire) == [.flying [4] [1]]) = true := by decide
theorem witness_null_flit : reverseLink 4 = 9 ∧
    after (exec (.creditReturn 4 none 1) { baseState with links := [(9, { credits := Vector.replicate 4 0, freed := [.sys, .sys] })] })
      (fun t => (getLink t 9).credits == #v[0, 0, 1, 0] && (getLink t 9).freed == [.sys] && (getLink t 4).last.isSome) = true ∧
    after (exec (.linkReset 4) (crossing 0)) (fun t => (getLink t 4).credits == #v[16, 16, 4, 24]) = true := by decide

-- The host

/-- Two words for channel 3 of core 1, sequence number 0xFFFF. -/
def hostBytes (w0 : Nat) : List Byte := leBytes 8 w0 ++ leBytes 8 0 ++ leBytes 48 0xAA
def hostX (f : Bool) (t : Option (BitVec 16 × Endpoint)) : HostMsg := { uid := 8, msg := { msgTo 1 3 with srcCore := 0x1FFC }, flying := f, ticket := t }
def hostSees : State := { baseState with cores := [(0, { ctrlCore with mapVer := 1 }), (1, fifoCore)] }
theorem witness_host_message : siteOf hostSees 1 = some 1 ∧ routeTo hostSees (ctrlSite hostSees 0) 1 = .direct 1 ∧
    after (exec (.hostMessageWrite 0 0x40C0 (hostBytes 0x7FFFA) false) hostSees) (fun t =>
      (getPart t 0).host.map (fun h => (h.msg.count, h.msg.seq, h.msg.srcCore, h.msg.words[0], h.flying)) == [(2, 0xFFFF, 0x1FFC, 0xAA, true)] &&
      t.net.map (fun p => (p.src, p.dst)) == [(.host, .core 1)]) = true ∧
    after (exec (.hostMessageWrite 0 0x40C0 (hostBytes 7) false) hostSees) (fun t => (getPart t 0).hdrop == 1) = true ∧
    after (exec (.hostMessageWrite 0 0x40C0 (hostBytes 0x80002) false) hostSees) (fun t => (getPart t 0).hdrop == 1) = true := by decide
/-- The host waits for this message; a packet comes for it. -/
def hostWaits (h : HostMsg) (b : Body) : State :=
  bringing { hostSees with parts := [(0, { running := true, clusters := [0], host := [h] })] } (.core 1) .host .rsp b
theorem witness_host_answers :
    after (exec (.acknowledgement 0) (hostWaits (hostX true none) (.answer 8 .ack))) (fun t => (getPart t 0).host == [] && (getPart t 0).hrefuse == 0) = true ∧
    after (exec (.lateRefusal 0) (hostWaits (hostX true none) (.answer 8 (.refusePerm 2)))) (fun t => (getPart t 0).host == [] && (getPart t 0).hrefuse == 1) = true ∧
    after (exec (.ticketAnswer 0) (hostWaits (hostX true none) (.answer 8 (.ticket 5 false))))
      (fun t => (getPart t 0).host.map (fun h => (h.ticket, h.stored)) == [(some (5, .core 1), true)] && t.net == []) = true ∧
    after (exec (.replayNotice 0) (hostWaits (hostX false (some (5, .core 1))) (.notice 5)))
      (fun t => (getPart t 0).host.map (fun h => (h.flying, h.ticket)) == [(true, none)] && t.net.map (fun p => p.dst) == [.core 1]) = true := by decide
/-- A request of the host interface at ferry 126, for the last two bytes of HBM. -/
def hostAsks (op : ROp) (m : Mem) : State :=
  bringing { baseState with mem := m } .host (.ferry 127) .req (.req (hostPkt 8 op 0xBFFFFFFFFE fwPart))
theorem witness_bar4 : (0xBFFFFFFFFE : Nat) + 2 ≤ Config.hbmBytes ∧ homeFerry 0xBFFFFFFFFE = 127 ∧
    after (exec (.bar4Access 0xBFFFFFFFFE (.read 2)) baseState) (fun t => t.net.map (fun p => (p.src, p.dst)) == [(.host, .ferry 127)] &&
      t.bar4.map (fun e => e.2) == [0xBFFFFFFFFE]) = true ∧
    after (exec (.bar4Access 0xBFFFFFFFFE (.write [0, 6])) baseState) (fun t => t.net.length == 1 && t.bar4 == []) = true ∧
    after (exec (.requestPerform 0) (hostAsks (.read 2) [(0xBFFFFFFFFF, 6)])) (fun t => lastAnswer t == some (.answer 8 (.data [0, 6]))) = true ∧
    after (exec (.requestPerform 0) (hostAsks (.write [0, 6]) [])) (fun t => t.mem == [(0xBFFFFFFFFF, 6)] && lastAnswer t == some (.answer 8 .ack)) = true ∧
    after (exec (.loadResponse 0) (bringing { baseState with bar4 := [(8, 0xBFFFFFFFFE)] } (.ferry 127) .host .rsp (.answer 8 (.data [0, 6]))))
      (fun t => t.out == [.bar4Data 0xBFFFFFFFFE [0, 6]] && t.bar4 == [] && t.net == []) = true := by decide
def vfState (p : Part) : State := { baseState with parts := [(0, p)] }
theorem witness_vf_registers : after (exec (.vfRegisterWrite 0 0x118 0x0807060504030201) (vfState { nonce := List.replicate 32 9 }))
      (fun t => (getPart t 0).nonce == List.replicate 24 9 ++ [1, 2, 3, 4, 5, 6, 7, 8]) = true ∧
    after (exec (.vfRegisterWrite 0 0x120 (-1)) (vfState {})) (fun t => (getPart t 0).attaddr == 0x01FFFFFFFFFFF000) = true ∧
    after (exec (.hdrop 0 0) (vfState { hdrop := 5 })) (fun t => (getPart t 0).hdrop == 0) = true ∧
    after (exec (.hrefuse 0 0) (vfState { hrefuse := 5 })) (fun t => (getPart t 0).hrefuse == 0) = true := by decide
def vectorMsg (v : Word) : State :=
  { baseState with cores := [(0, { ctrlCore with chans := [(1, { chanF with queue := [⟨{ count := 1, srcCore := 1, words := words6 [v] }, 0, false, 0⟩] })] }),
                             (1, { idle with part := some 0 })] }
theorem witness_msix : senderPart (vectorMsg 15) { srcCore := 1 } = some 0 ∧
    after (exec .msixRequest (vectorMsg 15)) (fun t => t.out == [.msix 0 15]) = true ∧
    after (exec .msixRequest (vectorMsg 16)) (fun t => t.out == [] && (getCore t 0).events[17] == 1) = true := by decide

-- Services: the supervisor, core 1, asks the control core of die 0; replies go to channel 4 of core 1

def serviceMsg (w0 w2 w3 w4 w5 : Word) (src : Nat) : Msg := { count := 6, srcCore := src, chan := 8, dstCore := 0x1FF0, words := #v[w0, nameOf 1 4, w2, w3, w4, w5] }
def service (m : Msg) : State :=
  { baseState with cores := [(0, { ctrlCore with chans := [(8, { chanF with queue := [⟨m, 0, false, 0⟩] })] }), (1, idle), (32, { idle with lcore := some 2 })] }
/-- The reply carries this code, status and value. -/
def replies (i : Instr) (m : Msg) (code status : Nat) (v : Word) : Bool :=
  after (exec i (service m)) fun t => (getCore t 0).reqs.map (fun r => match r.op with | .msg q => (q.chan, q.dstCore, q.words[0], q.words[1]) | _ => (0, 0, 0, 0)) ==
    [(4, 1, BitVec.ofNat 64 (code + status * 2 ^ 8), v)]
theorem witness_asks : asks (service (serviceMsg 5 1 0 0 0 1)) 0 0 (serviceMsg 5 1 0 0 0 1) := by
  refine ⟨rfl, rfl, rfl, rfl, rfl, rfl, { chanF with queue := [⟨serviceMsg 5 1 0 0 0 1, 0, false, 0⟩] }, ⟨serviceMsg 5 1 0 0 0 1, 0, false, 0⟩, rfl, rfl, rfl, rfl⟩
theorem witness_refused_services : replies (.badservice 0) (serviceMsg 5 1 0 0 0 2) 5 1 0 = true ∧ replies (.badservice 0) (serviceMsg 7 1 0 0 0 1) 7 2 0 = true ∧
    replies (.badservice 0) (serviceMsg 0 1 0 0 0 1) 0 2 0 = true ∧ replies (.setcsr 0) (serviceMsg 1 0x1F00 0x104 0 0 1) 1 3 0 = true ∧
    replies (.getcsr 0) (serviceMsg 2 0x1F00 0x104 0 0 1) 2 3 0 = true ∧ replies (.load 0 .service) (serviceMsg 0x106 0 0 0 0 1) 6 5 8 = true := by decide
theorem witness_setcsr : settable 0x104 = true ∧ csrMask 0x104 = some 0x01FFFFFFFFFFFF80 ∧ replies (.setcsr 0) (serviceMsg 1 1 0x104 0x20007F 0 1) 1 0 0 = true ∧
    after (exec (.setcsr 0) (service (serviceMsg 1 1 0x104 0x20007F 0 1))) (fun t => (getCore t 1).tvec == 0x200000) = true := by decide
theorem witness_getcsr : csrListed false 0x7FF = true ∧ slotCsr 0x012 = true ∧ replies (.getcsr 0) (serviceMsg 2 1 0x012 3 0 1) 2 0 3 = true ∧
    replies (.getcsr 0) (serviceMsg 2 1 0x013 0 0 1) 2 0 1 = true := by decide
theorem witness_super : replies (.super 0) (serviceMsg 5 1 0 0 0 1) 5 0 1 = true ∧
    after (exec (.nightch 0) (service (serviceMsg 4 (nameOf 1 7) 0 0 0 1))) (fun t => (getPart t 0).nightch == nameOf 1 7) = true ∧
    nameInPart (service (serviceMsg 4 (nameOf 1 7) 0 0 0 1)) 0 (nameOf 1 7) = true ∧ replies (.nightch 0) (serviceMsg 4 0 0 0 0 1) 4 0 0 = true := by decide
theorem witness_iinv_service : partSites (service (serviceMsg 3 0x100000 0 0 0 1)) 0 = [1, 32] ∧
    after (exec (.iinvService 0) (service (serviceMsg 3 0x100000 0 0 0 1))) (fun t => t.net.map (fun p => p.dst) == [.core 1, .core 32] && (t.invs.map fun v => v.2.left) == [2]) = true := by
  decide

-- Launches and nightfall

def dig8 : List Byte := [1, 2, 3, 4, 5, 6, 7, 8]
def imgX : Image := { dp := dig8, dn := dig8, version := 9, rbc := 0 }
/-- The launch of channel 3 of core `lc`, the report to channel 6 of core 2 of the sender's device. -/
def launchMsg (name : Word) : Msg := { count := 6, srcCore := 2, srcDev := 5, dstCore := 0x1FF0, words := #v[0x0807060504030201, name, 0x3000800, 11, 12, 13] }
def launching (name : Word) (im : Option Image) : State :=
  { baseState with
    cores := [(0, { ctrlCore with chans := [(0, { chanF with queue := [⟨launchMsg name, 0, false, 0⟩] })] }), (1, { idle with chans := [(3, chanF)] })],
    parts := [(0, { running := true, clusters := [0], image := im })],
    windows := [(0, { winX with ipart := 63 })] }
/-- The report carries this status, partition and version. -/
def reports (r : Res) (w0 w1 : Word) : Bool :=
  after r fun t => (getCore t 0).reqs.map (fun r => match r.op with | .msg q => (q.chan, q.dstCore, q.dstDev, q.words[0], q.words[1]) | _ => (0, 0, 0, 0, 0)) ==
    [(6, 2, 5, w0, w1)]
theorem witness_launch_nowhere : siteOf (launching (nameOf 9 3) none) 9 = none ∧ reports (exec (.remoteLaunch 0) (launching (nameOf 9 3) none)) 0xFF03 0 = true ∧
    reports (exec (.remoteLaunch 0) (launching 0x100000000 none)) 0xFF03 0 = true ∧
    reports (exec (.remoteLaunch 0) (launching (nameOf 1 3) none)) 0x1 0 = true := by decide
theorem witness_launch : leNat (imgX.dp.take 8) = (0x0807060504030201#64).toNat ∧ (getCore (launching (nameOf 1 3) (some imgX)) 1).srcs = [] ∧
    reports (exec (.remoteLaunch 0) (launching (nameOf 1 3) (some imgX))) 0x90000 0x0807060504030201 = true ∧
    after (exec (.remoteLaunch 0) (launching (nameOf 1 3) (some imgX))) (fun t =>
      ((tget (getCore t 1).chans 3).map fun x => x.queue.map fun q => (q.msg.rel, q.msg.words[0], q.msg.words[2])) == some [(true, 11, 13)]) = true := by decide
def sleeping (ch : Word) : State :=
  { baseState with cores := [(1, { idle with chans := [(3, { chanF with queue := [⟨msgTo 1 3, 0, false, 0⟩] })] })], parts := [(0, { running := true, clusters := [0], supcore := some 1, nightch := ch })], time := 77 }
theorem witness_nightfall : (∀ x ∈ partSites (sleeping 0) 0, asleep (getCore (sleeping 0) x) = true) ∧ nothingMoves (sleeping 0) 0 = true ∧
    after (exec (.nightfall 0) (sleeping 0)) (fun t => t.net.map (fun p => (p.src, p.dst, p.cls, p.body)) ==
      [(.core 0, .core 0, .sys, .nightfall 0)] && !(getPart t 0).armed && t.out == []) = true := by decide
/-- Firmware hears of the nightfall. -/
def nightHears (ch : Word) : State := runAct (.manage 0) (bringing (sleeping ch) (.core 0) (.core 0) .sys (.nightfall 0))
theorem witness_nightfall_heard : (nightHears 0).out = [.mctp [0x10, 0]] ∧ (getPart (nightHears 0) 0).nightEvents = 1 ∧
    (getCore (nightHears (nameOf 1 3)) 0).reqs.map (fun r => match r.op with | .msg q => (q.chan, q.words[0], q.words[1], q.words[2]) | _ => (0, 0, 0, 0)) =
      [(3, 0x10, 1, 77)] := by decide

-- Boot registers

theorem witness_boot_registers : dieUp baseState 0 = true ∧ (getDie baseState 0).flooding = [] ∧ (getDie baseState 0).mapQueue = [] ∧
    after (exec (.mapwWrite 0 0x3FE03FF) baseState) (fun t => (getDie t 0).staged == [(1022, 1023)]) = true ∧
    after (exec (.discWrite 0 7) { baseState with dies := #v[{ map0 with flooding := [9], disc := 3 }, {}, {}, {}] }) (fun t => (getDie t 0).disc == 3) = true := by
  decide
/-- The flood comes to the router of site 32, row 1 and column 0, and to those of the control core and of the last site. -/
def floods (x row col : Nat) : State := runAct (.manage 0) (bringing (stateOf plain) (.core 0) (.core x) .sys (.flood row col))
def floodsTo (t : State) : List (Endpoint × Body) := t.net.filterMap fun p => match p.body with | .flood r c => some (p.dst, .flood r c) | _ => none
theorem witness_flood : ctrlSite baseState 0 = 0 ∧
    floodsTo (floods 32 1 0) = [(.core 64, .flood 2 0)] ∧ tget (floods 32 1 0).routers 32 = some 0x80 ∧
    (getCore (floods 32 1 0) 32).reqs.map (fun r => match r.op with | .msg q => (q.dstCore, q.words[0]) | _ => (0, 0)) = [(0x1FF0, 0x20)] ∧
    floodsTo (floods 0 0 0) = [(.core 1, .flood 0 1), (.core 32, .flood 1 0)] ∧ (getCore (floods 0 0 0) 0).reqs.length = 0 ∧
    floodsTo (floods 31 0 31) = [(.core 63, .flood 1 31)] ∧ floodsTo (floods 1023 31 31) = [] := by decide
def committed (q : List Word) (w : List Endpoint) : State := { baseState with dies := #v[{ map0 with mapQueue := q, mapWait := w }, {}, {}, {}] }
theorem witness_mapgo : after (exec (.mapgoWrite 0 5) (committed [3] [.core 9])) (fun t => (getDie t 0).mapQueue == [3, 5] && t.net.length == 0) = true ∧
    after (exec (.mapNotice 0) (committed [0x500090000] [])) (fun t => (getDie t 0).mapQueue == [] &&
      (getCore t 0).reqs.map (fun r => match r.op with | .msg q => (q.chan, q.dstCore, q.words[0]) | _ => (0, 0, 0)) == [(5, 0x1FF0, 9)]) = true := by decide
/-- A boot command for offset `off` with its flags above it, and data words 1 to 4. -/
def bootMsg (w : Word) (count : Nat) : Msg := { count := count, words := #v[w, 1, 2, 3, 4, 0] }
def booting (w : Word) (count : Nat) : State := { baseState with cores := [(33, { bootCore with chans := [(0, { bootChan with queue := [⟨bootMsg w count, 0, false, 0⟩] })] })] }
theorem witness_boot_refused : after (exec (.bootCommand 33) (booting 0x100 4)) (fun t => (getCore t 33).events[16] == 1 && (getCore t 33).spad == []) = true ∧
    after (exec (.bootCommand 33) (booting 0x7BFE8 5)) (fun t => (getCore t 33).events[16] == 1) = true ∧
    after (exec (.bootCommand 33) (booting 0x200100 5)) (fun t => (getCore t 33).events[16] == 1) = true ∧
    after (exec (.bootCommand 33) (booting 0x104 5)) (fun t => (getCore t 33).events[16] == 1) = true := by decide
theorem witness_boot : after (exec (.bootCommand 33) (booting 0x7BFE0 5)) (fun t => (getCore t 33).bootSum == 10 && (getCore t 33).spad ==
      [(0x7BFE0, 1), (0x7BFE8, 2), (0x7BFF0, 3), (0x7BFF8, 4)] && (getCore t 33).reqs.length == 0) = true ∧
    after (exec (.bootCommand 33) (booting 0x4100100 5)) (fun t => (getCore t 33).reqs.map (fun r => match r.op with | .msg q => (q.chan, q.words[0]) | _ => (0, 0)) == [(4, 10)]) = true ∧
    (columnBelow (booting 0x80100 5) 33).length = 30 ∧
    after (exec (.bootCommand 33) (booting 0x80100 5)) (fun t => (getCore t 33).reqs.length == 30) = true := by decide
def raising : State := { baseState with nv := { ids := [(4, 2)], raising := some (4, 7) }, mem := [(5, 1), (2 ^ 64, 2)] }
theorem witness_power_loss : after (exec (.powerLoss true) raising) (fun t => t.nv.ids == [(4, 7)] && t.nv.raising == none && t.mem == [(2 ^ 64, 2)]) = true ∧
    after (exec (.powerLoss false) raising) (fun t => t.nv.ids == [(4, 2)] && t.cores.length == 0) = true := by decide

-- Management and records

theorem witness_thermal : after (exec (.thermalStep 101) baseState) (fun t => t.clock == 1700) = true ∧ after (exec (.thermalStep 89) baseState) (fun t => t.clock == 1800) = true ∧
    after (exec (.thermalStep 90) baseState) (fun t => t.clock == 1800) = true ∧
    after (exec (.thermalStep 89) { baseState with clock := 1500 }) (fun t => t.clock == 1600) = true := by decide
def sampleX : LifeSample := { die := 3, tempBin := 15, voltBin := 15, seconds := 60 }
theorem witness_lifetime : after (exec (.lifetimeUpdate [sampleX]) { stateOf { plain with corrected := 4 } with nv := { volt := [(3, 15, 5)], siteErrs := [(1, 3)] } })
    (fun t => t.nv.temp == [(3, 15, 60)] && t.nv.volt == [(3, 15, 65)] && t.nv.siteErrs == [(1, 7)] && (getCore t 1).corrected == 0) = true := by decide
theorem witness_management : after (exec (.mctpRequest (.enrolKey [9])) { baseState with nv := { keys := List.replicate 7 [] } }) (fun t => t.nv.keys.length == 8 && t.out == [.mctp [0]]) = true ∧
    after (exec (.mctpRequest (.enrolKey [9])) { baseState with nv := { keys := List.replicate 8 [] } }) (fun t => t.nv.keys.length == 8 && t.out == [.mctp [1]]) = true ∧
    after (exec (.mctpRequest (.registerImageId 9)) baseState) (fun t => t.nv.ids == [(9, 0)]) = true ∧
    after (exec (.mctpRequest (.firmwareUpdate [9])) baseState) (fun t => t.nv.firmware == [9]) = true := by decide
/-- Tracing into 0x10000, the region of the first frame page. -/
def tracing : State := { stateOf { plain with dbgctl := 0x10004, issued := some ⟨0, 0, 5, 0x100010, 0⟩ } with ferries := frameFerries, time := 5 }
def writesOf (t : State) : List (List Byte) :=
  t.net.map fun p =>
    match p.body with
    | .req r => (match r.op with | .write bs => bs | _ => [])
    | _ => []
theorem witness_trace : translate tracing 16 0 0x10000 .write = .pa 0x10000 ∧ dbgMatch (getCore tracing 1) 5 = true ∧
    after (exec (.traceSample 1) tracing) (fun t => (getCore t 1).traceN == 1 && (getCore t 1).bulks.length == 1 &&
      t.net.map (fun p => (p.dst, p.cls)) == [(.ferry 16, .bulk)] && writesOf t == [leBytes 8 0x50008 ++ leBytes 8 5 ++ leBytes 8 0x100010 ++ leBytes 8 0]) = true ∧
    after (exec (.traceSample 1) { tracing with cycle := 1 }) (fun t => writesOf t == [leBytes 8 8 ++ leBytes 8 5 ++ leBytes 8 0 ++ leBytes 8 0]) = true := by
  decide
theorem witness_dbgctl : working baseState 1 = true ∧ after (exec (.dbgctlWrite 1 (-1)) (stateOf { plain with delay := [⟨1, 2, 3, 4, 5, 6⟩] }))
    (fun t => (getCore t 1).dbgctl == 0x01FFFFFFFFFFFFBE && (getCore t 1).delay.length == 0) = true := by decide

-- Migration from site 1 to site 3, dusk and dawn

def moverState (c : Core) : State :=
  { baseState with cores := [(1, c), (3, { idle with lcore := none })], parts := [(0, { running := true, clusters := [0, 1] })],
                   dies := #v[map0, { dark := true }, { dark := true }, { dark := true }] }
theorem witness_migration : canMove (coreOf (slotOf [])) = true ∧ canTake (moverState plain) 0 1 3 = true ∧
    after (exec (.migration 1 3) (moverState plain)) (fun t => (getCore t 1).halted && (getCore t 1).moveTo == some 3) = true := by decide
theorem witness_migration_stream : allInjectedDone { coreOf (slotOf [(3, 9)]) with halted := true, moveTo := some 3 } = true ∧
    after (exec (.migrationStream 1) (moverState { coreOf (slotOf [(3, 9)]) with halted := true, moveTo := some 3 }))
      (fun t => (getCore t 3).lcore == some 1 && (getSlot t 3 0).x[3] == 9 && (getCore t 1).fwd == [(1, 3)] && !(getCore t 3).halted) = true := by decide
def nightState (h : Bool) : State := { moverState plain with parts := [(0, { running := true, clusters := [0], halting := h })] }
theorem witness_dusk : after (exec (.dusk 0) (nightState false)) (fun t => (getPart t 0).halting && (getCore t 1).halted) = true ∧
    (∀ x ∈ partSites (nightState true) 0, allAnswered (getCore (nightState true) x) = true) ∧
    after (exec (.partitionHalted 0) (nightState true)) (fun t => (getPart t 0).dark && (getPart t 0).clusters == [1024] && (getCore t 4097).lcore == some 1 &&
      (getCore t 1).lcore == none) = true := by decide
def shadowed : State := { baseState with cores := [(4097, { coreOf (slotOf [(3, 9)]) with halted := true })], parts := [(0, { running := true, dark := true, clusters := [1024] })] }
theorem witness_dawn : partSites shadowed 0 = [4097] ∧ dawnOk shadowed 0 [(0, 7)] = true ∧ clusterSite 7 1 = 15 := by decide

-- Partitions

theorem witness_build : clustersFree { baseState with parts := [] } [0, 255] = true ∧ userSites { baseState with parts := [] } [0] = [1, 32, 33] ∧
    after (exec (.partitionBuild 0 [0] [1, 2, 3, 0xFFFFF] (some 1) false) { baseState with parts := [], cores := [(1, { bootCore with lcore := some 1 })] })
      (fun t => (getPart t 0).running && (getPart t 0).supcore == some 1 && (getCore t 1).part == some 0 && !(getCore t 1).boot && (getCore t 1).chans.length == 0) = true := by
  decide
theorem witness_teardown : after (exec (.flr 0) (stateOf plain)) (fun t => (getPart t 0).gone && (getCore t 1).halted && t.out == []) = true ∧
    after (exec (.teardownCommand 0) (stateOf plain)) (fun t => (getPart t 0).gone) = true ∧
    after (exec (.flr 3) (stateOf plain)) (fun t => t.out == [.flrDone 3]) = true ∧
    after (exec (.flr 0) { stateOf plain with parts := [(0, { gone := true, teardown := true, clusters := [0] })], windows := [(0, winX)] })
      (fun t => (getPart t 0).clusters == [] && (getCore t 1).slots[0].mode == .free && t.windows.length == 0 && t.out == [.flrDone 0] &&
        (getCore t 1).lcore == some 1 && (getCore t 1).part == some 0) = true := by decide

-- Images: one line of code without an instruction, no entry, one channel record for channel 0 with CAP 16 and PEER

def chanRec : List Byte := leBytes 32 (16 * 2 ^ 96 + 2 ^ 114)
def front : List Byte :=
  leBytes 8 (0x584F4449 + 2 ^ 32) ++ leBytes 8 (9 * 2 ^ 32) ++ leBytes 8 (3 * 2 ^ 32) ++ leBytes 8 280 ++ leBytes 32 0 ++
    (leBytes 8 (1 + 128 * 2 ^ 32) ++ leBytes 8 112) ++ (leBytes 8 2 ++ leBytes 8 240) ++ (leBytes 8 (6 + 40 * 2 ^ 32) ++ leBytes 8 240) ++
    List.replicate 128 0 ++ (leBytes 8 0 ++ chanRec)
def image : List Byte := front ++ List.replicate 29856 0
theorem image_length : image.length = 30136 := by
  have h : front.length = 280 := by decide
  simp only [image, List.length_append, List.length_replicate, h]
def imageX : Img :=
  { commit := false, rbc := 0, version := 9, imageId := 0, signer := 0, body := image.take 280, sig := slice image 280 29792, key := slice image 30072 64,
    code := List.replicate 128 0, entries := [], data := [], spads := [], relocs := [], recs := [(6, 0, chanRec)] }
theorem witness_image : parseImg image = some imageX := by
  unfold parseImg
  rw [image_length]
  rfl
theorem witness_image_code : portableCode imageX = some [] ∧ translateCode imageX [] = some ⟨[], []⟩ := ⟨rfl, rfl⟩
theorem page_fits (p : Fin (2 ^ 27)) : p.val * 4096 + 0 ≤ Config.hbmBytes := by
  have h : 2 ^ 27 * 4096 ≤ Config.hbmBytes := by decide
  have := p.isLt
  omega
theorem witness_power_on : parseImg ([] : List Byte) = none ∧ Config.fwImageAddr + ([] : List Byte).length ≤ Config.hbmBytes ∧
    Config.fwCodeBase + ([] : List Byte).length ≤ Config.hbmBytes := ⟨rfl, page_fits Config.fwImagePage, page_fits Config.fwCodePage⟩
theorem witness_power_on_record : chsetStatus { ctrl := true } false 0 (leNat chanRec) = 0 ∧ (chanOf (leNat chanRec)).kind = .fifo ∧
    (chanOf (leNat chanRec)).cap = 16 := by decide

/-- A device whose every ferry maps the address space of partition 0 onto itself, with the image at 0x3000. -/
def wideEnt : TlbEnt := { pasid := 7, va := 0, log2 := 57, pa := 0, r := true, w := true, x := true }
def wide (m : Mem) : State := { stateOf idle with ferries := (List.range 128).map fun f => (f, { tlb := [wideEnt] }), mem := m }
theorem wide_ferry (m : Mem) (f : Nat) (h : f < 128) : (getFerry (wide m) f).tlb = [wideEnt] := by
  have : ∀ f < 128, ((tget ((List.range 128).map fun f => (f, ({ tlb := [wideEnt] } : Ferry))) f).getD {}).tlb = [wideEnt] := by decide
  exact this f h
theorem wide_translate (m : Mem) (f va : Nat) (n : Need) (hf : f < 128) (hv : va < 2 ^ 57) : Machine.translate (wide m) f 0 va n = .pa va := by
  have hp : pasidOf (wide m) 0 va = 7 := by
    have : ∀ k < 4, ((nth [7, 7, 7, 7] k).getD 0 : Nat) = 7 := by decide
    exact this _ (Nat.mod_lt _ (by decide))
  have h0 : (0 : Nat) ≠ fwPart := by decide
  simp only [Machine.translate, h0, if_false, hp, wide_ferry m f hf]
  have hl : va < 144115188075855872 := hv
  cases n <;> simp [tlbHit, permOk, wideEnt, hl]
theorem witness_load_range (m : Mem) : dieUp (wide m) 0 = true ∧ rangeIn (wide m) 0 1 1 = true ∧ rangeSites (wide m) 1 1 = [1] ∧
    holdsActivation (getCore (wide m) 1) = false := ⟨rfl, rfl, rfl, rfl⟩
theorem witness_load_addresses (m : Mem) (i : Nat) (n : Need) (h : 0x3000 + 4096 * i < 2 ^ 57) :
    Machine.translate (wide m) (homeFerry (0x3000 + BitVec.ofNat 64 (4096 * i))) 0 (0x3000 + 4096 * i) n = .pa (0x3000 + 4096 * i) :=
  wide_translate m _ _ n (Nat.mod_lt _ (by decide)) h
theorem read_take (m : Mem) (a : Nat) : ∀ n k, n ≤ k → readBytes m a n = (readBytes m a k).take n := by
  intro n
  induction n generalizing a with
  | zero => intro k _; simp [readBytes]
  | succ n ih =>
    intro k hk
    obtain ⟨j, rfl⟩ : ∃ j, k = j + 1 := ⟨k - 1, by omega⟩
    simp only [readBytes, List.take_succ_cons]
    rw [ih (a + 1) j (by omega)]
theorem witness_load_format : headerOk (readBytes (wide []).mem 0x3000 64) = false := by decide
def imageMem : Mem := writeBytes [] 0x3000 image
theorem image_read : readBytes imageMem 0x3000 30136 = image := by
  rw [← image_length]
  exact readBytes_writeBytes_self rfl _ _
theorem header_read : readBytes imageMem 0x3000 64 = front.take 64 := by
  rw [read_take _ _ 64 30136 (by omega), image_read]
  rfl
theorem witness_load_image : imgSize (imgSigoff (readBytes imageMem 0x3000 64)) = 30136 ∧ headerOk (readBytes imageMem 0x3000 64) = true := by
  rw [header_read]
  exact ⟨rfl, rfl⟩
theorem witness_load_unsigned (m : Mem) (g : Img) : signStatus (wide m) g = 2 := rfl

-- Further clauses of the instructions

/-- PAGE 2, REG, EXT and IMM are a chain in order; a second PAGE after them, and a REG before the PAGE, are not. -/
def chain4 : List Half := [0xFC80, 0xFA00, 0xFE03, 0xF800]
theorem witness_chain : (∀ p ∈ chain4, isPrefix p = true) ∧ inOrder chain4 ∧ inOrder (chain4.take 3) ∧ pagePayload [0xFCC0] / 64 = 3 := by
  refine ⟨?_, ?_, ?_, rfl⟩
  · simp [chain4, isPrefix]
  · simp [inOrder, chain4, prefixPlace]
  · simp [inOrder, chain4, prefixPlace]
theorem test_chain : decode (chain4 ++ [0xFC80]) = .error ⟨.badPrefix, tvalDecode 0xFC80 4 0 2⟩ ∧
    decode (chain4.take 3 ++ [0xFA00]) = .error ⟨.badPrefix, tvalDecode 0xFA00 3 0 2⟩ := ⟨rfl, rfl⟩
theorem witness_standsFor : standsFor fp32 3 (-1) false (3 / 2) ∧ precise fp32 (3 * 2 ^ 22) (-23) (3 / 2) := by
  constructor <;> norm_num [standsFor, precise, fp32]
/-- E2M1 under scale 2^0 has code 5 for 3, and code 7 for everything from 6 on; a group of the values 1 and −2 takes exponent byte 128. -/
theorem test_windows : decRead 8 (64 + 32) 5 = 0x40400000 ∧ decWrite 8 (64 + 32) 0x40400000 = 5 ∧ decWrite 8 (64 + 32) 0x7F800000 = 7 ∧
    decWrite 8 63 0x3F800000 = 0 ∧ decWrite 12 0 0xFFFFFF00 = 8 ∧ decRead 12 0 9 = 0xFFFFFFF9 ∧
    planeEncode 8 [.num false 1 0, .num true 1 1] = (128, [32, -64]) ∧ planeRead 4 128 (-16384 * 2) = 0xC0800000 ∧
    planeEncode 8 [.nan, .num false 1 0] = (255, [0, 0]) := by decide
theorem witness_planes : topByte [.num false 1 0] 127 ∧ alignedTo 8 [.num false 1 0] 127 [64] ∧ planeEncode 8 [.num false 1 0] = (127, [64]) := by
  refine ⟨?_, ?_, by decide⟩
  · refine ⟨by decide, ?_, ?_⟩ <;> norm_num [size]
  · refine ⟨rfl, ?_⟩; norm_num [nearestInt, signedSize, size]
theorem witness_twin_alone (l : List (Nat × Word)) : alone (run l) ∧ plainAct (run l) ∧ mayRelease (run l) ∧ idleNi (run l) := by
  refine ⟨⟨rfl, rfl, ?_, rfl⟩, ⟨rfl, rfl⟩, ?_, rfl, rfl, rfl, rfl⟩
  · intro f h; cases h
  · intro h; cases h
/-- A write stream whose register is a VADD's destination; a read stream feeds its source. -/
def bothStreams : State :=
  stateOf { coreOf { vecSlot with streams := #v[some { base := streamBase, count := 40, stride := 1, write := true, pos := 0 },
                                                some { base := streamBase, count := 40, stride := 1, write := false, pos := 32 }, none, none] } with
    spad := writeLE [] 0x180 4 99, tvec := 0x200000 }
theorem witness_stream_forms : (vecForm (.vadd .s32 ⟨.rne, false⟩ 28 29 2 0)).map (fun f => (f.srcs, f.dst)) = some ([29, 2], some 28) ∧
    ((streamOf (curSlot bothStreams) 28).map fun t => t.write) = some true ∧ ((streamOf (curSlot bothStreams) 29).map fun t => t.pos) = some 32 ∧
    after (exec (.vadd .s32 ⟨.rne, false⟩ 28 29 2 0) bothStreams) (fun t => readLE (curCore t).spad 0x100 4 == 99 && readLE (curCore t).spad 0x17C 4 == 31 &&
      (curSlot t).streams[1].map (fun y => y.pos) == some 40) = true ∧
    after (exec (.vceq .n32 1 29 1 0) bothStreams) (fun t => (getM (curSlot t) 1) == 0 && (curSlot t).streams[1].map (fun y => y.pos) == some 40) = true ∧
    after (exec (.vst 29 1 0x180 false 0) (stateOf { curCore bothStreams with slots := #v[{ curSlot bothStreams with x := regs [(1, own 0x100)] }, {}, {}, {}] }))
      (fun t => readLE (curCore t).spad 0x280 4 == 99) = true ∧
    after (exec (.vins 29 1 0) bothStreams) (trapped 0x0B 0x1D03) = true ∧
    after (exec (.vfma .f32 ⟨.rne, false⟩ 29 1 2 0) bothStreams) (trapped 0x0B 0x1D03) = true := by decide
/-- An activation of pattern 63 at channel 3, whose faults go to channel 255. -/
def reporting (sl : Slot) (f : Fired) : State :=
  stateOf { coreOf { sl with fired := some { f with pat := 63, ch0 := 3 } } with
    chans := [(3, { chanF with faultCh := some 255, held := 1 }), (255, chanF)], tvec := 0x200000, spadUE := [0x20] }
def lastReport (t : State) : Option (Word × Word × Word) :=
  (tget (getCore t 1).chans 255).bind fun y => y.queue.getLast?.map fun q => (q.msg.words[0], q.msg.words[2], q.msg.words[5])
theorem witness_takes : takesNext (curCore (reporting (slotOf []) firedZero)) 255 chanF :=
  ⟨rfl, rfl, rfl, fun p h => (by cases h), by decide, fun p h => (by cases h)⟩
theorem witness_load_error_started :
    after (exec (.ldNw 3 1 0 false) (reporting (slotOf [(1, own 0x24)]) { firedZero with replay := false })) (trapped 0x10 0x20) = true ∧
    after (exec (.ldNw 3 1 0 false) (reporting (slotOf [(1, own 0x24)]) firedZero)) (fun t => trapped 0x10 0x20 t &&
      lastReport t == some (9 + 0x10 * 2 ^ 8 + 63 * 2 ^ 16, 0x20, 0)) = true := by decide
def heldOne : Held := { chan := 3, msgs := [⟨msgTo 1 3, 0, false, 0⟩], part := none }
theorem witness_load_error_rerun :
    after (exec (.ldNw 3 1 0 false) (reporting { slotOf [(1, own 0x24)] with replayable := true } { firedZero with held := [heldOne] })) (fun t =>
      (curSlot t).mode == .closing && (getCore t 1).marked == [3] &&
      ((tget (getCore t 1).chans 3).map fun y => (y.held, y.queue.map fun q => q.returned)) == some (0, [true])) = true ∧
    after (exec (.ldNw 3 1 0 false) (reporting { slotOf [(1, own 0x24)] with replayable := true } { firedZero with held := [heldOne], returned := true }))
      (fun t => (curSlot t).mode == .closing && lastReport t == some (9 + 0x10 * 2 ^ 8 + 63 * 2 ^ 16, 0x20, 0)) = true := by decide
def outOne : OutReq := { op := .write [1], addr := 0x3008, ordered := true, winbase := 0, retAt := 1, snapReads := [], rect := none }
theorem witness_exit_releases : after (exec .exit (stateOf (coreOf { slotOf [] with replayable := true, fired := some firedZero, outbox := [outOne] })))
      (fun t => (curSlot t).mode == .closing && (curSlot t).cntS == 1 && (getCore t 1).reqs.map (fun r => (r.addr, r.status)) == [(0x3008, .flying)]) = true ∧
    after (exec (.exitf 1) (reporting (slotOf [(1, 7)]) firedZero)) (fun t => lastReport t == some (1 + 63 * 2 ^ 16, 0, 7)) = true ∧
    after (exec (.exitf 1) (reporting { slotOf [(1, 7)] with replayable := true } { firedZero with held := [heldOne] }))
      (fun t => lastReport t == none && (getCore t 1).marked == [3]) = true := by decide
theorem witness_reports : after (.next (takeTrap (reporting { slotOf [] with sup := true } firedZero) 1 0 { cause := 0x10, tval := 6, epc := 0x44 }))
      (fun t => lastReport t == some (8 + 0x10 * 2 ^ 8 + 63 * 2 ^ 16, 6, 0)) = true ∧
    after (exec (.kill 1) (reporting { slotOf [(1, 7)] with sup := true } firedZero)) (fun t => lastReport t == some (2 + 63 * 2 ^ 16, 0, 7)) = true ∧
    after (exec (.kill 1) (reporting { slotOf [(1, 7)] with sup := true, replayable := true } { firedZero with held := [heldOne] }))
      (fun t => lastReport t == none && (getCore t 1).marked == [3]) = true := by decide
/-- Two late events and a STEP owed; the older event is the second. -/
def crowded (sl : Slot) : State := handled (coreOf { sl with due := [{ late1 with uid := 5, seqn := 12, tval := 0x4000 }, late1], stepOwed := true })
theorem witness_boundary_order : after (exec (.lateTrapTaken 1 0) (crowded (slotOf []))) (fun t => trapped 0x13 0x3000 t && (curSlot t).stepOwed &&
      (curSlot t).due.map (fun d => d.uid) == [5]) = true ∧
    after (exec (.step 1 0) (crowded (slotOf []))) (fun t => decide (t = crowded (slotOf []))) = true ∧
    after (exec (.lateTrapTaken 1 0) (crowded { slotOf [] with sup := true })) (fun t => decide (t = crowded { slotOf [] with sup := true })) = true ∧
    after (exec (.lateTrapTaken 1 0) (handled (coreOf { slotOf [] with mode := .stalled, strictReq := some 9, due := [{ late1 with cause := 0x11, strictAt := some 0x100010 }] })))
      (fun t => trapped 0x11 0x3000 t && (curSlot t).exact) = true := by decide
theorem witness_sole_request : sole (answered reqX .ack) 1 reqX := ⟨rfl, rfl, rfl, rfl, rfl, rfl, rfl, rfl⟩

-- Further clauses of the events

theorem witness_host_memory : (0 : Nat) ≠ fwPart ∧ after (exec (.requestPerform 0) (asking { tlb := [{ pageOf true true with pa := 2 ^ 64 }] } [] (.write [4])))
      (fun t => t.out.length == 1 && t.mem == [(2 ^ 64 + 8, 4)]) = true := by decide
theorem witness_twins_end : parked (getCore (twins 5 6) 2) 0 5 = false ∧
    after (exec (.twinExchange 2 0)
      { twins 5 6 with cores := [(2, { idle with slots := #v[{ twinSlot (.primary 3) 5 with replayable := false }, {}, {}, {}] }), (3, { idle with slots := #v[twinSlot (.secondary 2) 6, {}, {}, {}] })] })
      (fun t => (getSlot t 2 0).mode == .closing && (getSlot t 3 0).mode == .closing && t.out == [.machineCheck 2 9]) = true := by decide
theorem witness_pri_held : priWanted (recording false) = [] ∧ sourceDark (.core 1) = false ∧
    after (exec (.atsResponse 3 5 .notPresent) { recording false with priMax := 0, stepNo := 8 })
      (fun t => (getFerry t 3).recs.map (fun r => (r.2.pri, r.2.want)) == [(false, some 8)]) = true := by decide
theorem witness_unsub_moving : after (exec (.unsubAtFerry 0) (toFerry (moving [] [(9, segZ)]) (.unsub 0x600)))
      (fun t => lastAnswer t == some (.answer 7 (.old 0)) && ((getSub t 3 0).map fun u => (u.state, u.stopping)) == some (.active, true)) = true ∧
    after (exec (.ferrySubscribe 0) (bringing { stateOf (tileCore tileE) with ferries := [(31, fullFerry)] } (.core 1) (.ferry 31) .req
      (.req (pkt (.subscr 0 1 1 [] (leBytes 64 (subDescOne + 2 ^ 152))) 0)))) (fun t => lastAnswer t == some (.answer 7 (.old (subscrRefusal 6)))) = true := by decide
theorem witness_attgo (m : Mem) : (attReport (wide m) 0).length = 30096 ∧ (getPart (wide m) 0).attgo = false ∧ (getPart (wide m) 0).attaddr = 0 ∧
    ∀ i < 8, Machine.translate (wide m) (homeFerry (0 + BitVec.ofNat 64 (4096 * i))) 0 ((0 + BitVec.ofNat 64 (4096 * i) : Word).toNat % 2 ^ 57) .write =
      .pa (0 + 4096 * i) := by
  refine ⟨attReport_length _ _, rfl, rfl, fun i hi => ?_⟩
  have h : ((0 + BitVec.ofNat 64 (4096 * i) : Word).toNat % 2 ^ 57) = 0 + 4096 * i := by simp; omega
  rw [h]
  exact wide_translate m _ _ _ (Nat.mod_lt _ (by decide)) (by omega)
theorem witness_spare_words : replies (.setcsr 0) (serviceMsg 1 1 0x104 0 1 1) 1 5 0 = true ∧ replies (.getcsr 0) (serviceMsg 2 1 0x012 3 1 1) 2 5 0 = true ∧
    replies (.iinvService 0) (serviceMsg 3 0x100000 1 0 0 1) 3 5 0 = true ∧ replies (.nightch 0) (serviceMsg 4 0 0 1 0 1) 4 5 0 = true ∧
    replies (.super 0) (serviceMsg 5 1 0 0 1 1) 5 5 0 = true := by decide
theorem witness_load_service : replies (.load 0 .service) (serviceMsg 6 0 0 1 0x2000 1) 6 3 0 = true ∧
    rangeIn (service (serviceMsg 6 0 0x180 1 1 1)) 0 1 1 = true ∧ replies (.load 0 .service) (serviceMsg 6 0x3000 0x1C0 1 1 1) 6 5 8 = true ∧
    replies (.load 0 .service) (serviceMsg 6 0 0 1 0 1) 6 5 8 = true := by decide
def loadGone : State := { stateOf idle with loads := [{ die := 0, src := .host 0 0x3000 0x200000 1 1, ticket := 5, home := .ferry 3, failed := true }] }
theorem witness_load_failed : rangeIn loadGone 0 1 1 = true ∧ rangeSites loadGone 1 1 = [1] ∧ after (exec (.load 0 (.host 0 0x3000 0x200000 1 1)) loadGone)
      (fun t => t.out == [.mctp [8]] && t.loads.length == 0) = true := by decide
-- Clauses on special values, misses, errors and refusals

theorem witness_special : exAdd false (.inf false) (.inf true) = ⟨.nan, fNV⟩ ∧ exMul (.num false 0 0) (.inf true) = ⟨.nan, fNV⟩ ∧
    exFma false false false (.inf false) (.num false 0 0) .nan = ⟨.nan, fNV⟩ ∧ exDiv (.num true 3 0) (.inf false) = ⟨.zero true, 0⟩ ∧
    fvLt (.inf true) (.num true 5 0) = true ∧ fvEq (.num true 0 0) (.num false 0 3) = true ∧ fvLe .nan .nan = false ∧
    minBits fp32 0x80000000 0 = 0x80000000 ∧ maxBits fp32 0x7FC00000 0x3F800000 = 0x3F800000 ∧ classOf fp32 0xFF800000 = 11 ∧ classOf fp32 1 = 1 ∧
    toIntegral fp32 ⟨.rne, false⟩ (.num true 5 (-1)) ⟨0, 1⟩ = (0xC0000000, ⟨0, 1 ||| fNX⟩) := by decide
theorem witness_functions : exRcp (.num true 0 0) = ⟨.inf true, fDZ⟩ ∧ exLog2 (.num false 8 0) = ⟨.real false 3 0 false, 0⟩ ∧
    exLog2 (.num false 1 0) = ⟨.zero false, 0⟩ ∧ exExp2 (.num true 6 (-1)) = ⟨.real false 1 (-3) false, 0⟩ ∧
    exTanh (.inf true) = ⟨.real true 1 0 false, 0⟩ := by decide
theorem witness_target_missing : findLine (curCore (run [(5, 0x100090)])) 0x100090 = none ∧
    after (exec (.jr 5) (run [(5, 0x100090)])) (fun t => (curSlot t).mode == .stalled && (curSlot t).pc == 0x100010 && t.net.length == 1 &&
      (curCore t).fills.map (fun f => (f.line, f.waiters.map fun w => (w.reach, w.xfer))) == [(0x100080, [(0x100090, some none)])]) = true ∧
    after (exec (.callr 5) (run [(5, 0x100090)])) (fun t => (curCore t).fills.map (fun f => f.waiters.map fun w => w.xfer) == [[some (some 0x100012)]]) = true ∧
    streamStep 0x10007E 1 = 0x100090 ∧ streamStep 0x100010 (-1) = 0xFFFFE ∧ streamStep 0x100010 57 = 0x100092 := by decide
theorem witness_store_error : after (exec (.stB 2 1 0 false) (handled { coreOf (slotOf [(1, own 0x24)]) with spadUE := [0x20] }))
      (fun t => trapped 0x10 0x20 t && (curCore t).spad == []) = true ∧
    after (exec (.stD 2 1 0 false) (handled { coreOf (slotOf [(1, own 0x20), (2, 6)]) with spadUE := [0x20] }))
      (fun t => (curCore t).spadUE == [] && (curCore t).spad == [(0x20, 6)]) = true := by decide
/-- A vector store from a stream to a remote address, under STRICT. -/
def strictStream : State :=
  stateOf { coreOf { vecSlot with x := regs [(1, 0x3000)], strict := true,
                                  streams := #v[some { base := streamBase, count := 40, stride := 1, write := false, pos := 0 }, none, none, none] } with
    tvec := 0x200000 }
theorem witness_strict_stream : (streamOf (curSlot strictStream) 28).isSome = true ∧
    after (exec (.vst 28 1 0 false 0) strictStream) (fun t => (curSlot t).mode == .stalled && (curSlot t).streams[0].map (fun y => y.pos) == some 0 &&
      after (slotTurn exec 1 0 (setCore t 1 { curCore t with reqs := [] })) fun v => (curSlot v).streams[0].map (fun y => y.pos) == some 32) = true := by
  decide
theorem witness_patset_replaces : after (exec (.patset 3 2 1)
      (describing [(2, 63)] patDescOne { plain with chans := [(3, chanF)], pats := [(63, { patOne with qn := 4, terms := [7] })] }))
    (fun t => isX t 3 0 && (curCore t).marked == [3] && ((tget (curCore t).pats 63).map fun p => (p.terms, p.qn)) == some ([3], 0)) = true := by decide
theorem witness_source_fault : (∀ u ∈ mxSources (mxFields .mxm 0x40 0), u = 0 ∨ u = 1) ∧
    after (exec (.mxm 1 2) (stateOf { mxCore with slots := #v[slotOf [(1, 0x40), (2, 0)], {}, {}, {}],
                                                  tiles := [(0, tileP), (1, { tileB with fault := true, failAddr := 0x3000 })] })) (trapped 0x13 0x3000) = true := by
  decide
theorem witness_no_counter : after (exec (.csrw 1 0x412) (asSup [(1, 9)])) (fun t => csrValue t 0x412 == some 0x8000000000000000 && (getCore t 1).events[0] == 1) = true ∧
    after (exec (.csrset 1 0x7FF) (asSup [(1, 9)])) (fun t => csrValue t 0x7FF == some 0x8000000000000000) = true := by decide
def messaged (c : Core) (m : Msg) (part : Nat) : State := bringing (stateOf c) (.core 2) (.core 1) .req (.req { pkt (.msg m) 0 with part := part })
def refused (s : State) (code : Nat) : Bool := after (exec (.messageArrival 0) s) fun t => lastAnswer t == some (.answer 7 (.refusePerm code))
theorem witness_message_refusals : refused (messaged fifoCore (msgTo 2 3) 0) 1 = true ∧ refused (messaged fifoCore (msgTo 1 3) 5) 3 = true ∧
    refused (messaged fifoCore { msgTo 1 3 with kind := 1 } 0) 4 = true ∧ refused (messaged fifoCore { msgTo 1 3 with gang := true } 0) 5 = true ∧
    refused { messaged fifoCore (msgTo 1 3) 0 with parts := [(0, { gone := true, clusters := [0] })] } 6 = true ∧
    refused (messaged fifoCore (msgTo 1 3) fwPart) 3 = false := by decide

-- Clauses of the network, of spills and of homes

/-- The last answer of a burst, ordered or not. -/
def burstEnd (o : Bool) : State :=
  bringing (stateOf { coreOf { slotOf [] with cntS := 1 } with
    reqs := [{ postX with ordered := o, head := true, last := true, burst := some 0x305 }],
    tickets := (Vector.replicate 16 {}).set 0 { state := .replaying, ticket := 0x305, home := .ferry 3, hold := o } }) (.ferry 3) (.core 1) .rsp (.answer 7 .ack)
theorem witness_burst_end : ∀ o, after (exec (.acknowledgement 0) (burstEnd o)) (fun t => (getCore t 1).tickets[0] == {} && (getCore t 1).reqs == []) = true := by
  decide
theorem witness_notice_unordered :
    after (exec (.replayNotice 0) (bringing (stateOf { coreOf { slotOf [] with cntS := 1 } with
        reqs := [{ postX with ordered := false, status := .ticketed 0x305 }], tickets := ticketTable }) (.ferry 3) (.core 1) .sys (.notice 0x305)))
      (fun t => (getCore t 1).reqs.map (fun r => (r.status, r.head, r.last)) == [(.flying, true, true)] && (getCore t 1).tickets[0].state == .replaying) = true := by
  decide
theorem witness_stolen_waits : after (exec (.fire 1) (stateOf { idle with chans := [(3, chanR)], stolen := some deq3 }))
      (fun t => (getCore t 1).deque == [deq3] && (getCore t 1).stolen == none && (getCore t 1).marked == [3]) = true ∧
    stolenFits { idle with stolen := none } = false := by decide
/-- Channel 3 with one pool slot, taken, and a ring of 4 entries whose tail is the last. -/
def chanFull : Chan := { chanF with cap := 1, queue := [⟨msgTo 1 3, 0, false, 0⟩], ovfBase := 0x3000, ovfSize := 4, tail := 7 }
theorem witness_spill_start : after (exec (.messageArrival 0) (askingCore { idle with chans := [(3, chanFull)] } (.msg (msgTo 1 3)) 0))
      (fun t => (getCore t 1).spilling.map (fun p => (p.ix, p.chan, p.come)) == some (3, 3, none) &&
        (getCore t 1).bulks.map (fun b => (b.kind, b.addr)) == [(.ovfSpill, 0x30C0)] && t.net.map (fun p => (p.dst, p.cls)) == [(.ferry 3, .bulk)]) = true := by
  decide
def spillBack (a : Answer) : State :=
  bringing (stateOf { idle with
    chans := [(3, chanFull)], bulks := [{ uid := 4, kind := .ovfSpill, op := .write (msgBytes (msgTo 1 3)), addr := 0x30C0 }],
    spilling := some { uid := 4, chan := 3, gen := 0, ix := 3, out := ⟨msgTo 1 3, 9, false, 0⟩, come := none,
                       by_ := .source (.core 2) { pkt (.msg (msgTo 1 3)) 0 with ordered := false } } }) (.ferry 3) (.core 1) .rsp (.answer 4 a)
theorem witness_spill_end : after (exec (.acknowledgement 0) (spillBack .ack)) (fun t => lastAnswer t == some (.answer 7 .ack) &&
      ((tget (getCore t 1).chans 3).map fun x => (x.ovf.map fun e => e.ix, x.tail)) == some ([3], 0) && (getCore t 1).events[7] == 1 &&
      (getCore t 1).spilling == none) = true ∧
    after (exec (.ticketAnswer 0) (spillBack (.ticket 0x305 false))) (fun t => lastAnswer t == some (.answer 7 (.ticket 0xFF03 false)) &&
      ((tget (getCore t 1).chans 3).map fun x => (x.ovf.length, x.waiters)) == some (0, [.core 2]) && (getCore t 1).spilling == none) = true := by decide
theorem witness_pri_lost : after (exec (.priResponse 3 5 .success) { baseState with ferries := [(3, { priLost := [(5, 0)] })] })
    (fun t => (getFerry t 3).priLost == [] && t.net == []) = true := by decide
theorem witness_generation : after (exec (.ferrySubscribe 0) (subscribing { gens := [(0, 7)] } (subDescOne + 0x3000 + 2 ^ 152)))
      (fun t => lastAnswer t == some (.answer 7 (.old 0x7C0)) && tget (getFerry t 3).gens 0 == some 0) = true ∧
    after (exec (.segmentAnswer 3 0 0) (bringing (subState { moving [] [(9, segZ)] with stopping := true } []) (.ferry 3) (.ferry 3) .rsp (.answer 9 (.ticket 0x305 false))))
      (fun t => ((getSub t 3 0).map fun u => (u.state, u.fixups.length)) == some (.cancelled, 0)) = true ∧
    after (exec (.unsubAtFerry 0) (toFerry { moving [] [(9, segZ)] with stopping := true } (.unsub 0x600))) (fun t => lastAnswer t == some (.answer 7 (.old 3))) = true := by
  decide
theorem witness_adapter_room : cacheSize (getCluster fetchingEntry 0).cache + [(6 : Byte)].length ≤ 2 ^ 19 := by decide
def piecesLeft (n : Nat) (e : Option UaStatus) : State := pending { outX (.write [1]) true with left := n, err := e }
theorem witness_pieces : after (exec (.ualinkCompletion 5 5 4 .refusedPerm) (piecesLeft 2 none))
      (fun t => (getPort t 5).outs.map (fun o => (o.left, o.err)) == [(1, some .refusedPerm)] && t.net == []) = true ∧
    after (exec (.ualinkCompletion 5 5 4 .done) (piecesLeft 2 none)) (fun t => (getPort t 5).outs.map (fun o => (o.left, o.err)) == [(1, none)]) = true ∧
    answeredAt5 (exec (.ualinkCompletion 5 5 4 .done) (piecesLeft 1 (some .refusedPerm))) (.refusePerm 0) = true := by decide
/-- A partition in teardown whose one core has a channel with a ring. -/
def ringsState (clearing : Bool) (b : List Bulk) : State :=
  { baseState with
    cores := [(0, { ctrlCore with bulks := b }), (1, { idle with chans := [(3, { chanFull with queue := [] })] })],
    parts := [(0, { gone := true, teardown := true, clearing := clearing, clusters := [0] })], windows := [(0, winX)] }
def ringWrite : Bulk := { uid := 4, kind := .clear 0, op := .write [], addr := 0x3000 }
theorem witness_rings : partSites (ringsState false []) 0 = [1] ∧
    after (exec (.flr 0) (ringsState false [])) (fun t => (getPart t 0).clearing && ringsOut t 0 && t.windows.length == 0 && t.out == [] &&
      t.net.map (fun p => (p.src, p.dst, p.cls)) == [(.core 0, .ferry 3, .bulk)]) = true ∧
    after (exec (.flr 0) (ringsState true [ringWrite])) (fun t => decide (t = ringsState true [ringWrite])) = true ∧
    after (exec (.flr 0) (ringsState true [])) (fun t => (getPart t 0).clusters == [] && t.out == [.flrDone 0] && (getCore t 1).chans.length == 0) = true := by
  decide
theorem witness_dark_die : dieDark (failures []) [3] 3 = true ∧ dieDark (failures []) [3] 0 = false := by decide

end Sys2Proof.Tests
end

section
/-! SUPPORT. What a step does: the turn at the head of the agenda, or the instruction at the program counter of the slot whose turn it is (O4). -/

namespace Sys2Proof.Machine

open Sys2Proof.Terms

theorem step_event {s : State} {i : Instr} {rest : List Turn} (h : s.agenda = .event i :: rest) :
    step s = exec i { tick s with agenda := rest } := by
  simp [step, stepWith, tick, h]

theorem step_act {s : State} {a : Act} {rest : List Turn} (h : s.agenda = .act a :: rest) :
    step s = .next (runAct a { tick s with agenda := rest }) := by
  simp [step, stepWith, tick, h]

theorem step_issue {s : State} (h : s.agenda = []) : step s = issueAt exec s.focus (tick s) := by
  simp [step, stepWith, tick, h]

/-- A working core that is not halted tries its slots from the one after the last issue on. -/
theorem issueAt_running {ex : Instr → State → Res} {x : Nat} {s : State} (hw : working s x = true) (hh : (getCore s x).halted = false) :
    issueAt ex x s =
      trySlots ex x [Fin.ofNat 4 ((getCore s x).lastIssued + 1), Fin.ofNat 4 ((getCore s x).lastIssued + 2),
        Fin.ofNat 4 ((getCore s x).lastIssued + 3), Fin.ofNat 4 (getCore s x).lastIssued] s := by
  simp [issueAt, hw, hh]

/-- A slot that runs, at a core without a spill under way, takes its turn. A turn that leaves it not stalled is the core's issue. -/
theorem trySlots_issues {ex : Instr → State → Res} {x : Nat} {k : Fin 4} {ks : List (Fin 4)} {s t : State}
    (hr : runnable (getSlot s x k) = true) (hs : (getCore s x).spillOut = none) (ht : slotTurn ex x k s = .next t)
    (hl : leftStalled (getSlot s x k) (getSlot t x k) = false) :
    trySlots ex x (k :: ks) s =
      .next (updCore t x fun c => { c with lastIssued := k.val, issued := issuedBy s (getCore s x) k <|> c.issued }) := by
  simp [trySlots, hr, hs, ht, hl]

theorem trySlots_fault {ex : Instr → State → Res} {x : Nat} {k : Fin 4} {ks : List (Fin 4)} {s : State} {f : Fault}
    (hr : runnable (getSlot s x k) = true) (hs : (getCore s x).spillOut = none) (ht : slotTurn ex x k s = .fault f) :
    trySlots ex x (k :: ks) s = .fault f := by
  simp [trySlots, hr, hs, ht]

theorem lateOpen_idle {c : Core} {sl : Slot} (hd : sl.due = []) (hq : sl.strictReq = none) : lateOpen c sl = false := by
  simp [lateOpen, hd, hq]

theorem stepOpen_idle {c : Core} {sl : Slot} (ho : sl.stepOwed = false) : stepOpen c sl = false := by
  simp [stepOpen, ho]

/-- A slot with nothing due before its next instruction fetches it. -/
theorem slotTurn_fetch {ex : Instr → State → Res} {x : Nat} {k : Fin 4} {s : State} (hd : (getSlot s x k).due = [])
    (ho : (getSlot s x k).stepOwed = false) (hq : (getSlot s x k).strictReq = none) (ht : twinDue (getSlot s x k) = false) :
    slotTurn ex x k s = fetchExec ex { s with cur := (x, k) } := by
  unfold getSlot at hd ho hq ht
  have hl : lateOpen (getCore s x) (getCore s x).slots[k] = false := lateOpen_idle hd hq
  have hp : stepOpen (getCore s x) (getCore s x).slots[k] = false := stepOpen_idle ho
  change (if lateOpen (getCore s x) (getCore s x).slots[k] = true then _
    else if stepOpen (getCore s x) (getCore s x).slots[k] = true then _ else _) = _
  rw [hl, hp, if_neg Bool.false_ne_true, if_neg Bool.false_ne_true]
  change (match (getCore s x).slots[k].strictReq with | some n => _ | none => if twinDue (getCore s x).slots[k] = true then _ else _) = _
  simp only [hq, ht, Bool.false_eq_true, if_false]

/-- What such a slot issues is the instruction at its pc. -/
theorem issuedBy_fetch {s : State} {c : Core} {k : Fin 4} (hd : c.slots[k].due = []) (ho : c.slots[k].stepOwed = false)
    (hq : c.slots[k].strictReq = none) :
    issuedBy s c k =
      some { slot := k, pat := patOf c.slots[k], act := c.slots[k].actId, pc := c.slots[k].pc, cycle := s.cycle } := by
  simp [-Fin.getElem_fin, issuedBy, lateOpen_idle hd hq, stepOpen_idle ho, hq]

/-- A line in the instruction cache is used. -/
theorem withLine_hit {s : State} {a : Nat} {l : CLine} (x : Option (Option Word)) (k : CLine → State → Res)
    (h : findLine (curCore s) a = some l) :
    withLine s a x k =
      k l (updCurCore s fun c => { c with icache := c.icache.map fun y => if y.addr = l.addr then { y with used := s.stepNo } else y }) := by
  simp [withLine, h]

/-- The fetch of an instruction from a well-formed line performs it, with its length recorded. -/
theorem fetchExec_decoded {ex : Instr → State → Res} {s : State} {l : CLine} {i : Instr} {n : Nat}
    (hf : findLine (curCore s) (curSlot s).pc.toNat = some l) (hok : l.ok = true)
    (hst : l.start.getLsbD (lineOff (curSlot s).pc) = true) (hd : decode (l.words.drop (lineOff (curSlot s).pc)) = .ok (i, n))
    (hk : skidFull (curCore s) s.cur.2 = false) :
    fetchExec ex s =
      ex i (updCur (updCurCore s fun c =>
          { c with icache := c.icache.map fun y => if y.addr = l.addr then { y with used := s.stepNo } else y }) fun q =>
        { q with ilen := instrEnd l.words l.start (lineOff (curSlot s).pc) - lineOff (curSlot s).pc }) := by
  have hk' : skidFull { curCore s with icache := (curCore s).icache.map fun y => if y.addr = l.addr then { y with used := s.stepNo } else y }
      s.cur.2 = false := hk
  rw [fetchExec, withLine_hit _ _ hf]
  simp [hok, hst, hd, hk']

/-- Settles O4: the cases of the agenda, and of an empty one the turn of the slot after the last issue. -/
theorem stepRunsTheEventOrTheDecodedInstruction : Obligations.StepRunsTheEventOrTheDecodedInstruction := by
  refine ⟨fun s i rest h => step_event h, fun s a rest h => step_act h, ?_⟩
  intro s k l i n x c sl s' hag hw hh hkl hr hsp hd ho hq hsk ht hf hok hst hdec
  have hstep : step s = trySlots exec x [k, Fin.ofNat 4 (c.lastIssued + 2), Fin.ofNat 4 (c.lastIssued + 3), Fin.ofNat 4 c.lastIssued] (tick s) := by
    rw [step_issue hag, issueAt_running (s := tick s) hw hh, hkl]
    rfl
  have hturn : slotTurn exec x k (tick s) = exec i s' := by
    rw [slotTurn_fetch (s := tick s) hd ho hq ht, fetchExec_decoded (s := { tick s with cur := (x, k) }) hf hok hst hdec hsk]
    rfl
  have hiss : issuedBy (tick s) (getCore (tick s) x) k =
      some { slot := k, pat := patOf sl, act := sl.actId, pc := sl.pc, cycle := (tick s).cycle } := issuedBy_fetch (c := c) hd ho hq
  refine ⟨fun t hex hls => ?_, fun f hex => ?_⟩
  · rw [hstep, trySlots_issues (s := tick s) hr hsp (hturn.trans hex) hls, hiss]
    rfl
  · rw [hstep, trySlots_fault (s := tick s) hr hsp (hturn.trans hex)]

end Sys2Proof.Machine
end

section
/-! SUPPORT. Branches, calls and returns (O12): the stream distance of R21, and the three ends of a taken transfer, an arrival, a clear
TARGET bit and a line to be fetched. -/

namespace Sys2Proof.Machine

open Sys2Proof.Terms

-- What a trap's entry leaves of a slot

theorem traceRec_core (s : State) (x ev f : Nat) (id : BitVec 48) (pc : Word) (tv : Nat) :
    (getCore (traceRec s x ev f id pc tv) x).slots = (getCore s x).slots ∧ (getCore (traceRec s x ev f id pc tv) x).tvec = (getCore s x).tvec := by
  simp [traceRec, sendBulk_core]

/-- A trace record leaves the slots of its core (R322). -/
theorem trace_slots (s : State) (x : Nat) (k : Fin 4) (ev f : Nat) (pc : Word) (tv : Nat) :
    (getCore (trace s x k ev f pc tv) x).slots = (getCore s x).slots := by
  unfold trace traceAct
  dsimp only
  split
  · exact (traceRec_core ..).1
  · rfl

theorem trace_cur (s : State) (x : Nat) (k : Fin 4) (ev f : Nat) (pc : Word) (tv : Nat) : (trace s x k ev f pc tv).cur = s.cur := by
  unfold trace traceAct
  dsimp only
  split <;> rfl

/-- What a trap does to the slot that enters the handler of its core (R270). -/
def handlerSlot (c : Core) (t : TrapInfo) (sl : Slot) : Slot :=
  { sl with mode := .run, cause := t.cause, tval := t.tval, epc := t.epc, tseq := trapTseq t, treq := t.req, exact := t.exact,
            late := t.late, nest := false, pm := sl.sup || c.ctrl, sup := true, pc := c.tvec + 16, strictReq := none, strictNext := none }

/-- A trap of a user-mode slot of a core with a handler is traced and enters it (R270, R322). -/
theorem takeTrap_user {s : State} {t : TrapInfo} (hs : (curSlot s).sup = false) (ht : (curCore s).tvec ≠ 0) :
    takeTrap s s.cur.1 s.cur.2 t =
      setSlot (trace s s.cur.1 s.cur.2 3 t.cause.toNat t.epc t.tval.toNat) s.cur.1 s.cur.2 (handlerSlot (curCore s) t) := by
  have hin : inSup (curCore s) (curSlot s) = false := by simp [inSup, hs]
  change (if inSup (curCore s) (curSlot s) && !(curSlot s).nest then _ else if (curCore s).tvec = 0 then _ else _) = _
  rw [hin, if_neg (by simp), if_neg ht]
  rfl

theorem takeTrap_cur {s : State} {t : TrapInfo} (hs : (curSlot s).sup = false) (ht : (curCore s).tvec ≠ 0) :
    (takeTrap s s.cur.1 s.cur.2 t).cur = s.cur := by
  rw [takeTrap_user hs ht]
  exact trace_cur ..

/-- Of the slot only its trap CSRs, its mode and its pc change. -/
theorem curSlot_takeTrap {s : State} {t : TrapInfo} (hs : (curSlot s).sup = false) (ht : (curCore s).tvec ≠ 0) :
    curSlot (takeTrap s s.cur.1 s.cur.2 t) = handlerSlot (curCore s) t (curSlot s) := by
  have hslot : ∀ ev f pc tv, getSlot (trace s s.cur.1 s.cur.2 ev f pc tv) s.cur.1 s.cur.2 = curSlot s := fun ev f pc tv => by
    unfold getSlot; rw [trace_slots]; rfl
  change getSlot (takeTrap s s.cur.1 s.cur.2 t) (takeTrap s s.cur.1 s.cur.2 t).cur.1 (takeTrap s s.cur.1 s.cur.2 t).cur.2 = _
  rw [takeTrap_cur hs ht, takeTrap_user hs ht, getSlot_setSlot_self, hslot]

/-- A trap after something of the instruction was looked at, in a state whose slot and handler are those of before. -/
theorem entersHandler_of_trap {i : Instr} {s u : State} {cause : BitVec 8} {tval : Word} (h : exec i s = trap u cause tval)
    (hsl : curSlot u = curSlot s) (htv : (curCore u).tvec = (curCore s).tvec) : entersHandler i s cause tval := by
  intro hs ht
  refine ⟨_, h, ?_⟩
  rw [curSlot_takeTrap (by rw [hsl]; exact hs) (by rw [htv]; exact ht), hsl]
  exact ⟨rfl, rfl, rfl, rfl, congrArg (· + 16) htv, rfl, rfl⟩

-- Retiring after a change of the core that leaves its slots

theorem curSlot_updCurCore {s : State} {f : Core → Core} (h : (f (curCore s)).slots = (curCore s).slots) :
    curSlot (updCurCore s f) = curSlot s := by
  rw [curSlot_eq, curCore_updCurCore, h]; rfl

theorem retired_updCurCore {s : State} {f : Core → Core} (h : (f (curCore s)).slots = (curCore s).slots) (c : Core) (sl : Slot) (pc : Word)
    (ws : List Word) : retired (updCurCore s f) c sl pc ws = retired s c sl pc ws := by
  have hs : (curCore (updCurCore s f)).slots = (curCore s).slots := by rw [curCore_updCurCore, h]
  simp only [retired, updCurCore_cur, hs]
  exact setCore_setCore ..

-- Stream distances

/-- The arithmetic of R21 and R49 in halfwords of the stream. -/
theorem streamStep_eq (pc : Word) (n : Int) :
    streamStep pc n =
      let k : Int := pc.toNat / 128 * 56 + (((bits pc 0 7 : Nat) : Int) - 16) / 2 + n
      BitVec.ofInt 64 (k / 56 * 128 + 16 + 2 * (k % 56)) := by
  simp [streamStep, streamIndex, streamAddr, wordOf, bits]

-- A line to be fetched

/-- A fill of the line is on its way that IINV has not overtaken (R23, R293). -/
def underWay (s : State) (line : Nat) : Prop := ∃ f ∈ (curCore s).fills, f.line = line ∧ f.discard = false

theorem underWay_iff (s : State) (line : Nat) :
    underWay s line ↔ ((curCore s).fills.any fun f => f.line == line && !f.discard) = true := by
  simp [underWay]

/-- A line that is asked for has a fill with the slot among its waiters; a fill under way is not asked for again (R23). -/
theorem requestLine_fills (s : State) (line : Nat) (w : FillWait) :
    ∃ f ∈ (curCore (requestLine s line w)).fills, f.line = line ∧ f.discard = false ∧ w ∈ f.waiters := by
  unfold requestLine
  dsimp only
  split
  · next h =>
    obtain ⟨f, hf, hl, hd⟩ := (underWay_iff s line).2 h
    have hc : ∀ c : Core, curCore (putCur s c) = c := fun c => getCore_setCore_self ..
    rw [hc]
    refine ⟨_, List.mem_map_of_mem hf, ?_⟩
    by_cases hw : w ∈ f.waiters
    · simp [hl, hd, hw]
    · simp [hl, hd, hw]
  · exact ⟨{ line := line, uid := (curCore s).nextUid, status := .flying, waiters := [w] }, by simp [curCore, putCur, sendPkt, getCore, setCore], rfl, rfl, by simp⟩

theorem requestLine_slots (s : State) (line : Nat) (w : FillWait) :
    (curCore (requestLine s line w)).slots = (curCore s).slots ∧ (curCore (requestLine s line w)).icache = (curCore s).icache := by
  unfold requestLine
  dsimp only
  split <;> constructor <;> simp [curCore, putCur, sendPkt, getCore, setCore]

theorem requestLine_cur (s : State) (line : Nat) (w : FillWait) : (requestLine s line w).cur = s.cur := by
  unfold requestLine
  dsimp only
  split <;> rfl

theorem requestLine_underWay {s : State} {line : Nat} (w : FillWait) (h : underWay s line) :
    (requestLine s line w).net = s.net ∧ (curCore (requestLine s line w)).fills.length = (curCore s).fills.length := by
  unfold requestLine
  dsimp only
  rw [if_pos ((underWay_iff s line).1 h)]
  exact ⟨rfl, by simp [curCore, putCur]⟩

theorem requestLine_new {s : State} {line : Nat} (w : FillWait) (h : ¬underWay s line) :
    (requestLine s line w).net = s.net ++ [firstLine s line] ∧
      (curCore (requestLine s line w)).fills.length = (curCore s).fills.length + 1 := by
  unfold requestLine
  dsimp only
  rw [if_neg (fun hh => h ((underWay_iff s line).2 hh))]
  constructor
  · simp [sendPkt, putCur, firstLine, corePart, coreNumber, curCore]
  · simp [curCore, putCur, sendPkt, getCore, setCore]

-- Taken transfers

/-- What CALL and CALLR write to x1, and the other transfers do not (R81). -/
def linkOf (s : State) (link : Bool) : Option Word := if link then some (fallThrough s) else none

/-- The state in which a transfer to t by line l has arrived (R83). -/
def arrived (s : State) (t : Word) (link : Bool) (l : CLine) : State :=
  retired s { curCore s with icache := (curCore s).icache.map fun y => if y.addr = l.addr then { y with used := s.stepNo } else y }
    (if link then setX (curSlot s) 1 (fallThrough s) else curSlot s) t (if link then [fallThrough s] else [])

/-- The slot waits for the line of t, with the transfer noted (R11, R22, R23). -/
def waitsForLine (s : State) (t : Word) (link : Bool) (u : State) : Prop :=
  let line := t.toNat / 128 * 128
  (curSlot u).mode = .stalled ∧ (curSlot u).pc = (curSlot s).pc ∧ (curSlot u).x = (curSlot s).x ∧
    (curSlot u).retired = (curSlot s).retired ∧ (curCore u).icache = (curCore s).icache ∧
    (∃ f ∈ (curCore u).fills, f.line = line ∧ f.discard = false ∧
      { slot := s.cur.2, act := (curSlot s).actId, at_ := (curSlot s).pc, reach := t, xfer := some (linkOf s link) } ∈ f.waiters) ∧
    (underWay s line → u.net = s.net ∧ (curCore u).fills.length = (curCore s).fills.length) ∧
    (¬underWay s line → u.net = s.net ++ [firstLine s line] ∧ (curCore u).fills.length = (curCore s).fills.length + 1)

theorem noBadPc {t : Word} {reg : Bool} (h : reg = true → badPc t = none) : (if reg then badPc t else none) = none := by
  cases reg with
  | true => exact h rfl
  | false => rfl

theorem transfer_misses {s : State} {t : Word} {reg link : Bool} (hb : reg = true → badPc t = none)
    (hf : findLine (curCore s) t.toNat = none) : ∃ u, transfer s t reg (linkOf s link) = .next u ∧ waitsForLine s t link u := by
  have hok := noBadPc hb
  unfold transfer
  rw [hok]
  simp only [withLine, hf, BitVec.ofNat_toNat, BitVec.setWidth_eq]
  generalize hw : ({ slot := s.cur.2, act := (curSlot s).actId, at_ := (curSlot s).pc, reach := t, xfer := some (linkOf s link) } : FillWait) = w
  obtain ⟨hslots, hic⟩ := requestLine_slots s (t.toNat / 128 * 128) w
  have hsl : curSlot (requestLine s (t.toNat / 128 * 128) w) = curSlot s := by simp only [curSlot_eq, hslots, requestLine_cur]
  refine ⟨_, rfl, ?_⟩
  unfold waitsForLine
  simp only [curSlot_updCur, curCore_updCur, hsl, hic, updCur_net, hw]
  exact ⟨trivial, trivial, trivial, trivial, trivial, requestLine_fills s _ w, requestLine_underWay w, requestLine_new w⟩

theorem transfer_arrives {s : State} {t : Word} {reg link : Bool} {l : CLine} (hb : reg = true → badPc t = none)
    (hf : findLine (curCore s) t.toNat = some l) (h : l.ok = false ∨ l.target.getLsbD (lineOff t) = true) :
    transfer s t reg (linkOf s link) = .next (arrived s t link l) := by
  have hok := noBadPc hb
  unfold transfer
  rw [hok]
  simp only
  rw [withLine_hit _ _ hf]
  generalize hu : (updCurCore s fun c => { c with icache := c.icache.map fun y => if y.addr = l.addr then { y with used := s.stepNo } else y }) = u
  have hgo : (match linkOf s link with | some r => retireTo (updCur u fun sl => setX sl 1 r) t [r] | none => retireTo u t []) =
      arrived s t link l := by
    have hc : curCore u = { curCore s with icache := (curCore s).icache.map fun y => if y.addr = l.addr then { y with used := s.stepNo } else y } := by
      rw [← hu, curCore_updCurCore]
    have hsl : curSlot u = curSlot s := by rw [← hu]; exact curSlot_updCurCore rfl
    have hret : ∀ c sl pc ws, retired u c sl pc ws = retired s c sl pc ws := fun c sl pc ws => by
      rw [← hu]; exact retired_updCurCore rfl ..
    cases link with
    | true =>
      simp only [linkOf, if_true, retireTo_updCur, hc, hsl, hret]
      rfl
    | false =>
      simp only [linkOf, Bool.false_eq_true, if_false, retireTo_eq, hc, hsl, hret]
      rfl
  rcases h with h | h
  · simp only [h, Bool.not_false, if_true]
    exact congrArg _ hgo
  · simp only [h, if_true, ite_self]
    exact congrArg _ hgo

theorem transfer_targetClear {i : Instr} {s : State} {t : Word} {reg link : Bool} {l : CLine} (hi : exec i s = transfer s t reg (linkOf s link))
    (hb : reg = true → badPc t = none) (hf : findLine (curCore s) t.toNat = some l) (hok : l.ok = true)
    (h : l.target.getLsbD (lineOff t) = false) : entersHandler i s 0x04 t := by
  have hgood := noBadPc hb
  unfold transfer at hi
  rw [hgood] at hi
  simp only at hi
  rw [withLine_hit _ _ hf] at hi
  simp only [hok, h, Bool.not_true, Bool.false_eq_true, if_false] at hi
  exact entersHandler_of_trap hi (curSlot_updCurCore rfl) (by rw [curCore_updCurCore])

/-- A taken transfer whose target passes the checks of R83: a missing line, or what its TARGET bit says. -/
theorem transfer_ends {i : Instr} {s : State} {t : Word} {reg link : Bool} (hi : exec i s = transfer s t reg (linkOf s link))
    (hb : reg = true → badPc t = none) :
    (findLine (curCore s) t.toNat = none → completes i s (waitsForLine s t link)) ∧
      ∀ l, findLine (curCore s) t.toNat = some l →
        (l.ok = false ∨ l.target.getLsbD (lineOff t) = true → exec i s = .next (arrived s t link l)) ∧
        (l.ok = true ∧ l.target.getLsbD (lineOff t) = false → entersHandler i s 0x04 t) := by
  refine ⟨fun hf => ?_, fun l hf => ⟨fun h => ?_, fun h => transfer_targetClear hi hb hf h.1 h.2⟩⟩
  · rw [completes, hi]
    exact transfer_misses hb hf
  · rw [hi]
    exact transfer_arrives hb hf h

/-- A register target outside global space, or odd or in a header, traps before its line is looked up (R83). -/
theorem transfer_badSpace {s : State} {t : Word} {link : Option Word} (h : space t ≠ 0 ∨ bits t 57 3 ≠ 0) :
    transfer s t true link = trap s 0x06 t := by
  have : badPc t = some cBADSPACE := by simp [badPc, h]
  simp [transfer, this, cBADSPACE]

theorem transfer_badTarget {s : State} {t : Word} {link : Option Word} (h0 : space t = 0) (h1 : bits t 57 3 = 0)
    (h : t.getLsbD 0 = true ∨ bits t 0 7 < 16) : transfer s t true link = trap s 0x04 t := by
  have : badPc t = some cBADTARGET := by
    unfold badPc
    rw [if_neg (by simp [h0, h1]), if_pos h]
  simp [transfer, this, cBADTARGET]

-- Conditional branches

theorem condBranch_ready {s : State} {a b : XReg} (dist : Int) (p : Word → Word → Bool) (hr : xReady s [a, b]) :
    condBranch a b dist p s =
      if p (getX (curSlot s) a) (getX (curSlot s) b) then transfer s (streamStep (curSlot s).pc dist) false none
      else .next (finish s (curSlot s) []) := by
  rw [condBranch, needX_ready _ hr, retire_eq]

/-- A conditional branch falls through, or transfers as R83 says (R80). -/
theorem condBranch_ends {i : Instr} {s : State} {a b : XReg} {dist : Int} {q : Word → Word → Bool} {p : Prop}
    (hi : exec i s = condBranch a b dist q s) (hq : q (getX (curSlot s) a) (getX (curSlot s) b) = true ↔ p) (hr : xReady s [a, b]) :
    let t := streamStep (curSlot s).pc dist
    (¬p → exec i s = .next (finish s (curSlot s) [])) ∧
      (p → findLine (curCore s) t.toNat = none → completes i s (waitsForLine s t false)) ∧
      (p → ∀ l, findLine (curCore s) t.toNat = some l →
        (l.ok = false ∨ l.target.getLsbD (lineOff t) = true → exec i s = .next (arrived s t false l)) ∧
        (l.ok = true ∧ l.target.getLsbD (lineOff t) = false → entersHandler i s 0x04 t)) := by
  intro t
  rw [condBranch_ready _ _ hr] at hi
  have htaken : p → exec i s = transfer s t false (linkOf s false) := fun hp => by rw [hi, if_pos (hq.2 hp)]; rfl
  refine ⟨fun hp => by rw [hi, if_neg (fun h => hp (hq.1 h))], fun hp => ?_, fun hp => ?_⟩
  · exact (transfer_ends (htaken hp) (by simp)).1
  · exact (transfer_ends (htaken hp) (by simp)).2

/-- A transfer without a condition: the traps of a bad register target, and what R83 says of a good one. -/
theorem goes_ends {i : Instr} {s : State} {t : Word} {reg link : Bool} (hi : exec i s = transfer s t reg (linkOf s link)) :
    (reg = true ∧ (space t ≠ 0 ∨ bits t 57 3 ≠ 0) → traps i s 0x06 t) ∧
      (reg = true ∧ space t = 0 ∧ bits t 57 3 = 0 ∧ (t.getLsbD 0 = true ∨ bits t 0 7 < 16) → traps i s 0x04 t) ∧
      ((reg = true → badPc t = none) → findLine (curCore s) t.toNat = none → completes i s (waitsForLine s t link)) ∧
      ((reg = true → badPc t = none) → ∀ l, findLine (curCore s) t.toNat = some l →
        (l.ok = false ∨ l.target.getLsbD (lineOff t) = true → exec i s = .next (arrived s t link l)) ∧
        (l.ok = true ∧ l.target.getLsbD (lineOff t) = false → entersHandler i s 0x04 t)) := by
  refine ⟨?_, ?_, fun hb => (transfer_ends hi hb).1, fun hb => (transfer_ends hi hb).2⟩
  · rintro ⟨rfl, h⟩
    rw [traps, hi, transfer_badSpace h]; rfl
  · rintro ⟨rfl, h0, h1, h⟩
    rw [traps, hi, transfer_badTarget h0 h1 h]; rfl

theorem execCall_ready {s : State} (d : Int) (h : xReady s [1]) :
    execCall d s = transfer s (streamStep (curSlot s).pc d) false (linkOf s true) := needX_ready _ h

theorem execJr_ready {s : State} {b : XReg} (h : xReady s [b]) : execJr b s = transfer s (getX (curSlot s) b) true (linkOf s false) :=
  needX_ready _ h

theorem execCallr_ready {s : State} {b : XReg} (h : xReady s [b, 1]) :
    execCallr b s = transfer s (getX (curSlot s) b) true (linkOf s true) := needX_ready _ h

theorem execRet_ready {s : State} (h : xReady s [1]) : execRet s = transfer s (getX (curSlot s) 1) true (linkOf s false) :=
  needX_ready _ h

/-- Settles O12: each form is a conditional branch or a transfer, and these end as R80 to R83 say. -/
theorem branchesCallsAndReturns : Obligations.BranchesCallsAndReturns := by
  refine ⟨fun pc n _ _ => streamStep_eq pc n, fun s i => ?_⟩
  intro x there cond goes arrive misses
  constructor
  · intro a b d p hc hr
    simp only [cond] at hc
    split at hc
    case h_7 => cases hc
    all_goals cases hc
    · exact condBranch_ends (q := fun x y => x == y) rfl (by simp [x]) hr
    · exact condBranch_ends (q := fun x y => x != y) rfl (by simp [x]) hr
    · exact condBranch_ends (q := fun x y => decide (x.toInt < y.toInt)) rfl (by simp [x]) hr
    · exact condBranch_ends (q := fun x y => decide (y.toInt ≤ x.toInt)) rfl (by simp [x]) hr
    · exact condBranch_ends (q := fun x y => decide (x.toNat < y.toNat)) rfl (by simp [x]) hr
    · exact condBranch_ends (q := fun x y => decide (y.toNat ≤ x.toNat)) rfl (by simp [x]) hr
  · intro t reg link rs hg hr
    simp only [goes] at hg
    split at hg
    case h_6 => cases hg
    all_goals cases hg
    · exact goes_ends rfl
    · exact goes_ends (execCall_ready _ hr)
    · exact goes_ends (execJr_ready hr)
    · exact goes_ends (execCallr_ready hr)
    · exact goes_ends (execRet_ready hr)

end Sys2Proof.Machine
end

section
/-! SUPPORT. What reports, traces, notices and returned messages change: `mail` says that of a core only its channels, patterns, marks,
deque, counts, delay table and BULK accesses change, `posts` says it of every core of the machine, and `wakes` says that only waiting senders go. -/

namespace Sys2Proof.Machine

open Sys2Proof.Terms

/-- A relation that every step of a fold respects holds from its start to its end. -/
theorem foldl_related {α β : Type} (R : α → α → Prop) (hr : ∀ a, R a a) (ht : ∀ {a b c}, R a b → R b c → R a c) {f : α → β → α}
    (hf : ∀ a x, R a (f a x)) (l : List β) (a : α) : R a (l.foldl f a) := by
  induction l generalizing a with
  | nil => exact hr a
  | cons x l ih => exact ht (hf a x) (ih _)

-- Cores

/-- Of a core only what messages, reports, delay accounting and BULK accesses change has changed. -/
def mail (c d : Core) : Prop :=
  d = { c with chans := d.chans, pats := d.pats, marked := d.marked, deque := d.deque, strayDeque := d.strayDeque, events := d.events,
               reports := d.reports, bulks := d.bulks, nextUid := d.nextUid, spilling := d.spilling, traceN := d.traceN, delay := d.delay, others := d.others }

theorem mail.refl (c : Core) : mail c c := rfl

theorem mail.trans {c d e : Core} (h : mail c d) (h' : mail d e) : mail c e := by
  unfold mail at *
  rw [h] at h'
  exact h'

theorem mail.slots {c d : Core} (h : mail c d) : d.slots = c.slots := by rw [h]
theorem mail.tvec {c d : Core} (h : mail c d) : d.tvec = c.tvec := by rw [h]
theorem mail.ctrl {c d : Core} (h : mail c d) : d.ctrl = c.ctrl := by rw [h]
theorem mail.away {c d : Core} (h : mail c d) : d.away = c.away := by rw [h]
theorem mail.part {c d : Core} (h : mail c d) : d.part = c.part := by rw [h]
theorem mail.lcore {c d : Core} (h : mail c d) : d.lcore = c.lcore := by rw [h]

theorem mail_setChan (c : Core) (ch : Nat) (x : Chan) : mail c (setChan c ch x) := rfl
theorem mail_countEv (c : Core) (e : Fin 18) (n : Nat) : mail c (countEv c e n) := rfl

theorem mail_markChan (c : Core) (ch : Nat) : mail c (markChan c ch) := by
  unfold markChan
  split <;> rfl

theorem mail_waitFor (c : Core) (ch : Nat) (e : Endpoint) : mail c (waitFor c ch e) := by
  unfold waitFor
  split
  · split <;> rfl
  · rfl

theorem mail_absorb (ch n : Nat) (c : Core) : mail c (absorb ch n c) := by
  induction n generalizing c with
  | zero => rfl
  | succ n ih =>
    unfold absorb
    split
    · split
      · split
        · split
          · refine mail.trans ?_ (ih _)
            rfl
          · rfl
        · split
          · refine mail.trans ?_ (ih _)
            rfl
          · rfl
        · rfl
      · rfl
    · rfl

/-- Without a quorum pattern a channel's messages stay in its queue. -/
theorem absorb_noQuorum {c : Core} (h : ∀ p ∈ c.pats, p.2.qn = 0) (ch n : Nat) : absorb ch n c = c := by
  have hq : quorumOf c ch = none := by
    rw [quorumOf, List.find?_eq_none]
    intro p hp
    simp [h p hp]
  cases n with
  | zero => rfl
  | succ n =>
    unfold absorb
    rw [hq]
    cases tget c.chans ch <;> rfl

theorem mail_freePart (c : Core) (h : Held) : mail c (freePart c h) := by
  unfold freePart
  split <;> rfl

theorem mail_freeHeldIn (c : Core) (h : Held) : mail c (freeHeldIn c h) := by
  unfold freeHeldIn
  split
  · exact (mail_freePart c h).trans ((mail_setChan ..).trans (mail_markChan _ _))
  · exact mail_freePart c h
  · dsimp only
    split
    · exact (mail_setChan ..).trans (mail_markChan _ _)
    · rfl
  · split <;> rfl

theorem mail_returnHeldIn (c : Core) (h : Held) : mail c (returnHeldIn c h) := by
  unfold returnHeldIn
  dsimp only
  refine (mail_freeHeldIn c h).trans ?_
  split
  · rfl
  · split
    · rfl
    · refine mail.trans ?_ (mail.trans (mail_absorb ..) (mail_markChan ..))
      split <;> rfl

-- Waiting senders

/-- Of a core only the senders that wait on its channels have changed. -/
def wakes (c d : Core) : Prop :=
  d = { c with chans := d.chans } ∧ ∀ ch, ∃ ws, tget d.chans ch = (tget c.chans ch).map fun x => { x with waiters := ws }

theorem wakes.refl (c : Core) : wakes c c := by
  refine ⟨rfl, fun ch => ?_⟩
  cases h : tget c.chans ch with
  | none => exact ⟨[], rfl⟩
  | some x => exact ⟨x.waiters, rfl⟩

theorem wakes.trans {c d e : Core} (h : wakes c d) (h' : wakes d e) : wakes c e := by
  obtain ⟨h1, h2⟩ := h
  obtain ⟨h3, h4⟩ := h'
  refine ⟨by rw [h1] at h3; exact h3, fun ch => ?_⟩
  obtain ⟨ws, hw⟩ := h2 ch
  obtain ⟨vs, hv⟩ := h4 ch
  refine ⟨vs, ?_⟩
  rw [hv, hw, Option.map_map]
  rfl

theorem wakes.mail {c d : Core} (h : wakes c d) : mail c d := by
  obtain ⟨h, -⟩ := h
  unfold Machine.mail
  rw [h]

-- The machine

/-- Beside the network and the partitions, only the mail of cores differs. -/
def posts (s t : State) : Prop := t = { s with cores := t.cores, net := t.net, parts := t.parts } ∧ ∀ y, mail (getCore s y) (getCore t y)

theorem posts.refl (s : State) : posts s s := ⟨rfl, fun _ => rfl⟩

theorem posts.trans {s t u : State} (h : posts s t) (h' : posts t u) : posts s u := by
  obtain ⟨h1, h2⟩ := h
  obtain ⟨h3, h4⟩ := h'
  exact ⟨by rw [h1] at h3; exact h3, fun y => (h2 y).trans (h4 y)⟩

theorem posts.cur {s t : State} (h : posts s t) : t.cur = s.cur := by rw [h.1]
theorem posts.slots {s t : State} (h : posts s t) (y : Nat) : (getCore t y).slots = (getCore s y).slots := (h.2 y).slots
theorem posts.getSlot {s t : State} (h : posts s t) (y : Nat) (k : Fin 4) : getSlot t y k = getSlot s y k := by
  unfold Machine.getSlot
  rw [h.slots]
theorem posts.curSlot {s t : State} (h : posts s t) : curSlot t = curSlot s := by
  simp only [curSlot_eq, curCore, h.cur, h.slots]
theorem posts.tvec {s t : State} (h : posts s t) : (curCore t).tvec = (curCore s).tvec := by
  unfold curCore
  rw [h.cur, (h.2 _).tvec]

theorem posts_setCore {s : State} {x : Nat} {c : Core} (h : mail (getCore s x) c) : posts s (setCore s x c) := by
  refine ⟨rfl, fun y => ?_⟩
  by_cases hy : y = x
  · subst hy; rw [getCore_setCore_self]; exact h
  · rw [getCore_setCore_of_ne s c hy]; rfl

theorem posts_updCore {s : State} {x : Nat} {f : Core → Core} (h : mail (getCore s x) (f (getCore s x))) : posts s (updCore s x f) :=
  posts_setCore h

theorem posts_sendPkt (s : State) (p : Packet) : posts s (sendPkt s p) := ⟨rfl, fun _ => rfl⟩
theorem posts_updPart (s : State) (n : Nat) (f : Part → Part) : posts s (updPart s n f) := ⟨rfl, fun _ => rfl⟩

theorem posts_sendBulk (s : State) (x : Nat) (k : BulkKind) (a : Word) (op : ROp) : posts s (sendBulk s x k a op) := by
  refine (posts_setCore (x := x) ?_).trans (posts_sendPkt _ _)
  rfl

theorem posts_trace (s : State) (x : Nat) (k : Fin 4) (ev f : Nat) (pc : Word) (tv : Nat) : posts s (trace s x k ev f pc tv) := by
  unfold trace traceAct
  dsimp only
  split
  · refine (posts_updCore (x := x) ?_).trans (posts_sendBulk ..)
    rfl
  · exact posts.refl s

theorem posts_wakeWaiters (s : State) (x ch : Nat) : posts s (wakeWaiters s x ch) := by
  unfold wakeWaiters
  split
  · exact posts.refl s
  · split
    · exact posts.refl s
    · refine posts.trans (posts_updCore ?_) (foldl_related posts posts.refl posts.trans (fun t w => posts_sendPkt t _) _ _)
      rfl

theorem posts_wakeChans (s : State) (x : Nat) (chs : List Nat) : posts s (wakeChans s x chs) := by
  refine foldl_related posts posts.refl posts.trans (fun t ch => ?_) chs s
  split
  · split
    · exact posts_wakeWaiters t x ch
    · exact posts.refl t
  · exact posts.refl t

theorem posts_enqueued (s : State) (x ch : Nat) (y : Chan) (qs : List QMsg) : posts s (enqueued s x ch y qs) := by
  unfold enqueued
  dsimp only
  have h : posts s (setCore s x (markChan (absorb ch (qs.length + 1) (setChan (getCore s x) ch { y with queue := qs })) ch)) :=
    posts_setCore (mail.trans (mail_setChan ..) ((mail_absorb ..).trans (mail_markChan ..)))
  split
  · split
    · exact h.trans (posts_wakeChans ..)
    · exact h
  · exact h

theorem posts_startSpill (s : State) (x ch : Nat) (y : Chan) (out : QMsg) (come : Option QMsg) (b : Spiller) :
    posts s (startSpill s x ch y out come b) := by
  refine (posts_setCore (x := x) ?_).trans (posts_sendBulk ..)
  rfl

/-- The state an attempt to place a message leaves. -/
def placedState (s : State) : Placed → State
  | .ack t => t
  | .ticket t => t
  | .behind t _ => t
  | .spilling t => t
  | .busy => s

theorem posts_placeIn (s : State) (x ch : Nat) (y : Chan) (q : QMsg) (b : Spiller) : posts s (placedState s (placeIn s x ch y q b)) := by
  have hspill : ∀ out come, posts s (placedState s
      (if !ringRoom y then Placed.ticket s else if (getCore s x).spilling.isSome then .busy else .spilling (startSpill s x ch y out come b))) := by
    intro out come
    split
    · exact posts.refl s
    · split
      · exact posts.refl s
      · exact posts_startSpill ..
  unfold placeIn
  dsimp only
  split
  · split
    · exact posts_enqueued ..
    · exact hspill ..
  · split
    · refine posts_setCore (mail.trans ?_ (mail_markChan ..))
      rfl
    · exact hspill ..
  · split
    · exact posts.refl s
    · split
      · exact posts_enqueued ..
      · split
        · exact hspill ..
        · split <;> exact hspill ..

theorem posts_rearm (s : State) (x : Nat) (m : Msg) : posts s (rearm s x m) := by
  unfold rearm
  split
  · split
    · exact posts.refl s
    · exact posts_updPart ..
  · exact posts.refl s

theorem posts_dropSeq {send : State → Nat → List Word → State} (hs : ∀ t f ws, posts t (send t f ws)) (s : State) (x ch : Nat)
    (n : BitVec 16) : posts s (dropSeq send s x ch n) := by
  unfold dropSeq
  dsimp only
  refine posts.trans (posts_updCore (x := x) (f := fun c => countEv c 10) rfl) ?_
  split
  · exact posts.refl _
  · split
    · exact hs ..
    · exact posts_updCore (mail_setChan ..)

/-- A fault report changes the mail of cores only (R284). -/
theorem posts_sendReportN (n : Nat) (s : State) (src x : Nat) (ch : Option Nat) (ws : List Word) : posts s (sendReportN n s src x ch ws) := by
  induction n generalizing s src x ch ws with
  | zero => exact posts_updCore (mail_countEv ..)
  | succ n ih =>
    unfold sendReportN
    dsimp only
    split
    · exact posts_updCore (mail_countEv ..)
    · split
      · exact posts_updCore (mail_countEv ..)
      · next ch _ y _ =>
        have hp := posts_placeIn s x ch y { msg := reportMsg s src x ch ws, arrival := s.time, part := corePart s src } .report
        split <;> rename_i he <;> rw [he] at hp
        · exact hp.trans (posts_rearm ..)
        · refine hp.trans (posts_updCore (mail.trans ?_ (mail_waitFor ..)))
          rfl
        · exact hp
        · exact posts_updCore rfl
        · exact hp.trans (posts_dropSeq (fun t f ws => ih ..) ..)

theorem posts_reportOf (s : State) (x : Nat) (sl : Slot) (r : Report) : posts s (reportOf s x sl r) := by
  unfold reportOf
  dsimp only
  split
  · split
    · exact posts_sendReportN ..
    · exact posts.refl s
  · exact posts_sendReportN ..

theorem posts_report (s : State) (x : Nat) (k : Fin 4) (r : Report) : posts s (report s x k r) := posts_reportOf ..

theorem posts_unreplayable (s : State) (x : Nat) (k : Fin 4) (cause : Nat) (tval epc : Word) (tseq : Nat) :
    posts s (unreplayable s x k cause tval epc tseq) := by
  unfold unreplayable
  split
  · exact posts_report ..
  · exact posts.refl s

end Sys2Proof.Machine
end

section
/-! SUPPORT. Fault reports that reach their channel, and the end of an activation that runs alone: its messages go back, its slot
closes (spec/17 R307, spec/16 R284). -/

namespace Sys2Proof.Machine

open Sys2Proof.Terms

-- What later steps leave of a report

/-- The channels of a core keep their queues, its marks stay, and event 0x0C counts no more. -/
def mailKept (c d : Core) : Prop :=
  (∀ ch, (tget d.chans ch).map (fun x => x.queue) = (tget c.chans ch).map fun x => x.queue) ∧ (∀ ch ∈ c.marked, ch ∈ d.marked) ∧
    d.events[12] = c.events[12]

theorem mailKept.refl (c : Core) : mailKept c c := ⟨fun _ => rfl, fun _ h => h, rfl⟩

theorem mailKept.trans {c d e : Core} (h : mailKept c d) (h' : mailKept d e) : mailKept c e := by
  obtain ⟨h1, h2, h3⟩ := h
  obtain ⟨h4, h5, h6⟩ := h'
  exact ⟨fun ch => (h4 ch).trans (h1 ch), fun ch hm => h5 ch (h2 ch hm), h6.trans h3⟩

theorem mailKept_of_eq {c d : Core} (h1 : d.chans = c.chans) (h2 : d.marked = c.marked) (h3 : d.events = c.events) : mailKept c d :=
  ⟨fun ch => by rw [h1], fun ch h => by rw [h2]; exact h, by rw [h3]⟩

theorem mem_markChan (c : Core) (ch : Nat) : ch ∈ (markChan c ch).marked := by
  unfold markChan
  split
  · next h => simpa using h
  · simp

theorem markChan_keeps (c : Core) (ch : Nat) : ∃ mk, markChan c ch = { c with marked := mk } ∧ ch ∈ mk := by
  have hm := mem_markChan c ch
  unfold markChan at hm ⊢
  split
  · next h => rw [if_pos h] at hm; exact ⟨c.marked, rfl, hm⟩
  · next h => rw [if_neg h] at hm; exact ⟨_, rfl, hm⟩

theorem mailKept_markChan (c : Core) (ch : Nat) : mailKept c (markChan c ch) := by
  unfold markChan
  split
  · exact mailKept.refl c
  · exact ⟨fun _ => rfl, fun n h => by simp [h], rfl⟩

theorem mailKept_setChan {c : Core} {ch : Nat} {x y : Chan} (hx : tget c.chans ch = some x) (hq : y.queue = x.queue) :
    mailKept c (setChan c ch y) := by
  refine ⟨fun n => ?_, fun _ h => h, rfl⟩
  by_cases h : n = ch
  · subst h; simp [setChan, hx, hq]
  · simp [setChan, tget_tset_of_ne _ _ h]

theorem heldChan_some {c : Core} {h : Held} {x : Chan} (hx : heldChan c h = some x) : tget c.chans h.chan = some x ∧ x.gen = h.gen := by
  simpa [heldChan, Option.filter_eq_some_iff] using hx

theorem mailKept_freePart (c : Core) (h : Held) : mailKept c (freePart c h) := by
  unfold freePart
  split
  · exact mailKept_of_eq rfl rfl rfl
  · exact mailKept.refl c

theorem mailKept_freeHeldIn (c : Core) (h : Held) : mailKept c (freeHeldIn c h) := by
  unfold freeHeldIn
  split
  · next x _ hx =>
    refine (mailKept_freePart c h).trans (mailKept.trans (mailKept_setChan (x := x) (y := { x with heldParts := x.heldParts - 1 }) ?_ rfl) (mailKept_markChan ..))
    have := (heldChan_some hx).1
    unfold freePart
    split <;> exact this
  · exact mailKept_freePart c h
  · next x _ hx =>
    dsimp only
    have hk := mailKept_setChan (y := { x with held := x.held - 1 }) (heldChan_some hx).1 rfl
    split
    · exact hk.trans (mailKept_markChan ..)
    · exact hk
  · split
    · exact mailKept_of_eq rfl rfl rfl
    · exact mailKept.refl c

-- Waiting senders

theorem wakes.mailKept {c d : Core} (h : wakes c d) : mailKept c d := by
  obtain ⟨h1, h2⟩ := h
  refine ⟨fun ch => ?_, fun ch hm => by rw [h1]; exact hm, by rw [h1]⟩
  obtain ⟨ws, hw⟩ := h2 ch
  rw [hw, Option.map_map]
  rfl

theorem getCore_foldl_sendPkt (f : Endpoint → Packet) (l : List Endpoint) (s : State) (y : Nat) :
    getCore (l.foldl (fun s w => sendPkt s (f w)) s) y = getCore s y := by
  induction l generalizing s with
  | nil => rfl
  | cons w l ih => exact ih _

theorem wakes_wakeWaiters (s : State) (x ch y : Nat) : wakes (getCore s y) (getCore (wakeWaiters s x ch) y) := by
  unfold wakeWaiters
  split
  · exact wakes.refl _
  · next c hc =>
    split
    · exact wakes.refl _
    · rw [getCore_foldl_sendPkt]
      by_cases hy : y = x
      · subst hy
        rw [getCore_updCore_self]
        refine ⟨rfl, fun n => ?_⟩
        by_cases hn : n = ch
        · subst hn; exact ⟨[], by simp [setChan, hc]⟩
        · obtain ⟨ws, hw⟩ := (wakes.refl (getCore s y)).2 n
          exact ⟨ws, by simpa [setChan, tget_tset_of_ne _ _ hn] using hw⟩
      · rw [getCore_updCore_of_ne s _ hy]; exact wakes.refl _

theorem wakes_wakeChans (s : State) (x : Nat) (chs : List Nat) (y : Nat) : wakes (getCore s y) (getCore (wakeChans s x chs) y) := by
  refine foldl_related (fun s t => wakes (getCore s y) (getCore t y)) (fun _ => wakes.refl _) (fun h h' => wakes.trans h h') (fun t ch => ?_) chs s
  split
  · split
    · exact wakes_wakeWaiters t x ch y
    · exact wakes.refl _
  · exact wakes.refl _

-- Reports that find room

/-- Without a quorum pattern a queue that is put in place stands as it is, and its channel is marked. -/
theorem enqueued_noQuorum {s : State} {x ch : Nat} {y : Chan} {qs : List QMsg} (h : ∀ p ∈ (getCore s x).pats, p.2.qn = 0)
    (hl : y.queue.length ≤ qs.length) :
    enqueued s x ch y qs = setCore s x (markChan (setChan (getCore s x) ch { y with queue := qs }) ch) := by
  unfold enqueued
  dsimp only
  rw [absorb_noQuorum (c := setChan (getCore s x) ch { y with queue := qs }) h]
  simp only [setChan, tget_tset_self]
  rw [if_neg (by omega)]

theorem takesNext_notOver {c : Core} {ch : Nat} {y : Chan} (h : takesNext c ch y) : inOverflow c ch y = false := by
  obtain ⟨-, -, ho, hsp, -, -⟩ := h
  cases hs : c.spilling with
  | none => simp [inOverflow, ho, hs]
  | some p => simp [inOverflow, ho, hs, hsp p hs]

/-- A channel that takes the next message gets it at its end and is marked. -/
theorem placeIn_takesNext {s : State} {x ch : Nat} {y : Chan} (h : takesNext (getCore s x) ch y) (q : QMsg) (b : Spiller) :
    placeIn s x ch y q b = .ack (setCore s x (markChan (setChan (getCore s x) ch { y with queue := y.queue ++ [q] }) ch)) := by
  have hin := takesNext_notOver h
  obtain ⟨-, hk, -, -, hroom, hqn⟩ := h
  unfold placeIn
  dsimp only
  split
  · rw [if_pos (by simp [hin, poolUsed, hroom]), enqueued_noQuorum hqn (by simp)]
  · next h' => rw [hk] at h'; cases h'
  · next h' => rw [hk] at h'; cases h'

theorem rearm_core (s : State) (x : Nat) (m : Msg) (y : Nat) : getCore (rearm s x m) y = getCore s y := by
  unfold rearm
  split
  · split <;> rfl
  · rfl

theorem sendReport_takesNext {s : State} {x ch : Nat} {y : Chan} (h : takesNext (getCore s x) ch y) (src : Nat) (ws : List Word) :
    getCore (sendReportAs s src x (some ch) ws) x =
      markChan (setChan (getCore s x) ch { y with queue := y.queue ++
        [{ msg := reportMsg s src x ch ws, arrival := s.time, part := corePart s src }] }) ch := by
  unfold sendReportAs sendReportN
  simp only [h.1, placeIn_takesNext h, rearm_core, getCore_setCore_self]

theorem sendReport_noChan (s : State) (src x : Nat) (ws : List Word) :
    sendReportAs s src x none ws = updCore s src fun c => countEv c 12 := rfl

/-- The words of a report (R285). -/
def reportWords (sl : Slot) (r : Report) : List Word :=
  [BitVec.ofNat 64 (r.kind + r.cause * 2 ^ 8 + patOf sl * 2 ^ 16), BitVec.ofNat 64 sl.actId.toNat, r.tval, r.epc, BitVec.ofNat 64 r.tseq,
    r.word5]

/-- A report of an activation that no other leads goes to the fault channel of its own core (R284). -/
theorem reportOf_own {s : State} {x : Nat} {sl : Slot} {f : Fired} (hf : sl.fired = some f) (hl : f.lead = none) (ht : sl.twin = none)
    (r : Report) : reportOf s x sl r = sendReportAs s x x (faultChan (getCore s x) sl) (reportWords sl r) := by
  simp [reportOf, hf, hl, ht, reportWords]

/-- A report of the current activation has reached its fault channel, and what came after left it there. -/
theorem reports_of_report {s t : State} {r : Report}
    (h : mailKept (getCore (report s s.cur.1 s.cur.2 r) s.cur.1) (getCore t s.cur.1)) (ht : t.cur.1 = s.cur.1) :
    reports s t r.kind r.cause r.tval r.epc r.tseq r.word5 := by
  intro f hf hlead htwin _
  have hrep : report s s.cur.1 s.cur.2 r =
      sendReportAs s s.cur.1 s.cur.1 (faultChan (curCore s) (curSlot s)) (reportWords (curSlot s) r) := reportOf_own hf hlead htwin r
  have hpat : patOf (curSlot s) = f.pat := by simp [patOf, hf]
  obtain ⟨hq, hm, he⟩ := h
  unfold curCore at *
  rw [ht]
  constructor
  · intro z ch x hz hch hx
    have hfc : faultChan (getCore s s.cur.1) (curSlot s) = some ch.toNat := by simp [faultChan, hf, hz, hch]
    have hsend := sendReport_takesNext hx s.cur.1 (reportWords (curSlot s) r)
    rw [hrep, hfc, hsend] at hq hm
    have hget := hq ch.toNat
    obtain ⟨mk, hmk, -⟩ := markChan_keeps (setChan (getCore s s.cur.1) ch.toNat { x with queue := x.queue ++
        [{ msg := reportMsg s s.cur.1 s.cur.1 ch.toNat (reportWords (curSlot s) r), arrival := s.time, part := corePart s s.cur.1 }] }) ch.toNat
    rw [hmk] at hget
    simp only [setChan, tget_tset_self, Option.map_some] at hget
    cases hy : tget (getCore t s.cur.1).chans ch.toNat with
    | none => rw [hy] at hget; cases hget
    | some y =>
      rw [hy, Option.map_some, Option.some.injEq] at hget
      refine ⟨y, rfl, hm _ (mem_markChan ..), ?_⟩
      rw [hget, List.filter_append]
      simp [reportMsg, reportWords, hpat]
  · intro hnone
    have hfc : faultChan (getCore s s.cur.1) (curSlot s) = none := by
      unfold faultChan
      rw [hf]
      cases hz : tget (getCore s s.cur.1).chans f.ch0 with
      | none => simp [hz]
      | some z =>
        rw [hz] at hnone
        simp only [Option.bind_some] at hnone
        simp [hz, hnone]
    rw [hrep, hfc, sendReport_noChan, getCore_updCore_self] at he
    rw [he]
    simp [countEv]

-- Activations that run alone

theorem setSlot_setSlot (s : State) (x : Nat) (k : Fin 4) (f g : Slot → Slot) :
    setSlot (setSlot s x k f) x k g = setSlot s x k fun sl => g (f sl) := by
  simp only [setSlot, updCore, setCore_setCore, getCore_setCore_self]
  simp

theorem getCore_setSlot_self (s : State) (x : Nat) (k : Fin 4) (f : Slot → Slot) :
    getCore (setSlot s x k f) x = { getCore s x with slots := (getCore s x).slots.set k (f (getSlot s x k)) } :=
  getCore_updCore_self ..

/-- The core beside an activation's end: killed requests, a closed slot. -/
def closedSlot (s : State) (sl : Slot) : Slot :=
  { sl with outbox := [], replayable := false, mode := .closing, stallAt := s.cycle, streams := Vector.replicate 4 none, due := [],
            stepOwed := false, strictReq := none, strictNext := none }

-- Messages that go back

/-- The core with a held message of a channel set up as it was: the hold is gone, the message back at the head of its channel, or in the
deque, with the returned mark, and the channel is examined again (R307). -/
theorem returnHeldIn_own {c : Core} {h : Held} {x : Chan} (hpart : h.part = none) (hq : ∀ p ∈ c.pats, p.2.qn = 0)
    (hx : tget c.chans h.chan = some x) (hg : x.gen = h.gen) :
    let ms := h.msgs.map fun q => { q with returned := true }
    let d := returnHeldIn c h
    h.chan ∈ d.marked ∧ ∃ y, tget d.chans h.chan = some y ∧ y.held = x.held - 1 ∧
      (x.kind = .fifo → y.queue = ms ++ x.queue ∧ y.nextSeq = x.nextSeq) ∧
      (∀ q, x.kind = .sequenced → h.msgs = [q] → y.queue = ms ++ x.queue ∧ y.nextSeq = q.msg.seq) ∧
      (x.kind = .roaming → d.deque = c.deque ++ ms.map fun q => ⟨h.chan, q⟩) := by
  intro ms d
  have hfree : ∃ c' : Core, freeHeldIn c h = c' ∧ tget c'.chans h.chan = some { x with held := x.held - 1 } ∧ c'.pats = c.pats ∧
      c'.deque = c.deque := by
    have hh : heldChan c h = some x := by simp [heldChan, hx, hg]
    refine ⟨_, rfl, ?_⟩
    unfold freeHeldIn
    rw [hpart, hh]
    dsimp only
    split
    · unfold markChan
      split <;> simp [setChan]
    · simp [setChan]
  obtain ⟨c', hc', hx', hp', hd'⟩ := hfree
  have hh : heldChan c' h = some { x with held := x.held - 1 } := by simp [heldChan, hx', hg]
  have hd : d = returnHeldIn c h := rfl
  unfold returnHeldIn at hd
  simp only [hc', hh, hpart] at hd
  rw [absorb_noQuorum (by cases x.kind <;> (change ∀ p ∈ c'.pats, _; rw [hp']; exact hq))] at hd
  have hchans : ∀ e : Core, (markChan e h.chan).chans = e.chans ∧ (markChan e h.chan).deque = e.deque := by
    intro e
    obtain ⟨mk, hmk, -⟩ := markChan_keeps e h.chan
    rw [hmk]
    exact ⟨rfl, rfl⟩
  refine ⟨hd ▸ mem_markChan .., ?_⟩
  rw [hd, (hchans _).1, (hchans _).2]
  cases hk : x.kind with
  | fifo => exact ⟨_, tget_tset_self .., rfl, fun _ => ⟨rfl, rfl⟩, by simp, by simp⟩
  | sequenced =>
    refine ⟨_, tget_tset_self .., rfl, by simp, fun q _ hq => ⟨rfl, by simp [hq]⟩, by simp⟩
  | roaming => exact ⟨_, hx', rfl, by simp, by simp, fun _ => by rw [← hd']⟩

section Alone

variable {s t : State} (ha : alone s)

/-- The activation of the current slot. -/
def curAct (s : State) : Member := selfOf s s.cur.1 s.cur.2

/-- A state after the mail of the current core may have changed holds the current activation in its slot as before. -/
theorem parked_of_mail {c d : Core} (h : mail c d) (k : Fin 4) (act : BitVec 48) : parked d k act = parked c k act := by
  unfold parked
  rw [h.away]

theorem actSlot_unparked {c : Core} {k : Fin 4} {act : BitVec 48} (hp : parked c k act = false) (hact : c.slots[k].actId = act) :
    actSlot c k act = c.slots[k] := by
  have : c.away.find? (fun a => a.slot == k && a.ctx.actId == act) = none := by
    rw [List.find?_eq_none]
    intro a hm hc
    exact Bool.false_ne_true (hp.symm.trans (List.any_eq_true.mpr ⟨a, hm, hc⟩))
  unfold actSlot
  rw [this, if_pos hact]

theorem updAct_unparked {c : Core} {k : Fin 4} {act : BitVec 48} (hp : parked c k act = false) (hact : c.slots[k].actId = act)
    (f : Slot → Slot) : updAct c k act f = { c with slots := c.slots.set k (f c.slots[k]) } := by
  unfold updAct
  rw [hp, if_neg Bool.false_ne_true, if_pos hact]

/-- The current activation is dropped from a state that holds it in its slot as `sl`: its requests complete without effect, its slot
closes (R307). -/
theorem dropMember_alone {sl : Slot} (hcur : t.cur = s.cur) (hsl : getSlot t s.cur.1 s.cur.2 = sl)
    (hpark : parked (getCore t s.cur.1) s.cur.2 (curSlot s).actId = false) :
    let u := dropMember t (curAct s)
    u.cur = s.cur ∧
      getCore u s.cur.1 =
        { killReqs (getCore t s.cur.1) s.cur.2 (curSlot s).actId with
          slots := (getCore t s.cur.1).slots.set s.cur.2 (closedSlot t sl) } := by
  intro u
  have hpark' : parked (killReqs (getCore t s.cur.1) s.cur.2 (curSlot s).actId) s.cur.2 (curSlot s).actId = false := hpark
  have hu : u = closeSlot (setSlot (updCore t s.cur.1 fun c => killReqs c s.cur.2 (curSlot s).actId) s.cur.1 s.cur.2 fun q =>
      { q with outbox := [], replayable := false, due := [] }) s.cur.1 s.cur.2 := by
    change dropMember t ⟨s.cur.1, s.cur.2, (curSlot s).actId⟩ = _
    unfold dropMember
    dsimp only
    rw [getCore_updCore_self, hpark', if_neg Bool.false_ne_true]
  have hclose : u = setSlot (setSlot (updCore t s.cur.1 fun c => killReqs c s.cur.2 (curSlot s).actId) s.cur.1 s.cur.2 fun q =>
      { q with outbox := [], replayable := false, due := [] }) s.cur.1 s.cur.2 fun q =>
      { q with mode := .closing, stallAt := t.cycle, streams := Vector.replicate 4 none, due := [], stepOwed := false, strictReq := none,
               strictNext := none } := by
    rw [hu]
    unfold closeSlot
    rw [getSlot_setSlot_self]
    rfl
  refine ⟨by rw [hclose]; exact hcur, ?_⟩
  rw [hclose]
  have hk : getSlot (updCore t s.cur.1 fun c => killReqs c s.cur.2 (curSlot s).actId) s.cur.1 s.cur.2 = sl := by
    unfold getSlot
    rw [getCore_updCore_self]
    exact hsl
  rw [setSlot_setSlot, getCore_setSlot_self, getCore_updCore_self, hk]
  rfl

include ha

omit ha in
theorem selfOf_posts (hp : posts s t) : selfOf t s.cur.1 s.cur.2 = curAct s := by
  unfold selfOf
  rw [hp.getSlot]
  rfl

theorem partners_posts (hp : posts s t) : partners t s.cur.1 s.cur.2 = [curAct s] := by
  have hg : (getSlot t s.cur.1 s.cur.2).group = [] := (congrArg Slot.group (hp.getSlot ..)).trans ha.2.1
  unfold partners
  rw [hg, selfOf_posts hp]
  rfl

theorem holderOf_posts (hp : posts s t) : holderOf t s.cur.1 s.cur.2 = curAct s := by
  have hg : (getSlot t s.cur.1 s.cur.2).group = [] := (congrArg Slot.group (hp.getSlot ..)).trans ha.2.1
  unfold holderOf
  rw [hg, selfOf_posts hp]
  rfl

theorem memberSlot_alone (hp : posts s t) : memberSlot t (curAct s) = curSlot s := by
  obtain ⟨-, -, -, hpark⟩ := ha
  have hsl : (getCore t s.cur.1).slots[s.cur.2] = curSlot s := hp.getSlot s.cur.1 s.cur.2
  unfold memberSlot
  rw [← hsl]
  exact actSlot_unparked ((parked_of_mail (hp.2 _) ..).trans hpark) (congrArg Slot.actId hsl)

theorem firesAgain_alone (hr : (curSlot s).replayable = true) :
    firesAgain s s.cur.1 s.cur.2 = !((curSlot s).fired.map fun f => f.returned).getD false := by
  have hg : (getSlot s s.cur.1 s.cur.2).group = [] := ha.2.1
  unfold firesAgain
  rw [partners_posts ha (posts.refl s)]
  simp only [List.all_cons, List.all_nil, memberSlot_alone ha (posts.refl s), hr, hg]
  simp
  rfl

/-- What the end of the activation's hold on its messages leaves of the current core: the slot without held messages, and mail. -/
theorem heldEnded_alone (hp : posts s t) {F : Core → Held → Core} (hF : ∀ c h, mail c (F c h)) (hs : List Held) {u : State}
    (hu : ∃ chs, u = wakeChans (updCore t s.cur.1 fun c => updAct (hs.foldl F c) s.cur.2 (curSlot s).actId noHeld) s.cur.1 chs) :
    u.cur = s.cur ∧
      wakes { hs.foldl F (getCore t s.cur.1) with slots := (curCore s).slots.set s.cur.2 (noHeld (curSlot s)) } (getCore u s.cur.1) := by
  obtain ⟨-, -, -, hpark⟩ := ha
  obtain ⟨chs, rfl⟩ := hu
  let v := updCore t s.cur.1 fun c => updAct (hs.foldl F c) s.cur.2 (curSlot s).actId noHeld
  let d := hs.foldl F (getCore t s.cur.1)
  have hm : mail (getCore t s.cur.1) d := foldl_related mail mail.refl mail.trans hF hs _
  have hsl : d.slots = (curCore s).slots := hm.slots.trans (hp.slots _)
  have hsk : d.slots[s.cur.2] = curSlot s := by rw [hsl]; rfl
  have hv : getCore v s.cur.1 = { d with slots := (curCore s).slots.set s.cur.2 (noHeld (curSlot s)) } := by
    rw [getCore_updCore_self]
    refine (updAct_unparked ?_ (congrArg Slot.actId hsk) noHeld).trans ?_
    · rw [parked_of_mail ((hp.2 _).trans hm)]; exact hpark
    · rw [hsk, hsl]
  refine ⟨?_, hv ▸ wakes_wakeChans v s.cur.1 chs s.cur.1⟩
  exact (posts_wakeChans ..).cur.trans hp.cur

omit ha in
/-- A trace record leaves the channels, patterns and deque of its core, its marks and its counts (R322). -/
theorem trace_mail (s : State) (x : Nat) (k : Fin 4) (ev f : Nat) (pc : Word) (tv : Nat) :
    let c := getCore s x
    let d := getCore (trace s x k ev f pc tv) x
    d.chans = c.chans ∧ d.pats = c.pats ∧ d.deque = c.deque ∧ d.marked = c.marked ∧ d.events = c.events := by
  unfold trace traceAct
  dsimp only
  split
  · simp [traceRec, sendBulk_core]
  · simp

theorem traceKill_alone (hp : posts s t) : traceKill t (curAct s) = trace t s.cur.1 s.cur.2 4 (patOf (curSlot s)) (curSlot s).pc 0 := by
  have hact : (getSlot t s.cur.1 s.cur.2).actId = (curSlot s).actId := congrArg Slot.actId (hp.getSlot ..)
  unfold traceKill trace
  rw [memberSlot_alone ha hp, hact]
  rfl

omit ha in
/-- Delay accounting changes the delay table only (R323). -/
theorem addDelay_mail (e b : Nat) (c : Core) (d : DelayMsg) : mail c (addDelay e b c d) ∧ mailKept c (addDelay e b c d) := by
  unfold addDelay
  dsimp only
  split
  · exact ⟨rfl, mailKept_of_eq rfl rfl rfl⟩
  · split
    · exact ⟨rfl, mailKept_of_eq rfl rfl rfl⟩
    · exact ⟨rfl, mailKept_of_eq rfl rfl rfl⟩

omit ha in
theorem accountOf_mail (s : State) (m : Member) : posts s (accountOf s m) ∧ ∀ y, mailKept (getCore s y) (getCore (accountOf s m) y) := by
  have hsame : posts s s ∧ ∀ y, mailKept (getCore s y) (getCore s y) := ⟨posts.refl s, fun _ => mailKept.refl _⟩
  unfold accountOf
  dsimp only
  split
  · exact hsame
  · split
    · next f _ _ _ =>
      refine ⟨posts_updCore (foldl_related mail mail.refl mail.trans (fun c d => (addDelay_mail _ _ c d).1) f.delays _), fun y => ?_⟩
      by_cases hy : y = m.site
      · subst hy
        rw [getCore_updCore_self]
        exact foldl_related mailKept mailKept.refl mailKept.trans (fun c d => (addDelay_mail _ _ c d).2) f.delays _
      · rw [getCore_updCore_of_ne s _ hy]
        exact mailKept.refl _
    · exact hsame
  · exact hsame

/-- The slot of the current activation once it is dropped. -/
theorem curSlot_dropped {u : State} {d : Core} (hu : u.cur = s.cur)
    (hw : wakes { d with slots := (curCore s).slots.set s.cur.2 (noHeld (curSlot s)) } (getCore u s.cur.1)) (hd : d.away = (curCore s).away) :
    let w := dropMember u (curAct s)
    w.cur = s.cur ∧ curSlot w = closedSlot u (noHeld (curSlot s)) ∧ (getCore w s.cur.1).chans = (getCore u s.cur.1).chans ∧
      (getCore w s.cur.1).marked = (getCore u s.cur.1).marked ∧ (getCore w s.cur.1).deque = (getCore u s.cur.1).deque ∧
      (getCore w s.cur.1).events = (getCore u s.cur.1).events := by
  intro w
  have hm := hw.mail
  have hslots : (getCore u s.cur.1).slots = (curCore s).slots.set s.cur.2 (noHeld (curSlot s)) := hm.slots
  have hsl : getSlot u s.cur.1 s.cur.2 = noHeld (curSlot s) := by
    unfold getSlot
    rw [hslots]
    simp
  have hpark : parked (getCore u s.cur.1) s.cur.2 (curSlot s).actId = false := by
    unfold parked
    rw [hm.away, hd]
    exact ha.2.2.2
  obtain ⟨hcur, hcore⟩ := dropMember_alone hu hsl hpark
  have hw' : w = dropMember u (curAct s) := rfl
  clear_value w
  rw [← hw'] at hcur hcore
  refine ⟨hcur, ?_, by rw [hcore]; exact ⟨rfl, rfl, rfl, rfl⟩⟩
  change getSlot w w.cur.1 w.cur.2 = _
  rw [hcur]
  unfold getSlot
  rw [hcore]
  simp

/-- An activation that runs alone and may run again is redelivered: its slot closes, and the message it held is back (R307). -/
theorem redeliver_alone (hr : (curSlot s).replayable = true) (hret : ∀ f, (curSlot s).fired = some f → f.returned = false)
    (cause : Nat) (tval : Word) :
    let u := replayError s s.cur.1 s.cur.2 cause tval
    u.cur = s.cur ∧ (∃ v : State, curSlot u = closedSlot v (noHeld (curSlot s))) ∧ gaveBack s u := by
  intro u
  have hfa : firesAgain s s.cur.1 s.cur.2 = true := by
    rw [firesAgain_alone ha hr]
    cases hf : (curSlot s).fired with
    | none => rfl
    | some f => simp [hret f hf]
  obtain ⟨s1, hs1⟩ : ∃ s1, s1 = trace s s.cur.1 s.cur.2 4 (patOf (curSlot s)) (curSlot s).pc 0 := ⟨_, rfl⟩
  have hp1 : posts s s1 := hs1 ▸ posts_trace ..
  have hu : u = dropMember (returnHeld s1 (curAct s)) (curAct s) := by
    change replayError s s.cur.1 s.cur.2 cause tval = _
    unfold replayError
    rw [hfa, if_pos rfl]
    change redeliver (traceKill s (curAct s)) s.cur.1 s.cur.2 = _
    rw [traceKill_alone ha (posts.refl s), ← hs1]
    unfold redeliver
    rw [partners_posts ha hp1, holderOf_posts ha hp1, selfOf_posts hp1]
    simp
  obtain ⟨hc1, hd1, hk1, hm1, -⟩ := hs1 ▸ trace_mail s s.cur.1 s.cur.2 4 (patOf (curSlot s)) (curSlot s).pc 0
  have hheld : heldOf (memberSlot s1 (curAct s)) = heldOf (curSlot s) := congrArg heldOf (memberSlot_alone ha hp1)
  obtain ⟨hv, hw⟩ := heldEnded_alone ha hp1 mail_returnHeldIn (heldOf (curSlot s)) (u := returnHeld s1 (curAct s))
    ⟨_, by unfold returnHeld; rw [hheld]; rfl⟩
  have haway := (foldl_related mail mail.refl mail.trans mail_returnHeldIn (heldOf (curSlot s)) (getCore s1 s.cur.1)).away.trans
    (hp1.2 s.cur.1).away
  obtain ⟨hcur, hslot, hchans, hmarked, hdeque, -⟩ := curSlot_dropped ha hv hw haway
  rw [← hu] at hcur hslot hchans hmarked hdeque
  refine ⟨hcur, ⟨_, hslot⟩, ?_⟩
  intro f h hf hh hpart hq x hx hg
  have hone : heldOf (curSlot s) = [h] := by simp [heldOf, hf, hh]
  rw [hone] at hw
  have hx1 : tget (getCore s1 s.cur.1).chans h.chan = some x := by rw [hc1]; exact hx
  have hown := returnHeldIn_own (c := getCore s1 s.cur.1) hpart (by rw [hd1]; exact hq) hx1 hg
  obtain ⟨hmk, y, hy, hheldN, hfifo, hseq, hroam⟩ := hown
  obtain ⟨hrest, hwait⟩ := hw
  obtain ⟨ws, hws⟩ := hwait h.chan
  unfold curCore
  rw [hcur, hchans, hmarked, hdeque]
  refine ⟨by rw [hrest]; exact hmk, { y with waiters := ws }, ?_, hheldN, hfifo, hseq, fun hk => ?_⟩
  · rw [hws]
    change (tget (returnHeldIn (getCore s1 s.cur.1) h).chans h.chan).map _ = _
    rw [hy]
    rfl
  · rw [hrest]
    exact (hroam hk).trans (by rw [hk1])

/-- An activation that runs alone and may run again, but was returned before, ends with a report of kind UNREPLAYABLE (R307). -/
theorem endReported_alone (hr : (curSlot s).replayable = true) (hret : ∃ f, (curSlot s).fired = some f ∧ f.returned = true)
    (cause : Nat) (tval : Word) :
    let u := replayError s s.cur.1 s.cur.2 cause tval
    u.cur = s.cur ∧ (∃ v : State, curSlot u = closedSlot v (noHeld (curSlot s))) ∧ reports s u 9 cause tval (curSlot s).pc 0 0 := by
  intro u
  have hfa : firesAgain s s.cur.1 s.cur.2 = false := by
    obtain ⟨f, hf, hfr⟩ := hret
    rw [firesAgain_alone ha hr, hf]
    simp [hfr]
  let r : Report := { kind := 9, cause := cause, tval := tval, epc := (curSlot s).pc }
  obtain ⟨s1, hs1⟩ : ∃ s1, s1 = report s s.cur.1 s.cur.2 r := ⟨_, rfl⟩
  have hp1 : posts s s1 := hs1 ▸ posts_report ..
  obtain ⟨s2, hs2⟩ : ∃ s2, s2 = accountOf s1 (curAct s) := ⟨_, rfl⟩
  have hp2 : posts s s2 := hp1.trans (hs2 ▸ (accountOf_mail ..).1)
  obtain ⟨s3, hs3⟩ : ∃ s3, s3 = trace s2 s.cur.1 s.cur.2 4 (patOf (curSlot s)) (curSlot s).pc 0 := ⟨_, rfl⟩
  have hp3 : posts s s3 := hp2.trans (hs3 ▸ posts_trace ..)
  have hu : u = dropMember (freeHeld s3 (curAct s)) (curAct s) := by
    change replayError s s.cur.1 s.cur.2 cause tval = _
    unfold replayError
    rw [hfa, if_neg Bool.false_ne_true, partners_posts ha (posts.refl s), holderOf_posts ha (posts.refl s)]
    change dropMember (freeHeld (traceKill (accountOf (report s s.cur.1 s.cur.2 r) (curAct s)) (curAct s)) (curAct s)) (curAct s) = _
    rw [← hs1, ← hs2, traceKill_alone ha hp2, ← hs3]
  have hheld : heldOf (memberSlot s3 (curAct s)) = heldOf (curSlot s) := congrArg heldOf (memberSlot_alone ha hp3)
  obtain ⟨hv, hw⟩ := heldEnded_alone ha hp3 mail_freeHeldIn (heldOf (curSlot s)) (u := freeHeld s3 (curAct s))
    ⟨_, by unfold freeHeld; rw [hheld]; rfl⟩
  have haway := (foldl_related mail mail.refl mail.trans mail_freeHeldIn (heldOf (curSlot s)) (getCore s3 s.cur.1)).away.trans
    (hp3.2 s.cur.1).away
  obtain ⟨hcur, hslot, hchans, hmarked, -, hevents⟩ := curSlot_dropped ha hv hw haway
  rw [← hu] at hcur hslot hchans hmarked hevents
  have hkept : mailKept (getCore s1 s.cur.1) (getCore u s.cur.1) := by
    obtain ⟨hc, -, -, hm, he⟩ := hs3 ▸ trace_mail s2 s.cur.1 s.cur.2 4 (patOf (curSlot s)) (curSlot s).pc 0
    have h12 : mailKept (getCore s1 s.cur.1) (getCore s2 s.cur.1) := by rw [hs2]; exact (accountOf_mail ..).2 _
    have h23 : mailKept (getCore s2 s.cur.1) (getCore s3 s.cur.1) := mailKept_of_eq hc hm he
    have hfold := foldl_related mailKept mailKept.refl mailKept.trans mailKept_freeHeldIn (heldOf (curSlot s)) (getCore s3 s.cur.1)
    have hwk := hw.mailKept
    have hdrop := mailKept_of_eq hchans hmarked hevents
    exact h12.trans (h23.trans (hfold.trans (mailKept.trans (mailKept_of_eq rfl rfl rfl) (hwk.trans hdrop))))
  refine ⟨hcur, ⟨_, hslot⟩, ?_⟩
  exact reports_of_report (r := r) (hs1 ▸ hkept) (by rw [hcur])


end Alone

end Sys2Proof.Machine
end

section
/-! SUPPORT. O17: local loads. -/

namespace Sys2Proof.Machine

open Sys2Proof.Terms

/-- The value that a load of n bytes leaves, in the model's words (R49, R75). -/
theorem extend_eq_loaded {n : Nat} (sgn : Bool) (v : Nat) (h0 : 0 < n) (h8 : n ≤ 8) : extend n sgn v = loaded n sgn v := by
  have hpow : 2 ^ (8 * n) ≤ 2 ^ 64 := Nat.pow_le_pow_right (by decide) (by omega)
  have hlt : v % 2 ^ (8 * n) < 2 ^ (8 * n) := Nat.mod_lt _ (by positivity)
  apply BitVec.eq_of_toNat_eq
  unfold extend loaded
  cases sgn with
  | false => simp [zextN]
  | true =>
    have hmsb : (BitVec.ofNat (8 * n) v).msb = decide (2 ^ (8 * n - 1) ≤ v % 2 ^ (8 * n)) := by
      rw [BitVec.msb_eq_decide, BitVec.toNat_ofNat]
    simp only [if_true, sextN, BitVec.toNat_signExtend, hmsb, BitVec.toNat_setWidth, BitVec.toNat_ofNat, decide_eq_true_eq]
    generalize v % 2 ^ (8 * n) = w at *
    generalize 2 ^ (8 * n) = p at *
    split <;> split <;> omega

/-- Every scalar load is a read of n bytes, 1, 2, 4 or 8. -/
theorem exec_loadForm {i : Instr} {a b : XReg} {imm : Int} {rlx : Bool} {n : Nat} {sgn sized : Bool}
    (h : loadForm i = some (a, b, imm, rlx, n, sgn, sized)) :
    (∀ s, exec i s = loadScalar n sgn sized a b imm rlx s) ∧ n ∈ [1, 2, 4, 8] := by
  unfold loadForm at h
  split at h <;> cases h <;> exact ⟨fun _ => rfl, by decide⟩

/-- Aligned bytes lie in one word of the scratchpad. -/
theorem wordsOf_aligned {o n : Nat} (hn : n ∈ [1, 2, 4, 8]) (ha : o % n = 0) : wordsOf o n = [o / 8 * 8] := by
  have h : (o + n + 7) / 8 - o / 8 = 1 := by
    simp only [List.mem_cons, List.not_mem_nil, or_false] at hn
    obtain rfl | rfl | rfl | rfl := hn <;> omega
  simp [wordsOf, h]

theorem checkScalar_aligned {s : State} {e : Word} {n : Nat} {sized : Bool} (h : checkScalar s e n sized = none) (hn : n ∈ [1, 2, 4, 8])
    (hw : meshWin e = 0) : meshOff e % n = 0 := by
  have h5 : check5 e n = none := by
    unfold checkScalar at h
    simp only [Option.orElse_eq_orElse, Option.orElse_eq_or, Option.or_eq_none_iff] at h
    exact h.2.1
  have he : e.toNat % n = 0 := by
    unfold check5 at h5
    by_contra hne
    rw [if_pos ⟨.inr hw, hne⟩] at h5
    cases h5
  unfold meshOff bits
  simp only [List.mem_cons, List.not_mem_nil, or_false] at hn
  obtain rfl | rfl | rfl | rfl := hn <;> omega

-- Reads of the scratchpad

theorem ueOfRead_sound {c : Core} {rs : List (Nat × Nat)} (h : sound c rs) : ueOfRead c.spadUE rs = none := by
  rw [ueOfRead, List.find?_eq_none]
  intro k hk
  obtain ⟨r, hr, hkr⟩ := List.mem_flatMap.mp hk
  simpa using (h r hr k hkr).1

theorem correct_sound {c : Core} {rs : List (Nat × Nat)} (h : sound c rs) : correct c rs = c := by
  have : (c.spadCE.filter fun k => (rs.flatMap fun r => wordsOf r.1 r.2).contains k) = [] := by
    rw [List.filter_eq_nil_iff]
    intro k hk hc
    obtain ⟨r, hr, hkr⟩ := List.mem_flatMap.mp (List.contains_iff_mem.mp hc)
    exact (h r hr k hkr).2 hk
  unfold correct
  dsimp only
  rw [this]
  rfl

theorem spadRead_sound {α : Type} {c : Core} {rs : List (Nat × Nat)} (h : sound c rs) (f : Mem → α) : spadRead c rs f = .ok (f c.spad, c) := by
  unfold spadRead
  rw [ueOfRead_sound h]
  dsimp only
  rw [correct_sound h]

/-- A word with a single-bit error is corrected and counted once (R14, R325). -/
theorem spadRead_corrects {α : Type} {c : Core} {o n k : Nat} (hw : wordsOf o n = [k]) (hue : k ∉ c.spadUE)
    (hce : c.spadCE.filter (fun j => j == k) = [k]) (f : Mem → α) :
    spadRead c [(o, n)] f = .ok (f c.spad, { c with spadCE := c.spadCE.filter (fun j => j != k), corrected := c.corrected + 1,
                                                     events := c.events.set 11 (c.events[11] + 1) }) := by
  have hu : ueOfRead c.spadUE [(o, n)] = none := by simp [ueOfRead, hw, hue]
  have hone : ∀ j, [k].contains j = (j == k) := fun j => by simp; rfl
  unfold spadRead correct
  rw [hu]
  simp only [List.flatMap_cons, List.flatMap_nil, List.append_nil, hw, hone, hce]
  rfl

theorem spadRead_error {α : Type} {c : Core} {o n k : Nat} (hw : wordsOf o n = [k]) (hue : k ∈ c.spadUE) (f : Mem → α) :
    spadRead c [(o, n)] f = .error k := by
  have hu : ueOfRead c.spadUE [(o, n)] = some k := by simp [ueOfRead, hw, hue]
  unfold spadRead
  rw [hu]

-- Accesses of the current core's own scratchpad

theorem ownSpad_ok {α : Type} {s : State} {off : Nat} {f : Core → SpadRes α} {v : α} {c : Core} (hs : spadSite s off = s.cur.1)
    (h : f (curCore s) = .ok (v, c)) : ownSpad s off f = .ok (v, setCore s s.cur.1 c) := by
  unfold curCore at h
  unfold ownSpad
  dsimp only
  rw [hs, h]

theorem ownSpad_error {α : Type} {s : State} {off : Nat} {f : Core → SpadRes α} {k : Nat} (hs : spadSite s off = s.cur.1)
    (h : f (curCore s) = .error k) : ownSpad s off f = .error k := by
  unfold curCore at h
  unfold ownSpad
  dsimp only
  rw [hs, h]

/-- Finishing with a core whose slots are those of before. -/
theorem finish_setCore {s : State} {c : Core} (h : c.slots = (curCore s).slots) (sl : Slot) (ws : List Word) :
    finish (setCore s s.cur.1 c) sl ws = retired s c sl (fallThrough s) ws := by
  have hu : curSlot (setCore s s.cur.1 c) = curSlot s := curSlot_updCurCore (f := fun _ => c) h
  have hc : curCore (setCore s s.cur.1 c) = c := curCore_updCurCore s fun _ => c
  have hf : fallThrough (setCore s s.cur.1 c) = fallThrough s := by unfold fallThrough; rw [hu]
  unfold finish
  rw [hc, hf]
  exact retired_updCurCore (f := fun _ => c) h ..

-- Loads

section Load

variable {s : State} {i : Instr} {a b : XReg} {imm : Int} {rlx : Bool} {n : Nat} {sgn sized : Bool}
  (hi : loadForm i = some (a, b, imm, rlx, n, sgn, sized)) (hr : xReady s [a, b]) (hc : checkScalar s (ea s b imm) n sized = none)
  (hl : isLocal s (ea s b imm))

include hi hr hc hl

/-- A local load is a read of its core's own scratchpad (R75). -/
theorem exec_localLoad :
    exec i s = orUE s (ownSpad s (meshOff (ea s b imm)) fun c =>
        readScalar c (curSlot s).winbase (meshWin (ea s b imm)) (meshOff (ea s b imm)) n) fun v s => .next (retireX s a (extend n sgn v)) := by
  rw [(exec_loadForm hi).1 s]
  have he : getX (curSlot s) b + wordOf imm = ea s b imm := rfl
  unfold loadScalar
  rw [needX_ready _ hr]
  dsimp only
  rw [he, hc]
  dsimp only
  rw [if_pos hl.1]
  rfl

theorem localLoad_done {v : Nat} {c : Core} (hslots : c.slots = (curCore s).slots)
    (h : readScalar (curCore s) (curSlot s).winbase (meshWin (ea s b imm)) (meshOff (ea s b imm)) n = .ok (v, c)) :
    exec i s = .next (retired s c (setX (curSlot s) a (loaded n sgn v)) (fallThrough s) [loaded n sgn v]) := by
  obtain ⟨-, hn⟩ := exec_loadForm hi
  have h8 : 0 < n ∧ n ≤ 8 := by
    simp only [List.mem_cons, List.not_mem_nil, or_false] at hn
    omega
  rw [exec_localLoad hi hr hc hl]
  rw [ownSpad_ok hl.2 h]
  change Host.Outcome.next (retireX (setCore s s.cur.1 c) a (extend n sgn v)) = _
  have hu : curSlot (setCore s s.cur.1 c) = curSlot s := curSlot_updCurCore (f := fun _ => c) hslots
  rw [retireX_eq, extend_eq_loaded sgn v h8.1 h8.2, hu, finish_setCore hslots]

theorem localLoad_error {k : Nat}
    (h : readScalar (curCore s) (curSlot s).winbase (meshWin (ea s b imm)) (meshOff (ea s b imm)) n = .error k) :
    exec i s = localUE s k := by
  rw [exec_localLoad hi hr hc hl]
  rw [ownSpad_error hl.2 h]
  rfl

end Load

-- Uncorrectable words

/-- Entering a handler leaves the mail of the core. -/
theorem takeTrap_mailKept {s : State} {t : TrapInfo} (hs : (curSlot s).sup = false) (ht : (curCore s).tvec ≠ 0) :
    mailKept (curCore s) (getCore (takeTrap s s.cur.1 s.cur.2 t) s.cur.1) := by
  obtain ⟨hc, -, -, hm, he⟩ := trace_mail s s.cur.1 s.cur.2 3 t.cause.toNat t.epc t.tval.toNat
  rw [takeTrap_user hs ht, getCore_setSlot_self]
  exact mailKept_of_eq hc hm he

section Uncorrectable

variable {s : State} {i : Instr} {k : Nat} (h : exec i s = localUE s k)

include h

/-- An activation that is not replayable traps LOCALUE, after its report where its pattern asks for one (R14, R284). -/
theorem localUE_traps (hr : (curSlot s).replayable = false) :
    exec i s = trap (unreplayable s s.cur.1 s.cur.2 0x10 (BitVec.ofNat 64 k) (curSlot s).pc 0) 0x10 (BitVec.ofNat 64 k) := by
  rw [h]
  unfold localUE
  dsimp only
  rw [hr, if_neg Bool.false_ne_true]
  rfl

theorem localUE_unreported (hr : (curSlot s).replayable = false) (hf : ∀ f, (curSlot s).fired = some f → f.replay = false) :
    traps i s 0x10 (BitVec.ofNat 64 k) := by
  have hn : unreplayable s s.cur.1 s.cur.2 0x10 (BitVec.ofNat 64 k) (curSlot s).pc 0 = s := by
    unfold unreplayable
    refine if_neg ?_
    change ¬((curSlot s).fired.map fun f => f.replay).getD false = true
    cases hs : (curSlot s).fired with
    | none => simp
    | some f => simp [hf f hs]
  exact (localUE_traps h hr).trans (by rw [hn]; rfl)

theorem localUE_enters (hr : (curSlot s).replayable = false) : entersHandler i s 0x10 (BitVec.ofNat 64 k) := by
  have hp := posts_unreplayable s s.cur.1 s.cur.2 0x10 (BitVec.ofNat 64 k) (curSlot s).pc 0
  exact entersHandler_of_trap (localUE_traps h hr) hp.curSlot hp.tvec

theorem localUE_reported (hr : (curSlot s).replayable = false) (hf : ∃ f, (curSlot s).fired = some f ∧ f.replay = true)
    (hs : (curSlot s).sup = false) (ht : (curCore s).tvec ≠ 0) :
    completes i s fun t => reports s t 9 0x10 (BitVec.ofNat 64 k) (curSlot s).pc 0 0 := by
  obtain ⟨f, hf, hrep⟩ := hf
  let r : Report := { kind := 9, cause := 0x10, tval := BitVec.ofNat 64 k, epc := (curSlot s).pc }
  obtain ⟨u, hu⟩ : ∃ u, u = report s s.cur.1 s.cur.2 r := ⟨_, rfl⟩
  have hp : posts s u := hu ▸ posts_report ..
  have hcur := hp.cur
  have hn : unreplayable s s.cur.1 s.cur.2 0x10 (BitVec.ofNat 64 k) (curSlot s).pc 0 = u := by
    rw [hu]
    unfold unreplayable
    refine if_pos ?_
    change ((curSlot s).fired.map fun f => f.replay).getD false = true
    simp [hf, hrep]
  have hexec := localUE_traps h hr
  have hkept := takeTrap_mailKept (t := { cause := 0x10, tval := BitVec.ofNat 64 k, epc := (curSlot s).pc })
    (hp.curSlot ▸ hs : (curSlot u).sup = false) (hp.tvec ▸ ht : (curCore u).tvec ≠ 0)
  have hsame := takeTrap_cur (t := { cause := 0x10, tval := BitVec.ofNat 64 k, epc := (curSlot s).pc })
    (hp.curSlot ▸ hs : (curSlot u).sup = false) (hp.tvec ▸ ht : (curCore u).tvec ≠ 0)
  unfold curCore at hkept
  rw [hn, trap, hcur, hp.curSlot] at hexec
  rw [hcur] at hkept hsame
  exact ⟨_, hexec, reports_of_report (r := r) (hu ▸ hkept) (congrArg Prod.fst hsame)⟩

/-- A replayable activation that runs alone ends: it is redelivered, or reported if it was before (R307). -/
theorem localUE_ends (hr : (curSlot s).replayable = true) (ha : alone s) :
    completes i s fun t =>
      (curSlot t).mode = .closing ∧ (curSlot t).outbox = [] ∧ (curSlot t).pc = (curSlot s).pc ∧ (curSlot t).x = (curSlot s).x ∧
      ((∀ f, (curSlot s).fired = some f → f.returned = false) → gaveBack s t) ∧
      ((∃ f, (curSlot s).fired = some f ∧ f.returned = true) → reports s t 9 0x10 (BitVec.ofNat 64 k) (curSlot s).pc 0 0) := by
  refine ⟨replayError s s.cur.1 s.cur.2 0x10 (BitVec.ofNat 64 k), ?_, ?_⟩
  · rw [h]
    unfold localUE
    dsimp only
    rw [hr, if_pos rfl]
  · by_cases hret : ∃ f, (curSlot s).fired = some f ∧ f.returned = true
    · obtain ⟨-, ⟨v, hv⟩, hrep⟩ := endReported_alone ha hr hret 0x10 (BitVec.ofNat 64 k)
      rw [hv]
      refine ⟨rfl, rfl, rfl, rfl, fun hno => ?_, fun _ => hrep⟩
      obtain ⟨f, hf, hfr⟩ := hret
      exact absurd (hno f hf) (by simp [hfr])
    · have hno : ∀ f, (curSlot s).fired = some f → f.returned = false := fun f hf => by
        by_contra hc
        exact hret ⟨f, hf, by simpa using hc⟩
      obtain ⟨-, ⟨v, hv⟩, hback⟩ := redeliver_alone ha hr hno 0x10 (BitVec.ofNat 64 k)
      beta_reduce
      rw [hv]
      exact ⟨rfl, rfl, rfl, rfl, fun _ => hback, fun hyes => absurd hyes hret⟩

end Uncorrectable

/-- Settles O17: a local load reads its own core's scratchpad, which gives the bytes, corrects a word or finds it uncorrectable. -/
theorem localLoadsGiveTheirBytes : Obligations.LocalLoadsGiveTheirBytes := by
  unfold Obligations.LocalLoadsGiveTheirBytes
  intro s i a b imm rlx n sgn sized e w o c sl sc word done hi hr hc hl
  obtain ⟨-, hn⟩ := exec_loadForm hi
  have hword : w = 0 → wordsOf o n = [word] := fun hw => wordsOf_aligned hn (checkScalar_aligned hc hn hw)
  have hread : ∀ {v : Nat}, readScalar c sl.winbase w o n = .ok (v, c) → done v := fun h => localLoad_done hi hr hc hl rfl h
  have hraw : w = 0 → readScalar c sl.winbase w o n = spadRead c [(o, n)] fun m => readLE m o n := fun hw => if_pos hw
  refine ⟨fun hw hs => ?_, fun hw h4 hs => ?_, fun hw h8 hs => ?_, fun hw hue hce => ?_, fun k hk => ?_⟩
  · exact hread ((hraw hw).trans (spadRead_sound hs _))
  · refine hread ?_
    unfold readScalar
    rw [if_neg hw, h4]
    exact spadRead_sound (by simpa using hs) _
  · refine hread ?_
    unfold readScalar
    rw [if_neg hw, h8]
    exact spadRead_sound (by simpa using hs) _
  · exact localLoad_done hi hr hc hl rfl ((hraw hw).trans (spadRead_corrects (hword hw) hue hce _))
  · have herr : readScalar c sl.winbase w o n = .error k := by
      obtain ⟨hw, hue, rfl⟩ | h := hk
      · exact (hraw hw).trans (spadRead_error (hword hw) hue _)
      · exact h
    have hx := localLoad_error hi hr hc hl herr
    exact ⟨localUE_unreported hx, fun hrep hf => ⟨localUE_enters hx hrep, localUE_reported hx hrep hf⟩, localUE_ends hx⟩

end Sys2Proof.Machine
end

section
/-! SUPPORT. O42: answers that end requests. The clause on snapshots leaves out the messages that wait in the NI (R337), which the same
event places and answers. -/

namespace Sys2Proof.Machine

open Sys2Proof.Terms

/-- A request that its NI holds for ferry 3, with nothing outstanding that it must follow. -/
def heldRead : Req :=
  { uid := 7, seqn := 6, slot := 0, act := 5, op := .read 4, addr := 0x3008, home := .ferry 3, ordered := true, dest := .x 3 4 false,
    cntL := true, cntS := false, cntE := false, status := .held, part := 0, winbase := 0, retAt := 0 }

/-- A report that has come to channel 3 of core 1 and waits in its NI. -/
def waitingReport : SysWait :=
  { src := .core 2
    req := { uid := 9, seq := 0, op := .msg { kind := 2, count := 1, srcCore := 2, chan := 3, dstCore := 1 }, addr := 0, ordered := true,
             head := false, last := false, part := 0, winbase := 0, srcCore := 2, slot := 0, act := 0 } }

/-- Core 1 with both, and room in the channel. -/
def heldBesideReport : State :=
  { cur := (1, 0)
    cores := [(1, { part := some 0, lcore := some 1, reqs := [heldRead], inbox := [waitingReport],
                    chans := [(3, { kind := .fifo, cap := 4, peer := false, code := false, faultCh := none, faultRaw := 0, ovfBase := 0,
                                    ovfSize := 0, nextSeq := 0 })] })]
    parts := [(0, { running := true, clusters := [0] })] }

/-- The event sends the request on, and the acknowledgement of the report after it. -/
theorem snapshotRelease_sendsTwo : ∃ t, exec (.snapshotRelease 1) heldBesideReport = .next t ∧
    t.net.map (fun p => p.dst) = [.ferry 3, .core 2] :=
  ⟨_, rfl, by decide⟩

/-- Refutes O42: where a message waits in the NI, the event that sends a released request also answers that message, so the network does
not gain the request alone. -/
theorem not_answersEndTheirRequests : ¬ Obligations.AnswersEndTheirRequests := by
  unfold Obligations.AnswersEndTheirRequests
  intro h
  obtain ⟨-, -, hsnap⟩ := h heldBesideReport 0 1 .host
  obtain ⟨t, ht, -, -, p, q, hnet, -⟩ := hsnap heldRead rfl rfl (by decide) (by decide) rfl rfl (by decide) (by decide) (.inl ⟨3, rfl⟩)
  obtain ⟨u, hu, htwo⟩ := snapshotRelease_sendsTwo
  have htu : t = u := Host.Outcome.next.inj (ht.symm.trans hu)
  have hnone : heldBesideReport.net = [] := rfl
  rw [← htu, hnet, hnone] at htwo
  simp at htwo

end Sys2Proof.Machine
end

section
/-! SUPPORT. A packet that leaves the network, what follows an answer (spec/16 R278), and a write or a read of the overflow ring that its
answer ends (spec/07 R132, R133). -/

namespace Sys2Proof.Machine

open Sys2Proof.Terms

-- Packets

theorem freeFlits_links (s : State) (p : Packet) : ∃ ls, freeFlits s p = { s with links := ls } := by
  unfold freeFlits
  split
  · exact ⟨_, rfl⟩
  · next path at_ _ =>
    refine foldl_related (fun s t => ∃ ls, t = { s with links := ls }) (fun s => ⟨s.links, rfl⟩) ?_ (fun t i => ?_) at_ s
    · rintro _ _ _ ⟨ls, rfl⟩ ⟨ks, rfl⟩
      exact ⟨ks, rfl⟩
    · split
      · exact ⟨_, rfl⟩
      · exact ⟨_, rfl⟩

/-- A packet that is taken leaves the network, and beside that only link buffers are free again. -/
theorem consumePkt_eq (s : State) (k : Nat) : ∃ ls, consumePkt s k = { s with links := ls, net := without s k } := by
  unfold consumePkt
  split
  · next p _ =>
    obtain ⟨ls, h⟩ := freeFlits_links s p
    exact ⟨ls, by rw [h]; rfl⟩
  · exact ⟨s.links, rfl⟩

-- What follows an answer

theorem settleAway_none {s : State} {x : Nat} (h : (getCore s x).away = []) : settleAway s x = s := by
  unfold settleAway
  rw [h]
  rfl

/-- Parked activations that return change the ready queue only (R298). -/
theorem pushResumes_ready (c : Core) : ∃ r, pushResumes c = { c with ready := r } := by
  refine foldl_related (fun c d : Core => ∃ r, d = { c with ready := r }) (fun c => ⟨c.ready, rfl⟩) ?_ (fun d a => ?_) (returning c) c
  · rintro _ _ _ ⟨r, rfl⟩ ⟨q, rfl⟩
    exact ⟨q, rfl⟩
  · split
    · exact ⟨_, rfl⟩
    · exact ⟨d.ready, rfl⟩

theorem settleNotices_none {s : State} {x : Nat} (h : (getCore s x).notices = []) : settleNotices s x = s := by
  have hp : settlePages s x = s := by
    unfold settlePages
    rw [h]
    rfl
  unfold settleNotices
  dsimp only
  rw [hp, h]
  rfl

/-- Where no notice waits, an answer is followed by changes of the core's ticket table and ready queue only. -/
theorem answered_core {s : State} {x : Nat} (h : (getCore s x).notices = []) :
    ∃ tk r, answered s x = updCore s x fun c => { c with tickets := tk, ready := r } := by
  obtain ⟨tk, hb⟩ : ∃ tk, settleBursts (getCore s x) = { getCore s x with tickets := tk } := ⟨_, rfl⟩
  have hu : updCore s x settleBursts = setCore s x { getCore s x with tickets := tk } := congrArg (setCore s x) hb
  obtain ⟨r, hr⟩ : ∃ r, settleAway (updCore s x settleBursts) x = setCore s x { getCore s x with tickets := tk, ready := r } := by
    rw [hu]
    unfold settleAway
    split
    · exact ⟨(getCore s x).ready, rfl⟩
    · obtain ⟨r, hr⟩ := pushResumes_ready { getCore s x with tickets := tk }
      refine ⟨r, ?_⟩
      rw [updCore, getCore_setCore_self, setCore_setCore, hr]
  refine ⟨tk, r, ?_⟩
  unfold answered
  rw [hr]
  refine settleNotices_none ?_
  rw [getCore_setCore_self]
  exact h

end Sys2Proof.Machine
end

section
/-! SUPPORT. Bodies that start, slots that become free, and what the matcher takes (spec/01 R8 to R15, spec/07 R120 to R129). -/

namespace Sys2Proof.Machine

open Sys2Proof.Terms

-- Starting and releasing

theorem startBody_mail (s : State) (x : Nat) (k : Fin 4) (f : Fired) (rank : Nat) :
    mail { getCore s x with slots := (getCore s x).slots.set k (startSlot s (getSlot s x k) x k f rank) }
      (getCore (startBody s x k f rank) x) := by
  have h := (posts_trace (setSlot s x k fun old => startSlot s old x k f rank) x k 1 f.pat (f.entry + 16) 0).2 x
  rw [getCore_setSlot_self] at h
  exact h

/-- The lowest free slot of a core. -/
theorem freeSlot_lowest {c : Core} {k : Fin 4} (hk : c.slots[k].mode = .free) (hlow : ∀ j : Fin 4, j < k → c.slots[j].mode ≠ .free) :
    freeSlot c = some k := by
  unfold freeSlot
  rw [List.find?_eq_some_iff_getElem]
  refine ⟨beq_iff_eq.mpr hk, k.val, by simp, by simp, fun j hj => ?_⟩
  simpa using hlow ⟨j, by omega⟩ hj

theorem execBodyStart_starts {s : State} {x : Nat} {f : Fired} {rest : List ReadyEnt} {k : Fin 4} (hruns : coreRuns s x = true)
    (hw : wantedBy s x = none) (hready : (getCore s x).ready = .start f :: rest) (hg : f.gang = 0) (ht : f.twin = false)
    (hk : freeSlot (getCore s x) = some k) :
    execBodyStart x s = .next (settleAway (startBody (setCore s x { getCore s x with ready := rest }) x k f 0) x) := by
  unfold execBodyStart
  dsimp only
  rw [if_neg (by simp [hruns, hw]), hready, hk]
  simp [headEntry, hg, ht]

theorem nth_eq_getElem? {α : Type} (l : List α) (n : Nat) : nth l n = l[n]? := by
  induction l generalizing n with
  | nil => rfl
  | cons a l ih => cases n with
    | zero => rfl
    | succ n => exact ih n

/-- The registers that a term fills at body start (R8). -/
theorem startRegs_term (f : Fired) (k : Fin 4) {n j : Nat} (hn : n < 4) (hj : j < 6) :
    (startRegs f k 0)[8 + 6 * n + j] = (nth f.terms n).elim 0 fun e => if j < e.1 then e.2[j] else 0 := by
  have hdiv : (8 + 6 * n + j - 8) / 6 = n := by omega
  have hmod : (8 + 6 * n + j - 8) % 6 = j := by omega
  unfold startRegs
  rw [Vector.getElem_ofFn]
  dsimp only
  split
  · omega
  · omega
  · omega
  · rw [if_neg (by omega), hdiv, hmod]
    cases nth f.terms n with
    | none => rfl
    | some e => simp [nth_eq_getElem?, hj]

theorem execSlotRelease_frees {s : State} {x : Nat} {k : Fin 4} (hm : (getCore s x).slots[k].mode = .closing)
    (hh : (getCore s x).halted = false) (hl : (getCore s x).slots[k].cntL = 0) (hs : (getCore s x).slots[k].cntS = 0)
    (ho : (getCore s x).spillOut = none) (hr : ∀ r ∈ (getCore s x).reqs, ¬(r.slot = k ∧ r.act = (getCore s x).slots[k].actId)) :
    execSlotRelease x k s = .next (setSlot s x k freedSlot) := by
  have hno : ((getCore s x).reqs.any fun r => r.slot == k && r.act == (getCore s x).slots[k].actId) = false := by
    rw [List.any_eq_false]
    intro r hmem hc
    exact hr r hmem (by simpa using hc)
  unfold execSlotRelease
  exact if_pos ⟨hm, hh, hl, hs, hno, by rw [ho]; rfl⟩

-- The matcher

theorem returning_none {c : Core} (h : c.away = []) : returning c = [] := by
  unfold returning
  rw [h]
  rfl

theorem execFire_examines {s : State} {x ch : Nat} (hruns : coreRuns s x = true) (hready : (getCore s x).ready.length < 16)
    (haway : (getCore s x).away = []) (hfit : stolenFits (getCore s x) = false) (hmk : (getCore s x).marked = [ch])
    (hserve : servable (getCore s x) ch = true) :
    (∀ pi p, firstPat (getCore s x) ch = some (pi, p) → execFire x s = .next (firing s x ch pi p)) ∧
      (firstPat (getCore s x) ch = none → execFire x s = .next (setCore s x { getCore s x with marked := [] })) := by
  have hgo : (!coreRuns s x || decide (Config.readyMax ≤ (getCore s x).ready.length) || !(returning (getCore s x)).isEmpty) = false := by
    simp [hruns, returning_none haway, Config.readyMax]; exact decide_eq_false (Nat.not_le.mpr hready)
  refine ⟨fun pi p hp => ?_, fun hp => ?_⟩
  · unfold execFire
    dsimp only
    rw [hgo, if_neg Bool.false_ne_true, hfit, Bool.false_and, if_neg Bool.false_ne_true, hmk]
    simp [hserve, hp]
  · unfold execFire
    dsimp only
    rw [hgo, if_neg Bool.false_ne_true, hfit, Bool.false_and, if_neg Bool.false_ne_true, hmk]
    simp [hserve, hp]

theorem execFire_stolen {s : State} {x : Nat} (hruns : coreRuns s x = true) (hready : (getCore s x).ready.length < 16)
    (haway : (getCore s x).away = []) (hfit : stolenFits (getCore s x) = true) (hout : (getCore s x).spilling = none) :
    execFire x s = .next (placeStolen s x) := by
  have hgo : (!coreRuns s x || decide (Config.readyMax ≤ (getCore s x).ready.length) || !(returning (getCore s x)).isEmpty) = false := by
    simp [hruns, returning_none haway, Config.readyMax]; exact decide_eq_false (Nat.not_le.mpr hready)
  unfold execFire
  dsimp only
  rw [hgo, if_neg Bool.false_ne_true, hfit, if_pos (by simp [stolenOut, hout])]

theorem firstPat_noPats {c : Core} (h : c.pats = []) (ch : Nat) : firstPat c ch = none := by
  unfold firstPat
  rw [List.findSome?_eq_none_iff, h]
  intro i _
  rfl

/-- The examination order of a channel names every pattern (R123). -/
theorem mem_patOrder (c : Core) (ch : Nat) {pi : Nat} (h : pi < 64) : pi ∈ patOrder c ch := by
  unfold patOrder
  split
  · split
    · next x _ =>
      rw [List.mem_map]
      exact ⟨(pi + 64 - (x.last + 1) % 64) % 64, List.mem_range.mpr (by omega), by omega⟩
    · exact List.mem_range.mpr h
  · exact List.mem_range.mpr h

/-- The only pattern of a core is the first that can fire on a channel that it names. -/
theorem firstPat_only {c : Core} {pi : Nat} {p : Pat} {ch : Nat} (hp : c.pats = [(pi, p)]) (hpi : pi < 64) (hch : ch ∈ p.terms)
    (hs : satisfiable c p = true) : firstPat c ch = some (pi, p) := by
  have hval : ∀ i, (tget c.pats i).isSome → i = pi := by
    intro i hi
    by_contra hne
    simp [hp, tget, Ne.symm hne] at hi
  unfold firstPat
  cases hf : (patOrder c ch).findSome? _ with
  | none =>
    have := List.findSome?_eq_none_iff.mp hf pi (mem_patOrder c ch hpi)
    simp [hp, tget, hch, hs] at this
  | some y =>
    obtain ⟨i, -, hi⟩ := List.exists_of_findSome?_eq_some hf
    by_cases he : i = pi
    · subst he
      simpa [hp, tget, hch, hs, eq_comm] using hi
    · simp [hp, tget, Ne.symm he] at hi

-- Firing

/-- What a core is after a firing, up to the senders that wait on its channels. -/
theorem firing_wakes (s : State) (x ch pi : Nat) (p : Pat) :
    wakes { (firePat (getCore s x) pi p ch).1 with
            ready := (firePat (getCore s x) pi p ch).1.ready ++ [.start (firePat (getCore s x) pi p ch).2] }
      (getCore (firing s x ch pi p) x) := by
  unfold firing
  dsimp only
  refine wakes.trans ?_ (wakes_wakeChans ..)
  rw [getCore_setCore_self]
  exact wakes.refl _

/-- A pattern of one term that counts nothing takes its message, and its channel remembers it (R122, R123). -/
theorem firePat_one {c : Core} {pi : Nat} {p : Pat} {ch : Nat} {t : Take} {y : Chan} (hp : p.terms = [ch]) (hqn : p.qn = 0)
    (ht : takeTerm pi p { core := c } ch = t) (hy : tget t.core.chans ch = some y) (hq : ∀ e ∈ t.core.pats, e.2.qn = 0) :
    (firePat c pi p ch).1 = setChan t.core ch { y with last := pi } ∧ (firePat c pi p ch).2.pat = pi ∧
      (firePat c pi p ch).2.entry = p.entry ∧ (firePat c pi p ch).2.terms = t.terms ∧
      (firePat c pi p ch).2.replay = (p.replay || p.twin) ∧ (firePat c pi p ch).2.quorum = 1 := by
  have hf : p.terms.foldl (takeTerm pi p) { core := c } = t := by rw [hp]; exact ht
  unfold firePat
  dsimp only
  rw [hf, hy]
  refine ⟨?_, rfl, rfl, rfl, rfl, if_pos hqn⟩
  simp only [hp, List.foldl_cons, List.foldl_nil, setChan, tget_tset_self]
  exact absorb_noQuorum (c := setChan t.core ch { y with last := pi }) hq _ _

theorem takeTerm_fifo {c : Core} {pi : Nat} {p : Pat} {ch : Nat} {x : Chan} {q : QMsg} {qs : List QMsg} (hqn : p.qn = 0)
    (hx : tget c.chans ch = some x) (hk : x.kind = .fifo) (hq : x.queue = q :: qs) :
    (takeTerm pi p { core := c } ch).core =
        setChan c ch { x with queue := qs, held := if p.replay || p.twin then x.held + 1 else x.held } ∧
      (takeTerm pi p { core := c } ch).terms = [(q.msg.count, q.msg.words)] := by
  unfold takeTerm
  simp only [hx, hqn, hk, hq]
  exact ⟨rfl, rfl⟩

theorem takeTerm_roaming {c : Core} {pi : Nat} {p : Pat} {ch : Nat} {x : Chan} {e : DeqEnt} {d : List DeqEnt} (hqn : p.qn = 0)
    (hx : tget c.chans ch = some x) (hk : x.kind = .roaming) (ht : takeNewest c.deque ch = some (e, d)) :
    (takeTerm pi p { core := c } ch).core =
        setChan { c with deque := d } ch { x with held := if p.replay || p.twin then x.held + 1 else x.held } ∧
      (takeTerm pi p { core := c } ch).terms = [(e.qm.msg.count, e.qm.msg.words)] := by
  unfold takeTerm
  simp only [hx, hqn, hk, ht]
  exact ⟨rfl, rfl⟩

/-- The entry put in last is the newest of its channel. -/
theorem takeNewest_concat (d : List DeqEnt) (e : DeqEnt) : takeNewest (d ++ [e]) e.chan = some (e, d) := by
  simp [takeNewest]

-- Stolen entries

/-- A stolen entry that no pattern fires on enters the deque and marks its channel (R129). -/
theorem placeStolen_enters {s : State} {x : Nat} {d : DeqEnt} (hd : (getCore s x).stolen = some d) (hs : (getCore s x).spilling = none)
    (hp : (getCore s x).pats = []) (hroom : dequeUsed (getCore s x) < 64) :
    placeStolen s x = setCore s x (markChan { getCore s x with deque := (getCore s x).deque ++ [d], stolen := none } d.chan) := by
  have hfit : stolenFits (getCore s x) = true := by simp [stolenFits, hd, Config.dequeMax, hroom]
  have hno : firesStolen (getCore s x) d = false := by
    have hf : firstPat { getCore s x with deque := (getCore s x).deque ++ [d] } d.chan = none := firstPat_noPats (by exact hp) _
    simp [firesStolen, hf]
  unfold placeStolen
  simp only [hd, hfit, hno]
  simp [stolenOut, hs]

/-- A stolen entry that a pattern fires on at once (R129). -/
theorem placeStolen_fires {s : State} {x : Nat} {d : DeqEnt} {pi : Nat} {p : Pat} (hd : (getCore s x).stolen = some d)
    (hs : (getCore s x).spilling = none) (hf : firesStolen (getCore s x) d = true)
    (hp : ∀ c : Core, c.pats = (getCore s x).pats → c.chans = (getCore s x).chans → d ∈ c.deque → firstPat c d.chan = some (pi, p)) :
    placeStolen s x =
      firing (setCore s x (markChan { getCore s x with deque := (getCore s x).deque ++ [d], stolen := none } d.chan)) x d.chan pi p := by
  have hfit : stolenFits (getCore s x) = true := by simp [stolenFits, hd, hf]
  obtain ⟨mk, hmk, -⟩ := markChan_keeps { getCore s x with deque := (getCore s x).deque ++ [d], stolen := none } d.chan
  have hfirst := hp { getCore s x with deque := (getCore s x).deque ++ [d], stolen := none, marked := mk } rfl rfl (by simp)
  unfold placeStolen
  simp only [hd, hfit, hf, hmk, getCore_setCore_self, hfirst]
  simp [stolenOut, hs]

end Sys2Proof.Machine
end

section
/-! SUPPORT. Steal packets, and messages that go to the overflow ring and come back (spec/07 R129, R132, R133). -/

namespace Sys2Proof.Machine

open Sys2Proof.Terms

-- Steal packets

theorem wakeChans_noWaiters {s : State} {x : Nat} (h : ∀ ch y, tget (getCore s x).chans ch = some y → y.waiters = []) (chs : List Nat) :
    wakeChans s x chs = s := by
  induction chs with
  | nil => rfl
  | cons ch chs ih =>
    have hone : wakeWaiters s x ch = s := by
      unfold wakeWaiters
      split
      · rfl
      · next y hy => simp [h ch y hy]
    unfold wakeChans at ih ⊢
    rw [List.foldl_cons]
    cases hy : tget (getCore s x).chans ch with
    | none => exact ih
    | some y =>
      dsimp only
      split
      · rw [hone]
        exact ih
      · exact ih

theorem mem_of_tget {α : Type} {t : Table α} {i : Nat} {v : α} (h : tget t i = some v) : (i, v) ∈ t := by
  induction t with
  | nil => cases h
  | cons e t ih =>
    obtain ⟨k, w⟩ := e
    unfold tget at h
    split at h
    · next hk => cases h; subst hk; exact List.mem_cons_self
    · exact List.mem_cons_of_mem _ (ih h)

/-- A steal request at a core, and the entry it is given (R129). -/
theorem execStealRequest_gives {s : State} {k x : Nat} {src : Endpoint} {chs : List Nat} (h : brings s k src (.core x) (.stealReq chs))
    (hh : (getCore s x).halted = false) (hd : darkCore s x = false) :
    ∃ ls, let s' := { s with links := ls, net := without s k }
      let reply := fun (t : State) (e : Option DeqEnt) => sendPkt t { src := .core x, dst := src, cls := .sys, body := .stealRep e }
      (∀ d, (getCore s x).deque.find? (fun e => chs.contains e.chan) = some d →
        execStealRequest k s = .next (reply (wakeChans (setCore s' x (countEv { getCore s x with deque := (getCore s x).deque.erase d } 9)) x
          (roamingChans (getCore s x))) (some d))) ∧
      ((getCore s x).deque.find? (fun e => chs.contains e.chan) = none → execStealRequest k s = .next (reply s' none)) := by
  obtain ⟨p, hp, rfl, hdst, hbody⟩ := h
  obtain ⟨ls, hls⟩ := consumePkt_eq s k
  have hdark : darkCore (consumePkt s k) x = false := by rw [hls]; exact hd
  refine ⟨ls, ?_⟩
  dsimp only
  rw [← hls]
  refine ⟨fun d hf => ?_, fun hf => ?_⟩
  all_goals
    unfold execStealRequest
    simp only [hp, hdst, hbody]
    rw [hh, hdark, Bool.or_false, if_neg Bool.false_ne_true, hf]

theorem execStealReply_comes {s : State} {k x : Nat} {src : Endpoint} {e : Option DeqEnt} (h : brings s k src (.core x) (.stealRep e)) :
    ∃ ls, let s' := { s with links := ls, net := without s k }
      (e = none → execStealReply k s = .next (setCore s' x { getCore s x with stealOut := false })) ∧
      (∀ d, e = some d → execStealReply k s =
        .next (placeStolen (setCore s' x (countEv { getCore s x with stealOut := false, stolen := some d } 8)) x)) := by
  obtain ⟨p, hp, rfl, hdst, hbody⟩ := h
  obtain ⟨ls, hls⟩ := consumePkt_eq s k
  refine ⟨ls, ?_⟩
  dsimp only
  have hcore : getCore (consumePkt s k) x = getCore s x := by rw [hls]; rfl
  rw [← hls]
  refine ⟨fun he => ?_, fun d he => ?_⟩
  all_goals
    subst he
    unfold execStealReply
    simp only [hp, hdst, hbody]
    simp only [updCore, getCore_setCore_self, setCore_setCore, hcore]

/-- A core that has stolen nothing yet asks its first victim (R129). -/
theorem execSteal_asks {s : State} {x v : Nat} {vs : List Nat} (hruns : coreRuns s x = true) (hout : (getCore s x).stealOut = false)
    (hst : (getCore s x).stolen = none) (hidle : idleCore (getCore s x) = true) (hset : stealSet (getCore s x) ≠ [])
    (hlast : (getCore s x).lastVictim = none) (hvs : stealVictims s x = v :: vs) :
    execSteal x s = .next (sendPkt (setCore s x { getCore s x with lastVictim := some v, stealOut := true })
      { src := .core x, dst := .core v, cls := .sys, body := .stealReq (stealSet (getCore s x)) }) := by
  have hnext : nextVictim (stealVictims s x) (getCore s x).lastVictim = some v := by simp [nextVictim, hlast, hvs]
  have hne : (stealSet (getCore s x)).isEmpty = false := by simpa using hset
  unfold execSteal
  simp only [hruns, hout, hst, hidle, hne, hnext, Option.isSome_none, Bool.not_true, Bool.or_self, Bool.false_eq_true, if_false]

end Sys2Proof.Machine
end

section
/-! SUPPORT. A message that goes to the overflow ring (spec/07 R132, spec/08 R146). -/

namespace Sys2Proof.Machine

open Sys2Proof.Terms

/-- The ring slot of the first message in an empty ring. -/
theorem spillIx_empty {y : Chan} (ho : y.ovf = []) (hs : 0 < y.ovfSize) : spillIx y = y.tail % y.ovfSize := by
  have hmin : min y.ovfSize 1 = 1 := by omega
  simp [spillIx, ho, hmin]

/-- A message for a full pool with an empty ring starts its spill (R132). -/
theorem placeIn_spills {s : State} {x ch : Nat} {y : Chan} (hk : y.kind = .fifo) (hfull : y.cap ≤ y.queue.length + y.held)
    (ho : y.ovf = []) (hs : 0 < y.ovfSize) (hsp : (getCore s x).spilling = none) (hq : ∀ p ∈ (getCore s x).pats, p.2.qn = 0) (q : QMsg)
    (b : Spiller) : placeIn s x ch y q b = .spilling (startSpill s x ch y q none b) := by
  have hquo : quorumOf (getCore s x) ch = none := by
    rw [quorumOf, List.find?_eq_none]
    intro p hp
    simp [hq p hp]
  have hroom : ringRoom y = true := by simp [ringRoom, ho, hs]
  have hpool : decide (poolUsed y < y.cap) = false := decide_eq_false (by unfold poolUsed; omega)
  unfold placeIn
  simp only [hquo, hk, hpool, hroom, hsp]
  simp

/-- No code of R146 applies to the message. -/
theorem refusal_none {s : State} {x : Nat} {m : Msg} {part : Nat} {y : Chan} (own : Bool) (hy : tget (getCore s x).chans m.chan = some y)
    (hgone : ∀ p, (getCore s x).part = some p → (getPart s p).gone = false) (hpeer : (getCore s x).part = some part ∨ y.peer = true)
    (hkind : m.kind ≠ 1) (hgang : m.gang = false) : refusal s x m part own = none := by
  have hg : ((getCore s x).part.any fun p => (getPart s p).gone) = false := by
    cases hp : (getCore s x).part with
    | none => rfl
    | some p => exact hgone p hp
  have hdeny : (!own && !y.peer && part != fwPart && (getCore s x).part != some part) = false := by
    obtain h | h := hpeer
    · simp [h]
    · simp [h]
  unfold refusal
  simp only [hg, hy, hdeny, hgang]
  simp [hkind]

/-- What a home without source entries is after a packet's HEAD mark: the same (R278). -/
theorem coreHead_noSrcs {s : State} {x : Nat} {src : Endpoint} {r : ReqPkt} (h : (getCore s x).srcs = []) :
    ∃ cs, coreHead s x src r = { s with cores := cs } ∧ getCore (coreHead s x src r) x = getCore s x := by
  unfold coreHead
  split
  · refine ⟨_, rfl, ?_⟩
    rw [getCore_updCore_self, h]
    change { getCore s x with srcs := [] } = getCore s x
    rw [← h]
  · exact ⟨s.cores, rfl, rfl⟩

theorem darkCore_lit {s : State} {x : Nat} (h : ∀ p, (getCore s x).part = some p → (getPart s p).dark = false) : darkCore s x = false := by
  unfold darkCore
  cases hp : (getCore s x).part with
  | none => rfl
  | some p => simp [h p hp]

section Arrival

variable {s : State} {x : Nat} {src : Endpoint} {r : ReqPkt} {m : Msg} {y : Chan} (hdst : m.dstCore = coreNumber s x)
  (hsrcs : (getCore s x).srcs = []) (hsp : (getCore s x).spilling = none) (hkind : m.kind ≠ 1) (hgang : m.gang = false)
  (hpart : ∀ p, (getCore s x).part = some p → (getPart s p).dark = false ∧ (getPart s p).gone = false)
  (hpeer : (getCore s x).part = some r.part ∨ y.peer = true) (hy : tget (getCore s x).chans m.chan = some y) (hk : y.kind = .fifo)
  (hfull : y.cap ≤ y.queue.length + y.held) (ho : y.ovf = []) (hs : 0 < y.ovfSize) (hq : ∀ p ∈ (getCore s x).pats, p.2.qn = 0)

include hsp hkind hgang hpart hpeer hy hk hfull ho hs hq

theorem deliver_spills (own : Bool) (b : Spiller) :
    deliver s x m r.part own src b = .spilling (startSpill s x m.chan y { msg := m, arrival := s.time, part := r.part } none b) := by
  unfold deliver
  simp only [refusal_none own hy (fun p hp => (hpart p hp).2) hpeer hkind hgang, hy, placeIn_spills hk hfull ho hs hsp hq]

include hdst hsrcs

/-- A message that no code refuses and no place takes is left to its spill (R132, R146). -/
theorem messageAt_spills (b : Spiller) :
    messageAt s x src r m b =
      some (startSpill (coreHead s x src r) x m.chan y { msg := m, arrival := s.time, part := r.part } none b, none) := by
  obtain ⟨cs, hhead, hcore⟩ := coreHead_noSrcs (src := src) (r := r) hsrcs
  obtain ⟨u, hu⟩ : ∃ u, u = coreHead s x src r := ⟨_, rfl⟩
  rw [← hu] at hhead hcore
  have hparts : ∀ p, (getCore u x).part = some p → (getPart u p).dark = false ∧ (getPart u p).gone = false := by
    rw [hcore, hhead]
    exact hpart
  have hnum : m.dstCore = coreNumber u x := by
    rw [hdst]
    unfold coreNumber
    rw [hcore]
  have hhold : coreHold (getCore s x) src r = none := by
    unfold coreHold
    rw [hsrcs]
    split <;> rfl
  have hdel := fun own => deliver_spills (s := u) (src := src) (r := r) (by rw [hcore]; exact hsp) hkind hgang hparts (by rw [hcore]; exact hpeer)
    (by rw [hcore]; exact hy) hk hfull ho hs (by rw [hcore]; exact hq) own b
  have htime : u.time = s.time := by rw [hhead]
  have htaken : ∃ v, coreTicket u x src r 0 = some v := by
    unfold coreTicket
    split
    · exact ⟨_, rfl⟩
    · exact ⟨_, by rw [hcore, hsrcs]; rfl⟩
  obtain ⟨v, hv⟩ := htaken
  unfold messageAt
  rw [hhold]
  dsimp only
  rw [hsp, if_neg (by simp), ← hu, darkCore_lit fun p hp => (hparts p hp).1, if_neg Bool.false_ne_true, if_neg (fun h => h.1 hnum), hdel]
  dsimp only
  rw [hv, htime]
  rfl

/-- The message is taken off the network, its spill on its way (R132). -/
theorem execMessageArrival_spills {k : Nat} (h : brings s k src (.core x) (.req r)) (hop : r.op = .msg m) (hfwd : (getCore s x).fwd = [])
    (hmark : (getCore s x).awaitMark = []) (hin : (getCore s x).inbox = []) :
    ∃ u : State, u.net = without s k ∧ getCore u x = getCore s x ∧
      execMessageArrival k s =
        .next (startSpill u x m.chan y { msg := m, arrival := s.time, part := r.part } none (.source src r)) := by
  obtain ⟨p, hp, rfl, hd, hbody⟩ := h
  obtain ⟨ls, hls⟩ := consumePkt_eq s k
  obtain ⟨t, ht⟩ : ∃ t, t = consumePkt s k := ⟨_, rfl⟩
  rw [← ht] at hls
  have hcore : getCore t x = getCore s x := by rw [hls]; rfl
  obtain ⟨cs, hhead, hkept⟩ := coreHead_noSrcs (s := t) (x := x) (src := p.src) (r := r) (by rw [hcore]; exact hsrcs)
  have hat := messageAt_spills (s := t) (x := x) (src := p.src) (r := r) (m := m) (y := y)
    (by rw [hdst, hls]; rfl) (by rw [hcore]; exact hsrcs) (by rw [hcore]; exact hsp) hkind hgang (by rw [hcore, hls]; exact hpart)
    (by rw [hcore]; exact hpeer) (by rw [hcore]; exact hy) hk hfull ho hs (by rw [hcore]; exact hq) (.source p.src r)
  have htime : t.time = s.time := by rw [hls]
  have hwaits : messageWaits (getCore t x) { src := p.src, req := r } = false := by
    rw [hcore]
    simp [messageWaits, waitsAt, inboxHolds, hfwd, hmark, hsp, hin, tget]
  refine ⟨coreHead t x p.src r, by rw [hhead, hls], hkept.trans hcore, ?_⟩
  unfold execMessageArrival
  simp only [hp, hd, hbody, hop, hfwd, tget, Option.isSome_none, Bool.false_eq_true, if_false]
  unfold messageComes takeMessage
  rw [← ht, hwaits, if_neg Bool.false_ne_true]
  simp only [hop]
  unfold messageIn
  rw [hat, htime]
  rfl

end Arrival

end Sys2Proof.Machine
end

section
/-! SUPPORT. Answers to the writes and reads of the overflow ring (spec/07 R132, R133). -/

namespace Sys2Proof.Machine

open Sys2Proof.Terms

-- Answers to BULK accesses

section Bulk

variable {s : State} {k x : Nat} {home : Endpoint} {a : Answer} {b : Bulk} (h : brings s k home (.core x) (.answer b.uid a))
  (hreqs : (getCore s x).reqs = []) (hfills : (getCore s x).fills = []) (hbulks : (getCore s x).bulks = [b])

include h hreqs hfills hbulks

/-- An answer that reaches a core for its only BULK access. -/
theorem bulkReply_only : niReply s k = none ∧ noteReply s k = none ∧ bulkReply s k = some (x, some b, home, a) := by
  obtain ⟨p, hp, rfl, hd, hbody⟩ := h
  refine ⟨?_, ?_, ?_⟩
  · simp [niReply, hp, hd, hbody, hreqs]
  · simp [noteReply, hp, hd, hbody]
  · simp [bulkReply, hp, hd, hbody, hreqs, hfills, hbulks]

theorem bulkReplied_spill {takes : Answer → Bool} (ht : takes a = true) (hk : b.kind = .ovfSpill) :
    bulkReplied s k takes = .next (answered (spillAnswer (consumePkt s k) x b home a) x) := by
  obtain ⟨-, -, hr⟩ := bulkReply_only h hreqs hfills hbulks
  unfold bulkReplied
  simp [hr, ht, hk]

theorem bulkReplied_other {takes : Answer → Bool} (ht : takes a = true) (hk : b.kind ≠ .ovfSpill) :
    bulkReplied s k takes = .next (answered (bulkAnswer (consumePkt s k) x b home a) x) := by
  obtain ⟨-, -, hr⟩ := bulkReply_only h hreqs hfills hbulks
  unfold bulkReplied
  simp [hr, ht, hk]

end Bulk

-- What the end of a spill leaves

theorem rearm_net (s : State) (x : Nat) (m : Msg) : (rearm s x m).net = s.net := by
  unfold rearm
  split
  · split <;> rfl
  · rfl

theorem coreLast_net (s : State) (x : Nat) (src : Endpoint) (r : ReqPkt) : (coreLast s x src r).net = s.net := by
  unfold coreLast
  split <;> rfl

theorem coreLast_core {s : State} {x : Nat} (src : Endpoint) (r : ReqPkt) (h : (getCore s x).srcs = []) :
    getCore (coreLast s x src r) x = getCore s x := by
  unfold coreLast
  split
  · rw [getCore_updCore_self, h]
    change { getCore s x with srcs := [] } = getCore s x
    rw [← h]
  · rfl

theorem answerMsg_net (s : State) (x : Nat) (src : Endpoint) (r : ReqPkt) (m : Msg) (a : Answer) :
    (answerMsg s x src r m a).net = s.net ++ [{ src := .core x, dst := src, cls := .rsp, body := .answer r.uid a }] := by
  unfold answerMsg
  dsimp only
  split
  · split <;> rfl
  · rfl

theorem answerMsg_core (s : State) (x : Nat) (src : Endpoint) (r : ReqPkt) (m : Msg) (a : Answer) (y : Nat) :
    getCore (answerMsg s x src r m a) y = getCore s y := by
  unfold answerMsg
  dsimp only
  split
  · split <;> rfl
  · rfl

/-- Nothing has waited for the end of the spill. -/
theorem spillNext_quiet {s : State} {x : Nat} (hr : (getCore s x).reports = []) (hs : (getCore s x).stolen = none)
    (hi : (getCore s x).inbox = []) : (spillNext s x).net = s.net ∧ getCore (spillNext s x) x = getCore s x := by
  have hsame : { getCore s x with reports := [] } = getCore s x := by rw [← hr]
  have hsend : ∀ p, resendReports s x p = setCore s x (getCore s x) := by
    intro p
    unfold resendReports updCore
    simp only [hr, List.filter_nil, List.foldl_nil, hsame]
  have hplace : placeStolen (setCore s x (getCore s x)) x = setCore s x (getCore s x) := by
    unfold placeStolen
    simp only [getCore_setCore_self, hs]
  have hdrain : drainInbox (setCore s x (getCore s x)) x = setCore s x (getCore s x) := by
    unfold drainInbox
    rw [getCore_setCore_self, hi]
    rfl
  unfold spillNext
  dsimp only
  rw [hsend, hplace, hdrain]
  exact ⟨rfl, getCore_setCore_self ..⟩

/-- The message is in the ring and its source hears of it (R132). -/
theorem spillTaken_source {s : State} {x : Nat} {y : Chan} {p : Spill} {src : Endpoint} {r : ReqPkt} (hcome : p.come = none)
    (hby : p.by_ = .source src r) (hsrcs : (getCore s x).srcs = []) :
    (spillTaken s x y p).net = s.net ++ [{ src := .core x, dst := src, cls := .rsp, body := .answer r.uid .ack }] ∧
      getCore (spillTaken s x y p) x = markChan (countEv (setChan (getCore s x) p.chan (spilled y p)) 7) p.chan := by
  obtain ⟨u, hu⟩ : ∃ u, u = rearm (updCore (updCore s x fun c => countEv (setChan c p.chan (spilled y p)) 7) x fun c => markChan c p.chan) x
    p.out.msg := ⟨_, rfl⟩
  have hnet : u.net = s.net := by rw [hu, rearm_net]; rfl
  have hcore : getCore u x = markChan (countEv (setChan (getCore s x) p.chan (spilled y p)) 7) p.chan := by
    rw [hu, rearm_core, getCore_updCore_self, getCore_updCore_self]
  have hmail := (mail_markChan (countEv (setChan (getCore s x) p.chan (spilled y p)) 7) p.chan)
  have hu0 : (getCore u x).srcs = [] := by rw [hcore, hmail]; exact hsrcs
  have htaken : spillTaken s x y p = answerMsg (coreLast u x src r) x src r p.out.msg .ack := by
    unfold spillTaken tellSpill tellSource
    simp only [hcome, hby]
    rw [hu]
    rfl
  rw [htaken, answerMsg_net, answerMsg_core, coreLast_net, coreLast_core src r hu0, hnet, hcore]
  exact ⟨rfl, rfl⟩

/-- The source of a message whose spill got a ticket is refused with the spill's ticket, and waits for the channel (R133). -/
theorem tellSpill_ticket {s : State} {x : Nat} {q : QMsg} {src : Endpoint} {r : ReqPkt} (hord : r.ordered = false) :
    (tellSpill s x (.source src r) q .ticket).net =
        s.net ++ [{ src := .core x, dst := src, cls := .rsp, body := .answer r.uid (.ticket (spillTicket q.msg.chan) false) }] ∧
      getCore (tellSpill s x (.source src r) q .ticket) x = waitFor (getCore s x) q.msg.chan src := by
  have ht : tellSpill s x (.source src r) q .ticket =
      answerMsg (updCore s x fun c => waitFor c q.msg.chan src) x src r q.msg (.ticket (spillTicket q.msg.chan) false) := by
    unfold tellSpill tellSource coreTicket
    simp [hord]
  rw [ht, answerMsg_net, answerMsg_core, getCore_updCore_self]
  exact ⟨rfl, rfl⟩

theorem recordTicket_tickets (c : Core) (t : BitVec 16) (h : Endpoint) (burst : Option (BitVec 16)) (page : Word) (n : Nat) (k : Fin 4) :
    ∃ tk, recordTicket c t h burst page n k = { c with tickets := tk } := by
  unfold recordTicket
  dsimp only
  split
  · exact ⟨c.tickets, rfl⟩
  · split
    · exact ⟨_, rfl⟩
    · split
      · exact ⟨_, rfl⟩
      · exact ⟨c.tickets, rfl⟩

theorem waitFor_chans (c : Core) (ch : Nat) (e : Endpoint) : ∃ cs, waitFor c ch e = { c with chans := cs } := by
  unfold waitFor
  split
  · split
    · exact ⟨c.chans, rfl⟩
    · exact ⟨_, rfl⟩
  · exact ⟨c.chans, rfl⟩

-- The answer to the write of a spilled message

theorem spillAnswer_ends {s w : State} {x : Nat} {home : Endpoint} {b : Bulk} {a : Answer} {p : Spill} {y : Chan}
    (hw : bulkAnswer s x b home a = w) (hsp : (getCore w x).spilling = some p) (huid : p.uid = b.uid)
    (hy : tget (getCore w x).chans p.chan = some y) (hgen : y.gen = p.gen) :
    let v := setCore w x { getCore w x with spilling := none }
    (a = .ack → spillAnswer s x b home a = spillNext (spillTaken v x y p) x) ∧
      (a ≠ .ack → spillAnswer s x b home a = spillNext (tellSpill v x p.by_ (p.come.getD p.out) .ticket) x) := by
  intro v
  have hf : (tget (getCore w x).chans p.chan).filter (fun z => z.gen == p.gen) = some y := by simp [hy, hgen]
  refine ⟨?_, fun ha => ?_⟩
  · rintro rfl
    unfold spillAnswer
    simp only [hw, hsp, huid, updCore, getCore_setCore_self, hf, ne_eq, not_true_eq_false, if_true, if_false]
    rfl
  · unfold spillAnswer
    simp only [hw, hsp, huid, updCore, getCore_setCore_self, hf, ha, ne_eq, not_true_eq_false, if_false]
    rfl

section Spilled

variable {s : State} {x : Nat} {home src : Endpoint} {b : Bulk} {p : Spill} {y : Chan} {r : ReqPkt} (hbulks : (getCore s x).bulks = [b])
  (hk : b.kind = .ovfSpill) (hsp : (getCore s x).spilling = some p) (huid : p.uid = b.uid) (hcome : p.come = none)
  (hby : p.by_ = .source src r) (hstolen : (getCore s x).stolen = none) (hreports : (getCore s x).reports = [])
  (hinbox : (getCore s x).inbox = []) (hsrcs : (getCore s x).srcs = []) (hy : tget (getCore s x).chans p.chan = some y) (hgen : y.gen = p.gen)

include hbulks hk hsp huid hcome hby hstolen hreports hinbox hsrcs hy hgen

/-- Acknowledged, the message is in the ring, counted, its channel marked, and its source hears of it (R132). -/
theorem spillAnswer_acked :
    (spillAnswer s x b home .ack).net = s.net ++ [{ src := .core x, dst := src, cls := .rsp, body := .answer r.uid .ack }] ∧
      getCore (spillAnswer s x b home .ack) x =
        markChan (countEv (setChan { getCore s x with bulks := [], spilling := none } p.chan (spilled y p)) 7) p.chan := by
  have hw : bulkAnswer s x b home .ack = setCore s x { getCore s x with bulks := [] } := by
    unfold bulkAnswer bulkEnd updCore
    simp [hk, hbulks]
  obtain ⟨v, hv⟩ : ∃ v, v = setCore s x { getCore s x with bulks := [], spilling := none } := ⟨_, rfl⟩
  have hvc : getCore v x = { getCore s x with bulks := [], spilling := none } := by rw [hv, getCore_setCore_self]
  have heq : spillAnswer s x b home .ack = spillNext (spillTaken v x y p) x := by
    have h := (spillAnswer_ends hw (by rw [getCore_setCore_self]; exact hsp) huid (by rw [getCore_setCore_self]; exact hy) hgen).1 rfl
    rw [getCore_setCore_self, setCore_setCore] at h
    rw [hv]
    exact h
  obtain ⟨hnet, hcore⟩ := spillTaken_source (s := v) (x := x) (y := y) hcome hby (by rw [hvc]; exact hsrcs)
  rw [hvc] at hcore
  obtain ⟨mk, hmk, -⟩ := markChan_keeps (countEv (setChan { getCore s x with bulks := [], spilling := none } p.chan (spilled y p)) 7) p.chan
  obtain ⟨hnet', hcore'⟩ := spillNext_quiet (s := spillTaken v x y p) (x := x) (by rw [hcore, hmk]; exact hreports)
    (by rw [hcore, hmk]; exact hstolen) (by rw [hcore, hmk]; exact hinbox)
  rw [heq, hnet', hcore', hnet, hcore, hv]
  exact ⟨rfl, rfl⟩

omit hbulks hk hsrcs in
/-- Ticketed, the spill is refused: its source gets the spill's ticket and waits for the channel (R133). -/
theorem spillAnswer_ticketed (t : BitVec 16) (hord : r.ordered = false) :
    (spillAnswer s x b home (.ticket t false)).net =
        s.net ++ [{ src := .core x, dst := src, cls := .rsp, body := .answer r.uid (.ticket (spillTicket p.out.msg.chan) false) }] ∧
      ∃ c : Core, c.chans = (getCore s x).chans ∧ c.notices = (getCore s x).notices ∧ c.spilling = none ∧
        getCore (spillAnswer s x b home (.ticket t false)) x = waitFor c p.out.msg.chan src := by
  obtain ⟨tk, htk⟩ := recordTicket_tickets (getCore s x) t home b.burst (reqPage b.addr) 0 0
  obtain ⟨w, hw⟩ : ∃ w, bulkAnswer s x b home (.ticket t false) = w := ⟨_, rfl⟩
  obtain ⟨bs, hwc⟩ : ∃ bs, getCore w x = countEv { getCore s x with tickets := tk, bulks := bs } 2 := by
    rw [← hw]
    unfold bulkAnswer
    dsimp only
    rw [getCore_updCore_self, htk]
    exact ⟨_, rfl⟩
  have hwn : w.net = s.net := by rw [← hw]; rfl
  obtain ⟨v, hv⟩ : ∃ v, v = setCore w x { getCore w x with spilling := none } := ⟨_, rfl⟩
  have hvc : getCore v x = countEv { getCore s x with tickets := tk, bulks := bs, spilling := none } 2 := by
    rw [hv, getCore_setCore_self, hwc]
    rfl
  have heq : spillAnswer s x b home (.ticket t false) = spillNext (tellSpill v x (.source src r) p.out .ticket) x := by
    have h := (spillAnswer_ends hw (by rw [hwc]; exact hsp) huid (by rw [hwc]; exact hy) hgen).2 (by simp)
    rw [← hv, hby, hcome] at h
    exact h
  obtain ⟨hnet, hcore⟩ := tellSpill_ticket (s := v) (x := x) (q := p.out) (src := src) hord
  rw [hvc] at hcore
  obtain ⟨c, hc⟩ : ∃ c, c = countEv { getCore s x with tickets := tk, bulks := bs, spilling := none } 2 := ⟨_, rfl⟩
  rw [← hc] at hcore
  obtain ⟨cs, hcs⟩ := waitFor_chans c p.out.msg.chan src
  obtain ⟨hnet', hcore'⟩ := spillNext_quiet (s := tellSpill v x (.source src r) p.out .ticket) (x := x)
    (by rw [hcore, hcs, hc]; exact hreports) (by rw [hcore, hcs, hc]; exact hstolen) (by rw [hcore, hcs, hc]; exact hinbox)
  have hvn : v.net = s.net := by rw [hv]; exact hwn
  rw [heq, hnet', hcore', hnet, hcore, hvn]
  exact ⟨rfl, c, hc ▸ rfl, hc ▸ rfl, hc ▸ rfl, rfl⟩

end Spilled

-- Messages read back

section Back

variable {s : State} {x ch : Nat} {y : Chan} {e : OvfEnt} (hy : tget (getCore s x).chans ch = some y) (hk : y.kind = .fifo)
  (ho : y.ovf = [e]) (hroom : y.queue.length + y.held < y.cap)

include hy hk ho hroom

omit hy ho in
theorem roomToReturn_pool (c : Core) : roomToReturn c ch y e = true := by
  have hp : decide (poolUsed y < y.cap) = true := decide_eq_true hroom
  unfold roomToReturn
  simp only [hk, hp, Bool.true_or]

/-- The read of a spilled message that has room starts (R132). -/
theorem execOverflowReturn_reads (hh : (getCore s x).halted = false) (hb : (getCore s x).bulks = []) :
    execOverflowReturn x ch s =
      .next (sendBulk s x (.ovfReturn ch y.gen e.ix) (y.ovfBase + BitVec.ofNat 64 (64 * e.ix)) (.read 64)) := by
  have hn : nextReturn y = some e := by simp [nextReturn, hk, ho]
  have hout : returnOut (getCore s x) ch = false := by simp [returnOut, hb]
  unfold execOverflowReturn
  simp only [hy, hn, hh, hout, roomToReturn_pool hk hroom]
  rfl

/-- The message that was read is at the end of its channel, which is marked, and its ring is empty (R132). -/
theorem returnRead_enters (hq : ∀ p ∈ (getCore s x).pats, p.2.qn = 0) (bs : List Byte) :
    wakes (markChan (setChan (getCore s x) ch { afterReturn y e with queue := y.queue ++ [⟨msgOf bs, e.arrival, e.returned, e.part⟩] }) ch)
      (getCore (returnRead s x ch y.gen e.ix bs) x) := by
  have hput : returnRead s x ch y.gen e.ix bs = putReturned s x ch y e (msgOf bs) := by
    have hgen : (tget (getCore s x).chans ch).filter (fun z => z.gen == y.gen) = some y := by simp [hy]
    have hfind : y.ovf.find? (fun z => z.ix == e.ix) = some e := by simp [ho]
    unfold returnRead
    simp only [hgen, hfind, roomToReturn_pool hk hroom, if_true]
  have hkind : (afterReturn y e).kind = .fifo := hk
  rw [hput]
  unfold putReturned
  dsimp only
  rw [hkind]
  dsimp only
  refine wakes.trans ?_ (wakes_wakeWaiters _ x ch x)
  rw [getCore_setCore_self, absorb_noQuorum (by exact hq)]
  exact wakes.refl _

end Back

end Sys2Proof.Machine
end

section
/-! SUPPORT. O45: what cores start, match, steal and spill. -/

namespace Sys2Proof.Machine

open Sys2Proof.Terms

theorem startRegs_frame (f : Fired) (k : Fin 4) : (startRegs f k 0)[2] = frameBaseAddr k := by simp [startRegs]
theorem startRegs_info (f : Fired) (k : Fin 4) : (startRegs f k 0)[3] = actInfo f 0 := by simp [startRegs]
theorem startRegs_comb (f : Fired) (k : Fin 4) : (startRegs f k 0)[4] = f.comb := by simp [startRegs]

/-- A body start takes its entry off the ready queue and changes its slot alone (R10). -/
theorem startBody_slots {s : State} {x : Nat} {rest : List ReadyEnt} (k : Fin 4) (f : Fired) (haway : (getCore s x).away = []) :
    let u := startBody (setCore s x { getCore s x with ready := rest }) x k f 0
    settleAway u x = u ∧ (getCore u x).ready = rest ∧
      (∃ s' : State, s'.time = s.time ∧ getSlot u x k = startSlot s' (getSlot s x k) x k f 0) ∧
      ∀ j, j ≠ k → getSlot u x j = getSlot s x j := by
  intro u
  have h := startBody_mail (setCore s x { getCore s x with ready := rest }) x k f 0
  have hslot : getSlot (setCore s x { getCore s x with ready := rest }) x k = getSlot s x k := by
    unfold getSlot; rw [getCore_setCore_self]
  rw [getCore_setCore_self, hslot] at h
  have hs := h.slots
  dsimp only at hs
  refine ⟨settleAway_none (h.away.trans haway), by rw [h], ⟨setCore s x { getCore s x with ready := rest }, rfl, ?_⟩, fun j hj => ?_⟩
  · unfold getSlot
    rw [hs]
    exact Vector.getElem_set_self _
  · unfold getSlot
    rw [hs]
    exact Vector.getElem_set_ne _ _ (by intro e; exact hj (Fin.ext e.symm))

/-- A firing of a pattern with one FIFO term (R121, R122). -/
theorem firing_fifo {s : State} {x ch pi : Nat} {p : Pat} {y : Chan} {q : QMsg} {qs : List QMsg} (hp : (getCore s x).pats = [(pi, p)])
    (hterms : p.terms = [ch]) (hqn : p.qn = 0) (hy : tget (getCore s x).chans ch = some y) (hk : y.kind = .fifo) (hq : y.queue = q :: qs) :
    let t := firing s x ch pi p
    (∃ f : Fired, (getCore t x).ready = (getCore s x).ready ++ [.start f] ∧ f.pat = pi ∧ f.entry = p.entry ∧
      f.terms = [(q.msg.count, q.msg.words)] ∧ f.replay = (p.replay || p.twin) ∧ f.quorum = 1) ∧
    ∃ z : Chan, tget (getCore t x).chans ch = some z ∧ z.queue = qs ∧ z.held = if p.replay || p.twin then y.held + 1 else y.held := by
  intro t
  obtain ⟨hcore, htook⟩ := takeTerm_fifo (p := p) (pi := pi) hqn hy hk hq
  obtain ⟨hc, hpat, hentry, hft, hrep, hquo⟩ := firePat_one (pi := pi) (ch := ch) hterms hqn rfl
    (y := { y with queue := qs, held := if p.replay || p.twin then y.held + 1 else y.held }) (by rw [hcore]; simp [setChan])
    (by rw [hcore]; intro e he; rw [show e = (pi, p) by simpa [setChan, hp] using he]; exact hqn)
  obtain ⟨hrest, hwait⟩ := firing_wakes s x ch pi p
  obtain ⟨ws, hws⟩ := hwait ch
  rw [hc, hcore] at hrest hws
  refine ⟨⟨_, by rw [hrest]; rfl, hpat, hentry, hft.trans htook, hrep, hquo⟩, ?_⟩
  simp only [setChan, tget_tset_self, Option.map_some] at hws
  exact ⟨_, hws, rfl, rfl⟩

/-- The core's only pattern fires at once on a stolen entry of the channel that it names (R129). -/
theorem stolen_fires {s : State} {x pi : Nat} {p : Pat} {e : DeqEnt} {y : Chan} (hst : (getCore s x).stolen = some e)
    (hp : (getCore s x).pats = [(pi, p)]) (hpi : pi < 64) (hterms : p.terms = [e.chan]) (hqn : p.qn = 0)
    (hy : tget (getCore s x).chans e.chan = some y) (hk : y.kind = .roaming) (hready : (getCore s x).ready = [])
    (hs : (getCore s x).spilling = none) (haway : (getCore s x).away = []) (hh : (getCore s x).halted = false)
    (hfree : (getCore s x).slots[(0 : Fin 4)].mode = .free) :
    let t := placeStolen s x
    (getCore t x).deque = (getCore s x).deque ∧ ∃ f : Fired, (getCore t x).ready = [.start f] ∧ f.pat = pi ∧ f.entry = p.entry ∧
      f.terms = [(e.qm.msg.count, e.qm.msg.words)] := by
  intro t
  have hfirst : ∀ c : Core, c.pats = (getCore s x).pats → c.chans = (getCore s x).chans → e ∈ c.deque →
      firstPat c e.chan = some (pi, p) := by
    intro c hcp hcc hcd
    refine firstPat_only (hcp.trans hp) hpi (by simp [hterms]) ?_
    have hany : (c.deque.any fun d => d.chan == e.chan) = true := List.any_eq_true.mpr ⟨e, hcd, by simp⟩
    simp [satisfiable, hterms, termReady, hcc, hy, hqn, hk, hany]
  have hfree' : freeSlot (getCore s x) = some 0 := freeSlot_lowest hfree fun j hj => absurd hj (by omega)
  have hfires : firesStolen (getCore s x) e = true := by
    have hf := hfirst { getCore s x with deque := (getCore s x).deque ++ [e] } rfl rfl (by simp)
    unfold firesStolen
    rw [hf]
    simp [servable, hy, hfree', hready, Config.readyMax, returning_none haway, hh]
  obtain ⟨mk, hmk, -⟩ := markChan_keeps { getCore s x with deque := (getCore s x).deque ++ [e], stolen := none } e.chan
  obtain ⟨u, hu⟩ : ∃ u, u = setCore s x { getCore s x with deque := (getCore s x).deque ++ [e], stolen := none, marked := mk } := ⟨_, rfl⟩
  have huc : getCore u x = { getCore s x with deque := (getCore s x).deque ++ [e], stolen := none, marked := mk } := by
    rw [hu, getCore_setCore_self]
  have ht : t = firing u x e.chan pi p := by
    rw [hu, ← hmk]
    exact placeStolen_fires hst hs hfires hfirst
  have huy : tget (getCore u x).chans e.chan = some y := by rw [huc]; exact hy
  obtain ⟨hcore, htook⟩ := takeTerm_roaming (p := p) (pi := pi) hqn huy hk (by rw [huc]; exact takeNewest_concat ..)
  obtain ⟨hc, hpat, hentry, hft, -, -⟩ := firePat_one (c := getCore u x) (pi := pi) (ch := e.chan) hterms hqn rfl
    (y := { y with held := if p.replay || p.twin then y.held + 1 else y.held }) (by rw [hcore]; simp [setChan])
    (by rw [hcore]; intro d hd; rw [show d = (pi, p) by simpa [setChan, huc, hp] using hd]; exact hqn)
  obtain ⟨hrest, -⟩ := firing_wakes u x e.chan pi p
  rw [hc, hcore, ← ht] at hrest
  refine ⟨by rw [hrest]; rfl, _, ?_, hpat, hentry, hft.trans htook⟩
  rw [hrest]
  simp [setChan, huc, hready]

/-- What a stolen entry that no pattern fires on leaves. -/
theorem placeStolen_entered {s : State} {x : Nat} {d : DeqEnt} (hd : (getCore s x).stolen = some d) (hs : (getCore s x).spilling = none)
    (hp : (getCore s x).pats = []) (hroom : dequeUsed (getCore s x) < 64) :
    let t := placeStolen s x
    t.net = s.net ∧ (getCore t x).deque = (getCore s x).deque ++ [d] ∧ d.chan ∈ (getCore t x).marked ∧ (getCore t x).stolen = none ∧
      (getCore t x).ready = (getCore s x).ready ∧ (getCore t x).stealOut = (getCore s x).stealOut ∧
      (getCore t x).events = (getCore s x).events := by
  intro t
  obtain ⟨mk, hmk, hmem⟩ := markChan_keeps { getCore s x with deque := (getCore s x).deque ++ [d], stolen := none } d.chan
  have ht : t = setCore s x _ := placeStolen_enters hd hs hp hroom
  rw [ht, getCore_setCore_self, hmk]
  exact ⟨rfl, rfl, hmem, rfl, rfl, rfl, rfl⟩

/-- The packet of a BULK access (R188). -/
theorem sendBulk_packet (s : State) (x : Nat) (k : BulkKind) (a : Word) (op : ROp) :
    ∃ (p : Packet) (q : ReqPkt), (sendBulk s x k a op).net = s.net ++ [p] ∧ p.src = .core x ∧ p.dst = .ferry (homeFerry a) ∧ p.cls = .bulk ∧
      p.body = .req q ∧ q.uid = (getCore s x).nextUid ∧ q.op = op ∧ q.addr = a ∧ (k = .ovfSpill → q.part = corePart s x) := by
  refine ⟨_, _, rfl, rfl, rfl, rfl, rfl, rfl, rfl, rfl, fun hk => ?_⟩
  subst hk
  simp [bulkPart, corePart]

/-- The packet of a spill (R132). -/
theorem startSpill_packet (s : State) (x ch : Nat) (y : Chan) (out : QMsg) (come : Option QMsg) (b : Spiller) :
    let a := y.ovfBase + BitVec.ofNat 64 (64 * spillIx y)
    ∃ (p : Packet) (q : ReqPkt), (startSpill s x ch y out come b).net = s.net ++ [p] ∧ p.src = .core x ∧ p.dst = .ferry (homeFerry a) ∧ p.cls = .bulk ∧
      p.body = .req q ∧ q.op = .write (msgBytes out.msg) ∧ q.addr = a ∧ q.part = corePart s x := by
  intro a
  obtain ⟨p, q, hnet, hsrc, hdst, hcls, hbody, -, hop, haddr, hpart⟩ := sendBulk_packet
    (setCore s x { getCore s x with spilling := some { uid := (getCore s x).nextUid, chan := ch, gen := y.gen, ix := spillIx y, out := out,
                                                       come := come, by_ := b } }) x .ovfSpill a (.write (msgBytes out.msg))
  refine ⟨p, q, hnet, hsrc, hdst, hcls, hbody, hop, haddr, (hpart rfl).trans ?_⟩
  simp [corePart]

/-- What follows an answer leaves the network, and of the core all but its ticket table and its ready queue. -/
theorem answered_kept {s : State} {x : Nat} (h : (getCore s x).notices = []) :
    (answered s x).net = s.net ∧ ∃ tk r, getCore (answered s x) x = { getCore s x with tickets := tk, ready := r } := by
  obtain ⟨tk, r, ha⟩ := answered_core h
  refine ⟨by rw [ha]; rfl, tk, r, ?_⟩
  rw [ha, getCore_updCore_self]

theorem getCore_sendPkt (s : State) (p : Packet) (x : Nat) : getCore (sendPkt s p) x = getCore s x := rfl

theorem waitFor_waits {c : Core} {ch : Nat} {y : Chan} (e : Endpoint) (hy : tget c.chans ch = some y) :
    ∃ z : Chan, tget (waitFor c ch e).chans ch = some z ∧ e ∈ z.waiters ∧ z.ovf = y.ovf := by
  unfold waitFor
  rw [hy]
  dsimp only
  split
  · next hc => exact ⟨y, hy, List.contains_iff_mem.mp hc, rfl⟩
  · exact ⟨_, tget_tset_self .., by simp, rfl⟩

section Written

variable {s : State} {k x n : Nat} {home : Endpoint} {a : Answer} {b : Bulk} {p : Spill} {y : Chan} {r : ReqPkt}
  (h : brings s k home (.core x) (.answer b.uid a)) (hb : (getCore s x).bulks = [b]) (hbk : b.kind = .ovfSpill)
  (hsp : (getCore s x).spilling = some p) (huid : p.uid = b.uid) (hcome : p.come = none) (hby : p.by_ = .source (.core n) r)
  (hst : (getCore s x).stolen = none) (hreqs : (getCore s x).reqs = []) (hfills : (getCore s x).fills = [])
  (hnot : (getCore s x).notices = []) (hrep : (getCore s x).reports = []) (hin : (getCore s x).inbox = [])
  (hsrcs : (getCore s x).srcs = []) (hy : tget (getCore s x).chans p.chan = some y) (hgen : y.gen = p.gen)

include h hb hbk hsp huid hcome hby hst hreqs hfills hnot hrep hin hsrcs hy hgen

/-- The acknowledgement of a spill puts its message into the ring and goes on to the source (R132). -/
theorem spillWritten (ha : a = .ack) : completes (.acknowledgement k) s fun t =>
    t.net = without s k ++ [{ src := .core x, dst := .core n, cls := .rsp, body := .answer r.uid .ack }] ∧
    (getCore t x).spilling = none ∧ p.chan ∈ (getCore t x).marked ∧ (getCore t x).events[7] = (getCore s x).events[7] + 1 ∧
    tget (getCore t x).chans p.chan = some (spilled y p) := by
  subst ha
  obtain ⟨hni, hno, -⟩ := bulkReply_only h hreqs hfills hb
  obtain ⟨ls, hls⟩ := consumePkt_eq s k
  obtain ⟨u, hu⟩ : ∃ u, u = consumePkt s k := ⟨_, rfl⟩
  have huc : getCore u x = getCore s x := by rw [hu, hls]; rfl
  obtain ⟨hnet, hcore⟩ := spillAnswer_acked (s := u) (x := x) (home := home) (by rw [huc]; exact hb) hbk (by rw [huc]; exact hsp) huid hcome hby
    (by rw [huc]; exact hst) (by rw [huc]; exact hrep) (by rw [huc]; exact hin) (by rw [huc]; exact hsrcs) (by rw [huc]; exact hy) hgen
  obtain ⟨mk, hmk, hmem⟩ := markChan_keeps
    (countEv (setChan { getCore u x with bulks := [], spilling := none } p.chan (spilled y p)) 7) p.chan
  rw [hmk, huc] at hcore
  obtain ⟨hnet', tk, rd, hcore'⟩ := answered_kept (s := spillAnswer u x b home .ack) (x := x) (by rw [hcore]; exact hnot)
  have hex : exec (.acknowledgement k) s = .next (answered (spillAnswer u x b home .ack) x) := by
    change execAcknowledgement k s = _
    unfold execAcknowledgement
    rw [hni]
    dsimp only
    rw [hno]
    dsimp only
    rw [bulkReplied_spill h hreqs hfills hb (by decide) hbk, hu]
  refine ⟨_, hex, ?_⟩
  dsimp only
  rw [hcore', hcore, hnet', hnet, hu, hls]
  refine ⟨rfl, rfl, hmem, ?_, ?_⟩
  · simp [countEv, setChan]
  · simp [countEv, setChan]

omit hsrcs in
/-- A ticket for the writing of a spill refuses its message with the spill's ticket (R133). -/
theorem spillRefused (hch : p.out.msg.chan = p.chan) {w : BitVec 16} (ha : a = .ticket w false) (hord : r.ordered = false) :
    completes (.ticketAnswer k) s fun t =>
      t.net = without s k ++ [{ src := .core x, dst := .core n, cls := .rsp, body := .answer r.uid (.ticket (spillTicket p.chan) false) }] ∧
      (getCore t x).spilling = none ∧ ∃ z : Chan, tget (getCore t x).chans p.chan = some z ∧ .core n ∈ z.waiters ∧ z.ovf = y.ovf := by
  subst ha
  obtain ⟨hni, hno, -⟩ := bulkReply_only h hreqs hfills hb
  obtain ⟨ls, hls⟩ := consumePkt_eq s k
  obtain ⟨u, hu⟩ : ∃ u, u = consumePkt s k := ⟨_, rfl⟩
  have huc : getCore u x = getCore s x := by rw [hu, hls]; rfl
  obtain ⟨hnet, c, hc1, hc2, hc3, hcore⟩ := spillAnswer_ticketed (s := u) (x := x) (home := home) (b := b) (by rw [huc]; exact hsp) huid hcome
    hby (by rw [huc]; exact hst) (by rw [huc]; exact hrep) (by rw [huc]; exact hin) (by rw [huc]; exact hy) hgen w hord
  rw [huc] at hc1 hc2
  rw [hch] at hcore hnet
  obtain ⟨cs, hcs⟩ := waitFor_chans c p.chan (.core n)
  obtain ⟨z, hz, hmem, hovf⟩ := waitFor_waits (c := c) (.core n) (by rw [hc1]; exact hy)
  obtain ⟨hnet', tk, rd, hcore'⟩ := answered_kept (s := spillAnswer u x b home (.ticket w false)) (x := x)
    (by rw [hcore, hcs]; exact hc2.trans hnot)
  have hex : exec (.ticketAnswer k) s = .next (answered (spillAnswer u x b home (.ticket w false)) x) := by
    change execTicketAnswer k s = _
    unfold execTicketAnswer
    rw [hni]
    dsimp only
    rw [hno]
    dsimp only
    rw [bulkReplied_spill h hreqs hfills hb (takes := isTicket) rfl hbk, hu]
  refine ⟨_, hex, ?_⟩
  dsimp only
  rw [hcore', hcore, hnet', hnet, hu, hls]
  exact ⟨rfl, by rw [hcs]; exact hc3, z, hz, hmem, hovf⟩

end Written

/-- The answer to the read of a spilled message brings it back (R132). -/
theorem spilledReturns {s : State} {k x ch : Nat} {src : Endpoint} {b : Bulk} {y : Chan} {e : OvfEnt} {bs : List Byte}
    (h : brings s k src (.core x) (.answer b.uid (.data bs))) (hb : (getCore s x).bulks = [b]) (hbk : b.kind = .ovfReturn ch y.gen e.ix)
    (hreqs : (getCore s x).reqs = []) (hfills : (getCore s x).fills = []) (hnot : (getCore s x).notices = [])
    (hy : tget (getCore s x).chans ch = some y) (hk : y.kind = .fifo) (ho : y.ovf = [e]) (hroom : y.queue.length + y.held < y.cap)
    (hq : ∀ p ∈ (getCore s x).pats, p.2.qn = 0) : completes (.loadResponse k) s fun t =>
      (getCore t x).bulks = [] ∧ ch ∈ (getCore t x).marked ∧ ∃ z : Chan, tget (getCore t x).chans ch = some z ∧ z.ovf = [] ∧
        z.queue = y.queue ++ [⟨msgOf bs, e.arrival, e.returned, e.part⟩] := by
  obtain ⟨hni, -, -⟩ := bulkReply_only h hreqs hfills hb
  obtain ⟨ls, hls⟩ := consumePkt_eq s k
  have hcons : getCore (consumePkt s k) x = getCore s x := by rw [hls]; rfl
  obtain ⟨u, hu⟩ : ∃ u, u = setCore (consumePkt s k) x { getCore s x with bulks := [] } := ⟨_, rfl⟩
  have huc : getCore u x = { getCore s x with bulks := [] } := by rw [hu, getCore_setCore_self]
  obtain ⟨v, hv⟩ : ∃ v, v = returnRead u x ch y.gen e.ix bs := ⟨_, rfl⟩
  have hans : bulkAnswer (consumePkt s k) x b src (.data bs) = v := by
    rw [hv, hu]
    unfold bulkAnswer bulkEnd updCore
    simp only [hbk, hcons, hb, List.filter_cons, List.filter_nil, bne_self_eq_false, Bool.false_eq_true, if_false]
  have hwk := returnRead_enters (s := u) (x := x) (by rw [huc]; exact hy) hk ho hroom (by rw [huc]; exact hq) bs
  obtain ⟨mk, hmk, hmem⟩ := markChan_keeps (setChan (getCore u x) ch
    { afterReturn y e with queue := y.queue ++ [⟨msgOf bs, e.arrival, e.returned, e.part⟩] }) ch
  rw [hmk, ← hv, huc] at hwk
  obtain ⟨hrest, hwait⟩ := hwk
  obtain ⟨ws, hws⟩ := hwait ch
  obtain ⟨-, tk, rd, hcore⟩ := answered_kept (s := v) (x := x) (by rw [hrest]; exact hnot)
  have hex : exec (.loadResponse k) s = .next (answered v x) := by
    change execLoadResponse k s = _
    unfold execLoadResponse
    rw [hni]
    dsimp only
    rw [bulkReplied_other h hreqs hfills hb (takes := isData) rfl (by simp [hbk]), hans]
  refine ⟨_, hex, ?_⟩
  dsimp only
  rw [hcore]
  refine ⟨by rw [hrest]; rfl, by rw [hrest]; exact hmem, { afterReturn y e with queue := _, waiters := ws }, ?_, ?_, rfl⟩
  · refine hws.trans ?_
    simp [setChan]
  · simp [afterReturn, ho]

/-- Settles O45, event by event. -/
theorem coresStartMatchAndSteal : Obligations.CoresStartMatchAndSteal := by
  unfold Obligations.CoresStartMatchAndSteal
  intro s x c
  refine ⟨?start, ?release, ?fire, ?enters, ?steal, ?asked, ?reply, ?fires, ?spill, ?wrote, ?back⟩
  case start =>
    intro f rest k hruns hw hready hg ht haway hdbg hk hlow
    have hex := execBodyStart_starts hruns hw hready hg ht (freeSlot_lowest hk hlow)
    obtain ⟨hset, hrest, ⟨s', -, hslot⟩, hother⟩ := startBody_slots (rest := rest) k f haway
    rw [hset] at hex
    refine ⟨_, hex, ?_⟩
    dsimp only
    rw [hslot]
    refine ⟨hrest, rfl, rfl, startRegs_frame f k, startRegs_comb f k, ?_, fun n j hn hj => ?_, rfl, rfl, rfl, rfl, rfl, rfl, rfl, rfl, rfl, rfl, rfl, rfl, rfl, rfl, rfl,
      hother⟩
    · refine (startRegs_info f k).trans ?_
      simp [actInfo, boolBit]
    · refine (startRegs_term f k hn hj).trans ?_
      cases nth f.terms n <;> rfl
  case release =>
    intro k hm hh hl hs ho hr
    have hslot : getSlot (setSlot s x k freedSlot) x k = freedSlot c.slots[k] := getSlot_setSlot_self ..
    refine ⟨_, execSlotRelease_frees hm hh hl hs ho hr, ?_⟩
    dsimp only
    rw [hslot]
    exact ⟨rfl, rfl, rfl, fun j hj => getSlot_setSlot_of_ne s x freedSlot hj, rfl⟩
  case fire =>
    intro ch hruns hready haway hfit hmk
    refine ⟨fun pi p y q qs hp hpi hterms hqn hy hk hq => ?_, fun y hp hy hk => ?_⟩
    · have hserve : servable c ch = true := by simp [servable, hy, hk]
      have hsat : satisfiable c p = true := by simp [satisfiable, hterms, termReady, hy, hqn, hk, hq]
      have hfirst := firstPat_only hp hpi (ch := ch) (by simp [hterms]) hsat
      obtain ⟨hf, z, hz, hzq, hzh⟩ := firing_fifo hp hterms hqn hy hk hq
      refine ⟨_, (execFire_examines hruns hready haway hfit hmk hserve).1 pi p hfirst, hf, ?_, ?_⟩
      · rw [hz, Option.map_some, hzq]
      · rw [hz, Option.map_some, hzh]
    · have hserve : servable c ch = true := by simp [servable, hy, hk]
      refine ⟨_, (execFire_examines hruns hready haway hfit hmk hserve).2 (firstPat_noPats hp ch), ?_, ?_⟩ <;>
        rw [getCore_setCore_self]
  case enters =>
    intro d hruns hready haway hd hs hp hroom
    have hfit : stolenFits c = true := by simp [stolenFits, hd, Config.dequeMax, hroom]
    obtain ⟨-, hdeq, hmem, hnone, hsame, -, -⟩ := placeStolen_entered hd hs hp hroom
    exact ⟨_, execFire_stolen hruns hready haway hfit hs, hdeq, hmem, hnone, hsame⟩
  case steal =>
    intro v vs hruns hout hst hidle hset hlast hvs
    refine ⟨_, execSteal_asks hruns hout hst hidle hset hlast hvs, ?_⟩
    dsimp only
    rw [getCore_sendPkt, getCore_setCore_self]
    exact ⟨rfl, rfl, rfl⟩
  case asked =>
    intro k src chs h hh hd hw
    have hwait : ∀ ch y, tget c.chans ch = some y → y.waiters = [] := fun ch y hy => hw _ (mem_of_tget hy)
    obtain ⟨ls, hgive, hnone⟩ := execStealRequest_gives h hh hd
    refine ⟨fun d rest hdeq hch => ?_, fun hno => ?_⟩
    · have hfind : c.deque.find? (fun e => chs.contains e.chan) = some d := by simp [hdeq, hch]
      refine ⟨_, hgive d hfind, ?_⟩
      dsimp only
      rw [wakeChans_noWaiters (by rw [getCore_setCore_self]; exact hwait), getCore_sendPkt, getCore_setCore_self]
      refine ⟨?_, ?_, rfl⟩
      · change c.deque.erase d = rest
        simp [hdeq]
      · simp [countEv, c]
    · have hfind : c.deque.find? (fun e => chs.contains e.chan) = none := by simpa [List.find?_eq_none] using hno
      exact ⟨_, hnone hfind, rfl, rfl⟩
  case reply =>
    intro k src d h hs hst hp hroom
    obtain ⟨ls, hno, hcome⟩ := execStealReply_comes h
    cases d with
    | none =>
      refine ⟨_, hno rfl, ?_⟩
      dsimp only
      rw [getCore_setCore_self]
      exact ⟨rfl, rfl, rfl⟩
    | some e =>
      obtain ⟨hnet, hdeq, hmem, -, -, hsame, hev⟩ := placeStolen_entered (s := setCore { s with links := ls, net := without s k } x
        (countEv { c with stealOut := false, stolen := some e } 8)) (x := x) (d := e) (by rw [getCore_setCore_self]; rfl)
        (by rw [getCore_setCore_self]; exact hs) (by rw [getCore_setCore_self]; exact hp) (by rw [getCore_setCore_self]; exact hroom)
      rw [getCore_setCore_self] at hdeq hsame hev
      refine ⟨_, hcome e rfl, hnet, hsame, hdeq, hmem, ?_⟩
      rw [hev]
      simp [countEv, c]
  case fires =>
    intro k src e pi p y h hp hpi hterms hqn hy hk hready hs haway hh hfree
    obtain ⟨ls, -, hcome⟩ := execStealReply_comes h
    obtain ⟨hdeq, f, hf⟩ := stolen_fires (s := setCore { s with links := ls, net := without s k } x
      (countEv { c with stealOut := false, stolen := some e } 8)) (x := x) (by rw [getCore_setCore_self]; rfl)
      (by rw [getCore_setCore_self]; exact hp) hpi hterms hqn (by rw [getCore_setCore_self]; exact hy) hk
      (by rw [getCore_setCore_self]; exact hready) (by rw [getCore_setCore_self]; exact hs) (by rw [getCore_setCore_self]; exact haway)
      (by rw [getCore_setCore_self]; exact hh) (by rw [getCore_setCore_self]; exact hfree)
    rw [getCore_setCore_self] at hdeq
    exact ⟨_, hcome e rfl, hdeq, f, hf⟩
  case spill =>
    intro k src r m y h hop hdst hfwd hmark hin hsrcs hs hkind hgang hpart hpeer hy hk hfull ho hsize hq i a
    obtain ⟨u, hnet, hcore, hex⟩ := execMessageArrival_spills hdst hsrcs hs hkind hgang hpart hpeer hy hk hfull ho hsize hq h hop hfwd hmark hin
    obtain ⟨hspill, hchans, hbulks⟩ := startSpill_core u x m.chan y ⟨m, s.time, false, r.part⟩ none (.source src r)
    obtain ⟨p, q, hpn, hp⟩ := startSpill_packet u x m.chan y ⟨m, s.time, false, r.part⟩ none (.source src r)
    rw [hcore, spillIx_empty ho hsize] at hspill hbulks
    rw [spillIx_empty ho hsize] at hp
    refine ⟨_, hex, hspill, hbulks, hchans.trans (by rw [hcore]), p, q, by rw [hpn, hnet], ?_⟩
    obtain ⟨hsrc, hpd, hcls, hbody, hqop, haddr, hqp⟩ := hp
    refine ⟨hsrc, hpd, hcls, hbody, hqop, haddr, hqp.trans ?_⟩
    unfold corePart
    rw [hcore]
  case wrote =>
    intro k home b p y n r hb hbk hsp huid hcome hby hst hreqs hfills hnot hrep hin hsrcs haway hy hgen hch
    exact ⟨fun h => spillWritten h hb hbk hsp huid hcome hby hst hreqs hfills hnot hrep hin hsrcs hy hgen rfl,
      fun w h hord => spillRefused h hb hbk hsp huid hcome hby hst hreqs hfills hnot hrep hin hy hgen hch rfl hord⟩
  case back =>
    intro ch y e hh hy hk ho hroom hq a
    refine ⟨fun hb => ?_, fun k src b bs hb hbk hreqs hfills hnot h => ?_⟩
    · obtain ⟨p, q, hnet, hsrc, hdst, hcls, hbody, huid, hop, haddr, -⟩ := sendBulk_packet s x (.ovfReturn ch y.gen e.ix) a (.read 64)
      have hcore := sendBulk_core s x (.ovfReturn ch y.gen e.ix) a (.read 64)
      refine ⟨_, execOverflowReturn_reads hy hk ho hroom hh hb, ?_, ?_, p, q, hnet, hsrc, hdst, hcls, hbody, huid, hop, haddr⟩
      · rw [hcore, hb]
        rfl
      · rw [hcore]
    · exact spilledReturns h hb hbk hreqs hfills hnot hy hk ho hroom hq

end Sys2Proof.Machine
end

section
/-! SUPPORT. Prefix chains (O1, O2): what the decoder has read of a chain in order, and where it refuses one (spec/03 R36, R37). -/

namespace Sys2Proof.Machine

open Sys2Proof.Terms

-- The chain read so far

/-- What the decoder holds once it has read these prefixes. -/
def prefixChain (ps : List Half) : Chain := ps.foldl (fun k p => k.add p.toNat) {}

theorem prefixChain_concat (ps : List Half) (p : Half) : prefixChain (ps ++ [p]) = (prefixChain ps).add p.toNat := by
  simp [prefixChain]

theorem prefixRank_eq (p : Half) : prefixRank (p.toNat / 512 % 4) = prefixPlace p := rfl

theorem prefixPlace_bounds (p : Half) : 1 ≤ prefixPlace p ∧ prefixPlace p ≤ 4 := by
  unfold prefixPlace
  split <;> decide

theorem prefixPlace_eq_one (p : Half) : prefixPlace p = 1 ↔ p.toNat / 512 % 4 = 2 := by
  unfold prefixPlace
  split <;> simp_all

theorem chainAdd_n (k : Chain) (h : Nat) : (k.add h).n = k.n + 1 := by
  unfold Chain.add
  dsimp only
  split <;> rfl

theorem chainAdd_rank (k : Chain) (p : Half) : (k.add p.toNat).rank = prefixPlace p := by
  rw [← prefixRank_eq]
  unfold Chain.add
  dsimp only
  split <;> rfl

/-- A PAGE prefix gives the page and MOD6, any other leaves them (R36). -/
theorem chainAdd_page (k : Chain) (p : Half) :
    (prefixPlace p = 1 → (k.add p.toNat).page = p.toNat / 64 % 8 ∧ (k.add p.toNat).mod6 = p.toNat % 64) ∧
      (prefixPlace p ≠ 1 → (k.add p.toNat).page = k.page ∧ (k.add p.toNat).mod6 = k.mod6) := by
  simp only [ne_eq, prefixPlace_eq_one]
  unfold Chain.add
  dsimp only
  split <;> simp_all

theorem prefixChain_n (ps : List Half) : (prefixChain ps).n = ps.length := by
  induction ps using List.reverseRecOn with
  | nil => rfl
  | append_singleton ps p ih => rw [prefixChain_concat, chainAdd_n, ih, List.length_append, List.length_singleton]

-- Chains in order

theorem inOrder_concat {ps : List Half} {p : Half} :
    inOrder (ps ++ [p]) ↔
      inOrder ps ∧ ∀ q ∈ ps, prefixPlace q < prefixPlace p ∨ (prefixPlace q = 4 ∧ prefixPlace p = 4) := by
  simp [inOrder, List.pairwise_append]

/-- In a chain in order the last prefix has the highest place. -/
theorem prefixPlace_le_rank {ps : List Half} (ho : inOrder ps) {p : Half} (hp : p ∈ ps) : prefixPlace p ≤ (prefixChain ps).rank := by
  induction ps using List.reverseRecOn with
  | nil => cases hp
  | append_singleton ps q _ =>
    rw [prefixChain_concat, chainAdd_rank]
    obtain hp | hp := List.mem_append.mp hp
    · have := (inOrder_concat.mp ho).2 p hp
      omega
    · rw [List.mem_singleton.mp hp]

theorem rank_mem (ps : List Half) : (prefixChain ps).rank = 0 ∨ ∃ p ∈ ps, (prefixChain ps).rank = prefixPlace p := by
  induction ps using List.reverseRecOn with
  | nil => exact .inl rfl
  | append_singleton ps q _ => exact .inr ⟨q, by simp, by rw [prefixChain_concat, chainAdd_rank]⟩

/-- A prefix that may not follow the prefixes before it: it stands after one of a later place, or is a second PAGE, REG or EXT (R37). -/
def misplaced (ps : List Half) (q : Half) : Prop :=
  ∃ p ∈ ps, prefixPlace q < prefixPlace p ∨ (prefixPlace q = prefixPlace p ∧ prefixPlace q < 4)

/-- The decoder compares with the last prefix alone, and that is enough. -/
theorem misplaced_iff {ps : List Half} (ho : inOrder ps) (q : Half) :
    misplaced ps q ↔ prefixPlace q < (prefixChain ps).rank ∨ (prefixPlace q = (prefixChain ps).rank ∧ prefixPlace q < 4) := by
  constructor
  · rintro ⟨p, hp, h⟩
    have := prefixPlace_le_rank ho hp
    omega
  · intro h
    have hq := (prefixPlace_bounds q).1
    obtain h0 | ⟨p, hp, hr⟩ := rank_mem ps
    · omega
    · exact ⟨p, hp, by rwa [hr] at h⟩

theorem not_misplaced_of_inOrder {ps : List Half} {q : Half} (ho : inOrder (ps ++ [q])) : ¬ misplaced ps q := by
  rintro ⟨p, hp, h⟩
  have := (inOrder_concat.mp ho).2 p hp
  omega

/-- The PAGE prefix of a chain in order stands first, so it is the one whose payload the chain holds. -/
theorem prefixChain_page {ps : List Half} (ho : inOrder ps) :
    (prefixChain ps).page = pagePayload ps / 64 ∧ (prefixChain ps).mod6 = pagePayload ps % 64 := by
  induction ps using List.reverseRecOn with
  | nil => exact ⟨rfl, rfl⟩
  | append_singleton ps p ih =>
    obtain ⟨ho, hlast⟩ := inOrder_concat.mp ho
    obtain ⟨hpage, hother⟩ := chainAdd_page (prefixChain ps) p
    rw [prefixChain_concat]
    by_cases hp : prefixPlace p = 1
    · have hnil : ps = [] := List.eq_nil_iff_forall_not_mem.mpr fun q hq => by
        have := hlast q hq
        have := (prefixPlace_bounds q).1
        omega
      obtain ⟨h1, h2⟩ := hpage hp
      have hpay : pagePayload (ps ++ [p]) = p.toNat % 512 := by simp [pagePayload, hnil, hp]
      rw [h1, h2, hpay]
      omega
    · have hpay : pagePayload (ps ++ [p]) = pagePayload ps := by simp [pagePayload, List.find?_append, hp]
      obtain ⟨h1, h2⟩ := hother hp
      rw [h1, h2, hpay]
      exact ih ho

-- One halfword read

theorem isPrefix_iff (q : Half) : isPrefix q = true ↔ q.toNat / 2048 = 31 := by simp [isPrefix]

/-- A prefix is refused as a fifth one or where its place is wrong, or else read (R37). -/
theorem readChain_prefix (k : Chain) {q : Half} (hq : isPrefix q = true) (rest : List Half) :
    readChain k (q :: rest) =
      if k.n = 4 ∨ prefixPlace q < k.rank ∨ (prefixPlace q = k.rank ∧ prefixPlace q < 4) then
        .error ⟨.badPrefix, tvalDecode q.toNat k.n k.mod6 k.page⟩
      else readChain (k.add q.toNat) rest := by
  rw [readChain]
  exact if_pos ((isPrefix_iff q).mp hq)

theorem readChain_base (k : Chain) {q : Half} (hq : isPrefix q = false) (rest : List Half) :
    readChain k (q :: rest) = .ok (k.finish q.toNat) := by
  rw [readChain]
  refine if_neg fun h => ?_
  rw [(isPrefix_iff q).mpr h] at hq
  cases hq

/-- At most four prefixes in order are read (R37). -/
theorem readChain_inOrder {ps : List Half} (hp : ∀ p ∈ ps, isPrefix p = true) (ho : inOrder ps) (hl : ps.length ≤ 4) (rest : List Half) :
    readChain {} (ps ++ rest) = readChain (prefixChain ps) rest := by
  induction ps using List.reverseRecOn generalizing rest with
  | nil => rfl
  | append_singleton ps p ih =>
    rw [List.length_append, List.length_singleton] at hl
    have hgood := (misplaced_iff (inOrder_concat.mp ho).1 p).not.mp (not_misplaced_of_inOrder ho)
    rw [List.append_assoc, ih (fun q hq => hp q (by simp [hq])) (inOrder_concat.mp ho).1 (by omega), List.singleton_append,
      readChain_prefix _ (hp p (by simp)), if_neg (by rw [prefixChain_n]; omega), prefixChain_concat]

-- What follows a chain in order

section Follows

variable {ps : List Half} (hp : ∀ p ∈ ps, isPrefix p = true) (ho : inOrder ps) (hl : ps.length ≤ 4) (q : Half) (rest : List Half)

include hp ho hl

/-- A fifth prefix, and one in the wrong place, are refused where they stand (R37, R45). -/
theorem decode_badPrefix (hq : isPrefix q = true) (hbad : ps.length = 4 ∨ misplaced ps q) :
    decode (ps ++ q :: rest) =
      .error ⟨.badPrefix, tvalDecode q.toNat ps.length (pagePayload ps % 64) (pagePayload ps / 64)⟩ := by
  obtain ⟨hpage, hmod⟩ := prefixChain_page ho
  rw [misplaced_iff ho] at hbad
  unfold decode
  rw [readChain_inOrder hp ho hl, readChain_prefix _ hq, prefixChain_n, if_pos hbad, hpage, hmod]

/-- After a chain in order the base word alone decides (R37). -/
theorem readChain_follows (hq : isPrefix q = false) :
    readChain {} (ps ++ q :: rest) = .ok ((prefixChain ps).finish q.toNat) := by
  rw [readChain_inOrder hp ho hl, readChain_base _ hq]

/-- Fields that name an instruction are accepted (R47). -/
theorem decode_accepts (hq : isPrefix q = false) {i : Instr} (hi : decodeFields ((prefixChain ps).finish q.toNat) = some i) :
    decode (ps ++ q :: rest) = .ok (i, ps.length + 1) := by
  unfold decode
  rw [readChain_follows hp ho hl q rest hq]
  dsimp only
  rw [hi, ← prefixChain_n ps]
  rfl

/-- Fields that name none are ILLEGAL, with the base word in the tval (R45, R48). -/
theorem decode_illegal (hq : isPrefix q = false) (hnone : decodeFields ((prefixChain ps).finish q.toNat) = none) :
    decode (ps ++ q :: rest) = .error ⟨.illegal, tvalDecode q.toNat ps.length (pagePayload ps % 64) (pagePayload ps / 64)⟩ := by
  have hbase : ((prefixChain ps).finish q.toNat).base = q.toNat := by
    unfold Fields.base Chain.finish
    dsimp only
    omega
  obtain ⟨hpage, hmod⟩ := prefixChain_page ho
  unfold decode
  rw [readChain_follows hp ho hl q rest hq]
  dsimp only
  rw [hnone, hbase, ← prefixChain_n ps, ← hpage, ← hmod]
  rfl

theorem decode_ne_badPrefix (hq : isPrefix q = false) (tv : BitVec 28) : decode (ps ++ q :: rest) ≠ .error ⟨.badPrefix, tv⟩ := by
  cases h : decodeFields ((prefixChain ps).finish q.toNat) with
  | some i => simp [decode_accepts hp ho hl q rest hq h]
  | none => simp [decode_illegal hp ho hl q rest hq h]

end Follows

theorem decodeFields_page3 {x : Fields} (h : x.page = 3) : decodeFields x = none := by
  simp [decodeFields, h]

theorem decodeFields_major0 {x : Fields} (h : x.page = 0) (hm : x.m = 0) : decodeFields x = none := by
  simp [decodeFields, decPage0, h, hm]

end Sys2Proof.Machine
end

section
/-! SUPPORT. What the decoder accepts (O2): the fields a chain can give, the range of an immediate, and for each form of the opcode map the
instructions it gives (spec/03 R34 to R41, R47). -/

namespace Sys2Proof.Machine

-- The fields of a chain that is read

/-- What holds of the prefixes read so far: at most four, each IMM of nine bits, and no bit 4 of A or B without a REG. -/
structure ChainRead (k : Chain) : Prop where
  n_le : k.n ≤ 4
  imms_length : k.imms.length ≤ k.n
  imms_lt : ∀ i ∈ k.imms, i < 512
  low : k.c = none → k.a4 = 0 ∧ k.b4 = 0

/-- What holds of the fields of a whole chain. -/
structure FieldsRead (x : Fields) : Prop where
  npre_le : x.npre ≤ 4
  imms_length : x.imms.length ≤ 4
  imms_lt : ∀ i ∈ x.imms, i < 512
  f_lt : x.f < 8
  low : x.hasReg = false → x.a < 16 ∧ x.b < 16

theorem chainRead_add {k : Chain} (hk : ChainRead k) (hn : k.n < 4) (h : Nat) : ChainRead (k.add h) := by
  obtain ⟨_, hlen, hlt, hlow⟩ := hk
  unfold Chain.add
  dsimp only
  split
  · exact ⟨hn, by dsimp only; omega, hlt, hlow⟩
  · exact ⟨hn, by dsimp only; omega, hlt, by simp⟩
  · exact ⟨hn, by dsimp only; omega, hlt, hlow⟩
  · refine ⟨hn, by simpa using hlen, fun i hi => ?_, hlow⟩
    obtain hi | hi := List.mem_append.mp hi
    · exact hlt i hi
    · rw [List.mem_singleton.mp hi]
      omega

theorem fieldsRead_finish {k : Chain} (hk : ChainRead k) (h : Nat) : FieldsRead (k.finish h) := by
  obtain ⟨hn, hlen, hlt, hlow⟩ := hk
  refine ⟨hn, hlen.trans hn, hlt, Nat.mod_lt _ (by decide), fun hc => ?_⟩
  obtain ⟨ha, hb⟩ := hlow (by simpa [Chain.finish] using hc)
  simp only [Chain.finish, ha, hb]
  omega

theorem fieldsRead_of_readChain {k : Chain} (hk : ChainRead k) {hs : List Half} {x : Fields} (h : readChain k hs = .ok x) :
    FieldsRead x := by
  induction hs generalizing k with
  | nil => cases h
  | cons q rest ih =>
    rw [readChain] at h
    dsimp only at h
    split at h
    · split at h
      · cases h
      · next hgood => exact ih (chainRead_add hk (by have := hk.n_le; omega) _) h
    · cases h
      exact fieldsRead_finish hk _

/-- An accepted chain gives fields, and these an instruction. -/
theorem decode_ok {hs : List Half} {i : Instr} {n : Nat} (h : decode hs = .ok (i, n)) :
    ∃ x, FieldsRead x ∧ i ∈ decodeFields x ∧ n = x.npre + 1 := by
  unfold decode at h
  split at h
  · cases h
  · next x hx =>
    split at h
    · next j hj =>
      cases h
      exact ⟨x, fieldsRead_of_readChain ⟨by decide, by decide, by simp, fun _ => ⟨rfl, rfl⟩⟩ hx, hj, rfl⟩
    · cases h

-- Immediates (R40, R74)

theorem fitsSigned_iff (v : Int) (w : Nat) : fitsSigned v w = true ↔ -(2 : Int) ^ w ≤ 2 * v ∧ 2 * v < 2 ^ w := by
  unfold fitsSigned
  cases w with
  | zero => simp; omega
  | succ w =>
    simp [pow_succ]
    omega

theorem fitsSigned_mono {v : Int} {w w' : Nat} (hw : w ≤ w') (h : fitsSigned v w = true) : fitsSigned v w' = true := by
  rw [fitsSigned_iff] at h ⊢
  have : (2 : Int) ^ w ≤ 2 ^ w' := pow_le_pow_right₀ (by decide) hw
  omega

theorem foldl_digits_lt {l : List Nat} (hl : ∀ i ∈ l, i < 512) (acc : Nat) :
    l.foldl (fun acc i => acc * 512 + i) acc < (acc + 1) * 512 ^ l.length := by
  induction l generalizing acc with
  | nil => simp
  | cons i l ih =>
    have hi := hl i (by simp)
    calc l.foldl (fun acc i => acc * 512 + i) (acc * 512 + i)
        < (acc * 512 + i + 1) * 512 ^ l.length := ih (fun j hj => hl j (by simp [hj])) _
      _ ≤ ((acc + 1) * 512) * 512 ^ l.length := Nat.mul_le_mul_right _ (by omega)
      _ = (acc + 1) * 512 ^ (i :: l).length := by rw [List.length_cons, pow_succ]; ring

theorem immNat_lt {wb base : Nat} {imms : List Nat} (hb : base < 2 ^ wb) (hi : ∀ i ∈ imms, i < 512) :
    immNat wb base imms < 2 ^ (wb + 9 * imms.length) := by
  have hd := foldl_digits_lt hi 0
  have hp : 2 ^ (wb + 9 * imms.length) = 512 ^ imms.length * 2 ^ wb := by rw [pow_add, pow_mul, Nat.mul_comm]; rfl
  rw [hp]
  unfold immNat
  calc imms.foldl (fun acc i => acc * 512 + i) 0 * 2 ^ wb + base
      < (imms.foldl (fun acc i => acc * 512 + i) 0 + 1) * 2 ^ wb := by rw [Nat.add_mul, Nat.one_mul]; omega
    _ ≤ 512 ^ imms.length * 2 ^ wb := Nat.mul_le_mul_right _ (by omega)

/-- The sign is the highest bit of the whole immediate, its base field and its IMM prefixes. -/
theorem immInt_eq {wb base : Nat} {imms : List Nat} (h : immNat wb base imms < 2 ^ (wb + 9 * imms.length)) :
    immInt wb base imms =
      if 2 * immNat wb base imms < 2 ^ (wb + 9 * imms.length) then (immNat wb base imms : Int)
      else immNat wb base imms - 2 ^ (wb + 9 * imms.length) := by
  unfold immInt
  dsimp only
  generalize wb + 9 * imms.length = w at *
  cases w with
  | zero => simp_all
  | succ w =>
    have hhalf : 2 * immNat wb base imms < 2 ^ (w + 1) ↔ immNat wb base imms < 2 ^ w := by rw [pow_succ]; omega
    simp [hhalf]

/-- With at most n IMM prefixes an immediate fits its base field and n times nine bits (R40). -/
theorem fitsSigned_immInt {wb base n : Nat} {imms : List Nat} (hb : base < 2 ^ wb) (hi : ∀ i ∈ imms, i < 512) (hn : imms.length ≤ n) :
    fitsSigned (immInt wb base imms) (wb + 9 * n) = true := by
  have hlt := immNat_lt hb hi
  refine fitsSigned_mono (w := wb + 9 * imms.length) (by omega) ((fitsSigned_iff _ _).mpr ?_)
  rw [immInt_eq hlt]
  have hz : ((2 ^ (wb + 9 * imms.length) : Nat) : Int) = 2 ^ (wb + 9 * imms.length) := by push_cast; rfl
  rw [← hz]
  split <;> omega

-- The cells of the opcode map (R47)

/-- The instruction is well formed and has an encoding. -/
def Encodable (i : Instr) : Prop := i.wf = true ∧ (encode i).isSome = true

theorem forall_mem_only {P : Instr → Prop} {p : Bool} {i : Instr} (h : p = true → P i) : ∀ j ∈ only p i, P j := by
  intro j hj
  unfold only at hj
  split at hj
  · next hp => cases hj; exact h hp
  · cases hj

theorem forall_mem_none {P : Instr → Prop} : ∀ j ∈ (none : Option Instr), P j := by simp

section Forms

variable {P : Instr → Prop} {x : Fields} (hx : FieldsRead x)

/-- A register field without bit 4. -/
theorem lowReg_xr {n : Nat} (h : n < 16) : lowReg (xr n) = true :=
  decide_eq_true ((Nat.mod_le _ _).trans_lt h)

theorem payloadOk_of_le {b n : Nat} (h : b + n ≤ 32) : payloadOk (xr b) (Fin.ofNat 7 n) = true :=
  decide_eq_true ((Nat.add_le_add (Nat.mod_le _ _) (Nat.mod_le _ _)).trans h)

theorem scalar_widthOf {w : Nat} (h : w < 3) : (widthOf w).scalar = true := by
  interval_cases w <;> rfl

theorem vtyOf_ne_n32 {w : Nat} (h : w < 2) : (vtyOf w != .n32) = true := by
  interval_cases w <;> rfl

/-- Where MOD6 is checked by the type, a rounding mode stands with .f32 only (R93). -/
theorem rndOk_of_mods {sat : Bool} (h : x.mods (x.w == 0) sat false = true) : rndOk (vtyOf x.w) x.rnd = true := by
  by_cases hw : x.w = 0
  · simp [hw, vtyOf, rndOk]
  · have : x.mod6 / 8 = 0 := by simp [Fields.mods, hw] at h; omega
    simp [rndOk, Fields.rnd, rndOf, this]

theorem rmodOk_of_mods (h : x.mods (x.w == 0) (x.w == 0) false = true) : rmodOk (vtyOf x.w) x.rmod = true := by
  by_cases hw : x.w = 0
  · simp [hw, vtyOf, rmodOk]
  · obtain ⟨h8, h4⟩ : x.mod6 / 8 = 0 ∧ x.mod6 / 4 % 2 = 0 := by simp [Fields.mods, hw] at h; omega
    simp [rmodOk, Fields.rmod, Fields.rnd, rndOf, h8, h4]

include hx in
theorem fitsSigned_imms {wb base : Nat} (hb : base < 2 ^ wb) : fitsSigned (immInt wb base x.imms) (wb + 36) = true :=
  fitsSigned_immInt hb hx.imms_lt hx.imms_length

include hx in
theorem forall_mem_dRim {k : XReg → XReg → Int → Instr} (h : ∀ a b v, fitsSigned v 39 = true → P (k a b v)) : ∀ i ∈ dRim x k, P i :=
  forall_mem_only fun _ => h _ _ _ (fitsSigned_imms hx hx.f_lt)

include hx in
theorem forall_mem_dMem {k : XReg → XReg → Int → Bool → Instr} (h : ∀ a b v r, fitsSigned v 36 = true → P (k a b v r)) :
    ∀ i ∈ dMem x k, P i :=
  forall_mem_only fun _ => h _ _ _ _ (fitsSigned_imms hx (by decide))

include hx in
theorem forall_mem_dCbr {k : XReg → XReg → Int → Instr} (h : ∀ a b v, fitsSigned v 36 = true → P (k a b v)) : ∀ i ∈ dCbr x k, P i :=
  forall_mem_only fun _ => h _ _ _ (fitsSigned_imms hx (by decide))

include hx in
theorem forall_mem_dJmp {k : Int → Instr} (h : ∀ v, fitsSigned v 47 = true → P (k v)) : ∀ i ∈ dJmp x k, P i :=
  forall_mem_only fun hc => h _ (fitsSigned_imms hx (by
    have := hx.f_lt
    simp at hc
    omega))

include hx in
theorem forall_mem_dVMem {k : VReg → XReg → Int → Bool → MReg → Instr} (h : ∀ a b v r m, fitsSigned v 36 = true → P (k a b v r m)) :
    ∀ i ∈ dVMem x k, P i :=
  forall_mem_only fun _ => h _ _ _ _ _ (fitsSigned_imms hx (by decide))

theorem forall_mem_dShf {k : XReg → XReg → Fin 64 → Instr} (h : ∀ a b n, P (k a b n)) : ∀ i ∈ dShf x k, P i := by
  unfold dShf
  split
  · exact forall_mem_only fun _ => h _ _ _
  · exact forall_mem_none

theorem forall_mem_dVTile {k : VReg → TileIx → XReg → MReg → Instr} (h : ∀ a t b m, P (k a t b m)) : ∀ i ∈ dVTile x k, P i := by
  unfold dVTile
  split
  · exact forall_mem_only fun _ => h _ _ _ _
  · exact forall_mem_none

theorem forall_mem_dTile {k : XReg → TileIx → Instr} (h : ∀ a t, P (k a t)) : ∀ i ∈ dTile x k, P i := by
  unfold dTile
  split
  · exact forall_mem_only fun _ => h _ _
  · exact forall_mem_none

include hx in
theorem forall_mem_dCsr {k : XReg → BitVec 12 → Instr} (h : ∀ a n, lowReg a = true → P (k a n)) : ∀ i ∈ dCsr x k, P i := by
  unfold dCsr
  split
  · refine forall_mem_only fun hc => h _ _ (lowReg_xr (hx.low ?_).1)
    simp at hc
    exact hc.1.1.1
  · exact forall_mem_none

theorem forall_mem_dFBin {k : FWidth → RMod → XReg → XReg → XReg → Instr} (h : ∀ w m a c b, w.scalar = true → P (k w m a c b)) :
    ∀ i ∈ dFBin x k, P i :=
  forall_mem_only fun hc => h _ _ _ _ _ (scalar_widthOf (by simp at hc; omega))

theorem forall_mem_dFBin0 {k : FWidth → XReg → XReg → XReg → Instr} (h : ∀ w a c b, w.scalar = true → P (k w a c b)) :
    ∀ i ∈ dFBin0 x k, P i :=
  forall_mem_only fun hc => h _ _ _ _ (scalar_widthOf (by simp at hc; omega))

theorem forall_mem_dFUna0 {k : FWidth → XReg → XReg → Instr} (h : ∀ w a b, w.scalar = true → P (k w a b)) : ∀ i ∈ dFUna0 x k, P i :=
  forall_mem_only fun hc => h _ _ _ (scalar_widthOf (by simp at hc; omega))

theorem forall_mem_dFCvt {sat : Bool} {k : FWidth → RMod → XReg → XReg → Instr} (h : ∀ w m a b, w.scalar = true → P (k w m a b)) :
    ∀ i ∈ dFCvt x sat k, P i :=
  forall_mem_only fun hc => h _ _ _ _ (scalar_widthOf (by simp at hc; omega))

theorem forall_mem_dVBin_sat {k : VTy → RMod → VReg → VReg → VReg → MReg → Instr}
    (h : ∀ t m a c b l, rndOk t m.rnd = true → P (k t m a c b l)) : ∀ i ∈ dVBin x true k, P i :=
  forall_mem_only fun hc => h _ _ _ _ _ _ (rndOk_of_mods (by simp at hc; exact hc.2))

theorem forall_mem_dVBin {k : VTy → RMod → VReg → VReg → VReg → MReg → Instr}
    (h : ∀ t m a c b l, rmodOk t m = true → P (k t m a c b l)) : ∀ i ∈ dVBin x false k, P i :=
  forall_mem_only fun hc => h _ _ _ _ _ _ (rmodOk_of_mods (by simp at hc; exact hc.2))

theorem forall_mem_dVRed {k : VTy → Rnd → VReg → VReg → MReg → Instr} (h : ∀ t r a b l, rndOk t r = true → P (k t r a b l)) :
    ∀ i ∈ dVRed x k, P i :=
  forall_mem_only fun hc => h _ _ _ _ _ (rndOk_of_mods (by simp at hc; exact hc.1.2))

theorem forall_mem_dVUnaT_two {k : VTy → VReg → VReg → MReg → Instr} (h : ∀ t a b l, (t != .n32) = true → P (k t a b l)) :
    ∀ i ∈ dVUnaT x 2 k, P i :=
  forall_mem_only fun hc => h _ _ _ _ (vtyOf_ne_n32 (by simp at hc; omega))

theorem forall_mem_dSend {k : XReg → XReg → Fin 7 → Instr} (h : ∀ a b n, payloadOk b n = true → P (k a b n)) : ∀ i ∈ dSend x k, P i :=
  forall_mem_only fun hc => h _ _ _ (payloadOk_of_le (by simp at hc; omega))

theorem forall_mem_dSendD {k : XReg → XReg → Fin 7 → XReg → Instr} (h : ∀ a b n d, payloadOk b n = true → P (k a b n d)) :
    ∀ i ∈ dSendD x k, P i :=
  forall_mem_only fun hc => h _ _ _ _ (payloadOk_of_le (by simp at hc; omega))

end Forms

-- The pages. `split` numbers the rows of a page, and the cells of a row, in their order from `h_1` on; the last is the unassigned one.

theorem decPage0_encodable {x : Fields} (hx : FieldsRead x) : ∀ i ∈ decPage0 x, Encodable i := by
  unfold decPage0
  split
  case h_1 | h_2 | h_3 | h_5 =>
    split
    case h_9 => exact forall_mem_none
    all_goals exact forall_mem_only fun _ => ⟨rfl, rfl⟩
  case h_4 =>
    split
    case h_8 => exact forall_mem_none
    all_goals exact forall_mem_only fun _ => ⟨rfl, rfl⟩
  case h_7 =>
    refine forall_mem_only fun hc => ⟨fitsSigned_imms hx ?_, rfl⟩
    have := hx.f_lt
    simp at hc
    omega
  case h_6 | h_8 | h_9 | h_10 => exact forall_mem_dRim hx fun _ _ _ h => ⟨h, rfl⟩
  case h_11 =>
    split
    case h_5 => exact forall_mem_none
    all_goals exact forall_mem_dShf fun _ _ _ => ⟨rfl, rfl⟩
  case h_12 =>
    split
    case h_8 => exact forall_mem_none
    all_goals exact forall_mem_dMem hx fun _ _ _ _ h => ⟨h, rfl⟩
  case h_13 =>
    split
    case h_5 => exact forall_mem_none
    all_goals exact forall_mem_dMem hx fun _ _ _ _ h => ⟨h, rfl⟩
  case h_14 =>
    split
    case h_7 => exact forall_mem_none
    all_goals exact forall_mem_dCbr hx fun _ _ _ h => ⟨h, rfl⟩
  case h_15 | h_16 => exact forall_mem_dJmp hx fun _ h => ⟨h, rfl⟩
  case h_17 =>
    split
    case h_3 =>
      split
      · exact forall_mem_only fun _ => ⟨rfl, rfl⟩
      · exact forall_mem_none
    case h_4 => exact forall_mem_none
    all_goals exact forall_mem_only fun _ => ⟨rfl, rfl⟩
  case h_18 =>
    split
    case h_3 => exact forall_mem_none
    all_goals exact forall_mem_only fun _ => ⟨rfl, rfl⟩
  case h_19 => exact forall_mem_none

theorem decPage1_encodable {x : Fields} : ∀ i ∈ decPage1 x, Encodable i := by
  unfold decPage1
  split
  case h_1 =>
    split
    case h_5 | h_6 => exact forall_mem_dFBin0 fun _ _ _ _ h => ⟨h, rfl⟩
    case h_7 => exact forall_mem_dFCvt fun _ _ _ _ h => ⟨h, rfl⟩
    case h_8 => exact forall_mem_none
    all_goals exact forall_mem_dFBin fun _ _ _ _ _ h => ⟨h, rfl⟩
  case h_2 =>
    split
    case h_5 => exact forall_mem_none
    all_goals exact forall_mem_dFBin fun _ _ _ _ _ h => ⟨h, rfl⟩
  case h_3 =>
    split
    case h_5 | h_6 | h_7 => exact forall_mem_dFUna0 fun _ _ _ h => ⟨h, rfl⟩
    case h_9 => exact forall_mem_none
    all_goals exact forall_mem_dFBin0 fun _ _ _ _ h => ⟨h, rfl⟩
  case h_4 =>
    split
    case h_5 => exact forall_mem_only fun _ => ⟨rfl, rfl⟩
    case h_6 | h_7 => exact forall_mem_only fun hc => ⟨scalar_widthOf (by simp at hc; omega), rfl⟩
    case h_8 => exact forall_mem_none
    all_goals exact forall_mem_dFCvt fun _ _ _ _ h => ⟨h, rfl⟩
  case h_5 => exact forall_mem_none

theorem decPage2_encodable {x : Fields} (hx : FieldsRead x) : ∀ i ∈ decPage2 x, Encodable i := by
  unfold decPage2
  split
  case h_1 =>
    split
    case h_1 | h_2 | h_3 => exact forall_mem_dVBin_sat fun _ _ _ _ _ _ h => ⟨h, rfl⟩
    case h_9 => exact forall_mem_none
    all_goals exact forall_mem_only fun _ => ⟨rfl, rfl⟩
  case h_2 =>
    split
    case h_4 | h_5 => exact forall_mem_dVUnaT_two fun _ _ _ _ h => ⟨h, rfl⟩
    case h_6 => exact forall_mem_dVBin fun _ _ _ _ _ _ h => ⟨h, rfl⟩
    case h_8 => exact forall_mem_none
    all_goals exact forall_mem_only fun _ => ⟨rfl, rfl⟩
  case h_3 =>
    split
    case h_5 => exact forall_mem_none
    all_goals exact forall_mem_dVBin fun _ _ _ _ _ _ h => ⟨h, rfl⟩
  case h_4 =>
    split
    case h_5 => exact forall_mem_none
    all_goals exact forall_mem_only fun _ => ⟨rfl, rfl⟩
  case h_5 =>
    split
    case h_8 => exact forall_mem_none
    all_goals exact forall_mem_only fun _ => ⟨rfl, rfl⟩
  case h_6 =>
    split
    case h_1 | h_6 => exact forall_mem_dVRed fun _ _ _ _ _ h => ⟨h, rfl⟩
    case h_7 => exact forall_mem_none
    all_goals exact forall_mem_only fun _ => ⟨rfl, rfl⟩
  case h_7 =>
    split
    case h_7 => exact forall_mem_none
    all_goals exact forall_mem_only fun _ => ⟨rfl, rfl⟩
  case h_9 =>
    split
    case h_1 | h_2 | h_5 => exact forall_mem_dVMem hx fun _ _ _ _ _ h => ⟨h, rfl⟩
    case h_6 | h_7 => exact forall_mem_dVTile fun _ _ _ _ => ⟨rfl, rfl⟩
    case h_8 => exact forall_mem_none
    all_goals exact forall_mem_only fun _ => ⟨rfl, rfl⟩
  case h_8 | h_10 =>
    split
    case h_9 => exact forall_mem_none
    all_goals exact forall_mem_only fun _ => ⟨rfl, rfl⟩
  case h_11 =>
    split
    case h_4 => exact forall_mem_none
    all_goals exact forall_mem_only fun _ => ⟨rfl, rfl⟩
  case h_12 =>
    split
    · exact forall_mem_only fun _ => ⟨rfl, rfl⟩
    · exact forall_mem_none
  case h_13 => exact forall_mem_none

theorem decPage4_encodable {x : Fields} (hx : FieldsRead x) : ∀ i ∈ decPage4 x, Encodable i := by
  unfold decPage4
  split
  case h_1 =>
    split
    case h_3 | h_8 => exact forall_mem_dSendD fun _ _ _ _ h => ⟨h, rfl⟩
    case h_7 => exact forall_mem_only fun _ => ⟨rfl, rfl⟩
    case h_9 => exact forall_mem_none
    all_goals exact forall_mem_dSend fun _ _ _ h => ⟨h, rfl⟩
  case h_2 | h_3 =>
    split
    case h_4 => exact forall_mem_none
    all_goals exact forall_mem_only fun _ => ⟨rfl, rfl⟩
  case h_4 =>
    split
    · exact forall_mem_only fun _ => ⟨rfl, rfl⟩
    · refine forall_mem_only fun hc => ⟨lowReg_xr (hx.low ?_).1, rfl⟩
      simp [Fields.bare] at hc
      tauto
    · exact forall_mem_none
  case h_5 => exact forall_mem_none

theorem decPage5_encodable {x : Fields} : ∀ i ∈ decPage5 x, Encodable i := by
  unfold decPage5
  split
  case h_1 =>
    split
    case h_9 => exact forall_mem_none
    all_goals exact forall_mem_only fun _ => ⟨rfl, rfl⟩
  case h_2 =>
    split
    case h_7 => exact forall_mem_none
    all_goals exact forall_mem_only fun _ => ⟨rfl, rfl⟩
  case h_3 =>
    split
    · exact forall_mem_only fun _ => ⟨rfl, rfl⟩
    · exact forall_mem_none
  case h_4 => exact forall_mem_none

theorem decPage6_encodable {x : Fields} : ∀ i ∈ decPage6 x, Encodable i := by
  unfold decPage6
  split
  case h_1 =>
    split
    case h_1 => exact forall_mem_only fun _ => ⟨rfl, rfl⟩
    case h_2 | h_3 => exact forall_mem_dTile fun _ _ => ⟨rfl, rfl⟩
    case h_4 =>
      split
      · exact forall_mem_only fun _ => ⟨rfl, rfl⟩
      · exact forall_mem_none
    case h_5 => exact forall_mem_none
  case h_2 =>
    split
    case h_4 => exact forall_mem_none
    all_goals exact forall_mem_only fun _ => ⟨rfl, rfl⟩
  case h_3 =>
    split
    case h_7 => exact forall_mem_none
    all_goals exact forall_mem_only fun _ => ⟨rfl, rfl⟩
  case h_4 => exact forall_mem_none

theorem decPage7_encodable {x : Fields} (hx : FieldsRead x) : ∀ i ∈ decPage7 x, Encodable i := by
  unfold decPage7
  split
  case h_1 =>
    split
    case h_5 => exact forall_mem_none
    all_goals exact forall_mem_dCsr hx fun _ _ h => ⟨h, rfl⟩
  case h_2 =>
    split
    case isTrue => exact forall_mem_none
    case isFalse hc =>
      obtain ⟨ha, hb⟩ := hx.low (by simp at hc; exact hc.1.1)
      split
      case h_3 => exact forall_mem_only fun _ => ⟨lowReg_xr ha, rfl⟩
      case h_4 => exact forall_mem_only fun _ => ⟨lowReg_xr hb, rfl⟩
      case h_5 => exact forall_mem_only fun _ => ⟨by simp [Instr.wf, lowReg_xr, ha, hb], rfl⟩
      case h_6 => exact forall_mem_none
      all_goals exact forall_mem_only fun _ => ⟨rfl, rfl⟩
  case h_3 => exact forall_mem_none

theorem decodeFields_encodable {x : Fields} (hx : FieldsRead x) : ∀ i ∈ decodeFields x, Encodable i := by
  unfold decodeFields
  split
  · exact decPage0_encodable hx
  · exact decPage1_encodable
  · exact decPage2_encodable hx
  · exact decPage4_encodable hx
  · exact decPage5_encodable
  · exact decPage6_encodable
  · exact decPage7_encodable hx
  · exact forall_mem_none

/-- Whatever the decoder accepts has an encoding, and takes a base word after at most four prefixes. -/
theorem decode_encodable {hs : List Half} {i : Instr} {n : Nat} (h : decode hs = .ok (i, n)) : Encodable i ∧ 1 ≤ n ∧ n ≤ 5 := by
  obtain ⟨x, hx, hi, rfl⟩ := decode_ok h
  have := hx.npre_le
  exact ⟨decodeFields_encodable hx i hi, by omega, by omega⟩

end Sys2Proof.Machine
end

section
/-! SUPPORT. The prefixes the encoder writes (O1): they stand in order, and read back they give the encoder's fields (spec/03 R35, R36,
R46). -/

namespace Sys2Proof.Machine

open Sys2Proof.Terms Sys2Proof.Laws.Enc

/-- Bit 4 of A or B, a C of its own, or a W: what only a REG prefix carries (R35, R36). -/
def needsReg (x : Fields) : Bool := decide (16 ≤ x.a ∨ 16 ≤ x.b ∨ x.c ≠ x.a ∨ x.w ≠ 0)

def pagePart (x : Fields) : List Half := if x.page ≠ 0 ∨ x.mod6 ≠ 0 then [BitVec.ofNat 16 (0xFC00 + x.page * 64 + x.mod6)] else []
def regPart (x : Fields) : List Half :=
  if 16 ≤ x.a ∨ 16 ≤ x.b ∨ x.c ≠ x.a ∨ x.w ≠ 0 then
    [BitVec.ofNat 16 (0xFA00 + x.a / 16 * 256 + x.b / 16 * 128 + x.c * 4 + x.w)] else []
def extPart (x : Fields) : List Half := if x.d ≠ 0 ∨ x.x4 ≠ 0 then [BitVec.ofNat 16 (0xFE00 + x.d * 16 + x.x4)] else []
def immPart (x : Fields) : List Half := x.imms.map fun i => BitVec.ofNat 16 (0xF800 + i)

/-- The prefixes of the canonical encoding. -/
def prefixesOf (x : Fields) : List Half := pagePart x ++ regPart x ++ extPart x ++ immPart x

theorem assemble_eq (x : Fields) : assemble x = prefixesOf x ++ [BitVec.ofNat 16 x.base] := rfl

-- Each prefix halfword

theorem toNat_half {n : Nat} (h : n < 2 ^ 16) : (BitVec.ofNat 16 n).toNat = n := by
  rw [BitVec.toNat_ofNat, Nat.mod_eq_of_lt h]

section Parts

variable {x : Fields} (hx : InRange x) {p : Half}

include hx

theorem mem_pagePart (h : p ∈ pagePart x) : p.toNat = 0xFC00 + x.page * 64 + x.mod6 := by
  have := hx.page
  have := hx.mod6
  unfold pagePart at h
  split at h
  · rw [List.mem_singleton.mp h, toNat_half (by omega)]
  · cases h

theorem mem_regPart (h : p ∈ regPart x) : p.toNat = 0xFA00 + x.a / 16 * 256 + x.b / 16 * 128 + x.c * 4 + x.w := by
  have := hx.a
  have := hx.b
  have := hx.c
  have := hx.w
  unfold regPart at h
  split at h
  · rw [List.mem_singleton.mp h, toNat_half (by omega)]
  · cases h

theorem mem_extPart (h : p ∈ extPart x) : p.toNat = 0xFE00 + x.d * 16 + x.x4 := by
  have := hx.d
  have := hx.x4
  unfold extPart at h
  split at h
  · rw [List.mem_singleton.mp h, toNat_half (by omega)]
  · cases h

theorem mem_immPart (h : p ∈ immPart x) : ∃ i < 512, p.toNat = 0xF800 + i := by
  obtain ⟨i, hi, rfl⟩ := List.mem_map.mp h
  have := hx.imms i hi
  exact ⟨i, this, toNat_half (by omega)⟩

/-- The prefixes of each part, by their place in the canonical order. -/
theorem pagePart_place (h : p ∈ pagePart x) : isPrefix p = true ∧ prefixPlace p = 1 := by
  have := hx.page
  have := hx.mod6
  have hp := mem_pagePart hx h
  have hkind : p.toNat / 512 % 4 = 2 := by omega
  exact ⟨(isPrefix_iff p).mpr (by omega), by simp [prefixPlace, hkind]⟩

theorem regPart_place (h : p ∈ regPart x) : isPrefix p = true ∧ prefixPlace p = 2 := by
  have := hx.a
  have := hx.b
  have := hx.c
  have := hx.w
  have hp := mem_regPart hx h
  have hkind : p.toNat / 512 % 4 = 1 := by omega
  exact ⟨(isPrefix_iff p).mpr (by omega), by simp [prefixPlace, hkind]⟩

theorem extPart_place (h : p ∈ extPart x) : isPrefix p = true ∧ prefixPlace p = 3 := by
  have := hx.d
  have := hx.x4
  have hp := mem_extPart hx h
  have hkind : p.toNat / 512 % 4 = 3 := by omega
  exact ⟨(isPrefix_iff p).mpr (by omega), by simp [prefixPlace, hkind]⟩

theorem immPart_place (h : p ∈ immPart x) : isPrefix p = true ∧ prefixPlace p = 4 := by
  obtain ⟨i, hi, hp⟩ := mem_immPart hx h
  have hkind : p.toNat / 512 % 4 = 0 := by omega
  exact ⟨(isPrefix_iff p).mpr (by omega), by simp [prefixPlace, hkind]⟩

theorem prefixesOf_isPrefix (h : p ∈ prefixesOf x) : isPrefix p = true := by
  simp only [prefixesOf, List.mem_append] at h
  obtain ((h | h) | h) | h := h
  · exact (pagePart_place hx h).1
  · exact (regPart_place hx h).1
  · exact (extPart_place hx h).1
  · exact (immPart_place hx h).1

omit hx in
theorem inOrder_short {ps : List Half} (h : ps.length ≤ 1) : inOrder ps := by
  match ps, h with
  | [], _ => exact List.Pairwise.nil
  | [p], _ => exact List.pairwise_singleton _ p

omit hx in
theorem inOrder_append {ps qs : List Half} (hp : inOrder ps) (hq : inOrder qs) (h : ∀ p ∈ ps, ∀ q ∈ qs, prefixPlace p < prefixPlace q) :
    inOrder (ps ++ qs) :=
  List.pairwise_append.mpr ⟨hp, hq, fun p hp q hq => .inl (h p hp q hq)⟩

theorem prefixesOf_inOrder : inOrder (prefixesOf x) := by
  have himm : inOrder (immPart x) :=
    List.pairwise_iff_forall_sublist.mpr fun hs =>
      .inr ⟨(immPart_place hx (hs.subset (by simp))).2, (immPart_place hx (hs.subset (by simp))).2⟩
  refine inOrder_append (inOrder_append (inOrder_append (inOrder_short ?_) (inOrder_short ?_) ?_) (inOrder_short ?_) ?_) himm ?_
  · unfold pagePart; split <;> simp
  · unfold regPart; split <;> simp
  · intro p hp q hq
    rw [(pagePart_place hx hp).2, (regPart_place hx hq).2]
    decide
  · unfold extPart; split <;> simp
  · intro p hp q hq
    rw [(extPart_place hx hq).2]
    obtain hp | hp := List.mem_append.mp hp
    · rw [(pagePart_place hx hp).2]; decide
    · rw [(regPart_place hx hp).2]; decide
  · intro p hp q hq
    rw [(immPart_place hx hq).2]
    simp only [List.mem_append] at hp
    obtain (hp | hp) | hp := hp
    · rw [(pagePart_place hx hp).2]; decide
    · rw [(regPart_place hx hp).2]; decide
    · rw [(extPart_place hx hp).2]; decide

-- What the decoder holds after each part

/-- A chain with these prefixes read on. -/
def readOn (k : Chain) (ps : List Half) : Chain := ps.foldl (fun k p => k.add p.toNat) k

omit hx in
theorem readOn_append (k : Chain) (ps qs : List Half) : readOn k (ps ++ qs) = readOn (readOn k ps) qs := List.foldl_append

omit hx in
theorem readOn_single (k : Chain) {n : Nat} (h : n < 2 ^ 16) : readOn k [BitVec.ofNat 16 n] = k.add n := by
  rw [readOn, List.foldl_cons, List.foldl_nil, toNat_half h]

/-- The chain after the PAGE prefix, after REG, after EXT and after the IMM prefixes of the encoding, where n prefixes stand and the last has
rank r. -/
def afterPage (x : Fields) (n r : Nat) : Chain := { n := n, rank := r, page := x.page, mod6 := x.mod6 }
def afterReg (x : Fields) (n r : Nat) : Chain :=
  { n := n, rank := r, page := x.page, mod6 := x.mod6, a4 := x.a / 16, b4 := x.b / 16, c := if needsReg x then some x.c else none, w := x.w }
def afterExt (x : Fields) (n r : Nat) : Chain :=
  { afterReg x n r with d := x.d, x4 := x.x4, hasExt := decide (x.d ≠ 0 ∨ x.x4 ≠ 0) }
def afterImm (x : Fields) (n r : Nat) : Chain := { afterExt x n r with imms := x.imms }

theorem readOn_pagePart : ∃ n r, readOn {} (pagePart x) = afterPage x n r := by
  have := hx.page
  have := hx.mod6
  unfold pagePart
  split
  · have hkind : (0xFC00 + x.page * 64 + x.mod6) / 512 % 4 = 2 := by omega
    refine ⟨1, 1, ?_⟩
    simp only [readOn_single _ (show 0xFC00 + x.page * 64 + x.mod6 < 2 ^ 16 by omega), Chain.add, hkind]
    unfold afterPage
    congr 1 <;> omega
  · next h =>
    obtain ⟨hp, h6⟩ : x.page = 0 ∧ x.mod6 = 0 := by omega
    exact ⟨0, 0, by simp [readOn, afterPage, hp, h6]⟩

theorem readOn_regPart (n r : Nat) : ∃ n' r', readOn (afterPage x n r) (regPart x) = afterReg x n' r' := by
  have := hx.a
  have := hx.b
  have := hx.c
  have := hx.w
  unfold regPart
  split
  · next h =>
    have hneed : needsReg x = true := decide_eq_true h
    have hkind : (0xFA00 + x.a / 16 * 256 + x.b / 16 * 128 + x.c * 4 + x.w) / 512 % 4 = 1 := by omega
    have hc : (0xFA00 + x.a / 16 * 256 + x.b / 16 * 128 + x.c * 4 + x.w) / 4 % 32 = x.c := by omega
    refine ⟨n + 1, 2, ?_⟩
    simp only [readOn_single _ (show 0xFA00 + x.a / 16 * 256 + x.b / 16 * 128 + x.c * 4 + x.w < 2 ^ 16 by omega), Chain.add, hkind, hc]
    unfold afterPage afterReg
    rw [hneed]
    dsimp only
    congr 1 <;> omega
  · next h =>
    have hneed : needsReg x = false := decide_eq_false h
    obtain ⟨ha, hb, hw⟩ : x.a / 16 = 0 ∧ x.b / 16 = 0 ∧ x.w = 0 := by omega
    exact ⟨n, r, by simp [readOn, afterPage, afterReg, hneed, ha, hb, hw]⟩

theorem readOn_extPart (n r : Nat) : ∃ n' r', readOn (afterReg x n r) (extPart x) = afterExt x n' r' := by
  have := hx.d
  have := hx.x4
  unfold extPart
  split
  · next h =>
    have hkind : (0xFE00 + x.d * 16 + x.x4) / 512 % 4 = 3 := by omega
    refine ⟨n + 1, 3, ?_⟩
    simp only [readOn_single _ (show 0xFE00 + x.d * 16 + x.x4 < 2 ^ 16 by omega), Chain.add, hkind]
    unfold afterReg afterExt
    dsimp only
    congr 1
    · omega
    · omega
    · exact (decide_eq_true h).symm
  · next h =>
    obtain ⟨hd, h4⟩ : x.d = 0 ∧ x.x4 = 0 := by omega
    exact ⟨n, r, by simp [readOn, afterReg, afterExt, hd, h4]⟩

omit hx in
theorem readOn_imms (k : Chain) {imms : List Nat} (hi : ∀ i ∈ imms, i < 512) : ∃ n r,
    readOn k (imms.map fun i => BitVec.ofNat 16 (0xF800 + i)) = { k with n := n, rank := r, imms := k.imms ++ imms } := by
  induction imms generalizing k with
  | nil => exact ⟨k.n, k.rank, by simp [readOn]⟩
  | cons i imms ih =>
    have := hi i (by simp)
    have hkind : (0xF800 + i) / 512 % 4 = 0 := by omega
    have hlow : (0xF800 + i) % 512 = i := by omega
    have hadd : k.add (0xF800 + i) = { k with n := k.n + 1, rank := 4, imms := k.imms ++ [i] } := by
      simp only [Chain.add, hkind, hlow]
      rfl
    obtain ⟨n, r, h⟩ := ih { k with n := k.n + 1, rank := 4, imms := k.imms ++ [i] } fun j hj => hi j (by simp [hj])
    refine ⟨n, r, ?_⟩
    rw [List.map_cons, ← List.singleton_append, readOn_append, readOn_single _ (by omega), hadd]
    exact h.trans (by simp)

theorem readOn_immPart (n r : Nat) : ∃ n' r', readOn (afterExt x n r) (immPart x) = afterImm x n' r' := readOn_imms _ hx.imms

/-- The fields as the decoder has them: what the encoder gave, which prefixes stand, and how many. -/
def readBack (x : Fields) : Fields :=
  { x with hasReg := needsReg x, hasExt := decide (x.d ≠ 0 ∨ x.x4 ≠ 0), npre := (prefixesOf x).length }

/-- The decoder reads the fields that the encoder wrote. -/
theorem finish_prefixesOf : (prefixChain (prefixesOf x)).finish x.base = readBack x := by
  obtain ⟨n1, r1, h1⟩ := readOn_pagePart hx
  obtain ⟨n2, r2, h2⟩ := readOn_regPart hx n1 r1
  obtain ⟨n3, r3, h3⟩ := readOn_extPart hx n2 r2
  obtain ⟨n4, r4, h4⟩ := readOn_immPart hx n3 r3
  have hchain : prefixChain (prefixesOf x) = afterImm x n4 r4 := by
    change readOn {} (pagePart x ++ regPart x ++ extPart x ++ immPart x) = _
    rw [readOn_append, readOn_append, readOn_append, h1, h2, h3, h4]
  have hn : n4 = (prefixesOf x).length := by rw [← prefixChain_n, hchain]; rfl
  have := hx.a
  have := hx.b
  have := hx.f
  have ha : x.a / 16 * 16 + x.base / 128 % 16 = x.a := by unfold Fields.base; omega
  have hb : x.b / 16 * 16 + x.base / 8 % 16 = x.b := by unfold Fields.base; omega
  have hm : x.base / 2048 = x.m := by unfold Fields.base; omega
  have hf : x.base % 8 = x.f := by unfold Fields.base; omega
  have hc : (if needsReg x then some x.c else none).getD x.a = x.c := by
    cases h : needsReg x with
    | true => rfl
    | false =>
      have := of_decide_eq_false h
      exact (by omega : x.a = x.c)
  have hreg : (if needsReg x then some x.c else none).isSome = needsReg x := by cases needsReg x <;> rfl
  rw [hchain, hn]
  unfold Chain.finish readBack afterImm afterExt afterReg
  dsimp only
  rw [ha, hb, hm, hf, hc, hreg]

-- The whole encoding

theorem base_isPrefix : isPrefix (BitVec.ofNat 16 x.base) = false ∧ (BitVec.ofNat 16 x.base).toNat = x.base := by
  have := hx.m
  have := hx.f
  have hlt : x.base < 31 * 2048 := by unfold Fields.base; omega
  have hn : (BitVec.ofNat 16 x.base).toNat = x.base := toNat_half (by omega)
  refine ⟨Bool.eq_false_iff.mpr fun h => ?_, hn⟩
  have := (isPrefix_iff _).mp h
  omega

/-- An encoding of at most four prefixes decodes as its fields do. -/
theorem decode_assemble {i : Instr} (hl : (prefixesOf x).length ≤ 4) (hd : decodeFields (readBack x) = some i) (rest : List Half) :
    decode (assemble x ++ rest) = .ok (i, (assemble x).length) := by
  obtain ⟨hbase, hn⟩ := base_isPrefix hx
  rw [assemble_eq, List.append_assoc, List.singleton_append, List.length_append, List.length_singleton]
  refine decode_accepts (fun p => prefixesOf_isPrefix hx) (prefixesOf_inOrder hx) hl _ rest hbase ?_
  rw [hn, finish_prefixesOf hx]
  exact hd

/-- One of more prefixes is refused (R37). -/
theorem decode_assemble_tooLong (hl : 4 < (prefixesOf x).length) (rest : List Half) :
    ∃ tv, decode (assemble x ++ rest) = .error ⟨.badPrefix, tv⟩ := by
  obtain ⟨q, qs, hq⟩ := List.exists_cons_of_length_pos (l := (prefixesOf x).drop 4) (by rw [List.length_drop]; omega)
  have hall : prefixesOf x = (prefixesOf x).take 4 ++ q :: qs := by rw [← hq, List.take_append_drop]
  have hsub : ((prefixesOf x).take 4).Sublist (prefixesOf x) := List.take_sublist ..
  have hsplit : assemble x ++ rest = (prefixesOf x).take 4 ++ q :: (qs ++ BitVec.ofNat 16 x.base :: rest) := by
    rw [assemble_eq]
    nth_rw 1 [hall]
    simp
  rw [hsplit]
  exact ⟨_, decode_badPrefix (fun p hp => prefixesOf_isPrefix hx (hsub.subset hp)) ((prefixesOf_inOrder hx).sublist hsub) (by simp) q _
    (prefixesOf_isPrefix hx (by rw [hall]; simp)) (.inl (by rw [List.length_take]; omega))⟩

end Parts

end Sys2Proof.Machine
end

section
/-! SUPPORT. Immediates, register numbers, types and modifiers that the encoder writes read back (O1; spec/03 R38 to R40). -/

namespace Sys2Proof.Machine

open Sys2Proof.Laws.Enc

-- Immediates (R40)

theorem length_digits512 (n u : Nat) : (digits512 n u).length = n := by
  induction n generalizing u with
  | zero => rfl
  | succ n ih => rw [digits512, List.length_append, ih, List.length_singleton]

theorem foldl_digits512 (n u : Nat) : (digits512 n u).foldl (fun acc i => acc * 512 + i) 0 = u % 512 ^ n := by
  induction n generalizing u with
  | zero => simp [digits512, Nat.mod_one]
  | succ n ih =>
    rw [digits512, List.foldl_append, ih, List.foldl_cons, List.foldl_nil, pow_succ, Nat.mul_comm (512 ^ n), Nat.mod_mul]
    omega

theorem immCount_pos (v : Int) (wb : Nat) : 1 ≤ immCount v wb 1 := by
  unfold immCount
  rw [if_neg (by simp)]
  split_ifs <;> decide

theorem immCount_fits {v : Int} {wb least : Nat} (h : fitsSigned v (wb + 36) = true) : fitsSigned v (wb + 9 * immCount v wb least) = true := by
  unfold immCount
  split_ifs with h0 h1 h2 h3
  · exact h0.2
  · exact h1
  · exact h2
  · exact h3
  · exact h

/-- The base field and the IMM prefixes that the encoder gives an immediate assemble to it. -/
theorem immInt_immFields {v : Int} {wb : Nat} (least : Nat) (h : fitsSigned v (wb + 36) = true) :
    immInt wb (immFields v wb least).1 (immFields v wb least).2 = v := by
  have hfit := (fitsSigned_iff _ _).mp (immCount_fits (least := least) h)
  generalize hn : immCount v wb least = n at hfit
  have hf : immFields v wb least = ((v % 2 ^ (wb + 9 * n)).toNat % 2 ^ wb, digits512 n ((v % 2 ^ (wb + 9 * n)).toNat / 2 ^ wb)) := by
    rw [← hn]
    rfl
  have hcast : ((2 ^ (wb + 9 * n) : Nat) : Int) = 2 ^ (wb + 9 * n) := by push_cast; rfl
  obtain ⟨u, hu, huv⟩ : ∃ u : Nat, v % 2 ^ (wb + 9 * n) = u ∧ ((u : Int) = v ∧ 0 ≤ v ∨ (u : Int) = v + 2 ^ (wb + 9 * n) ∧ v < 0) := by
    by_cases h0 : 0 ≤ v
    · exact ⟨v.toNat, by rw [Int.emod_eq_of_lt h0 (by omega)]; omega, by omega⟩
    · refine ⟨(v + 2 ^ (wb + 9 * n)).toNat, ?_, by omega⟩
      rw [← Int.add_emod_right, Int.emod_eq_of_lt (by omega) (by omega)]
      omega
  have hlt : u < 2 ^ (wb + 9 * n) := by omega
  have hdiv : u / 2 ^ wb < 512 ^ n := by
    rw [Nat.div_lt_iff_lt_mul (by positivity)]
    calc u < 2 ^ (wb + 9 * n) := hlt
      _ = 512 ^ n * 2 ^ wb := by rw [pow_add, pow_mul, Nat.mul_comm]; rfl
  have himm : immNat wb (u % 2 ^ wb) (digits512 n (u / 2 ^ wb)) = u := by
    unfold immNat
    rw [foldl_digits512, Nat.mod_eq_of_lt hdiv, Nat.mul_comm, Nat.div_add_mod]
  rw [hf, hu, Int.toNat_natCast, immInt_eq (by rw [himm, length_digits512]; exact hlt), himm, length_digits512]
  split <;> omega

-- Register numbers, types and modifiers read back

theorem only_eq {p : Bool} {i j : Instr} (hp : p = true) (hi : i = j) : only p i = some j := by
  rw [only, if_pos hp, hi]

@[simp] theorem xr_val (a : Fin 32) : xr a.val = a := Fin.ofNat_val_eq_self a
@[simp] theorem mr_val (a : Fin 8) : mr a.val = a := Fin.ofNat_val_eq_self a
@[simp] theorem widthOf_code (w : FWidth) : widthOf w.code = w := by cases w <;> rfl
@[simp] theorem vtyOf_code (t : VTy) : vtyOf t.code = t := by cases t <;> rfl
@[simp] theorem iwidthOf_code (w : IWidth) : iwidthOf w.code = w := by cases w <;> rfl
@[simp] theorem e8Of_code (e : E8) : e8Of e.code = e := by cases e <;> rfl
@[simp] theorem amoSizeOf_code (z : AmoSize) : amoSizeOf z.code = z := by cases z <;> rfl
@[simp] theorem rndOf_code (r : Rnd) : rndOf r.code = r := by cases r <;> rfl

theorem scalar_code {w : FWidth} (h : w.scalar = true) : w.code < 3 := by cases w <;> revert h <;> decide
theorem vty_code_lt_three (t : VTy) : t.code < 3 := by cases t <;> decide
theorem vty_code_lt_two {t : VTy} (h : (t != .n32) = true) : t.code < 2 := by cases t <;> revert h <;> decide
theorem vty_code_eq_zero (t : VTy) : (t.code == 0) = (t == .f32) := by cases t <;> rfl
theorem iwidth_code_lt_three (w : IWidth) : w.code < 3 := by cases w <;> decide
theorem e8_code_le_one (e : E8) : e.code ≤ 1 := by cases e <;> decide
theorem amoSize_code_le_one (z : AmoSize) : z.code ≤ 1 := by cases z <;> decide

/-- MOD6 of a rounding instruction holds RND and SAT, and ORD is 0 (R38). -/
theorem rmod_code_parts (m : RMod) : m.code / 8 = m.rnd.code ∧ (m.code / 4 % 2 == 1) = m.sat ∧ m.code % 4 = 0 := by
  have hr := rnd_code_le m.rnd
  unfold RMod.code
  cases m.sat
  · exact ⟨by simp, by simp; omega, by simp; omega⟩
  · exact ⟨by simp; omega, by simp; omega, by simp; omega⟩

variable {x : Fields}

theorem rmod_readBack {m : RMod} (h : x.mod6 = m.code) : (readBack x).rmod = m := by
  obtain ⟨h8, h4, -⟩ := rmod_code_parts m
  change (⟨rndOf (x.mod6 / 8), x.mod6 / 4 % 2 == 1⟩ : RMod) = m
  rw [h, h8, h4, rndOf_code]

theorem rnd_readBack {r : Rnd} (h : x.mod6 = r.code * 8) : (readBack x).rnd = r :=
  congrArg RMod.rnd (rmod_readBack (m := ⟨r, false⟩) h)

/-- A rounding mode or .sat passes where the instruction lists it (R38). -/
theorem mods_readBack {m : RMod} {rnd sat : Bool} (h : x.mod6 = m.code) (hr : rnd = true ∨ m.rnd = .rne) (hs : sat = true ∨ m.sat = false) :
    (readBack x).mods rnd sat false = true := by
  obtain ⟨h8, h4, h0⟩ := rmod_code_parts m
  have hle := rnd_code_le m.rnd
  have hsat : (sat || m.code / 4 % 2 == 0) = true := by
    obtain rfl | hs := hs
    · rfl
    · rw [hs] at h4
      have : m.code / 4 % 2 ≠ 1 := by simpa using h4
      simp
      omega
  change ((if rnd = true then decide (x.mod6 / 8 ≤ 4) else x.mod6 / 8 == 0) && (sat || x.mod6 / 4 % 2 == 0) && x.mod6 % 4 == 0) = true
  rw [h, h8, h0, hsat]
  obtain rfl | hr := hr
  · simp [hle]
  · rw [hr]
    cases rnd <;> rfl

theorem rlx_readBack {r : Bool} (h : x.mod6 = rlxCode r) : (readBack x).rlx = r ∧ (readBack x).mods false false true = true := by
  change (x.mod6 % 4 == 1) = r ∧ (x.mod6 / 8 == 0 && (false || x.mod6 / 4 % 2 == 0) && decide (x.mod6 % 4 ≤ 1)) = true
  rw [h]
  cases r <;> exact ⟨rfl, rfl⟩

end Sys2Proof.Machine
end

section
/-! SUPPORT. Each form of the operand tables gives the instruction whose fields the encoder wrote (O1; spec/03 R41, R47). -/

namespace Sys2Proof.Machine

open Sys2Proof.Laws.Enc

-- Page 0

theorem dTri_eTri (m f : Nat) (a c b : XReg) (k : XReg → XReg → XReg → Instr) : dTri (readBack (eTri m f a c b)) k = some (k a c b) :=
  only_eq (by simp [readBack, eTri, Fields.noImm, Fields.noExt]) (by simp [readBack, eTri])

theorem dUna_eUna (m f : Nat) (a b : XReg) (k : XReg → XReg → Instr) : dUna (readBack (eUna m f a b)) k = some (k a b) :=
  only_eq (by simp [readBack, eUna, Fields.noImm, Fields.noExt, Fields.cA]) (by simp [readBack, eUna])

theorem dExt_eUna (m f : Nat) (iw : IWidth) (a b : XReg) (k : IWidth → XReg → XReg → Instr) :
    dExt (readBack (eUna m f a b iw.code)) k = some (k iw a b) :=
  only_eq (by simp [readBack, eUna, Fields.noImm, Fields.noExt, Fields.cA, iwidth_code_lt_three]) (by simp [readBack, eUna])

theorem dRim_eRim (m : Nat) (a b : XReg) {v : Int} (h : fitsSigned v 39 = true) (k : XReg → XReg → Int → Instr) :
    dRim (readBack (eRim m a b v)) k = some (k a b v) :=
  only_eq (by simp [readBack, eRim, Fields.noExt, Fields.cA]) (by simp [readBack, eRim, immInt_immFields (wb := 3) 0 h])

theorem dShf_eShf (f : Nat) (a b : XReg) (n : Fin 64) (k : XReg → XReg → Fin 64 → Instr) :
    dShf (readBack (eShf f a b n)) k = some (k a b n) :=
  only_eq (by simp [readBack, eShf, Fields.noExt, Fields.cA]) (by simp [readBack, eShf])

/-- Where there is no base field the IMM prefixes hold the whole immediate. -/
theorem immInt_imms {v : Int} (least : Nat) (h : fitsSigned v 36 = true) : immInt 0 0 (immFields v 0 least).2 = v := by
  have hbase : (immFields v 0 least).1 = 0 := by have := immFields_base_lt v 0 least; omega
  have himm := immInt_immFields (wb := 0) least h
  rwa [hbase] at himm

theorem dMem_eMem (m f : Nat) (a b : XReg) {v : Int} (r : Bool) (h : fitsSigned v 36 = true) (k : XReg → XReg → Int → Bool → Instr) :
    dMem (readBack (eMem m f a b v r)) k = some (k a b v r) := by
  obtain ⟨hr, hm⟩ := rlx_readBack (x := eMem m f a b v r) rfl
  refine only_eq ?_ ?_
  · rw [hm]
    simp [readBack, eMem, Fields.noExt, Fields.cA]
  · rw [hr]
    simp [readBack, eMem, immInt_imms 0 h]

theorem dCbr_eCbr (f : Nat) (a b : XReg) {v : Int} (h : fitsSigned v 36 = true) (k : XReg → XReg → Int → Instr) :
    dCbr (readBack (eCbr f a b v)) k = some (k a b v) := by
  have himms : (immFields v 0 1).2 ≠ [] := List.ne_nil_of_length_pos (by
    have := immCount_pos v 0
    rw [immFields, length_digits512]
    omega)
  exact only_eq (by simp [readBack, eCbr, Fields.noExt, Fields.noImm, Fields.cA, himms]) (by simp [readBack, eCbr, immInt_imms 1 h])

theorem dJmp_eJmp (m : Nat) {v : Int} (h : fitsSigned v 47 = true) (k : Int → Instr) : dJmp (readBack (eJmp m v)) k = some (k v) := by
  have hb := immFields_base_lt v 11 0
  have hbase : (immFields v 11 0).1 / 128 * 128 + (immFields v 11 0).1 / 8 % 16 * 8 + (immFields v 11 0).1 % 8 = (immFields v 11 0).1 := by
    omega
  refine only_eq ?_ ?_
  · simp [readBack, eJmp, Fields.noExt, Fields.cA]
    omega
  · simp [readBack, eJmp, hbase, immInt_immFields (wb := 11) 0 h]

theorem decode_li (a : XReg) {v : Int} (h : fitsSigned v 43 = true) :
    decodeFields (readBack { m := 7, a := a, b := (immFields v 7 0).1 / 8, f := (immFields v 7 0).1 % 8, c := a,
                             imms := (immFields v 7 0).2 }) = some (.li a v) := by
  have hb := immFields_base_lt v 7 0
  have hbase : (immFields v 7 0).1 / 8 * 8 + (immFields v 7 0).1 % 8 = (immFields v 7 0).1 := by omega
  refine only_eq ?_ ?_
  · simp [readBack, Fields.noExt, Fields.cA]
    omega
  · simp [readBack, hbase, immInt_immFields (wb := 7) 0 h]

-- Page 1

section Page1

variable (m f : Nat) {w : FWidth} (hw : w.scalar = true) (r : RMod) (a c b : XReg)

include hw

theorem dFBin_eF (k : FWidth → RMod → XReg → XReg → XReg → Instr) : dFBin (readBack (eF m f w r.code a c b)) k = some (k w r a c b) := by
  refine only_eq ?_ ?_
  · rw [mods_readBack (m := r) rfl (.inl rfl) (.inl rfl)]
    simp [readBack, eF, Fields.noImm, Fields.noExt, scalar_code hw]
  · rw [rmod_readBack (m := r) rfl]
    simp [readBack, eF]

theorem dFBin0_eF (k : FWidth → XReg → XReg → XReg → Instr) : dFBin0 (readBack (eF m f w 0 a c b)) k = some (k w a c b) :=
  only_eq (by simp [readBack, eF, Fields.noImm, Fields.noExt, scalar_code hw]) (by simp [readBack, eF])

theorem dFUna0_eF (k : FWidth → XReg → XReg → Instr) : dFUna0 (readBack (eF m f w 0 a a b)) k = some (k w a b) :=
  only_eq (by simp [readBack, eF, Fields.noImm, Fields.noExt, Fields.cA, scalar_code hw]) (by simp [readBack, eF])

theorem dFCvt_eF {sat : Bool} (hs : sat = true ∨ r.sat = false) (k : FWidth → RMod → XReg → XReg → Instr) :
    dFCvt (readBack (eF m f w r.code a a b)) sat k = some (k w r a b) := by
  refine only_eq ?_ ?_
  · rw [mods_readBack (m := r) rfl (.inl rfl) hs]
    simp [readBack, eF, Fields.noImm, Fields.noExt, Fields.cA, scalar_code hw]
  · rw [rmod_readBack (m := r) rfl]
    simp [readBack, eF]

omit hw in
theorem decode_fcvtFf (w s : FWidth) : decodeFields (readBack (eF 3 4 w r.code a a b s.code)) = some (.fcvtFf w s r a b) := by
  refine only_eq ?_ ?_
  · rw [mods_readBack (m := r) rfl (.inl rfl) (.inl rfl)]
    simp [readBack, eF, Fields.noImm, Fields.cA, fwidth_code_lt]
  · rw [rmod_readBack (m := r) rfl]
    simp [readBack, eF]

theorem decode_fcvtF2e (e : E8) : decodeFields (readBack (eF 3 5 w r.code a a b e.code)) = some (.fcvtF2e w e r a b) := by
  refine only_eq ?_ ?_
  · rw [mods_readBack (m := r) rfl (.inl rfl) (.inl rfl)]
    simp [readBack, eF, Fields.noImm, Fields.cA, scalar_code hw, e8_code_le_one]
  · rw [rmod_readBack (m := r) rfl]
    simp [readBack, eF]

theorem decode_fcvtE2f (e : E8) : decodeFields (readBack (eF 3 6 w 0 a a b e.code)) = some (.fcvtE2f w e a b) :=
  only_eq (by simp [readBack, eF, Fields.noImm, Fields.cA, scalar_code hw, e8_code_le_one]) (by simp [readBack, eF])

end Page1

-- Page 2

section Page2

variable (m f : Nat) (t : VTy) (r : RMod) (a c b : VReg) (l : MReg)

theorem dVBin_eV {intSat : Bool} (hr : t = .f32 ∨ r.rnd = .rne) (hs : intSat = true ∨ t = .f32 ∨ r.sat = false)
    (k : VTy → RMod → VReg → VReg → VReg → MReg → Instr) :
    dVBin (readBack (eV m f t.code r.code a c b l)) intSat k = some (k t r a c b l) := by
  have hw : (readBack (eV m f t.code r.code a c b l)).w = t.code := rfl
  refine only_eq ?_ ?_
  · rw [hw, vty_code_eq_zero, mods_readBack (m := r) rfl (hr.imp_left (by rintro rfl; rfl)) ?_]
    · simp [readBack, eV, Fields.noImm, Fields.laneOk, vty_code_lt_three]
    · obtain rfl | rfl | hs := hs
      · exact .inl rfl
      · exact .inl (by simp)
      · exact .inr hs
  · rw [rmod_readBack (m := r) rfl]
    simp [readBack, eV, Fields.lane]

theorem dVBinT_eV (k : VTy → VReg → VReg → VReg → MReg → Instr) : dVBinT (readBack (eV m f t.code 0 a c b l)) k = some (k t a c b l) :=
  only_eq (by simp [readBack, eV, Fields.noImm, Fields.laneOk, vty_code_lt_three]) (by simp [readBack, eV, Fields.lane])

theorem dVBin0_eV (k : VReg → VReg → VReg → MReg → Instr) : dVBin0 (readBack (eV m f 0 0 a c b l)) k = some (k a c b l) :=
  only_eq (by simp [readBack, eV, Fields.noImm, Fields.laneOk]) (by simp [readBack, eV, Fields.lane])

theorem dVUnaT_eV {nt : Nat} (ht : t.code < nt) (k : VTy → VReg → VReg → MReg → Instr) :
    dVUnaT (readBack (eV m f t.code 0 a a b l)) nt k = some (k t a b l) :=
  only_eq (by simp [readBack, eV, Fields.noImm, Fields.laneOk, Fields.cA, ht]) (by simp [readBack, eV, Fields.lane])

theorem dVUna_eV {rnd sat : Bool} (hr : rnd = true ∨ r.rnd = .rne) (hs : sat = true ∨ r.sat = false)
    (k : RMod → VReg → VReg → MReg → Instr) : dVUna (readBack (eV m f 0 r.code a a b l)) rnd sat k = some (k r a b l) := by
  refine only_eq ?_ ?_
  · rw [mods_readBack (m := r) rfl hr hs]
    simp [readBack, eV, Fields.noImm, Fields.laneOk, Fields.cA]
  · rw [rmod_readBack (m := r) rfl]
    simp [readBack, eV, Fields.lane]

theorem dVRed_eV {q : Rnd} (hq : t = .f32 ∨ q = .rne) (k : VTy → Rnd → VReg → VReg → MReg → Instr) :
    dVRed (readBack (eV m f t.code (q.code * 8) a a b l)) k = some (k t q a b l) := by
  have hw : (readBack (eV m f t.code (q.code * 8) a a b l)).w = t.code := rfl
  refine only_eq ?_ ?_
  · rw [hw, vty_code_eq_zero, mods_readBack (m := ⟨q, false⟩) rfl (hq.imp_left (by rintro rfl; rfl)) (.inr rfl)]
    simp [readBack, eV, Fields.noImm, Fields.laneOk, Fields.cA, vty_code_lt_three]
  · rw [rnd_readBack (r := q) rfl]
    simp [readBack, eV, Fields.lane]

theorem dVCmp_eV (a : MReg) (k : VTy → MReg → VReg → VReg → MReg → Instr) :
    dVCmp (readBack (eV m f t.code 0 a c b l)) k = some (k t a c b l) :=
  only_eq (by simp [readBack, eV, Fields.noImm, Fields.laneOk, vty_code_lt_three]) (by simp [readBack, eV, Fields.lane])

theorem dVMem_eV {v : Int} (q : Bool) (h : fitsSigned v 36 = true) (k : VReg → XReg → Int → Bool → MReg → Instr) :
    dVMem (readBack (eV m f 0 (rlxCode q) a a b l 0 (immFields v 0 0).2)) k = some (k a b v q l) := by
  obtain ⟨hq, hm⟩ := rlx_readBack (x := eV m f 0 (rlxCode q) a a b l 0 (immFields v 0 0).2) rfl
  refine only_eq ?_ ?_
  · rw [hm]
    simp [readBack, eV, Fields.laneOk, Fields.cA]
  · rw [hq]
    simp [readBack, eV, Fields.lane, immInt_imms 0 h]

theorem dVTile_eV (t : TileIx) (k : VReg → TileIx → XReg → MReg → Instr) :
    dVTile (readBack (eV m f 0 0 a a b l 0 [t.val])) k = some (k a t b l) :=
  only_eq (by simp [readBack, eV, Fields.laneOk, Fields.cA]) (by simp [readBack, eV, Fields.lane])

theorem dMBin_eV (a c b : MReg) (k : MReg → MReg → MReg → Instr) : decPage2.dMBin (readBack (eV m f 0 0 a c b 0)) k = some (k a c b) :=
  only_eq (by simp [readBack, eV, Fields.plain, Fields.noImm, Fields.noExt]) (by simp [readBack, eV])

theorem dMOut_eV (a : XReg) (b : MReg) (k : XReg → MReg → Instr) : decPage2.dMOut (readBack (eV m f 0 0 a a b 0)) k = some (k a b) :=
  only_eq (by simp [readBack, eV, Fields.plain, Fields.noImm, Fields.noExt, Fields.cA]) (by simp [readBack, eV])

end Page2

-- Pages 4 to 7

section Page4

variable (f : Nat) (a b : XReg) {n : Fin 7}

theorem payloadOk_iff {b : XReg} : payloadOk b n = true ↔ b.val + n.val ≤ 32 := decide_eq_true_iff

theorem dSend_eS (h : payloadOk b n = true) (k : XReg → XReg → Fin 7 → Instr) : dSend (readBack (eS f a b n)) k = some (k a b n) := by
  have := payloadOk_iff.mp h
  exact only_eq (by simp [readBack, eS, Fields.noImm, Fields.cA, this]; omega) (by simp [readBack, eS])

theorem dSendD_eS (d : XReg) (h : payloadOk b n = true) (k : XReg → XReg → Fin 7 → XReg → Instr) :
    dSendD (readBack (eS f a b n d)) k = some (k a b n d) := by
  have := payloadOk_iff.mp h
  exact only_eq (by simp [readBack, eS, Fields.noImm, Fields.cA, this]; omega) (by simp [readBack, eS])

theorem decode_sendv (n : Fin 7) : decodeFields (readBack (eS 6 a b n)) = some (.sendv a b n) :=
  only_eq (by simp [readBack, eS, Fields.noImm, Fields.cA]; omega) (by simp [readBack, eS])

end Page4

section Page5

variable (m f : Nat) (a b c d : XReg)

theorem dAmo_eP (z : AmoSize) (k : AmoSize → XReg → XReg → XReg → Instr) : dAmo (readBack (eP 5 m f a c b z.code)) k = some (k z a b c) :=
  only_eq (by simp [readBack, eP, Fields.noImm, Fields.noExt, amoSize_code_le_one]) (by simp [readBack, eP])

theorem decode_amocas (z : AmoSize) : decodeFields (readBack (eP 5 0 7 a c b z.code d)) = some (.amocas z a b c d) :=
  only_eq (by simp [readBack, eP, Fields.noImm, amoSize_code_le_one]) (by simp [readBack, eP])

theorem decode_vamoadd (t : VTy) (l : MReg) : decodeFields (readBack (eP 5 1 4 a a b t.code 0 l)) = some (.vamoadd t a b l) :=
  only_eq (by simp [readBack, eP, Fields.noImm, Fields.laneOk, Fields.cA, vty_code_lt_three]) (by simp [readBack, eP, Fields.lane])

theorem decode_vamoaddi (t : VTy) (l : MReg) : decodeFields (readBack (eP 5 1 5 a c b t.code 0 l)) = some (.vamoaddi t a b c l) :=
  only_eq (by simp [readBack, eP, Fields.noImm, Fields.laneOk, vty_code_lt_three]) (by simp [readBack, eP, Fields.lane])

/-- The four bounds of WAIT lie in A, B, F and one IMM prefix (R195). -/
theorem decode_wait (l s e q : Fin 16) {x : Fields} (hx : encodeFields (.wait l s e q) = some x) :
    decodeFields (readBack x) = some (.wait l s e q) := by
  cases hx
  refine only_eq ?_ ?_
  · simp [readBack, eP, needsReg]
    omega
  · simp only [readBack, eP, Instr.wait.injEq, Fin.ext_iff, Fin.val_ofNat]
    omega

end Page5

section Pages67

variable (m f : Nat) (a b : XReg)

theorem dTile_eP (t : TileIx) (k : XReg → TileIx → Instr) : dTile (readBack (eP 6 m f a a 0 0 0 0 [t.val])) k = some (k a t) :=
  only_eq (by simp [readBack, eP, Fields.noExt, Fields.cA]) (by simp [readBack, eP])

theorem dAB_eP (k : XReg → XReg → Instr) : decPage6.dAB (readBack (eP 6 m f a a b)) k = some (k a b) :=
  only_eq (by simp [readBack, eP, Fields.plain, Fields.noImm, Fields.noExt, Fields.cA]) (by simp [readBack, eP])

theorem decode_twait (t : TileIx) (q : TileCond) :
    decodeFields (readBack (eP 6 0 3 0 0 0 0 0 0 [t.val + if q = .empty then 64 else 0])) = some (.twait t q) := by
  cases q
  · exact only_eq (by simp [readBack, eP, Fields.noExt, Fields.cA]; omega) (by simp)
  · exact only_eq (by simp [readBack, eP, Fields.noExt, Fields.cA]; omega) (by simp [Fin.ext_iff])

theorem lowReg_iff {a : XReg} : lowReg a = true ↔ a.val < 16 := decide_eq_true_iff

theorem dCsr_eCsr (n : BitVec 12) (h : lowReg a = true) (k : XReg → BitVec 12 → Instr) : dCsr (readBack (eCsr f a n)) k = some (k a n) := by
  have := lowReg_iff.mp h
  have := n.isLt
  have hn : n.toNat / 16 * 16 + n.toNat % 16 = n.toNat := by omega
  exact only_eq (by simp [readBack, eCsr, eP, needsReg]; omega) (by simp [readBack, eCsr, eP, hn])

theorem decode_kill (h : lowReg a = true) : decodeFields (readBack (eP 7 1 2 a a 0)) = some (.kill a) := by
  have := lowReg_iff.mp h
  simp [decodeFields, decPage7, only, readBack, eP, needsReg, Fields.noImm, this]

theorem decode_iinv (h : lowReg b = true) : decodeFields (readBack (eP 7 1 3 0 0 b)) = some (.iinv b) := by
  have := lowReg_iff.mp h
  simp [decodeFields, decPage7, only, readBack, eP, needsReg, Fields.noImm, this]

theorem decode_tktq (ha : lowReg a = true) (hb : lowReg b = true) : decodeFields (readBack (eP 7 1 4 a a b)) = some (.tktq a b) := by
  have := lowReg_iff.mp ha
  have := lowReg_iff.mp hb
  simp [decodeFields, decPage7, only, readBack, eP, needsReg, Fields.noImm, *]

/-- TRAP has an IMM prefix only where its 17 bits need one (R291). -/
theorem decode_trap (i : BitVec 17) {x : Fields} (hx : encodeFields (.trap i) = some x) : decodeFields (readBack x) = some (.trap i) := by
  have := i.isLt
  have ha : i.toNat / 16 % 16 < 16 := Nat.mod_lt _ (by decide)
  have hb : i.toNat % 16 < 16 := Nat.mod_lt _ (by decide)
  cases hx
  by_cases h : i.toNat < 256
  · have hv : immNat 8 (i.toNat / 16 % 16 * 16 + i.toNat % 16) [] = i.toNat := by simp [immNat]; omega
    simp [decodeFields, decPage7, only, readBack, needsReg, eP, ha, hb, h, hv]
  · have hv : immNat 8 (i.toNat / 16 % 16 * 16 + i.toNat % 16) [i.toNat / 256] = i.toNat := by simp [immNat]; omega
    simp [decodeFields, decPage7, only, readBack, needsReg, eP, ha, hb, h, hv]

end Pages67

end Sys2Proof.Machine
end

section
/-! SUPPORT. The encoder's rows together (O1). -/

namespace Sys2Proof.Laws.Enc

/-- What each row's lemma says, for all of them: the encoder's fields are in range. -/
theorem encodeFields_inRange (i : Instr) : Statement i := by
  cases i with
  | add => apply add | sub => apply sub | and => apply and | or => apply or | xor => apply xor | andn => apply andn | orn => apply orn
  | xnor => apply xnor | shl => apply shl | shr => apply shr | sar => apply sar | rol => apply rol | ror => apply ror | min => apply min
  | max => apply max | minn => apply minn | mul => apply mul | mulh => apply mulh | mulhn => apply mulhn | div => apply div
  | divn => apply divn | rem => apply rem | remn => apply remn | maxn => apply maxn | seq => apply seq | sne => apply sne
  | slt => apply slt | sltn => apply sltn | sle => apply sle | slen => apply slen | sel => apply sel | clz => apply clz
  | ctz => apply ctz | popc => apply popc | brev => apply brev | bswap => apply bswap | sext => apply sext | zext => apply zext
  | mov => apply mov | addi => apply addi | li => apply li | andi => apply andi | ori => apply ori | xori => apply xori
  | shli => apply shli | shri => apply shri | sari => apply sari | rori => apply rori | ldSb => apply ldSb | ldNb => apply ldNb
  | ldSh => apply ldSh | ldNh => apply ldNh | ldSw => apply ldSw | ldNw => apply ldNw | ldD => apply ldD | stB => apply stB
  | stH => apply stH | stW => apply stW | stD => apply stD | bcEq => apply bcEq | bcNe => apply bcNe | bcLt => apply bcLt
  | bcGe => apply bcGe | bcLtn => apply bcLtn | bcGen => apply bcGen | br => apply br | call => apply call | jr => apply jr
  | callr => apply callr | ret => apply ret | nop => apply nop | brk => apply brk | fadd => apply fadd | fsub => apply fsub
  | fmul => apply fmul | fdiv => apply fdiv | fmin => apply fmin | fmax => apply fmax | fsqrt => apply fsqrt | fma => apply fma
  | fms => apply fms | fnma => apply fnma | fnms => apply fnms | feq => apply feq | flt => apply flt | fle => apply fle
  | funord => apply funord | fclass => apply fclass | fabs => apply fabs | fneg => apply fneg | fsign => apply fsign
  | fcvtF2i => apply fcvtF2i | fcvtF2n => apply fcvtF2n | fcvtI2f => apply fcvtI2f | fcvtN2f => apply fcvtN2f | fcvtFf => apply fcvtFf
  | fcvtF2e => apply fcvtF2e | fcvtE2f => apply fcvtE2f | vadd => apply vadd | vsub => apply vsub | vmul => apply vmul
  | vmin => apply vmin | vmax => apply vmax | vand => apply vand | vor => apply vor | vxor => apply vxor | vshl => apply vshl
  | vshr => apply vshr | vsar => apply vsar | vabs => apply vabs | vneg => apply vneg | vdiv => apply vdiv | vsqrt => apply vsqrt
  | vfma => apply vfma | vfms => apply vfms | vfnma => apply vfnma | vfnms => apply vfnms | vceq => apply vceq | vcne => apply vcne
  | vclt => apply vclt | vcle => apply vcle | vsel => apply vsel | vmov => apply vmov | vbcast => apply vbcast | vins => apply vins
  | vext => apply vext | viota => apply viota | vperm => apply vperm | vradd => apply vradd | vrmin => apply vrmin | vrmax => apply vrmax
  | vrand => apply vrand | vror => apply vror | vscan => apply vscan | vexp2 => apply vexp2 | vlog2 => apply vlog2 | vrcp => apply vrcp
  | vrsq => apply vrsq | vtanh => apply vtanh | vsigm => apply vsigm | vcvtF2s => apply vcvtF2s | vcvtS2f => apply vcvtS2f
  | vcvtF2n => apply vcvtF2n | vcvtN2f => apply vcvtN2f | vcvtFrnd => apply vcvtFrnd | vcvtF2bf => apply vcvtF2bf
  | vcvtF2e4 => apply vcvtF2e4 | vcvtF2e5 => apply vcvtF2e5 | vld => apply vld | vst => apply vst | vldx => apply vldx
  | vstx => apply vstx | vldb => apply vldb | vldt => apply vldt | vstt => apply vstt | mand => apply mand | mor => apply mor
  | mxor => apply mxor | mnot => apply mnot | mpop => apply mpop | mfirst => apply mfirst | mset => apply mset | mget => apply mget
  | sbind => apply sbind | sunbind => apply sunbind | srem => apply srem | bstr => apply bstr | send => apply send | sendR => apply sendR
  | sendm => apply sendm | sendg => apply sendg | fork => apply fork | sendc => apply sendc | sendv => apply sendv | sendQ => apply sendQ
  | chset => apply chset | chget => apply chget | chclr => apply chclr | patset => apply patset | patclr => apply patclr
  | patget => apply patget | exit => apply exit | exitf => apply exitf | amoadd => apply amoadd | amoand => apply amoand
  | amoor => apply amoor | amoxor => apply amoxor | amomin => apply amomin | amomax => apply amomax | amoswap => apply amoswap
  | amocas => apply amocas | amofadd => apply amofadd | amofadd64 => apply amofadd64 | amominn => apply amominn
  | amomaxn => apply amomaxn | vamoadd => apply vamoadd | vamoaddi => apply vamoaddi | wait => apply wait | tset => apply tset
  | trel => apply trel | tstat => apply tstat | twait => apply twait | subscr => apply subscr | unsub => apply unsub
  | fstat => apply fstat | mxm => apply mxm | mxz => apply mxz | mxd => apply mxd | mxstat => apply mxstat | drnld => apply drnld
  | adpinv => apply adpinv | csrr => apply csrr | csrw => apply csrw | csrset => apply csrset | csrclr => apply csrclr
  | trap => apply trap | rte => apply rte | kill => apply kill | iinv => apply iinv | tktq => apply tktq
  | _ => exact of_none rfl

end Sys2Proof.Laws.Enc
end

section
/-! SUPPORT. What the encoder writes names its instruction (O1): the forms above, row by row of the encoder's table (spec/03 R46, R47). -/

namespace Sys2Proof.Machine

open Sys2Proof.Laws.Enc

/-- The fields the encoder gives an instruction decode to it. -/
def FieldsDecode (i : Instr) : Prop := ∀ x, encodeFields i = some x → decodeFields (readBack x) = some i

theorem of_fields {i : Instr} {y : Fields} (h : encodeFields i = some y) (hy : decodeFields (readBack y) = some i) : FieldsDecode i := by
  intro x hx
  obtain rfl : y = x := Option.some.inj (h.symm.trans hx)
  exact hy

/-- An event has no encoding. -/
theorem fieldsDecode_of_none {i : Instr} (h : encodeFields i = none) : FieldsDecode i := by
  intro x hx
  rw [h] at hx
  cases hx

theorem rndOk_iff {t : VTy} {r : Rnd} : rndOk t r = true ↔ t = .f32 ∨ r = .rne := by simp [rndOk]

theorem rmodOk_parts {t : VTy} {m : RMod} (h : rmodOk t m = true) : (t = .f32 ∨ m.rnd = .rne) ∧ (t = .f32 ∨ m.sat = false) := by
  simp only [rmodOk, Bool.or_eq_true, Bool.and_eq_true, beq_iff_eq, Bool.not_eq_true'] at h
  exact ⟨h.imp_right And.left, h.imp_right And.right⟩

theorem decode_exitf {a : XReg} (h : lowReg a = true) : decodeFields (readBack (eP 4 3 1 a a 0)) = some (.exitf a) := by
  have := lowReg_iff.mp h
  simp [decodeFields, decPage4, only, readBack, eP, needsReg, Fields.bare, Fields.noImm, this]

theorem fieldsDecode {i : Instr} (h : i.wf = true) : FieldsDecode i := by
  cases i with
  | add a c b | sub a c b | and a c b | or a c b | xor a c b | andn a c b | orn a c b | xnor a c b | shl a c b | shr a c b | sar a c b
  | rol a c b | ror a c b | min a c b | max a c b | minn a c b | mul a c b | mulh a c b | mulhn a c b | div a c b | divn a c b
  | rem a c b | remn a c b | maxn a c b | seq a c b | sne a c b | slt a c b | sltn a c b | sle a c b | slen a c b =>
    exact of_fields rfl (dTri_eTri _ _ a c b _)
  | sel a c b d => exact of_fields rfl (by simp [decodeFields, decPage0, only, readBack, eTri, Fields.noImm])
  | clz a b | ctz a b | popc a b | brev a b | bswap a b | mov a b => exact of_fields rfl (dUna_eUna _ _ a b _)
  | sext iw a b | zext iw a b => exact of_fields rfl (dExt_eUna _ _ iw a b _)
  | addi a b v | andi a b v | ori a b v | xori a b v => exact of_fields rfl (dRim_eRim _ a b h _)
  | li a v => exact of_fields rfl (decode_li a h)
  | shli a b n | shri a b n | sari a b n | rori a b n => exact of_fields rfl (dShf_eShf _ a b n _)
  | ldSb a b v r | ldNb a b v r | ldSh a b v r | ldNh a b v r | ldSw a b v r | ldNw a b v r | ldD a b v r | stB a b v r | stH a b v r
  | stW a b v r | stD a b v r => exact of_fields rfl (dMem_eMem _ _ a b r h _)
  | bcEq a b d | bcNe a b d | bcLt a b d | bcGe a b d | bcLtn a b d | bcGen a b d => exact of_fields rfl (dCbr_eCbr _ a b h _)
  | br d | call d => exact of_fields rfl (dJmp_eJmp _ h _)
  | jr b | callr b => exact of_fields rfl (by simp [decodeFields, decPage0, only, readBack, dJrg, Fields.noExt, Fields.noImm])
  | ret | nop | brk => exact of_fields rfl rfl
  | fadd w m a c b | fsub w m a c b | fmul w m a c b | fdiv w m a c b | fma w m a c b | fms w m a c b | fnma w m a c b | fnms w m a c b =>
    exact of_fields rfl (dFBin_eF _ _ h m a c b _)
  | fmin w a c b | fmax w a c b | feq w a c b | flt w a c b | fle w a c b | funord w a c b | fsign w a c b =>
    exact of_fields rfl (dFBin0_eF _ _ h a c b _)
  | fclass w a b | fabs w a b | fneg w a b => exact of_fields rfl (dFUna0_eF _ _ h a b _)
  | fsqrt w m a b | fcvtI2f w m a b | fcvtN2f w m a b => exact of_fields rfl (dFCvt_eF _ _ h m a b (.inl rfl) _)
  | fcvtF2i w q a b => exact of_fields rfl (dFCvt_eF _ _ h ⟨q, false⟩ a b (.inr rfl) fun w m a b => .fcvtF2i w m.rnd a b)
  | fcvtF2n w q a b => exact of_fields rfl (dFCvt_eF _ _ h ⟨q, false⟩ a b (.inr rfl) fun w m a b => .fcvtF2n w m.rnd a b)
  | fcvtFf w s m a b => exact of_fields rfl (decode_fcvtFf m a b w s)
  | fcvtF2e w e m a b => exact of_fields rfl (decode_fcvtF2e h m a b e)
  | fcvtE2f w e a b => exact of_fields rfl (decode_fcvtE2f h a b e)
  | vadd t m a c b l | vsub t m a c b l | vmul t m a c b l => exact of_fields rfl (dVBin_eV _ _ t m a c b l (rndOk_iff.mp h) (.inl rfl) _)
  | vdiv t m a c b l | vfma t m a c b l | vfms t m a c b l | vfnma t m a c b l | vfnms t m a c b l =>
    exact of_fields rfl (dVBin_eV _ _ t m a c b l (rmodOk_parts h).1 (.inr (rmodOk_parts h).2) _)
  | vmin t a c b l | vmax t a c b l => exact of_fields rfl (dVBinT_eV _ _ t a c b l _)
  | vand a c b l | vor a c b l | vxor a c b l | vshl a c b l | vshr a c b l | vsar a c b l | vperm a c b l =>
    exact of_fields rfl (dVBin0_eV _ _ a c b l _)
  | vabs t a b l | vneg t a b l => exact of_fields rfl (dVUnaT_eV _ _ t a b l (vty_code_lt_two h) _)
  | vrmin t a b l | vrmax t a b l => exact of_fields rfl (dVUnaT_eV _ _ t a b l (vty_code_lt_three t) _)
  | vsqrt m a b l | vexp2 m a b l | vlog2 m a b l | vrcp m a b l | vrsq m a b l | vtanh m a b l | vsigm m a b l | vcvtS2f m a b l
  | vcvtN2f m a b l | vcvtF2bf m a b l | vcvtF2e4 m a b l | vcvtF2e5 m a b l =>
    exact of_fields rfl (dVUna_eV _ _ m a b l (.inl rfl) (.inl rfl) _)
  | vcvtF2s q a b l => exact of_fields rfl (dVUna_eV _ _ ⟨q, false⟩ a b l (.inl rfl) (.inr rfl) fun m => .vcvtF2s m.rnd)
  | vcvtF2n q a b l => exact of_fields rfl (dVUna_eV _ _ ⟨q, false⟩ a b l (.inl rfl) (.inr rfl) fun m => .vcvtF2n m.rnd)
  | vcvtFrnd q a b l => exact of_fields rfl (dVUna_eV _ _ ⟨q, false⟩ a b l (.inl rfl) (.inr rfl) fun m => .vcvtFrnd m.rnd)
  | vmov a b l => exact of_fields rfl (dVUna_eV _ _ ⟨.rne, false⟩ a b l (.inr rfl) (.inr rfl) fun _ => .vmov)
  | vbcast a b l => exact of_fields rfl (dVUna_eV _ _ ⟨.rne, false⟩ a b l (.inr rfl) (.inr rfl) fun _ => .vbcast)
  | vrand a b l => exact of_fields rfl (dVUna_eV _ _ ⟨.rne, false⟩ a b l (.inr rfl) (.inr rfl) fun _ => .vrand)
  | vror a b l => exact of_fields rfl (dVUna_eV _ _ ⟨.rne, false⟩ a b l (.inr rfl) (.inr rfl) fun _ => .vror)
  | vceq t a c b l | vcne t a c b l | vclt t a c b l | vcle t a c b l => exact of_fields rfl (dVCmp_eV _ _ t c b l a _)
  | vradd t q a b l | vscan t q a b l => exact of_fields rfl (dVRed_eV _ _ t a b l (rndOk_iff.mp h) _)
  | vsel a c b d l => exact of_fields rfl (by simp [decodeFields, decPage2, only, readBack, eV, Fields.noImm, Fields.lane])
  | vins a b n => exact of_fields rfl (by simp [decodeFields, decPage2, only, readBack, eV, Fields.plain, Fields.noImm, Fields.noExt])
  | vext t a b n =>
    exact of_fields rfl (by simp [decodeFields, decPage2, only, readBack, eV, Fields.noImm, Fields.noExt, vty_code_lt_three])
  | viota a b l =>
    exact of_fields rfl (by simp [decodeFields, decPage2, only, readBack, eV, Fields.noImm, Fields.laneOk, Fields.cA, Fields.lane])
  | vld a b v q l | vst a b v q l | vldb a b v q l => exact of_fields rfl (dVMem_eV _ _ a b l q h _)
  | vldx a b c l | vstx a b c l =>
    exact of_fields rfl (by simp [decodeFields, decPage2, only, readBack, eV, Fields.noImm, Fields.laneOk, Fields.lane])
  | vldt a t b l | vstt a t b l => exact of_fields rfl (dVTile_eV _ _ a b l t _)
  | mand a c b | mor a c b | mxor a c b => exact of_fields rfl (dMBin_eV _ _ a c b _)
  | mnot a b | mset a b =>
    exact of_fields rfl (by simp [decodeFields, decPage2, only, readBack, eV, Fields.plain, Fields.noImm, Fields.noExt, Fields.cA])
  | mpop a b | mfirst a b | mget a b => exact of_fields rfl (dMOut_eV _ _ a b _)
  | sbind s b c => exact of_fields rfl (by simp [decodeFields, decPage2, only, readBack, eV, Fields.plain, Fields.noImm, Fields.noExt])
  | sunbind s =>
    exact of_fields rfl (by simp [decodeFields, decPage2, only, readBack, eV, Fields.plain, Fields.noImm, Fields.noExt, Fields.cA])
  | srem a s =>
    exact of_fields rfl (by simp [decodeFields, decPage2, only, readBack, eV, Fields.plain, Fields.noImm, Fields.noExt, Fields.cA])
  | bstr s b =>
    exact of_fields rfl (by simp [decodeFields, decPage2, only, readBack, eV, Fields.plain, Fields.noImm, Fields.noExt, Fields.cA])
  | send a b n | sendR a b n | sendg a b n | fork a b n | sendc a b n => exact of_fields rfl (dSend_eS _ a b h _)
  | sendm a b n d | sendQ a b n d => exact of_fields rfl (dSendD_eS _ a b d h _)
  | sendv a b n => exact of_fields rfl (decode_sendv a b n)
  | chset a c b | chget a c b | patset a c b | patget a c b =>
    exact of_fields rfl (by simp [decodeFields, decPage4, only, readBack, eP, Fields.plain, Fields.noImm, Fields.noExt])
  | chclr a c | patclr a c =>
    exact of_fields rfl (by simp [decodeFields, decPage4, only, readBack, eP, Fields.plain, Fields.noImm, Fields.noExt])
  | exit => exact of_fields rfl rfl
  | exitf a => exact of_fields rfl (decode_exitf h)
  | amoadd z a b c | amoand z a b c | amoor z a b c | amoxor z a b c | amomin z a b c | amomax z a b c | amoswap z a b c
  | amominn z a b c | amomaxn z a b c => exact of_fields rfl (dAmo_eP _ _ a b c z _)
  | amocas z a b c d => exact of_fields rfl (decode_amocas a b c d z)
  | amofadd a b c | amofadd64 a b c =>
    exact of_fields rfl (by simp [decodeFields, decPage5, only, readBack, eP, Fields.plain, Fields.noImm, Fields.noExt])
  | vamoadd t a b l => exact of_fields rfl (decode_vamoadd a b t l)
  | vamoaddi t a b c l => exact of_fields rfl (decode_vamoaddi a b c t l)
  | wait l s e q => exact fun _ => decode_wait l s e q
  | tset a c b | drnld a c b =>
    exact of_fields rfl (by simp [decodeFields, decPage6, only, readBack, eP, Fields.plain, Fields.noImm, Fields.noExt])
  | trel a t | tstat a t => exact of_fields rfl (dTile_eP _ _ a t _)
  | twait t q => exact of_fields rfl (decode_twait t q)
  | subscr a b | unsub a b | fstat a b | mxd a b => exact of_fields rfl (dAB_eP _ _ a b _)
  | mxm a b =>
    exact of_fields rfl (by simp [decodeFields, decPage6, only, readBack, eP, Fields.plain, Fields.noImm, Fields.noExt, Fields.cA])
  | mxz | rte => exact of_fields rfl rfl
  | mxstat a =>
    exact of_fields rfl (by simp [decodeFields, decPage6, only, readBack, eP, Fields.plain, Fields.noImm, Fields.noExt, Fields.cA])
  | adpinv b =>
    exact of_fields rfl (by simp [decodeFields, decPage6, only, readBack, eP, Fields.plain, Fields.noImm, Fields.noExt, Fields.cA])
  | csrr a n | csrw a n | csrset a n | csrclr a n => exact of_fields rfl (dCsr_eCsr _ a n h _)
  | trap v => exact fun _ => decode_trap v
  | kill a => exact of_fields rfl (decode_kill a h)
  | iinv b => exact of_fields rfl (decode_iinv b h)
  | tktq a b => exact of_fields rfl (decode_tktq a b (Bool.and_eq_true_iff.mp h).1 (Bool.and_eq_true_iff.mp h).2)
  | _ => exact fieldsDecode_of_none rfl

-- Where a chain of four prefixes holds the instruction, and where it does not (R37)

theorem encode_some {i : Instr} {hs : List Half} (h : encode i = some hs) : ∃ x, encodeFields i = some x ∧ assemble x = hs :=
  Option.map_eq_some_iff.mp h

theorem length_assemble (x : Fields) : (assemble x).length = (prefixesOf x).length + 1 := by
  rw [assemble_eq, List.length_append, List.length_singleton]

/-- An encoding of at most four prefixes decodes to its instruction: what holds of O1. -/
theorem decode_encode {i : Instr} {hs : List Half} (hwf : i.wf = true) (he : encode i = some hs) (hl : hs.length ≤ 5) (rest : List Half) :
    decode (hs ++ rest) = .ok (i, hs.length) := by
  obtain ⟨x, hx, rfl⟩ := encode_some he
  rw [length_assemble] at hl
  exact decode_assemble (encodeFields_inRange i x hx) (by omega) (fieldsDecode hwf x hx) rest

/-- An encoding of five prefixes or more is refused: where O1 fails. -/
theorem decode_encode_tooLong {i : Instr} {hs : List Half} (he : encode i = some hs) (hl : 5 < hs.length) (rest : List Half) :
    ∃ tv, decode (hs ++ rest) = .error ⟨.badPrefix, tv⟩ := by
  obtain ⟨x, hx, rfl⟩ := encode_some he
  rw [length_assemble] at hl
  exact decode_assemble_tooLong (encodeFields_inRange i x hx) (by omega) rest

end Sys2Proof.Machine
end

section
/-! SUPPORT. CSR accesses and privileged instructions that trap (O37; spec/16 R286, R289, R290). -/

namespace Sys2Proof.Machine

open Sys2Proof.Terms

-- The access checks of R286, in their order

theorem csrCheck_unlisted {ctrl : Bool} {n : Nat} (h : csrListed ctrl n = false) (sup wr : Bool) :
    csrCheck ctrl sup n wr = some cILLEGAL := by
  simp [csrCheck, h]

theorem csrCheck_readOnly {n : Nat} (h : csrReadOnly n = true) (ctrl sup : Bool) : csrCheck ctrl sup n true = some cILLEGAL := by
  simp [csrCheck, h]

theorem csrCheck_unprivileged {sup wr : Bool} {n : Nat} (hl : csrListed false n = true) (hw : wr = true → csrReadOnly n = false)
    (h : 0x800 ≤ n ∨ (0x100 ≤ n ∧ sup = false)) : csrCheck false sup n wr = some cPRIV := by
  have hro : (wr && csrReadOnly n) = false := by cases wr <;> simp_all
  have hp : 0x800 ≤ n ∨ (0x100 ≤ n ∧ (!sup) = true) := by simpa using h
  unfold csrCheck
  rw [hl, hro, if_neg (by decide), if_neg (by decide), if_neg (by decide), if_pos hp]

/-- A CSR instruction traps with the cause its checks give; ILLEGAL carries the encoding (R45). -/
theorem csrAccess_refused {s : State} {csr : BitVec 12} {wr : Bool} {e : BitVec 8} (f : Nat) (a : XReg) (k : State → Res)
    (h : csrCheck (curCore s).ctrl (curSlot s).sup csr.toNat wr = some e) :
    csrAccess s f a csr wr k = trap s e (if e = cILLEGAL then csrTval f a csr.toNat else 0) := by
  unfold csrAccess
  rw [h]

/-- The four CSR instructions check their access before all else. -/
theorem exec_csrAccess {i : Instr} {a : XReg} {n : BitVec 12} {f : Nat} {wr : Bool}
    (hi : i = .csrr a n ∧ f = 0 ∧ wr = false ∨ i = .csrw a n ∧ f = 1 ∧ wr = true ∨ i = .csrset a n ∧ f = 2 ∧ wr = true ∨
      i = .csrclr a n ∧ f = 3 ∧ wr = true) (s : State) : ∃ k, exec i s = csrAccess s f a n wr k := by
  obtain ⟨rfl, rfl, rfl⟩ | ⟨rfl, rfl, rfl⟩ | ⟨rfl, rfl, rfl⟩ | ⟨rfl, rfl, rfl⟩ := hi
  · show ∃ k, execCsrr a n s = csrAccess s 0 a n false k
    exact ⟨_, rfl⟩
  · show ∃ k, execCsrw a n s = csrAccess s 1 a n true k
    exact ⟨_, rfl⟩
  · show ∃ k, execCsrset a n s = csrAccess s 2 a n true k
    exact ⟨_, rfl⟩
  · show ∃ k, execCsrclr a n s = csrAccess s 3 a n true k
    exact ⟨_, rfl⟩

theorem needSup_user {s : State} (k : State → Res) (hs : (curSlot s).sup = false) (hc : (curCore s).ctrl = false) :
    needSup s k = trap s cPRIV 0 := by
  simp [needSup, privileged, hs, hc]

/-- Settles O37: each condition is the first check of R286 that fails. -/
theorem privilegedAccessesTrap : Obligations.PrivilegedAccessesTrap := by
  unfold Obligations.PrivilegedAccessesTrap
  constructor
  · intro s i a n f wr hi m readOnly listed
    obtain ⟨k, hk⟩ := exec_csrAccess hi s
    have illegal (h : csrCheck (curCore s).ctrl (curSlot s).sup m wr = some cILLEGAL) : traps i s 0x01 (csrTval f a m) :=
      hk.trans (csrAccess_refused f a k h)
    have priv (h : csrCheck (curCore s).ctrl (curSlot s).sup m wr = some cPRIV) : traps i s 0x09 0 :=
      hk.trans (csrAccess_refused f a k h)
    have hread : csrReadOnly m = decide readOnly := rfl
    have hlist (ctrl : Bool) : csrListed ctrl m = true ↔ listed ∨ if ctrl then 0x820 ≤ m ∧ m ≤ 0x823 else 0x800 ≤ m := by
      cases ctrl <;> simp [csrListed, listed, readOnly] <;> omega
    refine ⟨fun hm hl => illegal (csrCheck_unlisted ?_ _ _), fun hw hr => ?_, fun hm hl hw hsup hs hc => priv ?_, fun hm hc => priv ?_,
      fun hm hrange hc => illegal (csrCheck_unlisted ?_ _ _)⟩
    · exact Bool.eq_false_iff.mpr fun h => ((hlist _).mp h).elim hl fun h => by split at h <;> omega
    · subst hw
      exact illegal (csrCheck_readOnly (by rw [hread]; exact decide_eq_true hr) _ _)
    · rw [hc]
      exact csrCheck_unprivileged ((hlist _).mpr (.inl hl)) (fun h => by rw [hread]; exact decide_eq_false (hw h)) (.inr ⟨hsup, hs⟩)
    · rw [hc]
      exact csrCheck_unprivileged ((hlist _).mpr (.inr hm)) (fun _ => by rw [hread]; exact decide_eq_false (by omega)) (.inl hm)
    · rw [hc]
      exact Bool.eq_false_iff.mpr fun h => ((hlist _).mp h).elim (by omega) fun h => by simp at h; omega
  · intro s a b hs hc
    exact ⟨(needSup_user _ hs hc : execRte s = _), (needSup_user _ hs hc : execKill a s = _), (needSup_user _ hs hc : execIinv b s = _),
      (needSup_user _ hs hc : execTktq a b s = _)⟩

end Sys2Proof.Machine
end

section
/-! SUPPORT. What a slot takes at a boundary (O41; spec/16 R275, R281, R283, spec/18 R319). -/

namespace Sys2Proof.Machine

open Sys2Proof.Terms

-- Replay bursts leave the slots

/-- Every slot of every core is as it was. -/
structure SameSlots (s t : State) : Prop where
  slots : ∀ y, (getCore t y).slots = (getCore s y).slots

theorem SameSlots.refl (s : State) : SameSlots s s := ⟨fun _ => rfl⟩

theorem SameSlots.trans {s t u : State} (h : SameSlots s t) (h' : SameSlots t u) : SameSlots s u :=
  ⟨fun y => (h'.slots y).trans (h.slots y)⟩

theorem SameSlots.getSlot {s t : State} (h : SameSlots s t) (x : Nat) (k : Fin 4) : getSlot t x k = getSlot s x k := by
  unfold Machine.getSlot
  rw [h.slots x]

theorem sameSlots_setCore {s : State} {x : Nat} {c : Core} (h : c.slots = (getCore s x).slots) : SameSlots s (setCore s x c) := by
  refine ⟨fun y => ?_⟩
  by_cases hy : y = x
  · subst hy
    rw [getCore_setCore_self, h]
  · rw [getCore_setCore_of_ne s c hy]

theorem sameSlots_updCore (s : State) (x : Nat) {f : Core → Core} (h : ∀ c, (f c).slots = c.slots) : SameSlots s (updCore s x f) :=
  sameSlots_setCore (h _)

theorem sameSlots_launch (s : State) (x : Nat) (r : Req) : SameSlots s (launch s x r) := by
  unfold launch
  dsimp only
  split
  · split
    · exact ⟨fun _ => rfl⟩
    · exact ⟨fun _ => rfl⟩
    · split <;> exact ⟨fun _ => rfl⟩
  · exact ⟨fun _ => rfl⟩

theorem sameSlots_pumpList (x : Nat) (rs : List Req) (s : State) : SameSlots s (pumpList x rs s) := by
  induction rs generalizing s with
  | nil => exact .refl s
  | cons r rs ih =>
    unfold pumpList
    dsimp only
    split
    · exact (sameSlots_setCore (c := setReq (getCore s x) _) rfl).trans ((sameSlots_launch ..).trans (ih _))
    · exact ih s

theorem setReqs_slots (rs : List Req) (c : Core) : (rs.foldl setReq c).slots = c.slots :=
  foldl_related (fun c d : Core => d.slots = c.slots) (fun _ => rfl) (fun h h' => h'.trans h) (f := setReq) (fun _ _ => rfl) rs c

theorem countUnless_slots (b : Bool) (c : Core) : (if b = true then c else countEv c 4).slots = c.slots := by
  split <;> rfl

theorem sameSlots_sendBurst (s : State) (x : Nat) (t : BitVec 16) (h : Endpoint) : SameSlots s (sendBurst s x t h) := by
  obtain ⟨c, rs, hc, hb⟩ : ∃ (c : Core) (rs : List Req), c.slots = (getCore s x).slots ∧
      sendBurst s x t h = updCore (pump (rs.foldl (fun s r => launch s x r) (setCore s x c)) x) x settleBursts := by
    refine ⟨_, _, (setReqs_slots ..).trans ((countUnless_slots ..).trans ?_), rfl⟩
    split <;> rfl
  have hlaunch (u : State) : SameSlots u (rs.foldl (fun s r => launch s x r) u) :=
    foldl_related SameSlots .refl .trans (fun s r => sameSlots_launch s x r) rs u
  rw [hb]
  exact (sameSlots_setCore hc).trans ((hlaunch _).trans ((sameSlots_pumpList ..).trans (sameSlots_updCore _ _ fun _ => rfl)))

theorem sameSlots_dropHold (s : State) (h src : Endpoint) (t : BitVec 16) : SameSlots s (dropHold s h src t) := by
  unfold dropHold
  dsimp only
  split
  · exact ⟨fun _ => rfl⟩
  · exact sameSlots_updCore _ _ fun _ => rfl
  · exact ⟨fun _ => rfl⟩
  · exact .refl s

/-- What follows a reported failure of a ticket changes no slot (R278). -/
theorem sameSlots_settleFailed (s : State) (x : Nat) : SameSlots s (settleFailed s x) := by
  refine foldl_related SameSlots .refl .trans (fun u e => ?_) _ s
  split
  · unfold resendRest
    refine SameSlots.trans ?_ (sameSlots_sendBurst ..)
    split
    · exact sameSlots_dropHold ..
    · exact .refl u
  · exact .refl u

-- When a late event or a STEP is taken (R275)

theorem inSup_user {c : Core} {sl : Slot} (h : sl.sup = false ∨ c.ctrl = true) : inSup c sl = false := by
  obtain h | h := h <;> simp [inSup, h]

/-- Outside a handler that has not set NEST, traps are taken. -/
theorem takesTraps {c : Core} {sl : Slot} (h : (sl.sup = false ∨ c.ctrl = true) ∨ sl.nest = true) : (inSup c sl && !sl.nest) = false := by
  obtain h | h := h
  · simp [inSup_user h]
  · simp [h]

theorem lateOpen_due {c : Core} {sl : Slot} (hq : sl.strictReq = none) (hd : sl.due ≠ []) (hs : (inSup c sl && !sl.nest) = false) :
    lateOpen c sl = true := by
  have hs' : (!inSup c sl || sl.nest) = true := by cases h : inSup c sl <;> simp_all
  simp [lateOpen, hq, hd, hs']

/-- The refusal of the request that STRICT waits for is open at once (R283). -/
theorem lateOpen_strict {c : Core} {sl : Slot} {d : Due} (hq : sl.strictReq = some d.seqn) (hd : d ∈ sl.due)
    (hr : ∀ r ∈ c.reqs, r.seqn ≠ d.seqn) : lateOpen c sl = true := by
  have hdone : strictDone c d.seqn = true := by simpa [strictDone] using hr
  have hany : sl.due.any (fun e => e.seqn == d.seqn) = true := List.any_eq_true.mpr ⟨d, hd, by simp⟩
  simp [lateOpen, strictRefused, hq, hdone, hany]

theorem lateOpen_handler {c : Core} {sl : Slot} (hq : sl.strictReq = none) (hs : inSup c sl = true) (hn : sl.nest = false) :
    lateOpen c sl = false := by
  simp [lateOpen, hq, hs, hn]

theorem stepOpen_owed {c : Core} {sl : Slot} (ho : sl.stepOwed = true) (hs : inSup c sl = false) (hq : sl.strictReq = none)
    (hl : lateOpen c sl = false) : stepOpen c sl = true := by
  simp [stepOpen, ho, hs, hq, hl]

/-- A late event goes before a STEP. -/
theorem stepOpen_late {c : Core} {sl : Slot} (hl : lateOpen c sl = true) : stepOpen c sl = false := by
  simp [stepOpen, hl]

theorem stepOpen_handler {c : Core} {sl : Slot} (hs : inSup c sl = true) : stepOpen c sl = false := by
  simp [stepOpen, hs]

theorem slotTurn_late {ex : Instr → State → Res} {x : Nat} {k : Fin 4} {s : State} (hl : lateOpen (getCore s x) (getSlot s x k) = true) :
    slotTurn ex x k s = ex (.lateTrapTaken x k) { s with cur := (x, k) } :=
  if_pos hl

theorem slotTurn_step {ex : Instr → State → Res} {x : Nat} {k : Fin 4} {s : State} (hl : lateOpen (getCore s x) (getSlot s x k) = false)
    (hp : stepOpen (getCore s x) (getSlot s x k) = true) : slotTurn ex x k s = ex (.step x k) { s with cur := (x, k) } :=
  (if_neg (by rw [← Bool.not_eq_true] at hl; exact hl)).trans (if_pos hp)

-- The oldest event

theorem oldestDue_concat (l : List Due) (e : Due) :
    oldestDue (l ++ [e]) = match oldestDue l with
      | none => some e
      | some b => if e.seqn < b.seqn then some e else some b := by
  have h : oldestDue (l ++ [e]) = match oldestDue l with
      | none => some e
      | some b => if e.seqn < b.seqn then some e else oldestDue l := List.foldl_concat ..
  rw [h]
  split
  · rfl
  · next b hb => rw [hb]

theorem oldestDue_mem {l : List Due} {b : Due} (h : oldestDue l = some b) : b ∈ l := by
  induction l using List.reverseRecOn generalizing b with
  | nil => cases h
  | append_singleton l e ih =>
    rw [oldestDue_concat] at h
    split at h
    · cases h; simp
    · next c hc =>
      split at h
      · cases h; simp
      · cases h; simp [ih hc]

/-- The event of the oldest request, where it is the only one so old. -/
theorem oldestDue_eq {l : List Due} {d : Due} (hd : d ∈ l) (hold : ∀ e ∈ l, e ≠ d → d.seqn < e.seqn) : oldestDue l = some d := by
  induction l using List.reverseRecOn with
  | nil => cases hd
  | append_singleton l e ih =>
    rw [oldestDue_concat]
    by_cases hl : d ∈ l
    · rw [ih hl fun c hc => hold c (by simp [hc])]
      dsimp only
      split
      · next hlt =>
        by_cases he : e = d
        · rw [he]
        · have := hold e (by simp) he
          omega
      · rfl
    · obtain rfl : d = e := by simpa [hl] using hd
      cases hb : oldestDue l with
      | none => rfl
      | some b =>
        have hmem := oldestDue_mem hb
        exact if_pos (hold b (by simp [hmem]) (by rintro rfl; exact hl hmem))

-- What the events do

theorem runnable_of_mode {sl : Slot} (h : sl.mode = .run ∨ sl.mode = .stalled) : runnable sl = true := by
  obtain h | h := h <;> simp [runnable, h]

theorem execLateTrapTaken_closed {x : Nat} {k : Fin 4} {s : State} (hl : lateOpen (getCore s x) (getSlot s x k) = false) :
    execLateTrapTaken x k s = .next s := by
  simp [execLateTrapTaken, hl]

theorem execStep_closed {x : Nat} {k : Fin 4} {s : State} (hp : stepOpen (getCore s x) (getSlot s x k) = false) :
    execStep x k s = .next s := by
  simp [execStep, hp]

theorem execStep_open {x : Nat} {k : Fin 4} {s : State} (hr : runnable (getSlot s x k) = true)
    (hp : stepOpen (getCore s x) (getSlot s x k) = true) :
    execStep x k s =
      .next (takeTrap (setSlot s x k fun q => { q with stepOwed := false }) x k { cause := 0x19, epc := (getSlot s x k).pc }) := by
  simp only [execStep, hr, hp, Bool.and_self, if_true]
  rfl

/-- The slot no longer owes the event. -/
def withoutDue (s : State) (x : Nat) (k : Fin 4) (d : Due) : State :=
  setSlot s x k fun q => { q with due := q.due.filter fun e => e.uid != d.uid }

/-- What a late event records when it is taken (R273, R281). -/
def lateTrap (sl : Slot) (d : Due) : TrapInfo :=
  { cause := d.cause, tval := d.tval, epc := sl.pc, seqn := some d.seqn, late := d.late,
    exact := decide (d.strictAt = some sl.pc ∨ sl.retired = d.retAt), req := d.req }

theorem dueExact_eq (sl : Slot) (d : Due) : dueExact sl d = decide (d.strictAt = some sl.pc ∨ sl.retired = d.retAt) := by
  simp [dueExact, Bool.decide_or, Bool.beq_eq_decide_eq]

section Late

variable {s : State} {x : Nat} {k : Fin 4} {d : Due} (hr : runnable (getSlot s x k) = true)
  (hl : lateOpen (getCore s x) (getSlot s x k) = true) (hd : dueNow (getCore s x) (getSlot s x k) = some d)

include hr hl hd

/-- A late event that no REPLAY pattern turns into something else traps. -/
theorem execLateTrapTaken_traps
    (ht : d.cause = 0x12 → (getSlot s x k).replayable = false ∧ ∀ f, (getSlot s x k).fired = some f → f.replay = false) :
    execLateTrapTaken x k s = .next (settleFailed (takeTrap (withoutDue s x k d) x k (lateTrap (getSlot s x k) d)) x) := by
  have hno : ¬(d.cause = cREFUE ∧ (getSlot s x k).replayable = true) := fun ⟨hc, hrep⟩ => by simp [(ht hc).1] at hrep
  have hplain : (if d.cause = cREFUE then unreplayable (withoutDue s x k d) x k d.cause.toNat d.tval (getSlot s x k).pc (tseqOf d.seqn)
      else withoutDue s x k d) = withoutDue s x k d := by
    split
    · next hc =>
      have hf : (getSlot (withoutDue s x k d) x k).fired = (getSlot s x k).fired := by rw [withoutDue, getSlot_setSlot_self]
      unfold unreplayable
      rw [hf, if_neg]
      cases hfired : (getSlot s x k).fired with
      | none => simp
      | some f => simp [(ht hc).2 f hfired]
    · rfl
  unfold execLateTrapTaken
  simp only [hr, hl, hd, Bool.not_true, Bool.or_self, Bool.false_eq_true, if_false, hno]
  rw [← withoutDue, hplain, dueExact_eq]
  rfl

/-- In a replayable activation an uncorrectable error ends it (R307). -/
theorem execLateTrapTaken_replays (hc : d.cause = 0x12) (hrep : (getSlot s x k).replayable = true) :
    execLateTrapTaken x k s = .next (replayError (withoutDue s x k d) x k d.cause.toNat d.tval) := by
  unfold execLateTrapTaken
  simp only [hr, hl, hd, Bool.not_true, Bool.or_self, Bool.false_eq_true, if_false]
  exact if_pos ⟨hc, hrep⟩

end Late

/-- A trap that is taken, at a core with a handler, enters it (R270). -/
theorem getSlot_takeTrap {s : State} {x : Nat} {k : Fin 4} {t : TrapInfo}
    (hs : (inSup (getCore s x) (getSlot s x k) && !(getSlot s x k).nest) = false) (ht : (getCore s x).tvec ≠ 0) :
    getSlot (takeTrap s x k t) x k = handlerSlot (getCore s x) t (getSlot s x k) := by
  have htrap : takeTrap s x k t = setSlot (trace s x k 3 t.cause.toNat t.epc t.tval.toNat) x k (handlerSlot (getCore s x) t) := by
    unfold getSlot at hs
    unfold takeTrap
    dsimp only
    rw [hs, if_neg Bool.false_ne_true, if_neg ht]
    rfl
  rw [htrap, getSlot_setSlot_self]
  unfold getSlot
  rw [trace_slots]

/-- The handler that a late event enters finds the slot as it was, without the event (R270, R275). -/
theorem getSlot_lateTaken {s : State} {x : Nat} {k : Fin 4} {d : Due}
    (hs : (inSup (getCore s x) (getSlot s x k) && !(getSlot s x k).nest) = false) (ht : (getCore s x).tvec ≠ 0) (t : TrapInfo) :
    getSlot (settleFailed (takeTrap (withoutDue s x k d) x k t) x) x k =
      handlerSlot (getCore s x) t { getSlot s x k with due := (getSlot s x k).due.filter fun e => e.uid != d.uid } := by
  have hslot : getSlot (withoutDue s x k d) x k = { getSlot s x k with due := (getSlot s x k).due.filter fun e => e.uid != d.uid } :=
    getSlot_setSlot_self ..
  have hcore : getCore (withoutDue s x k d) x = { getCore s x with slots := (getCore (withoutDue s x k d) x).slots } := by
    rw [withoutDue, getCore_setSlot_self]
  rw [(sameSlots_settleFailed ..).getSlot, getSlot_takeTrap, hslot, hcore]
  · rfl
  · rw [hslot, hcore]
    exact hs
  · rw [hcore]
    exact ht

theorem dueNow_oldest {c : Core} {sl : Slot} {d : Due} (hs : (inSup c sl && !sl.nest) = false) (hd : d ∈ sl.due)
    (hold : ∀ e ∈ sl.due, e ≠ d → d.seqn < e.seqn) : dueNow c sl = some d := by
  unfold dueNow
  rw [hs, if_neg Bool.false_ne_true]
  exact oldestDue_eq hd hold

/-- Of one event alone it does not matter whether it is taken as the oldest or as the refusal that STRICT waits for. -/
theorem dueNow_strict {c : Core} {sl : Slot} {d : Due} (hd : sl.due = [d]) (hq : sl.strictReq = some d.seqn) : dueNow c sl = some d := by
  unfold dueNow
  rw [hd, hq]
  split
  · simp
  · rfl

/-- An uncorrectable error ends the activation of the current slot, and its message goes back (R307). -/
theorem replayError_withoutDue {s : State} (ha : alone s) (hrep : (curSlot s).replayable = true)
    (hret : ∀ f, (curSlot s).fired = some f → f.returned = false) (d : Due) (cause : Nat) (tval : Word) :
    let t := replayError (withoutDue s s.cur.1 s.cur.2 d) s.cur.1 s.cur.2 cause tval
    (getSlot t s.cur.1 s.cur.2).mode = .closing ∧ (getSlot t s.cur.1 s.cur.2).due = [] ∧ gaveBack s t := by
  obtain ⟨v, hv⟩ : ∃ v, v = withoutDue s s.cur.1 s.cur.2 d := ⟨_, rfl⟩
  have hcur : v.cur = s.cur := by rw [hv]; rfl
  have hslot : curSlot v = { curSlot s with due := (curSlot s).due.filter fun e => e.uid != d.uid } := by
    rw [hv]
    exact getSlot_setSlot_self ..
  have hcore : curCore v = { curCore s with slots := (curCore v).slots } := by
    rw [hv]
    unfold withoutDue curCore
    rw [setSlot_cur, getCore_setSlot_self]
  have hav : alone v := by
    unfold alone
    rw [hslot, hcore, hcur]
    exact ha
  obtain ⟨hsame, ⟨w, hw⟩, hback⟩ := redeliver_alone hav (by rw [hslot]; exact hrep) (by rw [hslot]; exact hret) cause tval
  intro t
  have ht : replayError v v.cur.1 v.cur.2 cause tval = t := by rw [hcur, hv]
  rw [ht] at hsame hw hback
  have hclosed : getSlot t s.cur.1 s.cur.2 = closedSlot w (noHeld (curSlot v)) := by
    rw [← hw, ← hcur, ← hsame]
    rfl
  rw [hclosed]
  refine ⟨rfl, rfl, ?_⟩
  unfold gaveBack at hback ⊢
  rw [hslot, hcore] at hback
  exact hback

/-- Settles O41: what is open at the boundary, what the turn then takes, and what taking it does. -/
theorem boundaryEventsAreTaken : Obligations.BoundaryEventsAreTaken := by
  unfold Obligations.BoundaryEventsAreTaken
  constructor
  · intro s k x sl c here user taken trapping hm
    have hr : runnable sl = true := runnable_of_mode hm
    refine ⟨fun d hd hold hq hu => ?_, fun hd ho hq hu => ?_, fun hs hc hn hq => ?_, fun d hd hq hreqs ht => ?_⟩
    · have hs : (inSup c sl && !sl.nest) = false := takesTraps hu
      have hl : lateOpen c sl = true := lateOpen_due hq (List.ne_nil_of_mem hd) hs
      have hnow : dueNow c sl = some d := dueNow_oldest hs hd hold
      refine ⟨slotTurn_late hl, execStep_closed (stepOpen_late hl), execLateTrapTaken_traps hr hl hnow, fun ht htv => ?_,
        fun hc hrep hk ha hret => ?_⟩
      · refine ⟨_, execLateTrapTaken_traps hr hl hnow ht, ?_⟩
        dsimp only
        rw [getSlot_lateTaken hs htv]
        exact ⟨rfl, rfl, rfl, rfl, rfl, rfl, rfl, rfl, rfl⟩
      · subst hk
        exact ⟨_, execLateTrapTaken_replays hr hl hnow hc hrep, replayError_withoutDue ha hrep hret d _ _⟩
    · have hl : lateOpen c sl = false := lateOpen_idle hd hq
      have hp : stepOpen c sl = true := stepOpen_owed ho (inSup_user hu) hq hl
      exact ⟨slotTurn_step hl hp, execStep_open hr hp⟩
    · have hin : inSup c sl = true := by simp [inSup, hs, hc]
      exact ⟨execLateTrapTaken_closed (lateOpen_handler hq hin hn), execStep_closed (stepOpen_handler hin)⟩
    · have hl : lateOpen c sl = true := lateOpen_strict hq (by rw [hd]; simp) hreqs
      exact ⟨slotTurn_late hl, execLateTrapTaken_traps hr hl (dueNow_strict hd hq) ht⟩
  · exact fun s tv => ⟨rfl, rfl⟩

end Sys2Proof.Machine
end

section
/-! SUPPORT. O1, O2 and O3: encodings and the decoder. -/

namespace Sys2Proof.Machine

open Sys2Proof.Terms

/-- Settles O2: what is accepted comes from a cell of the opcode map, and a chain in order is read up to its last prefix. -/
theorem decoderAcceptsOnlyEncodings : Obligations.DecoderAcceptsOnlyEncodings := by
  unfold Obligations.DecoderAcceptsOnlyEncodings
  constructor
  · intro hs i n h
    obtain ⟨⟨hwf, henc⟩, hn⟩ := decode_encodable h
    exact ⟨hwf, henc, hn⟩
  · intro ps rest q hp ho hl tval
    refine ⟨fun hq hbad => decode_badPrefix hp ho hl q rest hq hbad, fun hq => ⟨decode_ne_badPrefix hp ho hl q rest hq, ?_, ?_⟩⟩
    · intro hpage
      exact decode_illegal hp ho hl q rest hq (decodeFields_page3 ((prefixChain_page ho).1.trans hpage))
    · intro hpage hmajor
      exact decode_illegal hp ho hl q rest hq (decodeFields_major0 ((prefixChain_page ho).1.trans hpage) hmajor)

/-- The encoding of ADDI x16, x0, 2^38 - 1: a REG prefix for x16, four IMM prefixes for the immediate, and the base word. -/
def addiFivePrefixes : List Half := [0xFB40, 0xF8FF, 0xF9FF, 0xF9FF, 0xF9FF, 0x3007]

theorem encode_addiFivePrefixes : encode (.addi 16 0 (2 ^ 38 - 1)) = some addiFivePrefixes := by decide

/-- Refutes O1: `Instr.wf` bounds each immediate by four IMM prefixes and lets a REG prefix stand beside them, so the encoding of a
well-formed ADDI of x16 has five prefixes, of which R37 allows four. -/
theorem not_decodeOfEncodeIsTheInstruction : ¬ Obligations.DecodeOfEncodeIsTheInstruction := by
  unfold Obligations.DecodeOfEncodeIsTheInstruction
  intro h
  have hok := h (.addi 16 0 (2 ^ 38 - 1)) addiFivePrefixes [] (by decide) encode_addiFivePrefixes
  obtain ⟨tv, hbad⟩ := decode_encode_tooLong encode_addiFivePrefixes (by decide) []
  rw [hbad] at hok
  cases hok

/-- Settles O3: the decoder, evaluated on each of the words. -/
theorem wordsOfTheSpecDecode : Obligations.WordsOfTheSpecDecode := by
  unfold Obligations.WordsOfTheSpecDecode
  exact ⟨rfl, rfl, rfl, rfl, rfl, rfl, rfl, rfl, rfl⟩

end Sys2Proof.Machine
end

section
/-! SUPPORT. What a pattern stands for (O9; spec/04 R50): the fields of a pattern, and the magnitudes of successive patterns. -/

namespace Sys2Proof.Machine

open Sys2Proof.Terms

/-- A format with a fraction and an exponent field, as each of R50 is. -/
def FFmt.proper (f : FFmt) : Prop := 0 < f.frac ∧ 0 < f.ebits

theorem proper_of_mem {f : FFmt} (h : f ∈ [fp64, fp32, bf16, fp16, e5m2, e4m3, a40]) : f.proper := by
  simp only [List.mem_cons, List.not_mem_nil, or_false] at h
  rcases h with rfl | rfl | rfl | rfl | rfl | rfl | rfl <;> exact ⟨by decide, by decide⟩

theorem signed_eq (f : FFmt) (neg : Bool) (b : Nat) : f.signed neg b = (if neg then 2 ^ (f.ebits + f.frac) else 0) + b := by
  cases neg <;> simp [FFmt.signed, FFmt.signBit]

-- The fields of a pattern

theorem signBit_eq (f : FFmt) : f.signBit = 2 ^ f.ebits * 2 ^ f.frac := pow_add ..

/-- The sign of a pattern of the format is its top bit. -/
theorem div_signBit_odd {f : FFmt} {b : Nat} (hb : b < 2 * f.signBit) : (b / f.signBit % 2 = 1) ↔ f.signBit ≤ b := by
  have hs : 0 < f.signBit := Nat.two_pow_pos _
  have hlt : b / f.signBit < 2 := Nat.div_lt_of_lt_mul (by omega)
  have hle : 1 ≤ b / f.signBit ↔ f.signBit ≤ b := by rw [Nat.le_div_iff_mul_le hs, Nat.one_mul]
  rw [← hle]
  generalize b / f.signBit = q at *
  omega

/-- A magnitude is its exponent field above its fraction field. -/
theorem exponent_frac (f : FFmt) (b : Nat) :
    b / 2 ^ f.frac % 2 ^ f.ebits = b % f.signBit / 2 ^ f.frac ∧ b % 2 ^ f.frac = b % f.signBit % 2 ^ f.frac := by
  rw [signBit_eq, mul_comm]
  exact ⟨(Nat.mod_mul_right_div_self ..).symm, (Nat.mod_mod_of_dvd _ (Dvd.intro _ rfl)).symm⟩

/-- The magnitudes above the largest finite one are those that an infinity and the NaNs take (R50). -/
theorem maxBits_lt_iff {f : FFmt} (hf : f.proper) {n : Nat} (hn : n < f.signBit) :
    f.maxBits < n ↔ n / 2 ^ f.frac = 2 ^ f.ebits - 1 ∧ (f.hasInf = true ∨ n % 2 ^ f.frac = 2 ^ f.frac - 1) := by
  obtain ⟨hfr, heb⟩ := hf
  have hF : 2 ≤ 2 ^ f.frac := Nat.le_self_pow hfr.ne' 2
  have hE : 2 ≤ 2 ^ f.ebits := Nat.le_self_pow heb.ne' 2
  have hinf : f.infBits + 2 ^ f.frac = f.signBit := by
    rw [signBit_eq, FFmt.infBits, ← Nat.succ_mul]
    congr 1
    omega
  have hpos : 0 < f.infBits := Nat.mul_pos (by omega) (by omega)
  have hdiv := Nat.div_add_mod n (2 ^ f.frac)
  have hmod := Nat.mod_lt n (show 0 < 2 ^ f.frac by omega)
  have htop : n / 2 ^ f.frac = 2 ^ f.ebits - 1 ↔ f.infBits ≤ n := by
    rw [FFmt.infBits]
    constructor
    · intro h
      rw [← h, mul_comm]
      omega
    · intro h
      have h1 : 2 ^ f.ebits - 1 ≤ n / 2 ^ f.frac := (Nat.le_div_iff_mul_le (by omega)).2 h
      have h2 : n / 2 ^ f.frac < 2 ^ f.ebits := Nat.div_lt_of_lt_mul (by rw [signBit_eq, mul_comm] at hn; exact hn)
      omega
  rw [htop, FFmt.maxBits]
  cases hi : f.hasInf with
  | true => simp; omega
  | false =>
    simp only [Bool.false_eq_true, if_false, false_or]
    constructor
    · intro h
      have hq := htop.2 (by omega)
      rw [hq, mul_comm] at hdiv
      change f.infBits + _ = n at hdiv
      omega
    · rintro ⟨h, hm⟩
      rw [htop.2 h, mul_comm] at hdiv
      change f.infBits + _ = n at hdiv
      omega

/-- The value of a pattern by its magnitude: a subnormal, a normal number, an infinity or a NaN (R50). -/
theorem valOf_eq {f : FFmt} (hf : f.proper) {b : Nat} (hb : b < 2 * f.signBit) :
    valOf f b = let n := b % f.signBit; let neg := decide (f.signBit ≤ b)
      if f.maxBits < n then if f.hasInf = true ∧ n = f.infBits then .inf neg else .nan
      else if n < 2 ^ f.frac then .num neg n (f.emin - f.frac)
      else .num neg (2 ^ f.frac + n % 2 ^ f.frac) (((n / 2 ^ f.frac : Nat) : Int) - f.bias - f.frac) := by
  have hs : 0 < f.signBit := Nat.two_pow_pos _
  have hF : 0 < 2 ^ f.frac := Nat.two_pow_pos _
  have hn := Nat.mod_lt b hs
  have hneg : (b / f.signBit % 2 == 1) = decide (f.signBit ≤ b) := by
    rw [Bool.beq_eq_decide_eq]
    exact decide_eq_decide.2 (div_signBit_odd hb)
  simp only [valOf, hneg, (exponent_frac f b).1, (exponent_frac f b).2]
  generalize hN : b % f.signBit = n at *
  by_cases hmax : f.maxBits < n
  · obtain ⟨hex, hor⟩ := (maxBits_lt_iff hf hn).1 hmax
    have hinf : n % 2 ^ f.frac = 0 ↔ n = f.infBits := by
      have hdiv := Nat.div_add_mod n (2 ^ f.frac)
      rw [hex, mul_comm] at hdiv
      change f.infBits + _ = n at hdiv
      omega
    simp [hmax, hex, hor, hinf]
  · rw [if_neg hmax, if_neg (fun h => hmax ((maxBits_lt_iff hf hn).2 h))]
    by_cases hsub : n < 2 ^ f.frac
    · simp [hsub, Nat.div_eq_of_lt hsub, Nat.mod_eq_of_lt hsub]
    · have : ¬n / 2 ^ f.frac = 0 := by
        rw [Nat.div_eq_zero_iff]
        omega
      simp [hsub, this]

-- The magnitudes of patterns

theorem mag_normal {f : FFmt} (c t : Nat) (ht : t < 2 ^ f.frac) :
    mag f ((c + 1) * 2 ^ f.frac + t) = ((2 ^ f.frac + t : Nat) : ℚ) * 2 ^ ((c : Int) + f.emin - f.frac) := by
  have hF : 0 < 2 ^ f.frac := Nat.two_pow_pos _
  have hdiv : ((c + 1) * 2 ^ f.frac + t) / 2 ^ f.frac = c + 1 := by
    rw [Nat.mul_comm, Nat.mul_add_div hF, Nat.div_eq_of_lt ht, Nat.add_zero]
  have hmod : ((c + 1) * 2 ^ f.frac + t) % 2 ^ f.frac = t := by
    rw [Nat.mul_comm, Nat.mul_add_mod, Nat.mod_eq_of_lt ht]
  have hge : ¬(c + 1) * 2 ^ f.frac + t < 2 ^ f.frac := by
    rw [Nat.succ_mul]
    omega
  rw [mag, if_neg hge, hdiv, hmod]
  congr 2
  rw [FFmt.emin]
  push_cast
  ring

/-- Within a binade and up to its end, magnitudes are the significands in the binade's units (R50, R54). -/
theorem mag_binade {f : FFmt} {c t : Nat} (hc : c = 0 ∨ 2 ^ f.frac ≤ t) (ht : t ≤ 2 * 2 ^ f.frac) :
    mag f (c * 2 ^ f.frac + t) = (t : ℚ) * 2 ^ ((c : Int) + f.emin - f.frac) := by
  have hF : 0 < 2 ^ f.frac := Nat.two_pow_pos _
  by_cases hlow : t < 2 ^ f.frac
  · obtain rfl : c = 0 := by omega
    simp [mag, hlow]
  · obtain ⟨u, rfl⟩ : ∃ u, t = 2 ^ f.frac + u := ⟨t - 2 ^ f.frac, by omega⟩
    by_cases hu : u < 2 ^ f.frac
    · rw [← mag_normal c u hu]
      congr 1
      ring
    · obtain rfl : u = 2 ^ f.frac := by omega
      have h := mag_normal (f := f) (c + 1) 0 hF
      have harg : (c + 1 + 1) * 2 ^ f.frac + 0 = c * 2 ^ f.frac + (2 ^ f.frac + 2 ^ f.frac) := by ring
      have hexp : ((c + 1 : Nat) : Int) + f.emin - f.frac = (c : Int) + f.emin - f.frac + 1 := by
        push_cast
        ring
      rw [← harg, h, hexp, zpow_add_one₀ (by norm_num)]
      push_cast
      ring

/-- The binade a magnitude lies in, with its significand in the binade's units. -/
theorem exists_binade (f : FFmt) (n : Nat) :
    ∃ c t, n = c * 2 ^ f.frac + t ∧ t < 2 * 2 ^ f.frac ∧ (c = 0 ∨ 2 ^ f.frac ≤ t) := by
  have hF : 0 < 2 ^ f.frac := Nat.two_pow_pos _
  by_cases h : n < 2 ^ f.frac
  · exact ⟨0, n, by simp, by omega, .inl rfl⟩
  · obtain ⟨c, hc⟩ : ∃ c, n / 2 ^ f.frac = c + 1 := Nat.exists_eq_succ_of_ne_zero (by rw [Ne, Nat.div_eq_zero_iff]; omega)
    have hdiv := Nat.div_add_mod n (2 ^ f.frac)
    have hmod := Nat.mod_lt n hF
    rw [hc, Nat.mul_succ, Nat.mul_comm] at hdiv
    exact ⟨c, 2 ^ f.frac + n % 2 ^ f.frac, by omega, by omega, .inr (by omega)⟩

/-- A finite pattern stands for its magnitude (R50). -/
theorem valOf_finite {f : FFmt} (hf : f.proper) {b : Nat} (hb : b < 2 * f.signBit) (h : b % f.signBit ≤ f.maxBits) :
    ∃ m e, valOf f b = .num (decide (f.signBit ≤ b)) m e ∧ (m : ℚ) * 2 ^ e = mag f (b % f.signBit) := by
  rw [valOf_eq hf hb]
  simp only [if_neg h.not_gt]
  rw [mag]
  split
  · exact ⟨_, _, rfl, rfl⟩
  · exact ⟨_, _, rfl, rfl⟩

theorem valOf_special {f : FFmt} (hf : f.proper) {b : Nat} (hb : b < 2 * f.signBit) (h : f.maxBits < b % f.signBit) :
    valOf f b = if f.hasInf = true ∧ b % f.signBit = f.infBits then .inf (decide (f.signBit ≤ b)) else .nan := by
  rw [valOf_eq hf hb]
  simp only [if_pos h]

end Sys2Proof.Machine
end

section
/-! SUPPORT. Round (O9; spec/04 R54 to R59): the count of units takes the neighbour that `away` names, and a rounded real is the pattern of
that neighbour, or overflows. -/

namespace Sys2Proof.Machine

open Sys2Proof.Terms

-- Which neighbour

theorem away_scale (rnd : Rnd) (r : Nat) (neg odd : Bool) (lo hi x : ℚ) {c : ℚ} (hc : 0 < c) :
    away rnd r neg odd (lo * c) (hi * c) (x * c) = away rnd r neg odd lo hi x := by
  have hlt : lo * c < x * c ↔ lo < x := mul_lt_mul_iff_left₀ hc
  cases rnd with
  | rz => rfl
  | rd => simp [away, hlt]
  | ru => simp [away, hlt]
  | rne =>
    have h1 : lo * c + hi * c < 2 * (x * c) ↔ lo + hi < 2 * x := by
      rw [← add_mul, ← mul_assoc, mul_lt_mul_iff_left₀ hc]
    have h2 : lo * c + hi * c = 2 * (x * c) ↔ lo + hi = 2 * x := by
      rw [← add_mul, ← mul_assoc, mul_left_inj' hc.ne']
    simp [away, h1, h2]
  | rs => simp only [away, ← sub_mul, mul_div_mul_right _ _ hc.ne']

/-- An exact result is moved under no mode (R56). -/
theorem away_exact (rnd : Rnd) (r : Nat) (neg odd : Bool) {lo hi : ℚ} (h : lo < hi) : away rnd r neg odd lo hi lo = false := by
  cases rnd with
  | rne =>
    have h1 : ¬lo + hi < 2 * lo := by linarith
    have h2 : ¬lo + hi = 2 * lo := by linarith
    simp [away, h1, h2]
  | rz => rfl
  | rd => simp [away]
  | ru => simp [away]
  | rs => simp [away]

/-- The part d of a unit that a sticky bit stands for. -/
def sticky (st : Bool) (d : ℚ) : Prop := 0 ≤ d ∧ d < 1 ∧ (st = true ↔ d ≠ 0)

theorem sticky_false {d : ℚ} (h : sticky false d) : d = 0 := by simpa using h.2.2

theorem sticky_true {d : ℚ} (h : sticky true d) : 0 < d := lt_of_le_of_ne h.1 (Ne.symm (h.2.2.1 rfl))

/-- The floor of R56 does not see the sticky part where the units are coarse enough. -/
theorem floor_part {rem u : Nat} {st : Bool} {d : ℚ} (hd : sticky st d) (hu : 0 < u) (hst : st = true → 2 ^ 32 ∣ u) :
    ⌊((rem : ℚ) + d) / u * 2 ^ 32⌋ = ((rem * 2 ^ 32 / u : Nat) : Int) := by
  cases st with
  | false =>
    rw [sticky_false hd, add_zero, div_mul_eq_mul_div]
    exact_mod_cast Rat.floor_natCast_div_natCast (rem * 2 ^ 32) u
  | true =>
    obtain ⟨w, rfl⟩ := hst rfl
    have hw : 0 < w := Nat.pos_of_mul_pos_left hu
    have hwq : (0 : ℚ) < w := by exact_mod_cast hw
    have hnat : rem * 2 ^ 32 / (2 ^ 32 * w) = rem / w := by rw [Nat.mul_comm, Nat.mul_div_mul_left _ _ (by norm_num)]
    have hq : ((rem : ℚ) + d) / ((2 ^ 32 * w : Nat) : ℚ) * 2 ^ 32 = (rem + d) / w := by
      rw [Nat.cast_mul, div_mul_eq_mul_div, mul_comm ((rem : ℚ) + d), ← Nat.cast_ofNat, ← Nat.cast_pow, mul_div_mul_left _ _ (by norm_num)]
    have hdiv : (rem / w : Nat) * w ≤ rem := Nat.div_mul_le_self ..
    have hlt : rem + 1 ≤ (rem / w + 1) * w := Nat.lt_mul_of_div_lt (Nat.lt_succ_self _) hw
    obtain ⟨h0, h1, -⟩ := hd
    rw [hnat, hq, Int.floor_eq_iff, le_div_iff₀ hwq, div_lt_iff₀ hwq]
    constructor
    · have : ((rem / w : Nat) : ℚ) * w ≤ rem := by exact_mod_cast hdiv
      rw [Int.cast_natCast]
      linarith
    · have : (rem : ℚ) + 1 ≤ ((rem / w : Nat) + 1) * w := by exact_mod_cast hlt
      rw [Int.cast_natCast]
      linarith

/-- Whether the count of units t goes up, by the remainder and the sticky bit (R54, R56). -/
def unitsUp (rnd : Rnd) (r : Nat) (neg st : Bool) (t rem u : Nat) : Bool :=
  match rnd with
  | .rz => false
  | .rd => neg && (rem != 0 || st)
  | .ru => !neg && (rem != 0 || st)
  | .rne => decide (2 * rem > u) || (2 * rem == u && (st || t % 2 == 1))
  | .rs => decide (r < rem * 2 ^ 32 / u)

/-- A real whose last bit is not below the unit is a count of units. -/
theorem roundUnits_above {rnd : Rnd} {r m : Nat} {neg : Bool} {e q : Int} (h : q ≤ e) :
    roundUnits rnd r neg m e false q = (m * 2 ^ (e - q).toNat, false) := by
  cases rnd <;> simp [roundUnits, h]

theorem roundUnits_below {rnd : Rnd} {r m : Nat} {neg st : Bool} {e q : Int} (h : e < q) :
    roundUnits rnd r neg m e st q =
      let u := 2 ^ (q - e).toNat
      (if unitsUp rnd r neg st (m / u) (m % u) u then m / u + 1 else m / u, m % u != 0 || st) := by
  unfold roundUnits
  rw [if_neg h.not_ge]
  cases rnd <;> rfl

theorem inexact_iff {rem : Nat} {st : Bool} {d : ℚ} (hd : sticky st d) : (rem != 0 || st) = decide (0 < (rem : ℚ) + d) := by
  obtain ⟨h0, h1, hz⟩ := hd
  have hr : (0 : ℚ) ≤ rem := Nat.cast_nonneg _
  rw [Bool.eq_iff_iff]
  simp only [Bool.or_eq_true, bne_iff_ne, decide_eq_true_eq, hz]
  constructor
  · rintro (h | h)
    · have : (0 : ℚ) < rem := by exact_mod_cast Nat.pos_of_ne_zero h
      linarith
    · have : 0 < d := lt_of_le_of_ne h0 h.symm
      linarith
  · intro h
    by_contra hc
    rw [not_or, not_not, not_not] at hc
    rw [hc.1, hc.2] at h
    simp at h

/-- The remainder and the sticky bit name the neighbour that Round takes. -/
theorem unitsUp_eq_away {rnd : Rnd} {r t rem u : Nat} {neg st : Bool} {d : ℚ} (hd : sticky st d) (hu : 0 < u) (h2 : 2 ∣ u)
    (hst : st = true → 2 ^ 32 ∣ u) :
    unitsUp rnd r neg st t rem u = away rnd r neg (t % 2 == 1) (t * u) ((t + 1) * u) (t * u + (rem + d)) := by
  have hpos : (t : ℚ) * u < t * u + (rem + d) ↔ 0 < (rem : ℚ) + d := by
    rw [lt_add_iff_pos_right]
  cases rnd with
  | rz => rfl
  | rd => simp only [unitsUp, away, inexact_iff hd, hpos]
  | ru => simp only [unitsUp, away, inexact_iff hd, hpos]
  | rs =>
    have hx : (t * u + (rem + d) - t * u) / ((t + 1) * u - t * u) = ((rem : ℚ) + d) / u := by ring_nf
    simp only [unitsUp, away, hx, floor_part hd hu hst, Int.ofNat_lt]
  | rne =>
    obtain ⟨w, rfl⟩ := h2
    have hlt : (t : ℚ) * (2 * w : Nat) + (t + 1) * (2 * w : Nat) < 2 * (t * (2 * w : Nat) + (rem + d)) ↔ (w : ℚ) < rem + d := by
      push_cast
      constructor <;> intro h <;> linarith
    have heq : (t : ℚ) * (2 * w : Nat) + (t + 1) * (2 * w : Nat) = 2 * (t * (2 * w : Nat) + (rem + d)) ↔ (w : ℚ) = rem + d := by
      push_cast
      constructor <;> intro h <;> linarith
    simp only [unitsUp, away, hlt, heq]
    cases st with
    | false =>
      have e1 : 2 * rem > 2 * w ↔ (w : ℚ) < rem := by rw [Nat.cast_lt]; omega
      have e2 : 2 * rem = 2 * w ↔ (w : ℚ) = rem := by rw [Nat.cast_inj]; omega
      simp only [sticky_false hd, add_zero, e1, Bool.false_or, Bool.beq_eq_decide_eq, e2]
    | true =>
      have h0 := sticky_true hd
      have h1 := hd.2.1
      have e1 : (w : ℚ) < rem + d ↔ w ≤ rem := by
        constructor
        · intro h
          have : (w : ℚ) < (rem + 1 : Nat) := by push_cast; linarith
          exact Nat.lt_succ_iff.1 (by exact_mod_cast this)
        · intro h
          have : (w : ℚ) ≤ rem := by exact_mod_cast h
          linarith
      have e2 : ¬(w : ℚ) = rem + d := by
        intro h
        have hlo : (rem : ℚ) < w := by linarith
        have hhi : (w : ℚ) < (rem + 1 : Nat) := by push_cast; linarith
        have : rem < w := by exact_mod_cast hlo
        have : w < rem + 1 := by exact_mod_cast hhi
        omega
      simp only [e1, e2, Bool.true_or, Bool.and_true, decide_false, Bool.false_and, Bool.or_false]
      rw [Bool.eq_iff_iff]
      simp
      omega

/-- The neighbour of x that Round takes among the counts t and t + 1 of units of 2^q (R54, R56). -/
def neighbour (rnd : Rnd) (r : Nat) (neg : Bool) (q : Int) (t : Nat) (x : ℚ) : Nat :=
  if away rnd r neg (t % 2 == 1) (t * 2 ^ q) ((t + 1) * 2 ^ q) x then t + 1 else t

/-- Rounding to units of 2^q takes a neighbour, and is inexact where x is no count of units. Under a sticky bit the units are coarse. -/
theorem roundUnits_eq {rnd : Rnd} {r m t : Nat} {neg st : Bool} {e q : Int} {d x : ℚ} (hd : sticky st d) (hx : x = (m + d) * 2 ^ e)
    (hst : st = true → e + 32 ≤ q) (hlo : (t : ℚ) * 2 ^ q ≤ x) (hhi : x < (t + 1) * 2 ^ q) :
    roundUnits rnd r neg m e st q = (neighbour rnd r neg q t x, decide ((t : ℚ) * 2 ^ q ≠ x)) := by
  have hpe : (0 : ℚ) < 2 ^ e := by positivity
  have hpq : (0 : ℚ) < 2 ^ q := by positivity
  by_cases hqe : q ≤ e
  · -- no bit of the count lies below the unit
    obtain rfl : st = false := by
      cases st with
      | false => rfl
      | true => have := hst rfl; omega
    rw [sticky_false hd, add_zero] at hx
    have hpow : (2 : ℚ) ^ e = ((2 ^ (e - q).toNat : Nat) : ℚ) * 2 ^ q := by
      push_cast
      rw [← zpow_natCast, ← zpow_add₀ (by norm_num)]
      congr 1
      omega
    have hxq : x = ((m * 2 ^ (e - q).toNat : Nat) : ℚ) * 2 ^ q := by
      rw [hx, hpow]
      push_cast
      ring
    have ht : t = m * 2 ^ (e - q).toNat := by
      rw [hxq] at hlo hhi
      have h1 : t ≤ m * 2 ^ (e - q).toNat := by exact_mod_cast (mul_le_mul_iff_left₀ hpq).1 hlo
      have h2 : m * 2 ^ (e - q).toNat < t + 1 := by exact_mod_cast (mul_lt_mul_iff_left₀ hpq).1 hhi
      omega
    rw [← ht] at hxq
    have hstay : neighbour rnd r neg q t x = t := by
      rw [neighbour, hxq, away_exact _ _ _ _ (mul_lt_mul_of_pos_right (by linarith) hpq)]
      rfl
    rw [hstay, decide_eq_false (not_not.2 hxq.symm), roundUnits_above hqe, ht]
  · have hu : 0 < 2 ^ (q - e).toNat := Nat.two_pow_pos _
    have hpow : (2 : ℚ) ^ q = ((2 ^ (q - e).toNat : Nat) : ℚ) * 2 ^ e := by
      push_cast
      rw [← zpow_natCast, ← zpow_add₀ (by norm_num)]
      congr 1
      omega
    have h2 : 2 ∣ 2 ^ (q - e).toNat := dvd_pow_self 2 (by omega)
    have h32 : st = true → 2 ^ 32 ∣ 2 ^ (q - e).toNat := fun h => pow_dvd_pow 2 (by have := hst h; omega)
    have hup := unitsUp_eq_away (rnd := rnd) (r := r) (t := t) (rem := m % 2 ^ (q - e).toNat) (neg := neg) hd hu h2 h32
    rw [hpow] at hlo hhi
    rw [neighbour, hpow]
    generalize hU : 2 ^ (q - e).toNat = u at *
    have hlo' : (t : ℚ) * u ≤ m + d := by
      rw [hx, ← mul_assoc] at hlo
      exact (mul_le_mul_iff_left₀ hpe).1 hlo
    have hhi' : (m : ℚ) + d < (t + 1) * u := by
      rw [hx, ← mul_assoc] at hhi
      exact (mul_lt_mul_iff_left₀ hpe).1 hhi
    obtain ⟨h0, h1, -⟩ := id hd
    have ht : t = m / u := by
      have hle : t * u < m + 1 := by
        have : (t : ℚ) * u < m + 1 := by linarith
        exact_mod_cast this
      have hlt : m < (t + 1) * u := by
        have : (m : ℚ) < (t + 1) * u := by linarith
        exact_mod_cast this
      exact (Nat.div_eq_of_lt_le (by omega) hlt).symm
    have hm : (m : ℚ) = t * u + (m % u : Nat) := by
      rw [ht]
      exact_mod_cast (Nat.div_add_mod' m u).symm
    have hxe : x = (t * u + ((m % u : Nat) + d)) * 2 ^ e := by
      rw [hx, hm]
      ring
    have haway : away rnd r neg (t % 2 == 1) (t * (u * 2 ^ e)) ((t + 1) * (u * 2 ^ e)) x = unitsUp rnd r neg st t (m % u) u := by
      rw [hup, hxe, ← mul_assoc, ← mul_assoc, away_scale _ _ _ _ _ _ _ hpe]
    have hinx : (m % u != 0 || st) = decide ((t : ℚ) * (u * 2 ^ e) ≠ x) := by
      rw [inexact_iff hd, hxe, ← mul_assoc]
      refine decide_eq_decide.2 ?_
      rw [Ne, mul_left_inj' hpe.ne', left_eq_add]
      have : (0 : ℚ) ≤ (m % u : Nat) := Nat.cast_nonneg _
      exact ⟨ne_of_gt, fun h => lt_of_le_of_ne (by linarith) (Ne.symm h)⟩
    rw [haway, ← hinx, roundUnits_below (by omega)]
    simp only [hU, ← ht]

end Sys2Proof.Machine
end

section
/-! SUPPORT. The pattern and the flags of a rounded real (O9; spec/04 R54, R55, R59). -/

namespace Sys2Proof.Machine

open Sys2Proof.Terms

-- The leading bit

/-- A real with its sticky part lies in the binade of its leading bit. -/
theorem binade_of_log2 {k : Nat} {e : Int} {st : Bool} {d x : ℚ} (hk : 0 < k) (hd : sticky st d) (hx : x = (k + d) * 2 ^ e) :
    (2 : ℚ) ^ (e + Nat.log2 k) ≤ x ∧ x < 2 ^ (e + Nat.log2 k + 1) := by
  have hpe : (0 : ℚ) < 2 ^ e := by positivity
  obtain ⟨h0, h1, -⟩ := hd
  have hlo : ((2 ^ Nat.log2 k : Nat) : ℚ) ≤ k := by exact_mod_cast Nat.log2_self_le hk.ne'
  have hhi : (k : ℚ) + 1 ≤ (2 ^ (Nat.log2 k + 1) : Nat) := by exact_mod_cast Nat.lt_log2_self
  push_cast at hlo hhi
  constructor
  · rw [zpow_add₀ (by norm_num), zpow_natCast, mul_comm, hx]
    exact mul_le_mul_of_nonneg_right (by linarith) hpe.le
  · rw [add_assoc, zpow_add₀ (by norm_num), mul_comm, hx]
    refine mul_lt_mul_of_pos_right ?_ hpe
    have : (2 : ℚ) ^ ((Nat.log2 k : Int) + 1) = 2 ^ (Nat.log2 k + 1) := by exact_mod_cast zpow_natCast (2 : ℚ) (Nat.log2 k + 1)
    rw [this]
    linarith

/-- Binades do not overlap. -/
theorem binade_unique {a b : Int} {x : ℚ} (ha : (2 : ℚ) ^ a ≤ x) (ha' : x < 2 ^ (a + 1)) (hb : (2 : ℚ) ^ b ≤ x) (hb' : x < 2 ^ (b + 1)) :
    a = b := by
  have h1 : a < b + 1 := (zpow_lt_zpow_iff_right₀ (by norm_num)).1 (ha.trans_lt hb')
  have h2 : b < a + 1 := (zpow_lt_zpow_iff_right₀ (by norm_num)).1 (hb.trans_lt ha')
  omega

/-- A count of units with all bits of the precision has its leading bit that far above the unit. -/
theorem binade_of_count {n t : Nat} {j : Int} {x : ℚ} (h1 : 2 ^ n ≤ t) (h2 : t < 2 * 2 ^ n) (hlo : (t : ℚ) * 2 ^ j ≤ x)
    (hhi : x < (t + 1) * 2 ^ j) : (2 : ℚ) ^ (j + n) ≤ x ∧ x < 2 ^ (j + n + 1) := by
  have hpj : (0 : ℚ) < 2 ^ j := by positivity
  have hpow : (2 : ℚ) ^ (j + n) = (2 ^ n : Nat) * 2 ^ j := by
    rw [zpow_add₀ (by norm_num), mul_comm]
    push_cast
    rfl
  rw [zpow_add_one₀ (by norm_num), hpow]
  have hlow : ((2 ^ n : Nat) : ℚ) ≤ t := by exact_mod_cast h1
  have hupp : (t : ℚ) + 1 ≤ 2 * (2 ^ n : Nat) := by exact_mod_cast h2
  constructor
  · exact (mul_le_mul_of_nonneg_right hlow hpj.le).trans hlo
  · refine hhi.trans_le ?_
    rw [mul_right_comm, mul_comm _ (2 : ℚ)]
    exact mul_le_mul_of_nonneg_right hupp hpj.le

/-- A magnitude below the first count with all bits of the precision has its leading bit lower. -/
theorem top_lt_of_small {a b : Int} {x : ℚ} (ha : (2 : ℚ) ^ a ≤ x) (hx : x < 2 ^ b) : a < b :=
  (zpow_lt_zpow_iff_right₀ (by norm_num)).1 (ha.trans_lt hx)

-- What an exact result stands for

/-- The magnitude of an exact result as its bits and their sticky part; under a sticky bit the bits are many. -/
theorem exists_sticky {f : FFmt} {k : Nat} {e : Int} {st : Bool} {x : ℚ} (h : standsFor f k e st x) :
    ∃ d, sticky st d ∧ x = (k + d) * 2 ^ e ∧ (st = true → (f.frac : Int) + 34 ≤ Nat.log2 k) := by
  have hpe : (0 : ℚ) < 2 ^ e := by positivity
  obtain ⟨hk, h⟩ := h
  cases st with
  | false => exact ⟨0, ⟨le_rfl, one_pos, by simp⟩, by simpa using h, by simp⟩
  | true =>
    obtain ⟨hbits, hlo, hhi⟩ := h
    refine ⟨x / 2 ^ e - k, ⟨?_, ?_, ?_⟩, ?_, fun _ => ?_⟩
    · rw [sub_nonneg, le_div_iff₀ hpe]
      exact hlo.le
    · rw [sub_lt_iff_lt_add', div_lt_iff₀ hpe]
      exact hhi
    · have : (k : ℚ) < x / 2 ^ e := (lt_div_iff₀ hpe).2 hlo
      exact iff_of_true rfl (by linarith)
    · field_simp
      ring
    · exact_mod_cast (Nat.le_log2 hk.ne').2 hbits

-- The pattern

/-- The unit in which a real is rounded (R54). -/
def unitOf (f : FFmt) (k : Nat) (e : Int) : Int := max (e + Nat.log2 k) f.emin - f.frac

/-- The magnitude below a real is its count of units above the binades below it. -/
theorem exists_units {f : FFmt} {k lo : Nat} {e : Int} {st : Bool} {d x : ℚ} (hk : 0 < k) (hd : sticky st d) (hx : x = (k + d) * 2 ^ e)
    (hlo : mag f lo ≤ x) (hhi : x < mag f (lo + 1)) :
    ∃ t, lo = (unitOf f k e + f.frac - f.emin).toNat * 2 ^ f.frac + t ∧
      mag f lo = t * 2 ^ unitOf f k e ∧ mag f (lo + 1) = (t + 1) * 2 ^ unitOf f k e := by
  obtain ⟨c, t, rfl, ht, hc⟩ := exists_binade f lo
  obtain ⟨htop, htop'⟩ := binade_of_log2 hk hd hx
  have h1 := mag_binade (f := f) hc ht.le
  have h2 := mag_binade (f := f) (c := c) (t := t + 1) (by omega) (by omega)
  rw [add_assoc] at hhi
  rw [h1] at hlo
  rw [h2] at hhi
  push_cast at hhi h2
  have hunit : unitOf f k e = (c : Int) + f.emin - f.frac := by
    rw [unitOf]
    by_cases hlow : 2 ^ f.frac ≤ t
    · obtain ⟨h3, h4⟩ := binade_of_count hlow ht hlo hhi
      have := binade_unique htop htop' h3 h4
      omega
    · obtain rfl : c = 0 := by omega
      have hsmall : x < 2 ^ f.emin := by
        refine hhi.trans_le ?_
        have : (t : ℚ) + 1 ≤ (2 ^ f.frac : Nat) := by exact_mod_cast (by omega : t + 1 ≤ 2 ^ f.frac)
        calc ((t : ℚ) + 1) * 2 ^ (((0 : Nat) : Int) + f.emin - f.frac)
            ≤ (2 ^ f.frac : Nat) * 2 ^ (((0 : Nat) : Int) + f.emin - f.frac) := mul_le_mul_of_nonneg_right this (by positivity)
          _ = 2 ^ f.emin := by
            push_cast
            rw [← zpow_natCast, ← zpow_add₀ (by norm_num)]
            congr 1
            omega
      have := top_lt_of_small htop hsmall
      omega
  have hcount : (unitOf f k e + f.frac - f.emin).toNat = c := by omega
  rw [hcount, hunit]
  exact ⟨t, rfl, h1, h2⟩

/-- The overflow of R55. -/
theorem overflowBits_eq (f : FFmt) (m : RMod) (neg : Bool) : overflowBits f m neg = overflowed f m neg := by
  rw [overflowBits, overflowed, signed_eq]
  congr 1
  cases m.rnd <;> simp [and_assoc]

/-- Tininess by the neighbour that Round takes without subnormal spacing (R59). -/
theorem isTiny_eq {f : FFmt} {rnd : Rnd} {r k p : Nat} {neg st : Bool} {e j : Int} {x : ℚ} (h : standsFor f k e st x)
    (hp : precise f p j x) :
    isTiny f rnd r neg k e st = decide ((neighbour rnd r neg j p x : ℚ) * 2 ^ j < 2 ^ f.emin) := by
  obtain ⟨d, hd, hx, hbits⟩ := exists_sticky h
  obtain ⟨hp1, hp2, hlo, hhi⟩ := hp
  rw [pow_succ'] at hp2
  obtain ⟨htop, htop'⟩ := binade_of_log2 h.1 hd hx
  obtain ⟨hj, hj'⟩ := binade_of_count hp1 hp2 hlo hhi
  have hE : e + Nat.log2 k = j + f.frac := binade_unique htop htop' hj hj'
  have hpj : (0 : ℚ) < 2 ^ j := by positivity
  have hround := roundUnits_eq (rnd := rnd) (r := r) (neg := neg) hd hx (fun hs => by have := hbits hs; omega) hlo hhi
  have hge : p ≤ neighbour rnd r neg j p x := by rw [neighbour]; split <;> omega
  have hle : neighbour rnd r neg j p x ≤ p + 1 := by rw [neighbour]; split <;> omega
  -- a count c of units of 2^j against 2^(j + n)
  have hcount : ∀ c n : Nat, (c : ℚ) * 2 ^ j < 2 ^ (j + n) ↔ c < 2 ^ n := by
    intro c n
    rw [zpow_add₀ (by norm_num), mul_comm, mul_lt_mul_iff_right₀ hpj, zpow_natCast]
    exact_mod_cast Iff.rfl
  simp only [isTiny, hE, add_sub_cancel_right, hround]
  by_cases h1 : f.emin ≤ j + f.frac
  · rw [if_pos h1, eq_comm, decide_eq_false_iff_not, not_lt]
    refine (zpow_le_zpow_right₀ (by norm_num) h1).trans ?_
    rw [← not_lt, hcount]
    omega
  · rw [if_neg h1]
    by_cases h2 : j + f.frac < f.emin - 1
    · rw [if_pos h2, eq_comm, decide_eq_true_eq]
      have hn : (2 : ℚ) ^ (j + ((f.frac + 2 : Nat) : Int)) ≤ 2 ^ f.emin := zpow_le_zpow_right₀ (by norm_num) (by push_cast; omega)
      refine lt_of_lt_of_le ((hcount _ _).2 ?_) hn
      rw [pow_add]
      omega
    · have hn : f.emin = j + ((f.frac + 1 : Nat) : Int) := by push_cast; omega
      rw [if_neg h2, hn]
      exact decide_eq_decide.2 (hcount _ _).symm

/-- A rounded real: the count of units above the binades below it, its inexactness, and tininess, give the pattern and the flags. -/
theorem roundWith_real {f : FFmt} (hf : f.proper) {m : RMod} {r k lo n : Nat} {neg st : Bool} {e : Int} {x : ℚ}
    (h : standsFor f k e st x) (hlo : mag f lo ≤ x) (hhi : x < mag f (lo + 1)) :
    let b := if away m.rnd r neg (lo % 2 == 1) (mag f lo) (mag f (lo + 1)) x then lo + 1 else lo
    roundWith f m r ⟨.real neg k e st, n⟩ =
      if f.maxBits < b then ⟨overflowed f m neg, n ||| fOF ||| fNX⟩
      else ⟨(if neg then 2 ^ (f.ebits + f.frac) else 0) + b,
        n ||| if mag f lo ≠ x then (if isTiny f m.rnd r neg k e st then fUF ||| fNX else fNX) else 0⟩ := by
  obtain ⟨d, hd, hx, hbits⟩ := exists_sticky h
  obtain ⟨t, ht, hmlo, hmhi⟩ := exists_units h.1 hd hx hlo hhi
  rw [hmlo] at hlo
  rw [hmhi] at hhi
  have hround := roundUnits_eq (rnd := m.rnd) (r := r) (neg := neg) hd hx
    (fun hs => by have := hbits hs; rw [unitOf]; omega) hlo hhi
  have hodd : lo % 2 = t % 2 := by
    have : 2 ∣ (unitOf f k e + f.frac - f.emin).toNat * 2 ^ f.frac := dvd_mul_of_dvd_right (dvd_pow_self 2 hf.1.ne') _
    rw [ht]
    omega
  have hb : (if away m.rnd r neg (lo % 2 == 1) (mag f lo) (mag f (lo + 1)) x then lo + 1 else lo) =
      (unitOf f k e + f.frac - f.emin).toNat * 2 ^ f.frac + neighbour m.rnd r neg (unitOf f k e) t x := by
    rw [hmlo, hmhi, hodd, neighbour]
    split <;> omega
  dsimp only
  rw [hb, hmlo]
  simp only [roundWith, ← unitOf.eq_1, hround, overflowBits_eq, signed_eq, decide_eq_true_eq]

/-- A pattern is exact where the neighbour taken is the real itself, which is then the one below it. -/
theorem neighbour_exact_iff {f : FFmt} {rnd : Rnd} {r lo : Nat} {neg odd : Bool} {x : ℚ} (hlo : mag f lo ≤ x) (hhi : x < mag f (lo + 1)) :
    mag f (if away rnd r neg odd (mag f lo) (mag f (lo + 1)) x then lo + 1 else lo) = x ↔ mag f lo = x := by
  constructor
  · intro h
    split at h
    · exact absurd h hhi.ne'
    · exact h
  · rintro rfl
    rw [away_exact _ _ _ _ hhi]
    rfl

end Sys2Proof.Machine
end

section
/-! SUPPORT. Round as the statement of O9 gives it, and roundings to integers (spec/04 R54 to R60, R64). -/

namespace Sys2Proof.Machine

open Sys2Proof.Terms

theorem roundWith_nan (f : FFmt) (m : RMod) (r n : Nat) : roundWith f m r ⟨.nan, n⟩ = ⟨f.nanBits, n⟩ := rfl

theorem roundWith_zero (f : FFmt) (m : RMod) (r : Nat) (neg : Bool) (n : Nat) :
    roundWith f m r ⟨.zero neg, n⟩ = ⟨if neg then 2 ^ (f.ebits + f.frac) else 0, n⟩ := by
  simp [roundWith, signed_eq]

theorem roundWith_inf (f : FFmt) (m : RMod) (r : Nat) (neg : Bool) (n : Nat) :
    roundWith f m r ⟨.inf neg, n⟩ =
      if m.sat then ⟨(if neg then 2 ^ (f.ebits + f.frac) else 0) + f.maxBits, n ||| fNX⟩
      else if f.hasInf then ⟨(if neg then 2 ^ (f.ebits + f.frac) else 0) + f.infBits, n⟩ else ⟨f.nanBits, fNV⟩ := by
  simp [roundWith, signed_eq]

/-- A rounded real, by the neighbour taken: overflow, or its pattern with the flags of R59. -/
theorem roundWith_real_ends {f : FFmt} (hf : f.proper) {m : RMod} {r k lo n : Nat} {neg st : Bool} {e : Int} {x : ℚ}
    (h : standsFor f k e st x) (hlo : mag f lo ≤ x) (hhi : x < mag f (lo + 1)) :
    let b := if away m.rnd r neg (lo % 2 == 1) (mag f lo) (mag f (lo + 1)) x then lo + 1 else lo
    let y := roundWith f m r ⟨.real neg k e st, n⟩
    (f.maxBits < b → y = ⟨overflowed f m neg, n ||| fOF ||| fNX⟩) ∧
    (b ≤ f.maxBits → y.bits = (if neg then 2 ^ (f.ebits + f.frac) else 0) + b ∧ (mag f b = x → y.fl = n) ∧
      ∀ (p : Nat) (j : Int), mag f b ≠ x → precise f p j x →
        y.fl = n ||| (if (if away m.rnd r neg (p % 2 == 1) (p * 2 ^ j) ((p + 1) * 2 ^ j) x then (p + 1 : ℚ) else p) * 2 ^ j < 2 ^ f.emin
          then fUF ||| fNX else fNX)) := by
  dsimp only
  rw [roundWith_real hf h hlo hhi, neighbour_exact_iff hlo hhi]
  refine ⟨fun hb => if_pos hb, fun hb => ?_⟩
  rw [if_neg hb.not_gt]
  refine ⟨rfl, fun he => by simp [he], fun p j hne hp => ?_⟩
  have hcast : (if away m.rnd r neg (p % 2 == 1) (p * 2 ^ j) ((p + 1) * 2 ^ j) x then (p + 1 : ℚ) else p) = neighbour m.rnd r neg j p x := by
    rw [neighbour]
    split <;> simp
  rw [if_pos (mt (neighbour_exact_iff hlo hhi).2 hne), isTiny_eq h hp, hcast]
  simp only [decide_eq_true_eq]

-- Roundings to integers

/-- A finite magnitude rounds to one of the two integers beside it. -/
theorem roundUnits_integer {rnd : Rnd} {r k n : Nat} {i : Bool} {d : Int} (hlo : (n : ℚ) ≤ size (.num i k d))
    (hhi : size (.num i k d) < n + 1) :
    roundUnits rnd r i k d false 0 =
      (if away rnd r i (n % 2 == 1) n (n + 1) (size (.num i k d)) then n + 1 else n, decide ((n : ℚ) ≠ size (.num i k d))) := by
  have h := roundUnits_eq (rnd := rnd) (r := r) (neg := i) (st := false) (e := d) (q := 0) (m := k) (d := 0) (t := n)
    (x := size (.num i k d)) ⟨le_rfl, one_pos, by simp⟩ (by simp [size]) (by simp) (by simpa using hlo) (by simpa using hhi)
  simpa [neighbour] using h

/-- A conversion to an integer: the rounded integer where the bounds allow it (R64). -/
theorem toInt_num (rnd : Rnd) (lo hi : Int) (e : FEnv) {i : Bool} {k n : Nat} {d : Int} (hlo : (n : ℚ) ≤ size (.num i k d))
    (hhi : size (.num i k d) < n + 1) :
    let g := if rnd = .rs then lfsrStep e.lfsr else e.lfsr
    let b := if away rnd g.toNat i (n % 2 == 1) n (n + 1) (size (.num i k d)) then n + 1 else n
    let v : Int := if i then -b else b
    toInt rnd lo hi (.num i k d) e =
      if v < lo then (lo, ⟨g, e.fl ||| fNV⟩) else if hi < v then (hi, ⟨g, e.fl ||| fNV⟩)
      else (v, ⟨g, if (n : ℚ) = size (.num i k d) then e.fl else e.fl ||| fNX⟩) := by
  dsimp only [toInt]
  rw [roundUnits_integer hlo hhi]
  simp only [gt_iff_lt, decide_eq_true_eq, ne_eq, ite_not]

/-- A rounding to an integral value: a zero, or the rounded integer as a value of the format (R64). -/
theorem toIntegral_num (f : FFmt) (m : RMod) (e : FEnv) {i : Bool} {k n : Nat} {d : Int} (hk : k ≠ 0) (hlo : (n : ℚ) ≤ size (.num i k d))
    (hhi : size (.num i k d) < n + 1) :
    let g := if m.rnd = .rs then lfsrStep e.lfsr else e.lfsr
    let b := if away m.rnd g.toNat i (n % 2 == 1) n (n + 1) (size (.num i k d)) then n + 1 else n
    toIntegral f m (.num i k d) e =
      ((roundWith f m 0 (exOk (.num i b 0))).bits, ⟨g, if (n : ℚ) = size (.num i k d) then e.fl else e.fl ||| fNX⟩) := by
  dsimp only [toIntegral]
  rw [if_neg hk, roundUnits_integer hlo hhi]
  simp only [decide_eq_true_eq, ne_eq, ite_not]

theorem toIntegral_zero (f : FFmt) (m : RMod) (e : FEnv) (i : Bool) (d : Int) :
    toIntegral f m (.num i 0 d) e = (if i then 2 ^ (f.ebits + f.frac) else 0, e) := by
  simp [toIntegral, signed_eq]

theorem toIntegral_inf (f : FFmt) (m : RMod) (e : FEnv) (i : Bool) :
    toIntegral f m (.inf i) e = ((if i then 2 ^ (f.ebits + f.frac) else 0) + f.infBits, e) := by
  simp [toIntegral, signed_eq]

-- One rounding of an instruction

theorem rounds_iff (v : Exact) : v.rounds = true ↔ v ≠ .nan ∧ v ≠ .inf true ∧ v ≠ .inf false := by
  cases v with
  | inf neg => cases neg <;> simp [Exact.rounds]
  | nan => simp [Exact.rounds]
  | zero neg => simp [Exact.rounds]
  | real neg m e st => simp [Exact.rounds]

/-- The generator steps once for a rounding of a finite result under .rs (R57, R58). -/
theorem roundOne_eq (f : FFmt) (m : RMod) (x : ExRes) (e : FEnv) :
    let g := if m.rnd = .rs ∧ x.v ≠ .nan ∧ x.v ≠ .inf true ∧ x.v ≠ .inf false then lfsrStep e.lfsr else e.lfsr
    roundOne f m x e = ((roundWith f m g.toNat x).bits, ⟨g, e.fl ||| (roundWith f m g.toNat x).fl⟩) := by
  simp only [← rounds_iff]
  rfl

end Sys2Proof.Machine
end

section
/-! SUPPORT. Exact results (O9, O13; spec/04 R53, R54, R60, R68, R69, R87 to R89): sums, products, quotients and roots of values as rationals, the
operands that are infinite or NaN, the order of values, and the classes of patterns. -/

namespace Sys2Proof.Machine

open Sys2Proof.Terms

theorem size_num (s : Bool) (m : Nat) (e : Int) : size (.num s m e) = m * 2 ^ e := rfl

theorem signedSize_num (s : Bool) (m : Nat) (e : Int) : signedSize (.num s m e) = (if s then -1 else 1) * (m * 2 ^ e) := by
  cases s <;> simp [signedSize, size]

theorem signedSize_eq_zero {s : Bool} {m : Nat} {e : Int} : signedSize (.num s m e) = 0 ↔ m = 0 := by
  have : (2 : ℚ) ^ e ≠ 0 := by positivity
  cases s <;> simp [signedSize_num, this]

/-- The sign bit of a nonzero value is the sign of its rational. -/
theorem sign_eq_decide {s : Bool} {m : Nat} {e : Int} (hm : m ≠ 0) : decide (signedSize (.num s m e) < 0) = s := by
  have : (0 : ℚ) < m * 2 ^ e := mul_pos (by exact_mod_cast Nat.pos_of_ne_zero hm) (by positivity)
  cases s with
  | true => simpa [signedSize_num] using this
  | false => simpa [signedSize_num] using this.le

theorem abs_signedSize (s : Bool) (m : Nat) (e : Int) : |signedSize (.num s m e)| = size (.num false m e) := by
  have : (0 : ℚ) ≤ m * 2 ^ e := by positivity
  cases s with
  | true => rw [signedSize_num, size_num, if_pos rfl, neg_one_mul, abs_neg, abs_of_nonneg this]
  | false => rw [signedSize_num, size_num, if_neg (by simp), one_mul, abs_of_nonneg this]

/-- A value counted in units of 2^e0. -/
theorem scaled_eq {s : Bool} {m : Nat} {e e0 : Int} (h : e0 ≤ e) : (scaled s m e e0 : ℚ) * 2 ^ e0 = signedSize (.num s m e) := by
  have hpow : (2 : ℚ) ^ e = 2 ^ (e - e0).toNat * 2 ^ e0 := by
    rw [← zpow_natCast, ← zpow_add₀ (by norm_num)]
    congr 1
    omega
  rw [signedSize_num, hpow, scaled]
  cases s with
  | true => simp; ring
  | false => simp; ring

-- Sums

/-- The sum of two finite values (R54): an exact zero takes the sign of equal zeros, else that of the mode. -/
theorem exAdd_num (rd i j : Bool) (m n : Nat) (d e : Int) :
    let t := signedSize (.num i m d) + signedSize (.num j n e)
    (t = 0 → exAdd rd (.num i m d) (.num j n e) = ⟨.zero (if m = 0 ∧ n = 0 ∧ i = j then i else rd), 0⟩) ∧
    (t ≠ 0 → ∃ k c, exAdd rd (.num i m d) (.num j n e) = ⟨.real (decide (t < 0)) k c false, 0⟩ ∧ 0 < k ∧ size (.num false k c) = |t|) := by
  intro t
  by_cases hm : m = 0
  · have hz : signedSize (.num i m d) = 0 := signedSize_eq_zero.2 hm
    have ht : t = signedSize (.num j n e) := by simp only [t, hz, zero_add]
    rw [ht]
    by_cases hn : n = 0
    · refine ⟨fun _ => ?_, fun h => absurd (signedSize_eq_zero.2 hn) h⟩
      simp [exAdd, hm, hn]
    · refine ⟨fun h => absurd (signedSize_eq_zero.1 h) hn, fun _ => ⟨n, e, ?_, Nat.pos_of_ne_zero hn, (abs_signedSize ..).symm⟩⟩
      rw [sign_eq_decide hn]
      simp [exAdd, hm, hn]
  · by_cases hn : n = 0
    · have ht : t = signedSize (.num i m d) := by simp only [t, signedSize_eq_zero.2 hn, add_zero]
      rw [ht]
      refine ⟨fun h => absurd (signedSize_eq_zero.1 h) hm, fun _ => ⟨m, d, ?_, Nat.pos_of_ne_zero hm, (abs_signedSize ..).symm⟩⟩
      rw [sign_eq_decide hm]
      simp [exAdd, hm, hn]
    · have hp : (0 : ℚ) < 2 ^ min d e := by positivity
      obtain ⟨v, hv⟩ : ∃ v, v = scaled i m d (min d e) + scaled j n e (min d e) := ⟨_, rfl⟩
      have hvt : (v : ℚ) * 2 ^ min d e = t := by
        rw [hv]
        push_cast
        rw [add_mul, scaled_eq (min_le_left ..), scaled_eq (min_le_right ..)]
      have hneg : decide (t < 0) = decide (v < 0) := by
        refine decide_eq_decide.2 ?_
        rw [← hvt, ← zero_mul ((2 : ℚ) ^ min d e), mul_lt_mul_iff_left₀ hp]
        exact_mod_cast Iff.rfl
      have hzero : v = 0 ↔ t = 0 := by
        rw [← hvt, mul_eq_zero_iff_right hp.ne']
        exact_mod_cast Iff.rfl
      have hadd : exAdd rd (.num i m d) (.num j n e) =
          if v = 0 then ⟨.zero rd, 0⟩ else ⟨.real (decide (v < 0)) v.natAbs (min d e) false, 0⟩ := by
        simp [exAdd, hm, hn, hv]
      rw [hadd, hneg]
      refine ⟨fun h => ?_, fun h => ⟨v.natAbs, min d e, if_neg (mt hzero.1 h), Int.natAbs_pos.2 (mt hzero.1 h), ?_⟩⟩
      · rw [if_pos (hzero.2 h)]
        simp [hm]
      · rw [size_num, ← hvt, abs_mul, abs_of_pos hp, Nat.cast_natAbs, Int.cast_abs]

-- Products

theorem exMul_num (i j : Bool) (m n : Nat) (d e : Int) :
    exMul (.num i m d) (.num j n e) = if m = 0 ∨ n = 0 then ⟨.zero (i != j), 0⟩ else ⟨.real (i != j) (m * n) (d + e) false, 0⟩ := by
  simp only [exMul, fvMul, FVal.exact, Nat.mul_eq_zero]
  split <;> rfl

theorem exFma_num (rd np nz i j : Bool) (m n : Nat) (d e : Int) (z : FVal) :
    exFma rd np nz (.num i m d) (.num j n e) z =
      exAdd rd (.num ((i != j) != np) (m * n) (d + e)) (if nz then z.neg else z) := by
  cases np <;> simp [exFma, fvMul, FVal.neg]

-- Quotients

/-- Rounding a count down to whole units keeps the bits that `holdsOf` asks for. -/
theorem exDiv_num {i j : Bool} {m n : Nat} {d e : Int} (hm : m ≠ 0) (hn : n ≠ 0) :
    ∃ k c st, exDiv (.num i m d) (.num j n e) = ⟨.real (i != j) k c st, 0⟩ ∧
      holdsOf id k c st (size (.num i m d) / size (.num j n e)) := by
  obtain ⟨l, hl⟩ : ∃ l, l = 160 + Nat.log2 n := ⟨_, rfl⟩
  refine ⟨m * 2 ^ l / n, d - e - l, m * 2 ^ l % n != 0, by simp [exDiv, hm, hn, hl], ?_⟩
  have hnpos : 0 < n := Nat.pos_of_ne_zero hn
  have hnq : (0 : ℚ) < n := by exact_mod_cast hnpos
  have hp : (0 : ℚ) < 2 ^ (d - e - l) := by positivity
  have hquot : size (.num i m d) / size (.num j n e) = ((m * 2 ^ l : Nat) : ℚ) / n * 2 ^ (d - e - (l : Int)) := by
    rw [size_num, size_num, zpow_sub₀ (by norm_num), zpow_sub₀ (by norm_num), zpow_natCast]
    push_cast
    field_simp
  have hdm : ((m * 2 ^ l : Nat) : ℚ) = n * (m * 2 ^ l / n : Nat) + (m * 2 ^ l % n : Nat) := by
    exact_mod_cast (Nat.div_add_mod (m * 2 ^ l) n).symm
  have hlt : ((m * 2 ^ l % n : Nat) : ℚ) < n := by exact_mod_cast Nat.mod_lt _ hnpos
  have h0 : (0 : ℚ) ≤ (m * 2 ^ l % n : Nat) := Nat.cast_nonneg _
  have hbits : n * 2 ^ 100 ≤ m * 2 ^ l := by
    have h1 : n ≤ 2 ^ (Nat.log2 n + 1) := Nat.lt_log2_self.le
    calc n * 2 ^ 100 ≤ 2 ^ (Nat.log2 n + 1) * 2 ^ 100 := Nat.mul_le_mul_right _ h1
      _ = 2 ^ (Nat.log2 n + 1 + 100) := (pow_add ..).symm
      _ ≤ 2 ^ l := Nat.pow_le_pow_right (by norm_num) (by omega)
      _ ≤ m * 2 ^ l := Nat.le_mul_of_pos_left _ (Nat.pos_of_ne_zero hm)
  generalize hN : m * 2 ^ l = N at *
  rw [holdsOf, id, id, hquot, mul_le_mul_iff_left₀ hp, mul_lt_mul_iff_left₀ hp, mul_left_inj' hp.ne', le_div_iff₀ hnq,
    div_lt_iff₀ hnq, eq_div_iff hnq.ne', hdm]
  refine ⟨by nlinarith, by nlinarith, ?_, (Nat.le_div_iff_mul_le hnpos).2 (by rw [Nat.mul_comm]; exact hbits)⟩
  rw [mul_comm, left_eq_add, Nat.cast_eq_zero]
  simp

-- Roots

/-- The bit-by-bit root is the root. -/
theorem isqrtGo_eq (v : Nat) (n r : Nat) (hlo : r * r ≤ v) (hhi : v < (r + 2 ^ n) * (r + 2 ^ n)) : isqrtGo v n r = Nat.sqrt v := by
  induction n generalizing r with
  | zero => exact Nat.eq_sqrt.2 ⟨hlo, hhi⟩
  | succ n ih =>
    have hpow : r + 2 ^ n + 2 ^ n = r + 2 ^ (n + 1) := by ring
    rw [isqrtGo]
    split
    · next h => exact ih _ h (by rw [hpow]; exact hhi)
    · next h => exact ih _ hlo (by omega)

theorem isqrt_eq (v : Nat) : isqrt v = Nat.sqrt v := by
  refine isqrtGo_eq v _ 0 (by simp) ?_
  have h : v < 2 ^ (Nat.log2 v + 1) := Nat.lt_log2_self
  rw [Nat.zero_add, ← pow_add]
  exact h.trans_le (Nat.pow_le_pow_right (by norm_num) (by omega))

/-- The whole root r of N with a scale: what it holds of a magnitude whose square is y = N ÷ w in units of 2^(2c). -/
theorem holdsOf_sqrt {r N w : Nat} {c : Int} {y : ℚ} (hw : 0 < w) (hy : y = (N : ℚ) / w * 2 ^ (2 * c)) (hlo : r * r * w ≤ N)
    (hhi : N < (r + 1) * (r + 1) * w) (hbits : 2 ^ 100 ≤ r) : holdsOf (fun z => z * z) r c (r * r * w != N) y := by
  have hwq : (0 : ℚ) < w := by exact_mod_cast hw
  have hp : (0 : ℚ) < 2 ^ (2 * c) := by positivity
  have hsq : ∀ z : ℚ, z * 2 ^ c * (z * 2 ^ c) = z * z * 2 ^ (2 * c) := by
    intro z
    rw [two_mul, zpow_add₀ (by norm_num)]
    ring
  rw [holdsOf, hy]
  simp only [hsq]
  rw [mul_le_mul_iff_left₀ hp, mul_lt_mul_iff_left₀ hp, mul_left_inj' hp.ne', le_div_iff₀ hwq, div_lt_iff₀ hwq, eq_div_iff hwq.ne']
  refine ⟨by exact_mod_cast hlo, by exact_mod_cast hhi, ?_, hbits⟩
  rw [bne_eq_false_iff_eq]
  exact_mod_cast Iff.rfl

theorem two_pow_100_le_sqrt {N : Nat} (h : 2 ^ 200 ≤ N) : 2 ^ 100 ≤ Nat.sqrt N := by
  rw [Nat.le_sqrt, ← pow_add]
  exact h

theorem exSqrt_num {m : Nat} {d : Int} (hm : m ≠ 0) :
    ∃ k c st, exSqrt (.num false m d) = ⟨.real false k c st, 0⟩ ∧ holdsOf (fun z => z * z) k c st (size (.num false m d)) := by
  obtain ⟨l, hl⟩ : ∃ l, l = 320 + (d % 2).toNat := ⟨_, rfl⟩
  refine ⟨isqrt (m * 2 ^ l), (d - l) / 2, isqrt (m * 2 ^ l) * isqrt (m * 2 ^ l) != m * 2 ^ l, by simp [exSqrt, hm, hl], ?_⟩
  have hN : 2 ^ 200 ≤ m * 2 ^ l :=
    (Nat.pow_le_pow_right (by norm_num) (by omega)).trans (Nat.le_mul_of_pos_left _ (Nat.pos_of_ne_zero hm))
  have hc : 2 * ((d - (l : Int)) / 2) = d - l := by omega
  have h := holdsOf_sqrt (r := Nat.sqrt (m * 2 ^ l)) (N := m * 2 ^ l) (w := 1) (c := (d - l) / 2) (y := size (.num false m d)) one_pos
    (by
      rw [hc, zpow_sub₀ (by norm_num), zpow_natCast, size_num]
      push_cast
      field_simp)
    (by rw [Nat.mul_one]; exact Nat.sqrt_le _) (by rw [Nat.mul_one]; exact Nat.lt_succ_sqrt _) (two_pow_100_le_sqrt hN)
  rwa [Nat.mul_one, ← isqrt_eq] at h

end Sys2Proof.Machine
end

section
/-! SUPPORT. The order of values, minima and maxima, and the classes of patterns (O9; spec/04 R53, spec/05 R88, R89). -/

namespace Sys2Proof.Machine

open Sys2Proof.Terms

-- The order

theorem fvLt_iff (x y : FVal) : fvLt x y = true ↔ below x y := by
  cases x with
  | nan => simp [fvLt, below]
  | inf a =>
    cases y with
    | nan => simp [fvLt, below]
    | inf b => simp [fvLt, below]
    | num j n e => simp [fvLt, below]
  | num i m d =>
    cases y with
    | nan => simp [fvLt, below]
    | inf b => simp [fvLt, below]
    | num j n e =>
      have hp : (0 : ℚ) < 2 ^ min d e := by positivity
      rw [fvLt, decide_eq_true_eq, below, ← scaled_eq (min_le_left d e), ← scaled_eq (min_le_right d e), mul_lt_mul_iff_left₀ hp,
        Int.cast_lt]

theorem below_asymm {x y : FVal} (h : below x y) : ¬below y x := by
  cases x with
  | nan => simp [below] at h
  | inf a =>
    cases y with
    | nan => simp [below] at h
    | inf b =>
      obtain ⟨rfl, rfl⟩ := h
      simp [below]
    | num j n e =>
      obtain rfl : a = true := h
      simp [below]
  | num i m d =>
    cases y with
    | nan => simp [below] at h
    | inf b =>
      obtain rfl : b = false := h
      simp [below]
    | num j n e => exact lt_asymm h

theorem ne_nan_of_below {x y : FVal} (h : below x y) : x ≠ .nan ∧ y ≠ .nan := by
  constructor
  · rintro rfl
    exact h
  · rintro rfl
    cases x <;> exact h

theorem isNan_eq_true {x : FVal} : x.isNan = true ↔ x = .nan := by
  cases x <;> simp [FVal.isNan]

theorem fvEq_iff (x y : FVal) : fvEq x y = true ↔ x ≠ .nan ∧ y ≠ .nan ∧ ¬below x y ∧ ¬below y x := by
  simp only [fvEq, Bool.and_eq_true, Bool.not_eq_true', ← Bool.not_eq_true, isNan_eq_true, fvLt_iff, and_assoc, ne_eq]

/-- At most is below or equal: of two numbers one is below the other only one way round (R53). -/
theorem fvLe_iff (x y : FVal) : fvLe x y = true ↔ x ≠ .nan ∧ y ≠ .nan ∧ ¬below y x := by
  rw [fvLe, Bool.or_eq_true, fvLt_iff, fvEq_iff]
  constructor
  · rintro (h | ⟨hx, hy, -, h⟩)
    · exact ⟨(ne_nan_of_below h).1, (ne_nan_of_below h).2, below_asymm h⟩
    · exact ⟨hx, hy, h⟩
  · rintro ⟨hx, hy, h⟩
    by_cases hb : below x y
    · exact .inl hb
    · exact .inr ⟨hx, hy, hb, h⟩

-- Minimum and maximum

section Pair

variable {f : FFmt} {a b : Nat}

theorem minMax_nans (hx : valOf f a = .nan) (hy : valOf f b = .nan) : minBits f a b = f.nanBits ∧ maxBits f a b = f.nanBits := by
  simp [minBits, maxBits, hx, hy, FVal.isNan]

theorem minMax_nan_left (hx : valOf f a = .nan) (hy : valOf f b ≠ .nan) : minBits f a b = b ∧ maxBits f a b = b := by
  simp [minBits, maxBits, hx, isNan_eq_true, hy]

theorem minMax_nan_right (hx : valOf f a ≠ .nan) (hy : valOf f b = .nan) : minBits f a b = a ∧ maxBits f a b = a := by
  simp [minBits, maxBits, hy, isNan_eq_true, hx]

theorem minMax_below (h : below (valOf f a) (valOf f b)) : minBits f a b = a ∧ maxBits f a b = b := by
  obtain ⟨hx, hy⟩ := ne_nan_of_below h
  simp [minBits, maxBits, isNan_eq_true, hx, hy, fvLt_iff, h]

theorem minMax_above (h : below (valOf f b) (valOf f a)) : minBits f a b = b ∧ maxBits f a b = a := by
  obtain ⟨hy, hx⟩ := ne_nan_of_below h
  simp [minBits, maxBits, isNan_eq_true, hx, hy, fvLt_iff, h, below_asymm h]

/-- Of two equal numbers the one with a sign is the minimum: −0 lies below +0 there (R53). -/
theorem minMax_equal (ha : a < 2 * f.signBit) (hx : valOf f a ≠ .nan) (hy : valOf f b ≠ .nan)
    (h : ¬below (valOf f a) (valOf f b)) (h' : ¬below (valOf f b) (valOf f a)) :
    minBits f a b = (if f.signBit ≤ a then a else b) ∧ maxBits f a b = if f.signBit ≤ a then b else a := by
  simp [minBits, maxBits, isNan_eq_true, hx, hy, fvLt_iff, h, h', div_signBit_odd ha]

end Pair

-- Classes

/-- The class of a pattern by its magnitude (R89). -/
theorem classOf_eq {f : FFmt} (hf : f.proper) {b : Nat} (hb : b < 2 * f.signBit) :
    let neg := if f.signBit ≤ b then 8 else 0
    classOf f b = if b % f.signBit = 0 then neg else if b % f.signBit < 2 ^ f.frac then 1 + neg
      else if b % f.signBit ≤ f.maxBits then 2 + neg
      else if f.hasInf = true ∧ b % f.signBit = f.infBits then 3 + neg else 4 := by
  have hF : 0 < 2 ^ f.frac := Nat.two_pow_pos _
  have hlt := Nat.mod_lt b (show 0 < f.signBit from Nat.two_pow_pos _)
  dsimp only
  rw [classOf, valOf_eq hf hb]
  generalize b % f.signBit = n at *
  by_cases hmax : f.maxBits < n
  · have hbig : ¬n < 2 ^ f.frac := by
      intro h
      have hE : 2 ≤ 2 ^ f.ebits := Nat.le_self_pow hf.2.ne' 2
      have hex := ((maxBits_lt_iff hf hlt).1 hmax).1
      rw [Nat.div_eq_of_lt h] at hex
      omega
    have h0 : n ≠ 0 := by omega
    simp only [if_pos hmax, if_neg hbig, if_neg h0, if_neg hmax.not_ge]
    by_cases hinf : f.hasInf = true ∧ n = f.infBits
    · simp only [if_pos hinf, decide_eq_true_eq]
    · simp only [if_neg hinf]
  · simp only [if_neg hmax, if_pos (not_lt.1 hmax)]
    by_cases hsub : n < 2 ^ f.frac
    · by_cases h0 : n = 0
      · simp only [if_pos hsub, if_pos h0, decide_eq_true_eq, Nat.zero_add]
      · simp only [if_pos hsub, if_neg h0, decide_eq_true_eq]
    · have h0 : n ≠ 0 := by omega
      have hnormal : ¬2 ^ f.frac + n % 2 ^ f.frac = 0 ∧ ¬2 ^ f.frac + n % 2 ^ f.frac < 2 ^ f.frac := by omega
      simp only [if_neg hsub, if_neg h0, if_neg hnormal.1, if_neg hnormal.2, decide_eq_true_eq]

end Sys2Proof.Machine
end

section
/-! SUPPORT. Operands that are NaN or infinite (O9; spec/04 R51, R60, R69). -/

namespace Sys2Proof.Machine

open Sys2Proof.Terms

-- NaN operands

theorem exAdd_nan_left (rd : Bool) (x : FVal) : exAdd rd .nan x = ⟨.nan, 0⟩ := rfl

theorem exAdd_nan_right (rd : Bool) (x : FVal) : exAdd rd x .nan = ⟨.nan, 0⟩ := by cases x <;> rfl

theorem fvMul_nan_left (x : FVal) : fvMul .nan x = (.nan, 0) := rfl

theorem fvMul_nan_right (x : FVal) : fvMul x .nan = (.nan, 0) := by cases x <;> rfl

theorem exMul_nan_left (x : FVal) : exMul .nan x = ⟨.nan, 0⟩ := rfl

theorem exMul_nan_right (x : FVal) : exMul x .nan = ⟨.nan, 0⟩ := by simp [exMul, fvMul_nan_right, FVal.exact]

theorem exDiv_nan_left (x : FVal) : exDiv .nan x = ⟨.nan, 0⟩ := rfl

theorem exDiv_nan_right (x : FVal) : exDiv x .nan = ⟨.nan, 0⟩ := by cases x <;> rfl

/-- A fused form whose product is a NaN without a flag is a NaN, whatever the addend. -/
theorem exFma_of_nan {rd np nz : Bool} {x y z : FVal} (h : fvMul x y = (.nan, 0)) : exFma rd np nz x y z = ⟨.nan, 0⟩ := by
  cases np <;> simp [exFma, h, FVal.neg, exAdd_nan_left]

-- Infinite operands

/-- A fused form whose product is invalid raises NV, whatever the addend (R69). -/
theorem exFma_of_invalid {rd np nz : Bool} {x y z : FVal} (h : fvMul x y = (.nan, fNV)) : exFma rd np nz x y z = ⟨.nan, fNV⟩ := by
  simp [exFma, h, fNV, exNV]

/-- A fused form whose product is infinite adds the infinity of the product's sign. -/
theorem exFma_of_inf {rd np nz q : Bool} {x y z : FVal} (h : fvMul x y = (.inf q, 0)) :
    exFma rd np nz x y z = exAdd rd (.inf (q != np)) (if nz then z.neg else z) := by
  cases np <;> simp [exFma, h, FVal.neg]

theorem fvMul_inf_num (i j : Bool) (m : Nat) (d : Int) :
    fvMul (.inf i) (.num j m d) = if m = 0 then (.nan, fNV) else (.inf (i != j), 0) := rfl

theorem fvMul_num_inf (i j : Bool) (m : Nat) (d : Int) :
    fvMul (.num j m d) (.inf i) = if m = 0 then (.nan, fNV) else (.inf (i != j), 0) := by
  rw [bne_comm]
  rfl

theorem exMul_inf_num (i j : Bool) (m : Nat) (d : Int) :
    exMul (.inf i) (.num j m d) = if m = 0 then ⟨.nan, fNV⟩ else ⟨.inf (i != j), 0⟩ := by
  rw [exMul, fvMul_inf_num]
  split <;> rfl

theorem exMul_num_inf (i j : Bool) (m : Nat) (d : Int) :
    exMul (.num j m d) (.inf i) = if m = 0 then ⟨.nan, fNV⟩ else ⟨.inf (i != j), 0⟩ := by
  rw [exMul, fvMul_num_inf]
  split <;> rfl

/-- A fused form of an infinity and a finite value, by the product of the two. -/
theorem exFma_of_inf_num {rd np nz q : Bool} {m : Nat} {x y z : FVal} (h : fvMul x y = if m = 0 then (.nan, fNV) else (.inf q, 0)) :
    exFma rd np nz x y z = if m = 0 then ⟨.nan, fNV⟩ else exAdd rd (.inf (q != np)) (if nz then z.neg else z) := by
  by_cases hm : m = 0
  · rw [if_pos hm] at h ⊢
    exact exFma_of_invalid h
  · rw [if_neg hm] at h ⊢
    exact exFma_of_inf h

theorem exDiv_num_inf (i j : Bool) (m : Nat) (d : Int) : exDiv (.num j m d) (.inf i) = ⟨.zero (i != j), 0⟩ := by
  rw [bne_comm]
  rfl

end Sys2Proof.Machine
end

section
/-! SUPPORT. O9: scalar floating-point instructions (spec/05 R85 to R91). -/

namespace Sys2Proof.Machine

open Sys2Proof.Terms

-- Operands

/-- The operand bits of a width are those below twice the weight of its sign bit (R85). -/
theorem opBits_eq_pat (w : FWidth) (v : Word) : opBits (fmtOf w) v = fpResult.pat w v := by
  cases w <;> rfl

theorem opVal_eq_val (w : FWidth) (v : Word) : opVal (fmtOf w) v = fpResult.val w v := by
  rw [opVal, opBits_eq_pat]
  rfl

theorem valOf_opBits (w : FWidth) (v : Word) : valOf (fmtOf w) (opBits (fmtOf w) v) = fpResult.val w v := opVal_eq_val w v

/-- A retired result with its roundings. -/
def floatEnds (s : State) (a : XReg) (r : Nat × FEnv) : Res :=
  .next (finish s (setX { curSlot s with fexc := (curSlot s).fexc ||| BitVec.ofNat 5 r.2.fl, lfsr := r.2.lfsr } a (BitVec.ofNat 64 r.1))
    [BitVec.ofNat 64 r.1])

section Forms

variable {s : State} {w : FWidth} {m : RMod} {a b c : XReg}

/-- The arithmetic forms round their exact result once (R87). -/
theorem floatArith_ready (op : FOp) (h : xReady s [a, c, b]) :
    floatArith op w m a c b s = floatEnds s a (roundOne (fmtOf w) m
      (fExact op (m.rnd == .rd) (fpResult.val w (getX (curSlot s) c)) (fpResult.val w (getX (curSlot s) b)) (fpResult.val w (getX (curSlot s) a)))
      { lfsr := (curSlot s).lfsr }) := by
  rw [floatArith, needX_ready _ h]
  dsimp only
  rw [floatResult_eq, fArith, valOf_opBits, valOf_opBits, valOf_opBits]
  rfl

theorem floatBits_ready (g : FFmt → Nat → Nat → FEnv → Nat × FEnv) (h : xReady s [a, c, b]) :
    floatBits w a c b g s = floatEnds s a
      (g (fmtOf w) (fpResult.pat w (getX (curSlot s) c)) (fpResult.pat w (getX (curSlot s) b)) { lfsr := (curSlot s).lfsr }) := by
  rw [floatBits, needX_ready _ h]
  dsimp only
  rw [floatResult_eq, opBits_eq_pat, opBits_eq_pat]
  rfl

theorem floatConv_ready (g : Word → FEnv → Nat × FEnv) (h : xReady s [a, b]) :
    floatConv a b g s = floatEnds s a (g (getX (curSlot s) b) { lfsr := (curSlot s).lfsr }) := by
  rw [floatConv, needX_ready _ h]
  dsimp only
  rw [floatResult_eq]
  rfl

end Forms

theorem xReady_doubled {s : State} {a b : XReg} (h : xReady s [a, b]) : xReady s [a, b, b] ∧ xReady s [a, a, b] := by
  constructor
  · intro r hr
    exact h r (by simpa using hr)
  · intro r hr
    exact h r (by simpa using hr)

-- Results that are not rounded

theorem pat_lt (w : FWidth) (v : Word) : fpResult.pat w v < 2 * (fmtOf w).signBit := by
  rw [← opBits_eq_pat]
  exact Nat.mod_lt _ (Nat.mul_pos two_pos (Nat.two_pow_pos _))

/-- Inverting the top bit of a pattern (R88). -/
theorem flip_signBit {f : FFmt} {n : Nat} (h : n < 2 * f.signBit) :
    (if n / f.signBit = 0 then n + f.signBit else n - f.signBit) = n ^^^ f.signBit := by
  have hs : 0 < f.signBit := Nat.two_pow_pos _
  have hzero : n / f.signBit = 0 ↔ n < f.signBit := by
    rw [Nat.div_eq_zero_iff]
    omega
  have hxor : ∀ k < f.signBit, k ^^^ f.signBit = k + f.signBit := by
    intro k hk
    rw [FFmt.signBit] at *
    rw [← Nat.div_add_mod (k ^^^ _) (2 ^ (f.ebits + f.frac)), Nat.xor_div_two_pow, Nat.xor_mod_two_pow, Nat.div_eq_of_lt hk,
      Nat.mod_eq_of_lt hk, Nat.div_self hs, Nat.mod_self]
    simp [Nat.add_comm]
  by_cases hn : n < f.signBit
  · rw [if_pos (hzero.2 hn), hxor n hn]
  · obtain ⟨k, rfl⟩ : ∃ k, n = k + f.signBit := ⟨n - f.signBit, by omega⟩
    rw [if_neg (mt hzero.1 hn), ← hxor k (by omega), Nat.xor_assoc, Nat.xor_self, Nat.xor_zero, hxor k (by omega), Nat.add_sub_cancel]

/-- An ordered comparison with a NaN raises NV (R60). -/
theorem nan_raises (x y : FVal) (e : FEnv) :
    (if x.isNan || y.isNan then raise e fNV else e) = if x.isNan ∨ y.isNan then raise e fNV else e := by
  simp only [Bool.or_eq_true]

theorem toNat_ofInt_64 (v : Int) : (v % 2 ^ 64).toNat = (BitVec.ofInt 64 v).toNat := by
  rw [BitVec.toNat_ofInt]
  rfl

-- Conversions

/-- No page-1 width widens into an 8-bit format, so .sat is for the conversion as it stands (R64). -/
theorem widens_fmtE (w : FWidth) (t : E8) : widens (fmtOf w) (fmtE t) = false := by
  cases w <;> cases t <;> decide

theorem opBits_fmtE (t : E8) (v : Word) : opBits (fmtE t) v = v.toNat % 256 := by
  cases t <;> rfl

theorem cvtFmt_fmtE (w : FWidth) (t : E8) (m : RMod) (v : Word) (e : FEnv) :
    cvtFmt (fmtOf w) (fmtE t) m (opBits (fmtOf w) v) e = roundOne (fmtE t) m (exOk (fpResult.val w v)) e := by
  rw [cvtFmt, widens_fmtE, valOf_opBits, Bool.not_false, Bool.and_true]

-- Every form

/-- Every scalar floating-point instruction ends with the result of its table entry (R87, R88, R90, R91). -/
theorem exec_fpResult {s : State} {i : Instr} {a : XReg} {rs : List XReg} {y : Nat × FEnv}
    (h : fpResult (getX (curSlot s)) { lfsr := (curSlot s).lfsr } i = some (a, rs, y)) (hr : xReady s rs) : exec i s = floatEnds s a y := by
  unfold fpResult at h
  split at h
  case h_1 w m d c b => cases h; exact floatArith_ready .add hr
  case h_2 w m d c b => cases h; exact floatArith_ready .sub hr
  case h_3 w m d c b => cases h; exact floatArith_ready .mul hr
  case h_4 w m d c b => cases h; exact floatArith_ready .div hr
  case h_5 w m d b => cases h; exact floatArith_ready .sqrt (xReady_doubled hr).2
  case h_6 w m d c b => cases h; exact floatArith_ready .fma hr
  case h_7 w m d c b => cases h; exact floatArith_ready .fms hr
  case h_8 w m d c b => cases h; exact floatArith_ready .fnma hr
  case h_9 w m d c b => cases h; exact floatArith_ready .fnms hr
  case h_10 w d c b => cases h; exact (floatBits_ready _ hr : execFmin w a c b s = _)
  case h_11 w d c b => cases h; exact (floatBits_ready _ hr : execFmax w a c b s = _)
  case h_12 w d c b => cases h; exact (floatBits_ready _ hr : execFeq w a c b s = _)
  case h_13 w d c b => cases h; rw [← nan_raises]; exact (floatBits_ready _ hr : execFlt w a c b s = _)
  case h_14 w d c b => cases h; rw [← nan_raises]; exact (floatBits_ready _ hr : execFle w a c b s = _)
  case h_15 w d c b => cases h; simp only [← Bool.or_eq_true]; exact (floatBits_ready _ hr : execFunord w a c b s = _)
  case h_16 w d b => cases h; exact (floatBits_ready _ (xReady_doubled hr).1 : execFclass w a b s = _)
  case h_17 w d b => cases h; exact (floatBits_ready _ (xReady_doubled hr).1 : execFabs w a b s = _)
  case h_18 w d b =>
    cases h
    rw [← flip_signBit (pat_lt ..)]
    exact (floatBits_ready _ (xReady_doubled hr).1 : execFneg w a b s = _)
  case h_19 w d c b => cases h; exact (floatBits_ready _ hr : execFsign w a c b s = _)
  case h_20 w r d b =>
    cases h
    simp only [← opVal_eq_val, ← toNat_ofInt_64]
    exact (floatConv_ready _ hr : execFcvtF2i w r a b s = _)
  case h_21 w r d b => cases h; simp only [← opVal_eq_val]; exact (floatConv_ready _ hr : execFcvtF2n w r a b s = _)
  case h_22 w m d b => cases h; exact (floatConv_ready _ hr : execFcvtI2f w m a b s = _)
  case h_23 w m d b => cases h; exact (floatConv_ready _ hr : execFcvtN2f w m a b s = _)
  case h_24 w src m d b => cases h; simp only [← opVal_eq_val]; exact (floatConv_ready _ hr : execFcvtFf w src m a b s = _)
  case h_25 w t m d b => cases h; rw [← cvtFmt_fmtE]; exact (floatConv_ready _ hr : execFcvtF2e w t m a b s = _)
  case h_26 w t d b => cases h; rw [← opBits_fmtE]; exact (floatConv_ready _ hr : execFcvtE2f w t a b s = _)
  case h_27 => cases h

/-- Settles O9: Round and the exact operations as rationals, the special operands, the order, the conversions, and each instruction's result. -/
theorem scalarFloatInstructionsGiveTheirResults : Obligations.ScalarFloatInstructionsGiveTheirResults := by
  unfold Obligations.ScalarFloatInstructionsGiveTheirResults
  refine ⟨fun f hmem => ?_, ?_, fun i j rd np nz m d x z => ?_, ?_, fun f hmem => ?_, ?_, roundOne_eq, fun s i a rs r e => exec_fpResult⟩
  · have hf := proper_of_mem hmem
    refine ⟨fun b hb => ?_, fun m r _ => ⟨roundWith_nan f m r, roundWith_zero f m r, roundWith_inf f m r,
      fun neg k e st n lo x h hlo hhi => roundWith_real_ends hf h hlo hhi⟩⟩
    have hb' : b < 2 * f.signBit := by rwa [pow_succ'] at hb
    exact ⟨valOf_finite hf hb', valOf_special hf hb'⟩
  · rintro _ _ i j m n d e rfl rfl
    refine ⟨fun rd => exAdd_num rd i j m n d e, exMul_num .., exDiv_num, fun hm hn => ?_, fun hm hn => ?_, fun hm hn => ?_, ?_, ?_,
      fun hm => ?_, fun rd np nz => exFma_num rd np nz i j m n d e⟩
    · simp [exDiv, hm, hn]
    · simp [exDiv, hm, hn, exNV]
    · simp [exDiv, hm, hn]
    · rintro hm rfl
      exact exSqrt_num hm
    · rintro hm rfl
      simp [exSqrt, hm, exNV]
    · simp [exSqrt, hm]
  · exact ⟨⟨exAdd_nan_left .., exAdd_nan_right .., exMul_nan_left .., exMul_nan_right .., exDiv_nan_left .., exDiv_nan_right .., rfl,
        exFma_of_nan (fvMul_nan_left _), exFma_of_nan (fvMul_nan_right _)⟩,
      rfl, rfl, rfl, rfl, rfl, exMul_inf_num .., exMul_num_inf .., rfl, exDiv_num_inf .., rfl, exFma_of_inf rfl,
      exFma_of_inf_num (fvMul_inf_num ..), exFma_of_inf_num (fvMul_num_inf ..)⟩
  · exact fun x y => ⟨fvLt_iff x y, fvEq_iff x y, fvLe_iff x y⟩
  · have hf := proper_of_mem hmem
    exact ⟨fun b hb => classOf_eq hf hb,
      fun a b ha _ => ⟨minMax_nans, minMax_nan_left, minMax_nan_right, minMax_below, minMax_above, minMax_equal ha⟩,
      fun m e => ⟨rfl, toIntegral_inf f m e, toIntegral_zero f m e, fun i k d lo hk hlo hhi => toIntegral_num f m e hk hlo hhi⟩⟩
  · exact fun rnd lo hi e => ⟨rfl, fun i => rfl, fun i k d n hlo hhi => toInt_num rnd lo hi e hlo hhi⟩

end Sys2Proof.Machine
end

section
/-! SUPPORT. Lanes (O13; spec/04 R65, spec/06 R94 to R100): what a vector instruction on unbound registers leaves, and the integers and bits
that lanes hold. -/

namespace Sys2Proof.Machine

open Sys2Proof.Terms

-- How lane-by-lane instructions end

/-- The retired state in which the active lanes of a register have their new values. -/
def laneEnds (s : State) (a : VReg) (k : MReg) (g : Fin 32 → FEnv → Nat × FEnv) : Res :=
  let r := laneRun (getM (curSlot s) k) g (getV (curSlot s) a) { lfsr := (curSlot s).lfsr }
  .next (finish s (setV { curSlot s with fexc := (curSlot s).fexc ||| BitVec.ofNat 5 r.2.fl, lfsr := r.2.lfsr } a r.1) (vecWords r.1))

/-- A vector instruction on unbound registers that fills the active lanes. -/
theorem vecOp_lanes {s : State} {xs : List XReg} {srcs vs : List VReg} {a : VReg} {k : MReg}
    {g : Slot → List Lanes → Fin 32 → FEnv → Nat × FEnv} {g' : Fin 32 → FEnv → Nat × FEnv} (hx : xReady s xs) (hv : vReady s vs)
    (hu : unbound s vs) (hsub : ∀ r ∈ a :: srcs, r ∈ vs) (hg : ∀ l e, g (curSlot s) (srcs.map (getV (curSlot s))) l e = g' l e) :
    vecOp s xs srcs a (fun sl vs e => mapLanes (getM sl k) (g sl vs) e) = laneEnds s a k g' := by
  obtain rfl : g (curSlot s) (srcs.map (getV (curSlot s))) = g' := funext fun l => funext (hg l)
  rw [vecOp_unbound s xs srcs a _ hx (fun r hr => hv r (hsub r hr)) (fun r hr => hu r (hsub r hr)), laneEnds]
  simp only [← mapLanes_run]
  rfl

-- The integers of a lane

theorem signedN_toNat (x : Lane) : signedN x.toNat 32 = x.toInt := by
  rw [signedN, BitVec.toInt_eq_toNat_cond, Nat.mod_eq_of_lt x.isLt]
  have := x.isLt
  split <;> split <;> omega

theorem laneInt_s32 (x : Lane) : laneInt .s32 x.toNat = x.toInt := signedN_toNat x

theorem laneInt_n32 (x : Lane) : laneInt .n32 x.toNat = x.toNat := by
  change ((x.toNat % 2 ^ 32 : Nat) : Int) = _
  rw [Nat.mod_eq_of_lt x.isLt]

theorem toNat_ofInt_32 (v : Int) : (v % 2 ^ 32).toNat = (BitVec.ofInt 32 v).toNat := by
  rw [BitVec.toNat_ofInt]
  rfl

/-- A lane holds its integer modulo 2^32 (R65). -/
theorem ofInt_laneInt (t : VTy) (x : Lane) : BitVec.ofInt 32 (laneInt t x.toNat) = x := by
  have hn : BitVec.ofInt 32 (x.toNat : Int) = x := by rw [BitVec.ofInt_natCast, BitVec.ofNat_toNat, BitVec.setWidth_eq]
  cases t with
  | s32 => rw [laneInt_s32, BitVec.ofInt_toInt]
  | n32 => rw [laneInt_n32, hn]
  | f32 => exact (congrArg _ (laneInt_n32 x)).trans hn

/-- An integer operation that wraps, as an operation on lanes. -/
theorem intLane_wraps (t : VTy) (v : Int) : intLane t false v = (BitVec.ofInt 32 v).toNat := toNat_ofInt_32 v

/-- An integer operation of R95, clamped under .sat. -/
theorem intLane_s32_sat (sat : Bool) (f : Int → Int → Int) (c b : Lane) :
    intLane .s32 (sat && true) (f (laneInt .s32 c.toNat) (laneInt .s32 b.toNat)) = laneInteger .s32 sat f c b := by
  rw [Bool.and_true, laneInt_s32, laneInt_s32]
  exact toNat_ofInt_32 _

theorem intLane_n32_sat (sat : Bool) (f : Int → Int → Int) (c b : Lane) :
    intLane .n32 (sat && true) (f (laneInt .n32 c.toNat) (laneInt .n32 b.toNat)) = laneInteger .n32 sat f c b := by
  rw [Bool.and_true, laneInt_n32, laneInt_n32]
  exact toNat_ofInt_32 _

-- Quotients (R65)

theorem div_s32 (sat : Bool) (c b : Lane) :
    intLane .s32 (sat && false) (if laneInt .s32 b.toNat = 0 then -1 else (laneInt .s32 c.toNat).tdiv (laneInt .s32 b.toNat)) =
      if b = 0 then 2 ^ 32 - 1 else (c.sdiv b).toNat := by
  rw [Bool.and_false, intLane_wraps, laneInt_s32, laneInt_s32]
  by_cases hb : b = 0
  · subst hb
    rfl
  · have hz : ¬b.toInt = 0 := fun h => hb (BitVec.eq_of_toInt_eq h)
    rw [if_neg hb, if_neg hz]
    exact congrArg _ (BitVec.eq_of_toInt_eq (by rw [BitVec.toInt_ofInt, BitVec.toInt_sdiv]))

theorem div_n32 (sat : Bool) (c b : Lane) :
    intLane .n32 (sat && false) (if laneInt .n32 b.toNat = 0 then -1 else (laneInt .n32 c.toNat).tdiv (laneInt .n32 b.toNat)) =
      if b = 0 then 2 ^ 32 - 1 else c.toNat / b.toNat := by
  rw [Bool.and_false, intLane_wraps, laneInt_n32, laneInt_n32]
  by_cases hb : b = 0
  · subst hb
    rfl
  · have hz : ¬(b.toNat : Int) = 0 := fun h => hb (BitVec.eq_of_toNat_eq (by exact_mod_cast h))
    have hlt : c.toNat / b.toNat < 2 ^ 32 := (Nat.div_le_self ..).trans_lt c.isLt
    rw [if_neg hb, if_neg hz, ← Int.ofNat_tdiv, BitVec.ofInt_natCast, BitVec.toNat_ofNat, Nat.mod_eq_of_lt hlt]

-- Shifts and signs

theorem shl_lane (c : Lane) (n : Nat) : c.toNat * 2 ^ n % 2 ^ 32 = (c <<< n).toNat := by
  rw [BitVec.toNat_shiftLeft, Nat.shiftLeft_eq]

theorem shr_lane (c : Lane) (n : Nat) : c.toNat / 2 ^ n = (c >>> n).toNat := by
  rw [BitVec.toNat_ushiftRight, Nat.shiftRight_eq_div_pow]

theorem sar_lane (c : Lane) (n : Nat) : (signedN c.toNat 32 / 2 ^ n % 2 ^ 32).toNat = (c.sshiftRight n).toNat := by
  rw [signedN_toNat, toNat_ofInt_32, ← BitVec.ofInt_toInt (x := c.sshiftRight n), BitVec.toInt_sshiftRight, Int.shiftRight_eq_div_pow]
  rfl

theorem neg_lane (b : Lane) : ((-(signedN b.toNat 32)) % 2 ^ 32).toNat = (0 - b).toNat := by
  rw [signedN_toNat, toNat_ofInt_32, BitVec.ofInt_neg, BitVec.ofInt_toInt, zero_sub]

theorem abs_lane (b : Lane) : (signedN b.toNat 32).natAbs % 2 ^ 32 = if b.toInt < 0 then (0 - b).toNat else b.toNat := by
  have hlt := b.isLt
  rw [signedN_toNat, zero_sub, BitVec.toNat_neg, BitVec.toInt_eq_toNat_cond]
  split <;> split <;> omega

/-- Inverting the top bit of a lane adds it (R95). -/
theorem flip_lane (b : Lane) : (b.toNat + 2 ^ 31) % 2 ^ 32 = (b ^^^ 0x80000000#32).toNat := by
  have hlt := b.isLt
  have h := flip_signBit (f := fp32) (n := b.toNat) hlt
  change (if b.toNat / 2 ^ 31 = 0 then b.toNat + 2 ^ 31 else b.toNat - 2 ^ 31) = b.toNat ^^^ 2 ^ 31 at h
  rw [BitVec.toNat_xor]
  change _ = b.toNat ^^^ 2 ^ 31
  rw [← h]
  split <;> omega

end Sys2Proof.Machine
end

section
/-! SUPPORT. Every lane-by-lane form (O13; spec/06 R95, R97, R99, R100). -/

namespace Sys2Proof.Machine

open Sys2Proof.Terms

-- Integer forms that wrap under every modifier (R95)

section Fused

variable (t : VTy) (sat : Bool) (c b a : Lane)

theorem intLane_fma : intLane t (sat && false) (laneInt t c.toNat * laneInt t b.toNat + laneInt t a.toNat) = (c * b + a).toNat := by
  rw [Bool.and_false, intLane_wraps, BitVec.ofInt_add, BitVec.ofInt_mul, ofInt_laneInt, ofInt_laneInt, ofInt_laneInt]

theorem intLane_fms : intLane t (sat && false) (laneInt t c.toNat * laneInt t b.toNat - laneInt t a.toNat) = (c * b - a).toNat := by
  rw [Bool.and_false, intLane_wraps, Int.sub_eq_add_neg, BitVec.ofInt_add, BitVec.ofInt_mul, BitVec.ofInt_neg, ofInt_laneInt,
    ofInt_laneInt, ofInt_laneInt, ← sub_eq_add_neg]

theorem intLane_fnma :
    intLane t (sat && false) (-(laneInt t c.toNat * laneInt t b.toNat) - laneInt t a.toNat) = (0 - c * b - a).toNat := by
  rw [Bool.and_false, intLane_wraps, Int.sub_eq_add_neg, BitVec.ofInt_add, BitVec.ofInt_neg, BitVec.ofInt_neg, BitVec.ofInt_mul,
    ofInt_laneInt, ofInt_laneInt, ofInt_laneInt, ← sub_eq_add_neg, zero_sub]

theorem intLane_fnms :
    intLane t (sat && false) (-(laneInt t c.toNat * laneInt t b.toNat) + laneInt t a.toNat) = (a - c * b).toNat := by
  rw [Bool.and_false, intLane_wraps, BitVec.ofInt_add, BitVec.ofInt_neg, BitVec.ofInt_mul, ofInt_laneInt, ofInt_laneInt, ofInt_laneInt,
    neg_add_eq_sub]

end Fused

-- Minimum and maximum of integer lanes

theorem laneMin_s32 (c b : Lane) : laneMin .s32 c.toNat b.toNat = if c.toInt ≤ b.toInt then c.toNat else b.toNat := by
  rw [← laneInt_s32, ← laneInt_s32]
  rfl

theorem laneMin_n32 (c b : Lane) : laneMin .n32 c.toNat b.toNat = min c.toNat b.toNat := by
  change (if laneInt .n32 c.toNat ≤ laneInt .n32 b.toNat then c.toNat else b.toNat) = _
  rw [laneInt_n32, laneInt_n32, min_def]
  simp only [Int.ofNat_le]

/-- Where two lanes hold equal integers either one is the maximum. -/
theorem laneMax_s32 (c b : Lane) : laneMax .s32 c.toNat b.toNat = if c.toInt ≤ b.toInt then b.toNat else c.toNat := by
  change (if laneInt .s32 b.toNat ≤ laneInt .s32 c.toNat then c.toNat else b.toNat) = _
  rw [laneInt_s32, laneInt_s32]
  by_cases h : c.toInt = b.toInt
  · rw [BitVec.eq_of_toInt_eq h, ite_self]
  · split <;> split <;> omega

theorem laneMax_n32 (c b : Lane) : laneMax .n32 c.toNat b.toNat = max c.toNat b.toNat := by
  change (if laneInt .n32 b.toNat ≤ laneInt .n32 c.toNat then c.toNat else b.toNat) = _
  rw [laneInt_n32, laneInt_n32, max_comm, max_def]
  simp only [Int.ofNat_le]

-- The forms

section Ends

variable {s : State} {a c b : VReg} {k : MReg} {vs : List VReg} {g' : Fin 32 → FEnv → Nat × FEnv}

/-- A form on two sources. -/
theorem vecBin_ends {g : Nat → Nat → FEnv → Nat × FEnv} (hv : vReady s [a, c, b]) (hu : unbound s [a, c, b])
    (hg : ∀ l e, g ((getV (curSlot s) c)[l]).toNat ((getV (curSlot s) b)[l]).toNat e = g' l e) :
    vecBin a c b k g s = laneEnds s a k g' :=
  vecOp_lanes (g := fun _ vs l e => g (laneAt vs 0 l) (laneAt vs 1 l) e) (by simp [xReady]) hv hu (by simp) hg

/-- A form on one source. -/
theorem vecUna_ends {g : Nat → FEnv → Nat × FEnv} (hv : vReady s [a, b]) (hu : unbound s [a, b])
    (hg : ∀ l e, g ((getV (curSlot s) b)[l]).toNat e = g' l e) : vecUna a b k g s = laneEnds s a k g' :=
  vecOp_lanes (g := fun _ vs l e => g (laneAt vs 0 l) e) (by simp [xReady]) hv hu (by simp) hg

/-- A fused form, which reads its destination too. -/
theorem vecTri_ends {g : Nat → Nat → Nat → FEnv → Nat × FEnv} (hv : vReady s [a, c, b]) (hu : unbound s [a, c, b])
    (hg : ∀ l e, g ((getV (curSlot s) c)[l]).toNat ((getV (curSlot s) b)[l]).toNat ((getV (curSlot s) a)[l]).toNat e = g' l e) :
    vecTri a c b k g s = laneEnds s a k g' :=
  vecOp_lanes (g := fun _ vs l e => g (laneAt vs 0 l) (laneAt vs 1 l) (laneAt vs 2 l) e) (by simp [xReady]) hv hu (by simp) hg

/-- A function of R68, rounded once (R99). -/
theorem vecFun_ends {m : RMod} (f : FFun) (F : FVal → ExRes) (hF : ∀ x, fnExact f x = F x) (hv : vReady s [a, b]) (hu : unbound s [a, b]) :
    vecFun f m a b k s = laneEnds s a k fun l e => roundOne fp32 m (F (laneResult.fv ((getV (curSlot s) b)[l]))) e :=
  vecUna_ends hv hu fun _ e => congrArg (roundOne fp32 m · e) (hF _)

end Ends

/-- Every lane-by-lane instruction ends with the lanes of its table entry. -/
theorem exec_laneResult {s : State} {i : Instr} {a : VReg} {xs : List XReg} {vs : List VReg} {k : MReg} {g : Fin 32 → FEnv → Nat × FEnv}
    (h : laneResult (getX (curSlot s)) (getV (curSlot s)) (getM (curSlot s)) i = some (a, xs, vs, k, g)) (hx : xReady s xs)
    (hv : vReady s vs) (hu : unbound s vs) : exec i s = laneEnds s a k g := by
  unfold laneResult at h
  split at h
  case h_1 t m _ c b _ =>
    cases h
    refine (vecBin_ends hv hu fun l e => ?_ : execVadd t m a c b k s = _)
    cases t with
    | f32 => rfl
    | s32 => exact congrArg (·, e) (intLane_s32_sat m.sat (· + ·) ..)
    | n32 => exact congrArg (·, e) (intLane_n32_sat m.sat (· + ·) ..)
  case h_2 t m _ c b _ =>
    cases h
    refine (vecBin_ends hv hu fun l e => ?_ : execVsub t m a c b k s = _)
    cases t with
    | f32 => rfl
    | s32 => exact congrArg (·, e) (intLane_s32_sat m.sat (· - ·) ..)
    | n32 => exact congrArg (·, e) (intLane_n32_sat m.sat (· - ·) ..)
  case h_3 t m _ c b _ =>
    cases h
    refine (vecBin_ends hv hu fun l e => ?_ : execVmul t m a c b k s = _)
    cases t with
    | f32 => rfl
    | s32 => exact congrArg (·, e) (intLane_s32_sat m.sat (· * ·) ..)
    | n32 => exact congrArg (·, e) (intLane_n32_sat m.sat (· * ·) ..)
  case h_4 t m _ c b _ =>
    cases h
    refine (vecBin_ends hv hu fun l e => ?_ : execVdiv t m a c b k s = _)
    cases t with
    | f32 => rfl
    | s32 => exact congrArg (·, e) (div_s32 m.sat ..)
    | n32 => exact congrArg (·, e) (div_n32 m.sat ..)
  case h_5 t _ c b _ =>
    cases h
    refine (vecBin_ends hv hu fun l e => ?_ : execVmin t a c b k s = _)
    cases t with
    | f32 => rfl
    | s32 => exact congrArg (·, e) (laneMin_s32 ..)
    | n32 => exact congrArg (·, e) (laneMin_n32 ..)
  case h_6 t _ c b _ =>
    cases h
    refine (vecBin_ends hv hu fun l e => ?_ : execVmax t a c b k s = _)
    cases t with
    | f32 => rfl
    | s32 => exact congrArg (·, e) (laneMax_s32 ..)
    | n32 => exact congrArg (·, e) (laneMax_n32 ..)
  case h_7 _ c b _ =>
    cases h
    exact (vecBin_ends hv hu fun l e => congrArg (·, e) (BitVec.toNat_and ..).symm : execVand a c b k s = _)
  case h_8 _ c b _ =>
    cases h
    exact (vecBin_ends hv hu fun l e => congrArg (·, e) (BitVec.toNat_or ..).symm : execVor a c b k s = _)
  case h_9 _ c b _ =>
    cases h
    exact (vecBin_ends hv hu fun l e => congrArg (·, e) (BitVec.toNat_xor ..).symm : execVxor a c b k s = _)
  case h_10 _ c b _ =>
    cases h
    exact (vecBin_ends hv hu fun l e => congrArg (·, e) (shl_lane ..) : execVshl a c b k s = _)
  case h_11 _ c b _ =>
    cases h
    exact (vecBin_ends hv hu fun l e => congrArg (·, e) (shr_lane ..) : execVshr a c b k s = _)
  case h_12 _ c b _ =>
    cases h
    exact (vecBin_ends hv hu fun l e => congrArg (·, e) (sar_lane ..) : execVsar a c b k s = _)
  case h_13 t _ b _ =>
    cases h
    refine (vecUna_ends hv hu fun l e => ?_ : execVabs t a b k s = _)
    cases t with
    | f32 => rfl
    | s32 => exact congrArg (·, e) (abs_lane _)
    | n32 => exact congrArg (·, e) (abs_lane _)
  case h_14 t _ b _ =>
    cases h
    refine (vecUna_ends hv hu fun l e => ?_ : execVneg t a b k s = _)
    cases t with
    | f32 => exact congrArg (fun n => (if (laneResult.fv _).isNan then _ else n, e)) (flip_lane _)
    | s32 => exact congrArg (·, e) (neg_lane _)
    | n32 => exact congrArg (·, e) (neg_lane _)
  case h_15 m _ b _ =>
    cases h
    exact (vecUna_ends hv hu fun l e => rfl : execVsqrt m a b k s = _)
  case h_16 t m _ c b _ =>
    cases h
    refine (vecTri_ends hv hu fun l e => ?_ : execVfma t m a c b k s = _)
    cases t with
    | f32 => rfl
    | s32 => exact congrArg (·, e) (intLane_fma .s32 m.sat ..)
    | n32 => exact congrArg (·, e) (intLane_fma .n32 m.sat ..)
  case h_17 t m _ c b _ =>
    cases h
    refine (vecTri_ends hv hu fun l e => ?_ : execVfms t m a c b k s = _)
    cases t with
    | f32 => rfl
    | s32 => exact congrArg (·, e) (intLane_fms .s32 m.sat ..)
    | n32 => exact congrArg (·, e) (intLane_fms .n32 m.sat ..)
  case h_18 t m _ c b _ =>
    cases h
    refine (vecTri_ends hv hu fun l e => ?_ : execVfnma t m a c b k s = _)
    cases t with
    | f32 => rfl
    | s32 => exact congrArg (·, e) (intLane_fnma .s32 m.sat ..)
    | n32 => exact congrArg (·, e) (intLane_fnma .n32 m.sat ..)
  case h_19 t m _ c b _ =>
    cases h
    refine (vecTri_ends hv hu fun l e => ?_ : execVfnms t m a c b k s = _)
    cases t with
    | f32 => rfl
    | s32 => exact congrArg (·, e) (intLane_fnms .s32 m.sat ..)
    | n32 => exact congrArg (·, e) (intLane_fnms .n32 m.sat ..)
  case h_20 _ c b d _ =>
    cases h
    exact (vecOp_lanes hx hv hu (by simp) fun l e => rfl : execVsel a c b d k s = _)
  case h_21 _ b _ =>
    cases h
    exact (vecUna_ends hv hu fun l e => rfl : execVmov a b k s = _)
  case h_22 _ b _ =>
    cases h
    exact (vecOp_lanes hx hv hu (by simp) fun l e => congrArg (·, e) (BitVec.toNat_setWidth ..).symm : execVbcast a b k s = _)
  case h_23 _ b _ =>
    cases h
    exact (vecOp_lanes hx hv hu (by simp) fun l e => congrArg (·, e) List.countP_eq_length_filter.symm : execViota a b k s = _)
  case h_24 _ c b _ =>
    cases h
    exact (vecOp_lanes hx hv hu (by simp) fun l e => rfl : execVperm a c b k s = _)
  case h_25 m _ b _ =>
    cases h
    exact (vecFun_ends .exp2 exExp2 (fun _ => rfl) hv hu : execVexp2 m a b k s = _)
  case h_26 m _ b _ =>
    cases h
    exact (vecFun_ends .log2 exLog2 (fun _ => rfl) hv hu : execVlog2 m a b k s = _)
  case h_27 m _ b _ =>
    cases h
    exact (vecFun_ends .rcp exRcp (fun _ => rfl) hv hu : execVrcp m a b k s = _)
  case h_28 m _ b _ =>
    cases h
    exact (vecFun_ends .rsq exRsq (fun _ => rfl) hv hu : execVrsq m a b k s = _)
  case h_29 m _ b _ =>
    cases h
    exact (vecFun_ends .tanh exTanh (fun _ => rfl) hv hu : execVtanh m a b k s = _)
  case h_30 m _ b _ =>
    cases h
    exact (vecFun_ends .sigm exSigm (fun _ => rfl) hv hu : execVsigm m a b k s = _)
  case h_31 r _ b _ =>
    cases h
    exact (vecUna_ends hv hu fun l e => congrArg (·, _) (toNat_ofInt_32 _) : execVcvtF2s r a b k s = _)
  case h_32 r _ b _ =>
    cases h
    exact (vecUna_ends hv hu fun l e => rfl : execVcvtF2n r a b k s = _)
  case h_33 m _ b _ =>
    cases h
    exact (vecUna_ends hv hu fun l e => congrArg (fun v => roundOne fp32 m (exOk (intVal v)) e) (signedN_toNat _) : execVcvtS2f m a b k s = _)
  case h_34 m _ b _ =>
    cases h
    exact (vecUna_ends hv hu fun l e => rfl : execVcvtN2f m a b k s = _)
  case h_35 r _ b _ =>
    cases h
    exact (vecUna_ends hv hu fun l e => rfl : execVcvtFrnd r a b k s = _)
  case h_36 m _ b _ =>
    cases h
    exact (vecUna_ends hv hu fun l e => rfl : execVcvtF2bf m a b k s = _)
  case h_37 m _ b _ =>
    cases h
    exact (vecUna_ends hv hu fun l e => rfl : execVcvtF2e4 m a b k s = _)
  case h_38 m _ b _ =>
    cases h
    exact (vecUna_ends hv hu fun l e => rfl : execVcvtF2e5 m a b k s = _)
  case h_39 => cases h

end Sys2Proof.Machine
end

section
/-! SUPPORT. Compares, and the exact values of the functions of R68 (O13; spec/04 R60, R68, spec/06 R96). -/

namespace Sys2Proof.Machine

open Sys2Proof.Terms

-- Compares

theorem bit32_eq (i : Nat) : bit32 i = 1#32 <<< i := by
  refine BitVec.eq_of_toNat_eq ?_
  rw [bit32, BitVec.toNat_ofNat, BitVec.toNat_shiftLeft, Nat.shiftLeft_eq]
  simp

/-- Lanes collected in order and then folded in are lanes folded in one after another. -/
theorem foldl_mapLanes {α : Type} (h : α → Fin 32 × Nat → α) (act : Mask32) (g : Fin 32 → FEnv → Nat × FEnv) (old : α) (e : FEnv) :
    ((mapLanes act g e).1.foldl h old, (mapLanes act g e).2) =
      (List.finRange 32).foldl
        (fun (r : α × FEnv) (l : Fin 32) => if act.getLsbD l.val then (h r.1 (l, (g l r.2).1), (g l r.2).2) else r) (old, e) := by
  unfold mapLanes laneList
  generalize List.finRange 32 = L
  suffices H : ∀ ls : List (Fin 32 × Nat),
      (let r := (L.filter fun l => act.getLsbD l.val).foldl (fun r l => let y := g l r.2; (r.1 ++ [(l, y.1)], y.2)) (ls, e)
       (r.1.foldl h old, r.2)) =
        L.foldl (fun (r : α × FEnv) (l : Fin 32) => if act.getLsbD l.val then (h r.1 (l, (g l r.2).1), (g l r.2).2) else r)
          (ls.foldl h old, e) from H []
  intro ls
  induction L generalizing ls e with
  | nil => rfl
  | cons l L ih =>
    by_cases hb : act.getLsbD l.val = true
    · rw [List.filter_cons_of_pos (by simpa using hb), List.foldl_cons, List.foldl_cons, if_pos hb, ih, List.foldl_append]
      rfl
    · rw [List.filter_cons_of_neg (by simpa using hb), List.foldl_cons, if_neg hb, ih]

/-- Mask bits collected and then put in place are bits put in place one after another. -/
theorem putMask_run (act : Mask32) (g : Fin 32 → FEnv → Bool × FEnv) (old : Mask32) (e : FEnv) :
    (putMask old (mapLanes act (fun l e => (boolBit (g l e).1, (g l e).2)) e).1,
      (mapLanes act (fun l e => (boolBit (g l e).1, (g l e).2)) e).2) = bitRun act g old e := by
  rw [putMask, foldl_mapLanes, bitRun]
  congr 1
  funext r l
  dsimp only
  rw [bit32_eq]
  cases (g l r.2).1 <;> rfl

/-- The retired state in which the active lanes of a mask have their new bits. -/
def bitEnds (s : State) (a k : MReg) (g : Fin 32 → FEnv → Bool × FEnv) : Res :=
  let r := bitRun (getM (curSlot s) k) g (getM (curSlot s) a) { lfsr := (curSlot s).lfsr }
  .next (finish s (setM { curSlot s with fexc := (curSlot s).fexc ||| BitVec.ofNat 5 r.2.fl, lfsr := r.2.lfsr } a r.1) [r.1.setWidth 64])

/-- A compare of unbound registers. -/
theorem vecCmp_ends {s : State} {a k : MReg} {c b : VReg} {p : Nat → Nat → FEnv → Bool × FEnv} {g' : Fin 32 → FEnv → Bool × FEnv}
    (hv : vReady s [c, b]) (hu : unbound s [c, b])
    (hg : ∀ l e, p ((getV (curSlot s) c)[l]).toNat ((getV (curSlot s) b)[l]).toNat e = g' l e) :
    vecCmp a c b k p s = bitEnds s a k g' := by
  obtain rfl : (fun l e => p ((getV (curSlot s) c)[l]).toNat ((getV (curSlot s) b)[l]).toNat e) = g' :=
    funext fun l => funext (hg l)
  rw [vecCmp, needXV_ready _ (by simp [xReady]) hv, streamFault_unbound (curSlot s) [c, b] [] [] hu]
  dsimp only
  rw [readSources_unbound _ _ _ hu, bitEnds]
  simp only [← putMask_run, orUE]
  rw [retire_updCur _ _ _ (by rw [setM_pc]; rfl) (by rw [setM_ilen]; rfl), consume_unbound _ _ hu, BitVec.ofNat_toNat]
  rfl

/-- Lanes are equal as bits where they are equal as numbers. -/
theorem laneEq_bits (x y : Lane) : (x.toNat == y.toNat) = decide (x = y) := by
  rw [Bool.beq_eq_decide_eq]
  exact decide_eq_decide.2 BitVec.toNat_inj

theorem laneEq_eq (t : VTy) (x y : Lane) : laneEq t x.toNat y.toNat = cmpResult.eq t x y := by
  cases t with
  | f32 => rfl
  | s32 => exact laneEq_bits x y
  | n32 => exact laneEq_bits x y

theorem fLess_lane (x y : Lane) (e : FEnv) :
    fLess fp32 x.toNat y.toNat e = (fvLt (cmpResult.fv x) (cmpResult.fv y), cmpResult.unord x y e) :=
  congrArg (_, ·) (nan_raises _ _ e)

theorem fLessEq_lane (x y : Lane) (e : FEnv) :
    fLessEq fp32 x.toNat y.toNat e = (fvLe (cmpResult.fv x) (cmpResult.fv y), cmpResult.unord x y e) :=
  congrArg (_, ·) (nan_raises _ _ e)

/-- Every compare ends with the bits of its table entry (R96). -/
theorem exec_cmpResult {s : State} {i : Instr} {a : MReg} {vs : List VReg} {k : MReg} {g : Fin 32 → FEnv → Bool × FEnv}
    (h : cmpResult (getV (curSlot s)) i = some (a, vs, k, g)) (hv : vReady s vs) (hu : unbound s vs) : exec i s = bitEnds s a k g := by
  unfold cmpResult at h
  split at h
  case h_1 t _ c b _ =>
    cases h
    exact (vecCmp_ends hv hu fun l e => congrArg (·, e) (laneEq_eq ..) : execVceq t a c b k s = _)
  case h_2 t _ c b _ =>
    cases h
    exact (vecCmp_ends hv hu fun l e => congrArg (fun q => (!q, e)) (laneEq_eq ..) : execVcne t a c b k s = _)
  case h_3 t _ c b _ =>
    cases h
    refine (vecCmp_ends hv hu fun l e => ?_ : execVclt t a c b k s = _)
    cases t with
    | f32 => exact fLess_lane ..
    | s32 => exact congrArg (·, e) (by rw [laneInt_s32, laneInt_s32])
    | n32 => exact congrArg (·, e) (by simp only [laneInt_n32, Int.ofNat_lt])
  case h_4 t _ c b _ =>
    cases h
    refine (vecCmp_ends hv hu fun l e => ?_ : execVcle t a c b k s = _)
    cases t with
    | f32 => exact fLessEq_lane ..
    | s32 => exact congrArg (·, e) (by rw [laneInt_s32, laneInt_s32])
    | n32 => exact congrArg (·, e) (by simp only [laneInt_n32, Int.ofNat_le])
  case h_5 => cases h

-- Reciprocals and roots

theorem exRcp_num {i : Bool} {m : Nat} {e : Int} (hm : m ≠ 0) :
    ∃ k c st, exRcp (.num i m e) = ⟨.real i k c st, 0⟩ ∧ holdsOf id k c st (1 / size (.num i m e)) := by
  have h := exDiv_num (i := false) (j := i) (d := 0) (e := e) one_ne_zero hm
  rwa [Bool.false_bne, show size (.num false 1 0) = 1 by simp [size]] at h

theorem exRsq_num {m : Nat} {e : Int} (hm : m ≠ 0) :
    ∃ k c st, exRsq (.num false m e) = ⟨.real false k c st, 0⟩ ∧ holdsOf (fun z => z * z) k c st (1 / size (.num false m e)) := by
  -- an even exponent, and so many bits that the root has 100
  obtain ⟨w, hw⟩ : ∃ w, w = m * 2 ^ (e % 2).toNat := ⟨_, rfl⟩
  obtain ⟨l, hl⟩ : ∃ l, l = 160 + Nat.log2 w := ⟨_, rfl⟩
  have hwpos : 0 < w := hw ▸ Nat.mul_pos (Nat.pos_of_ne_zero hm) (Nat.two_pow_pos _)
  refine ⟨isqrt (2 ^ (2 * l) / w), -(l : Int) - e / 2, isqrt (2 ^ (2 * l) / w) * isqrt (2 ^ (2 * l) / w) * w != 2 ^ (2 * l),
    by simp [exRsq, hm, ← hw, ← hl], ?_⟩
  rw [isqrt_eq]
  refine holdsOf_sqrt hwpos ?_ ?_ ?_ (two_pow_100_le_sqrt ?_)
  · have he : (2 : ℚ) ^ e = 2 ^ (e % 2).toNat * 2 ^ (2 * (e / 2)) := by
      rw [← zpow_natCast, ← zpow_add₀ (by norm_num)]
      congr 1
      omega
    have hexp : 2 * (-(l : Int) - e / 2) = -((2 * l : Nat) : Int) - 2 * (e / 2) := by push_cast; ring
    rw [size_num, he, hexp, zpow_sub₀ (by norm_num), zpow_neg, zpow_natCast, hw]
    push_cast
    field_simp
  · exact (Nat.mul_le_mul_right _ (Nat.sqrt_le _)).trans (Nat.div_mul_le_self ..)
  · exact Nat.lt_mul_of_div_lt (Nat.lt_succ_sqrt _) hwpos
  · rw [Nat.le_div_iff_mul_le hwpos]
    have h1 : w ≤ 2 ^ (Nat.log2 w + 1) := Nat.lt_log2_self.le
    calc 2 ^ 200 * w ≤ 2 ^ 200 * 2 ^ (Nat.log2 w + 1) := Nat.mul_le_mul_left _ h1
      _ = 2 ^ (200 + (Nat.log2 w + 1)) := (pow_add ..).symm
      _ ≤ 2 ^ (2 * l) := Nat.pow_le_pow_right (by norm_num) (by omega)

-- Logarithms and powers of two

theorem exLog2_pow (l : Nat) (e : Int) :
    exLog2 (.num false (2 ^ l) e) = ⟨if e + l = 0 then .zero false else .real (decide (e + l < 0)) (e + l).natAbs 0 false, 0⟩ := by
  have hlog : exLog2 (.num false (2 ^ l) e) = exOk (.num (decide (e + l < 0)) (e + l).natAbs 0) := by
    simp [exLog2, Nat.log2_two_pow]
  rw [hlog, exOk, FVal.exact]
  by_cases h : e + l = 0
  · simp [h]
  · rw [if_neg (Int.natAbs_ne_zero.2 h), if_neg h]

/-- An integer in fixed point. -/
theorem fxOf_integer {m n : Nat} {e : Int} (h : (m : ℚ) * 2 ^ e = n) : fxOf m e = n * fxOne := by
  have hpow : ∀ k : Nat, ((2 ^ k : Nat) : ℚ) = 2 ^ (k : Int) := fun k => by push_cast; rw [zpow_natCast]
  rw [fxOf, fxOne, fxBits]
  split
  · have hq : ((m * 2 ^ (e + (256 : Nat)).toNat : Nat) : ℚ) = (n * 2 ^ 256 : Nat) := by
      rw [Nat.cast_mul, Nat.cast_mul, hpow, hpow, ← h, mul_assoc, ← zpow_add₀ (by norm_num)]
      congr 2
      omega
    exact_mod_cast hq
  · have hq : (m : ℚ) = (n * 2 ^ 256 * 2 ^ (-(e + (256 : Nat))).toNat : Nat) := by
      rw [Nat.cast_mul, Nat.cast_mul, hpow, hpow, ← h, mul_assoc, mul_assoc, ← zpow_add₀ (by norm_num), ← zpow_add₀ (by norm_num)]
      rw [show e + (((256 : Nat) : Int) + ((-(e + (256 : Nat))).toNat : Int)) = 0 by omega, zpow_zero, mul_one]
    have hm : m = n * 2 ^ 256 * 2 ^ (-(e + (256 : Nat))).toNat := by exact_mod_cast hq
    rw [hm]
    exact Nat.mul_div_cancel _ (Nat.two_pow_pos _)

/-- A finite value that is an integer, as its sign and its magnitude. -/
theorem integer_parts {i : Bool} {m : Nat} {e n : Int} (h : signedSize (.num i m e) = n) :
    (m : ℚ) * 2 ^ e = n.natAbs ∧ scaled i n.natAbs 0 0 = n := by
  have habs := abs_signedSize i m e
  rw [h, size_num] at habs
  have hsize : (m : ℚ) * 2 ^ e = n.natAbs := by rw [← habs, Nat.cast_natAbs, Int.cast_abs]
  refine ⟨hsize, ?_⟩
  rw [signedSize_num, hsize] at h
  cases i with
  | true =>
    have hn : -((n.natAbs : Nat) : Int) = n := by
      rw [if_pos rfl, neg_one_mul] at h
      exact Int.cast_injective (α := ℚ) (by rw [Int.cast_neg, Int.cast_natCast, h])
    simpa [scaled] using hn
  | false =>
    have hn : ((n.natAbs : Nat) : Int) = n := by
      rw [if_neg (by simp), one_mul] at h
      exact Int.cast_injective (α := ℚ) (by rw [Int.cast_natCast, h])
    simpa [scaled] using hn

/-- The exponent of the leading bit of an integer value. -/
theorem topExp_integer {m n : Nat} {e : Int} (hm : m ≠ 0) (h : (m : ℚ) * 2 ^ e = n) (hn : n < 2 ^ 14) : 0 ≤ topExp m e ∧ topExp m e < 14 := by
  obtain ⟨hlo, hhi⟩ := binade_of_log2 (k := m) (e := e) (st := false) (d := 0) (Nat.pos_of_ne_zero hm) ⟨le_rfl, one_pos, by simp⟩ rfl
  rw [add_zero, h] at hlo hhi
  have hpos : 1 ≤ n := by
    refine Nat.pos_of_ne_zero fun h0 => ?_
    rw [h0, Nat.cast_zero] at hlo
    exact absurd hlo (not_le.2 (by positivity))
  have h1 : (2 : ℚ) ^ (0 : Int) ≤ n := by rw [zpow_zero]; exact_mod_cast hpos
  have h2 : (n : ℚ) < 2 ^ (14 : Int) := by exact_mod_cast hn
  have := top_lt_of_small h1 hhi
  have := top_lt_of_small hlo h2
  rw [topExp]
  omega

/-- 2^x of an integer in range is exact (R68). -/
theorem exExp2_integer {i : Bool} {m : Nat} {e n : Int} (hm : m ≠ 0) (h : signedSize (.num i m e) = n) (hn : n.natAbs < 2 ^ 14) :
    exExp2 (.num i m e) = ⟨.real false 1 n false, 0⟩ := by
  obtain ⟨hsize, hsign⟩ := integer_parts h
  obtain ⟨h0, h14⟩ := topExp_integer hm hsize hn
  have hone : (fxOne : Int) ≠ 0 := by simp [fxOne]
  have hv : scaled i (fxOf m e) 0 0 = n * fxOne := by
    rw [fxOf_integer hsize, ← hsign]
    cases i <;> simp [scaled]
  have hval : exExp2 (.num i m e) =
      let v : Int := scaled i (fxOf m e) 0 0
      let n := v / (fxOne : Int)
      let r := (v % (fxOne : Int)).toNat
      if r = 0 then ⟨.real false 1 n false, 0⟩ else fxReal false (fxExp (r * fxLn2 / fxOne)) n := by
    rw [exExp2, if_neg hm, if_neg (by omega), if_neg (by omega)]
  rw [hval, hv]
  dsimp only
  rw [Int.mul_emod_left, Int.mul_ediv_cancel _ hone]
  rfl

end Sys2Proof.Machine
end

section
/-! SUPPORT. O13: lane-by-lane instructions, compares, and the functions of R68. -/

namespace Sys2Proof.Machine

open Sys2Proof.Terms

/-- Settles O13: each form ends with its lanes or bits, and each function has its special and its exact values. -/
theorem vectorLanesAndComparesGetTheirResults : Obligations.VectorLanesAndComparesGetTheirResults := by
  unfold Obligations.VectorLanesAndComparesGetTheirResults
  refine ⟨fun s i a xs vs k g => exec_laneResult, fun s i a vs k g => exec_cmpResult, ?_, fun i e => ?_, fun i m e => ?_⟩
  · intro g hg
    simp only [List.mem_cons, List.not_mem_nil, or_false] at hg
    rcases hg with rfl | rfl | rfl | rfl | rfl | rfl <;> rfl
  · have hrcp : exRcp (.num i 0 e) = ⟨.inf i, fDZ⟩ ∧ exRcp (.inf i) = ⟨.zero i, 0⟩ := by
      simp [exRcp, exDiv]
    have hinf : exExp2 (.inf i) = ⟨if i then .zero false else .inf false, 0⟩ ∧
        exSigm (.inf i) = ⟨if i then .zero false else .real false 1 0 false, 0⟩ := by
      cases i <;> exact ⟨rfl, rfl⟩
    exact ⟨rfl, hinf.1, rfl, rfl, hrcp.1, hrcp.2, rfl, rfl, rfl, rfl, rfl, hinf.2⟩
  · intro a hm
    refine ⟨?_, exRcp_num hm, ?_, ?_, fun n => exExp2_integer hm⟩
    · rintro rfl
      simp [a, exLog2, exRsq, hm, exNV]
    · rintro rfl
      exact exRsq_num hm
    · rintro rfl l rfl
      exact exLog2_pow l e

end Sys2Proof.Machine
end

section
/-! SUPPORT. Reductions and scans (O14; spec/04 R66, R67, spec/06 R98): the tree on the list of lanes that still combine is the tree on lane
numbers, and the running scan is the sweep from lane 0 to lane 31. -/

namespace Sys2Proof.Machine

open Sys2Proof.Terms

-- Sweeps over lane numbers

/-- One step of a sweep: lane `w j` takes a combination of the lanes as they are. -/
def sweepStep (w : Nat → Nat) (v : (Nat → Nat) × FEnv → Nat → Nat × FEnv) (r : (Nat → Nat) × FEnv) (j : Nat) : (Nat → Nat) × FEnv :=
  (putAt r.1 (w j) (v r j).1, (v r j).2)

theorem putAt_self (f : Nat → Nat) (i v : Nat) : putAt f i v i = v := if_pos rfl

theorem putAt_of_ne (f : Nat → Nat) {i n : Nat} (v : Nat) (h : n ≠ i) : putAt f i v n = f n := if_neg h

/-- A sweep leaves a lane that it does not write. -/
theorem sweep_untouched {w : Nat → Nat} {v : (Nat → Nat) × FEnv → Nat → Nat × FEnv} {n : Nat} (L : List Nat) (r : (Nat → Nat) × FEnv)
    (h : ∀ j ∈ L, n ≠ w j) : (L.foldl (sweepStep w v) r).1 n = r.1 n := by
  induction L generalizing r with
  | nil => rfl
  | cons j L ih =>
    rw [List.foldl_cons, ih _ fun i hi => h i (List.mem_cons_of_mem _ hi)]
    exact putAt_of_ne _ _ (h j List.mem_cons_self)

-- One level of the tree

/-- Lanes at distance u combine in pairs, the lower one keeping the result. -/
def pairStep (op : Node) (u : Nat) : (Nat → Nat) × FEnv → Nat → (Nat → Nat) × FEnv :=
  sweepStep (· * (2 * u)) fun r j => op (r.1 (j * (2 * u))) (r.1 (j * (2 * u) + u)) r.2

theorem treeLevelOf_succ (op : Node) (r : (Nat → Nat) × FEnv) (k : Nat) :
    treeLevelOf op r (k + 1) = (List.range (2 ^ (4 - k))).foldl (pairStep op (2 ^ k)) r := by
  rw [treeLevelOf, show 5 - (k + 1) = 4 - k by omega]
  simp only [pow_succ', Nat.add_sub_cancel]
  rfl

/-- The pairs from number s on: the list of results is what the sweep leaves in the lower lanes. -/
theorem treeLevel_pairs (op : Node) {u : Nat} (hu : 0 < u) (s n : Nat) (f : Nat → Nat) (e : FEnv) :
    treeLevel op ((List.range' (2 * s) (2 * n)).map fun i => f (i * u)) e =
      let r := (List.range' s n).foldl (pairStep op u) (f, e)
      ((List.range' s n).map fun j => r.1 (j * (2 * u)), r.2) := by
  induction n generalizing s f e with
  | zero => rfl
  | succ n ih =>
    -- the first pair, and the lanes with its result in place
    obtain ⟨y, hy⟩ : ∃ y, y = op (f (2 * s * u)) (f ((2 * s + 1) * u)) e := ⟨_, rfl⟩
    obtain ⟨f', hf'⟩ : ∃ f', f' = putAt f (s * (2 * u)) y.1 := ⟨_, rfl⟩
    have hstep : pairStep op u (f, e) s = (f', y.2) := by
      rw [hf', hy, show 2 * s * u = s * (2 * u) by ring, show (2 * s + 1) * u = s * (2 * u) + u by ring]
      rfl
    have hrest : (List.range' (2 * (s + 1)) (2 * n)).map (fun i => f (i * u)) = (List.range' (2 * (s + 1)) (2 * n)).map fun i => f' (i * u) := by
      refine List.map_congr_left fun i hi => ?_
      rw [hf', putAt_of_ne]
      rw [List.mem_range'_1] at hi
      rw [show s * (2 * u) = 2 * s * u by ring]
      exact fun h => absurd (Nat.eq_of_mul_eq_mul_right hu h) (by omega)
    have hkeep : ((List.range' (s + 1) n).foldl (pairStep op u) (f', y.2)).1 (s * (2 * u)) = y.1 := by
      rw [pairStep, sweep_untouched, hf']
      · exact putAt_self ..
      · intro j hj h
        rw [List.mem_range'_1] at hj
        exact absurd (Nat.eq_of_mul_eq_mul_right (by omega) h) (by omega)
    have hlist : List.range' (2 * s) (2 * (n + 1)) = 2 * s :: (2 * s + 1) :: List.range' (2 * (s + 1)) (2 * n) := rfl
    rw [hlist, List.map_cons, List.map_cons, hrest, treeLevel, ← hy]
    dsimp only
    rw [ih, List.range'_succ, List.foldl_cons, hstep, List.map_cons, hkeep]

/-- n levels from the one at distance 2^k. -/
theorem tree_levels (op : Node) (n k : Nat) (hk : k + n = 5) (f : Nat → Nat) (e : FEnv) :
    tree op n ((List.range (2 ^ n)).map fun i => f (i * 2 ^ k)) e =
      let r := (List.range' (k + 1) n).foldl (treeLevelOf op) (f, e)
      ([r.1 0], r.2) := by
  induction n generalizing k f e with
  | zero => simp [tree]
  | succ n ih =>
    have hlevel := treeLevel_pairs op (Nat.two_pow_pos k) 0 (2 ^ n) f e
    rw [Nat.mul_zero, ← pow_succ', ← pow_succ', ← List.range_eq_range', ← List.range_eq_range'] at hlevel
    have hsucc := treeLevelOf_succ op (f, e) k
    rw [show 4 - k = n by omega] at hsucc
    rw [tree, hlevel, List.range'_succ, List.foldl_cons, hsucc]
    exact ih (k + 1) (by omega) _ _

-- Lanes written

/-- Lanes listed with their values over an old vector. -/
theorem putLanes_map (old : Lanes) (L : List (Fin 32)) (F : Fin 32 → Nat) :
    putLanes old (L.map fun l => (l, F l)) = Vector.ofFn fun l => if l ∈ L then BitVec.ofNat 32 (F l) else old[l] := by
  rw [putLanes]
  induction L generalizing old with
  | nil =>
    ext i hi
    simp
  | cons x L ih =>
    rw [List.map_cons, List.foldl_cons, ih]
    congr 1
    funext l
    by_cases hl : l ∈ L
    · simp [hl]
    · by_cases hx : l = x
      · subst hx
        simp [hl]
      · have hne : x.val ≠ l.val := fun h => hx (Fin.ext h.symm)
        simp [hl, hx, Vector.getElem_set_ne, hne]

theorem putLanes_active (old : Lanes) (act : Mask32) (F : Fin 32 → Nat) :
    putLanes old ((laneList act).map fun l => (l, F l)) =
      Vector.ofFn fun l => if act.getLsbD l.val then BitVec.ofNat 32 (F l) else old[l] := by
  rw [putLanes_map]
  simp [laneList]

theorem putLanes_first (old : Lanes) (n : Nat) :
    putLanes old ((List.finRange 32).map fun l => (l, if l = 0 then n else 0)) = (Vector.replicate 32 0).set 0 (BitVec.ofNat 32 n) := by
  rw [putLanes_map]
  ext1 i hi
  rw [Vector.getElem_ofFn, if_pos (List.mem_finRange _)]
  by_cases h0 : i = 0
  · subst h0
    rw [Vector.getElem_set_self]
    rfl
  · rw [if_neg (fun h => h0 (congrArg Fin.val h)), Vector.getElem_set_ne _ _ (Ne.symm h0), Vector.getElem_replicate]
    rfl

-- The lanes that enter

theorem maskedLanes_eq (act : Mask32) (v : Lanes) (ident : Nat) :
    maskedLanes act v ident = (List.range 32).map (entering act v ident) := by
  rw [maskedLanes, ← List.map_coe_finRange_eq_range, List.map_map]
  refine List.map_congr_left fun l _ => ?_
  simp [entering]

-- The running scan

/-- Lane l + 1 takes its combination with the scan before it. -/
def scanStep (op : Node) : (Nat → Nat) × FEnv → Nat → (Nat → Nat) × FEnv :=
  sweepStep (· + 1) fun r l => op (r.1 l) (r.1 (l + 1)) r.2

theorem scanGo_sweep (op : Node) (s n : Nat) (f : Nat → Nat) (e : FEnv) :
    scanGo op (f s) ((List.range' (s + 1) n).map f) e =
      let r := (List.range' s n).foldl (scanStep op) (f, e)
      ((List.range' (s + 1) n).map r.1, r.2) := by
  induction n generalizing s f e with
  | zero => rfl
  | succ n ih =>
    obtain ⟨y, hy⟩ : ∃ y, y = op (f s) (f (s + 1)) e := ⟨_, rfl⟩
    obtain ⟨f', hf'⟩ : ∃ f', f' = putAt f (s + 1) y.1 := ⟨_, rfl⟩
    have hself : f' (s + 1) = y.1 := hf' ▸ putAt_self ..
    have hstep : scanStep op (f, e) s = (f', y.2) := by
      rw [hf', hy]
      rfl
    have hrest : (List.range' (s + 1 + 1) n).map f = (List.range' (s + 1 + 1) n).map f' := by
      refine List.map_congr_left fun i hi => ?_
      rw [List.mem_range'_1] at hi
      rw [hf', putAt_of_ne _ _ (by omega)]
    have hkeep : ((List.range' (s + 1) n).foldl (scanStep op) (f', y.2)).1 (s + 1) = y.1 := by
      rw [scanStep, sweep_untouched]
      · exact hself
      intro j hj
      rw [List.mem_range'_1] at hj
      omega
    rw [List.range'_succ, List.map_cons, hrest, scanGo, ← hy]
    dsimp only
    rw [← hself, ih, hself, List.range'_succ, List.foldl_cons, hstep, List.map_cons, hkeep]

/-- The scan of 32 lanes (R67). -/
theorem scanLanes_eq (op : Node) (f : Nat → Nat) (e : FEnv) :
    scanLanes op ((List.range 32).map f) e = ((List.range 32).map (scanOf op f e).1, (scanOf op f e).2) := by
  have hsweep : scanOf op f e = (List.range' 0 31).foldl (scanStep op) (f, e) := by
    rw [← List.range_eq_range']
    rfl
  have hkeep : (scanOf op f e).1 0 = f 0 := by
    rw [hsweep, scanStep, sweep_untouched]
    intro j _
    omega
  have hlist : List.range 32 = 0 :: List.range' (0 + 1) 31 := rfl
  rw [hlist, List.map_cons, List.map_cons, scanLanes, scanGo_sweep, ← hsweep, hkeep]

theorem nth_map_range (f : Nat → Nat) {n i : Nat} (h : i < n) : nth ((List.range n).map f) i = some (f i) := by
  rw [nth_eq_getElem?, List.getElem?_map, List.getElem?_range h]
  rfl

end Sys2Proof.Machine
end

section
/-! SUPPORT. O14: reductions and VSCAN (spec/06 R98). -/

namespace Sys2Proof.Machine

open Sys2Proof.Terms

/-- The retired state in which a vector register has new lanes. -/
def vecEnds (s : State) (a : VReg) (v : Lanes) (e : FEnv) : Res :=
  .next (finish s (setV { curSlot s with fexc := (curSlot s).fexc ||| BitVec.ofNat 5 e.fl, lfsr := e.lfsr } a v) (vecWords v))

theorem treeOf_eq (op : Node) (f : Nat → Nat) (e : FEnv) : tree op 5 ((List.range 32).map f) e = ([(treeOf op f e).1], (treeOf op f e).2) := by
  have h := tree_levels op 5 0 rfl f e
  have hrange : List.range' (0 + 1) 5 = [1, 2, 3, 4, 5] := rfl
  have hlanes : 2 ^ 5 = 32 := rfl
  simp only [pow_zero, Nat.mul_one, hlanes, hrange] at h
  exact h

theorem srcAt_head (v : Lanes) (vs : List Lanes) : srcAt (v :: vs) 0 = v := rfl

section Ends

variable {s : State} {a b : VReg} {k : MReg}

/-- A reduction on unbound registers, by its identity and its operation. -/
theorem vecReduce_ends {ident ident' : Nat} {f : Combine} {op : Node} (hid : ident = ident') (hop : ∀ x y e, f x y e = op x y e)
    (hv : vReady s [a, b]) (hu : unbound s [a, b]) :
    vecReduce a b k ident f s =
      let r := treeOf op (entering (getM (curSlot s) k) (getV (curSlot s) b) ident') { lfsr := (curSlot s).lfsr }
      vecEnds s a ((Vector.replicate 32 0).set 0 (BitVec.ofNat 32 r.1)) r.2 := by
  obtain rfl : f = op := funext fun x => funext fun y => funext (hop x y)
  subst hid
  rw [vecReduce, vecOp_unbound s [] [b] a _ (by simp [xReady]) hv hu]
  simp only [List.map_cons, srcAt_head, maskedLanes_eq, treeOf_eq, List.headD_cons, putLanes_first]
  rfl

theorem execVscan_ends {t : VTy} {rnd : Rnd} (hv : vReady s [a, b]) (hu : unbound s [a, b]) :
    execVscan t rnd a b k s =
      let r := scanOf (addNode t rnd) (entering (getM (curSlot s) k) (getV (curSlot s) b) (addIdent t)) { lfsr := (curSlot s).lfsr }
      vecEnds s a (Vector.ofFn fun l => if (getM (curSlot s) k).getLsbD l.val then BitVec.ofNat 32 (r.1 l.val) else (getV (curSlot s) a)[l]) r.2 := by
  rw [execVscan, vecOp_unbound s [] [b] a _ (by simp [xReady]) hv hu]
  simp only [List.map_cons, srcAt_head, maskedLanes_eq, scanLanes_eq, nth_map_range _ (Fin.is_lt _), Option.getD_some, putLanes_active]
  rfl

end Ends

-- Operations and identities

theorem addNode_eq (t : VTy) (rnd : Rnd) : addNode t rnd = addOf t rnd := by
  cases t <;> rfl

theorem addIdent_eq (t : VTy) : addIdent t = addId t := by
  cases t <;> rfl

theorem laneInt_s32_ofNat (x : Nat) : laneInt .s32 x = (BitVec.ofNat 32 x).toInt := by
  rw [← laneInt_s32, BitVec.toNat_ofNat]
  simp [laneInt, signedN]

theorem laneInt_n32_ofNat (x : Nat) : laneInt .n32 x = (BitVec.ofNat 32 x).toNat := by
  rw [BitVec.toNat_ofNat]
  rfl

/-- Every reduction ends with its tree in lane 0. -/
theorem exec_reduceForm {s : State} {i : Instr} {a b : VReg} {k : MReg} {ident : Nat} {op : Node}
    (h : reduceForm i = some (a, b, k, ident, op)) (hv : vReady s [a, b]) (hu : unbound s [a, b]) :
    exec i s =
      let r := treeOf op (entering (getM (curSlot s) k) (getV (curSlot s) b) ident) { lfsr := (curSlot s).lfsr }
      vecEnds s a ((Vector.replicate 32 0).set 0 (BitVec.ofNat 32 r.1)) r.2 := by
  unfold reduceForm at h
  split at h
  case h_1 t rnd _ _ _ =>
    cases h
    exact (vecReduce_ends (addIdent_eq t) (fun _ _ _ => by rw [addNode_eq]) hv hu : execVradd t rnd a b k s = _)
  case h_2 t _ _ _ =>
    cases h
    refine (vecReduce_ends ?_ (fun x y e => ?_) hv hu : execVrmin t a b k s = _)
    · cases t <;> rfl
    · cases t with
      | f32 => rfl
      | s32 => exact congrArg (·, e) (by simp only [laneMin, laneInt_s32_ofNat])
      | n32 => exact congrArg (·, e) (by simp only [laneMin, laneInt_n32_ofNat, Int.ofNat_le])
  case h_3 t _ _ _ =>
    cases h
    refine (vecReduce_ends ?_ (fun x y e => ?_) hv hu : execVrmax t a b k s = _)
    · cases t <;> rfl
    · cases t with
      | f32 => rfl
      | s32 => exact congrArg (·, e) (by simp only [laneMax, laneInt_s32_ofNat])
      | n32 => exact congrArg (·, e) (by simp only [laneMax, laneInt_n32_ofNat, Int.ofNat_le])
  case h_4 =>
    cases h
    exact (vecReduce_ends rfl (fun _ _ _ => rfl) hv hu : execVrand a b k s = _)
  case h_5 =>
    cases h
    exact (vecReduce_ends rfl (fun _ _ _ => rfl) hv hu : execVror a b k s = _)
  case h_6 => cases h

/-- Settles O14: each reduction ends with the tree of R66 in lane 0, and VSCAN with the sweep of R67. -/
theorem reductionsFollowTheTree : Obligations.ReductionsFollowTheTree := by
  unfold Obligations.ReductionsFollowTheTree
  refine fun s i a b k hv hu => ⟨fun ident op h => exec_reduceForm h hv hu, ?_⟩
  rintro t rnd rfl
  rw [← addNode_eq, ← addIdent_eq]
  exact (execVscan_ends hv hu : execVscan t rnd a b k s = _)

end Sys2Proof.Machine
end

section
/-! SUPPORT. O11: NOP, BRK and TRAP (spec/05 R84, spec/16 R291, spec/18 R319). -/

namespace Sys2Proof.Machine

open Sys2Proof.Terms

/-- A user-mode slot whose retirements owe a STEP, on a core with a handler. -/
def stepping : State := { cores := [(0, { tvec := 0x200000, stepCsr := 4 })] }

/-- SOFT with the immediate 0, as TRAP raises it there. -/
def steppingSoft : TrapInfo := { cause := 0x1A, tval := (0 : BitVec 17).setWidth 64, epc := fallThrough stepping }

/-- The handler entered from the retired state owes a STEP. -/
theorem stepping_owes : (curSlot (takeTrap (finish stepping (curSlot stepping) []) 0 0 steppingSoft)).stepOwed = true := by decide

/-- TRAP owes none (R319). -/
theorem stepping_trap : ∃ t, exec (.trap 0) stepping = .next t ∧ (curSlot t).stepOwed = false := ⟨_, rfl, by decide⟩

/-- Refutes O11: the statement retires TRAP as any instruction, and retiring may owe a STEP, which TRAP never does (R319). -/
theorem not_nopBrkAndTrap : ¬ Obligations.NopBrkAndTrap := by
  unfold Obligations.NopBrkAndTrap
  rintro ⟨-, -, htrap⟩
  obtain ⟨t, ht, hnone⟩ := stepping_trap
  have heq : t = takeTrap (finish stepping (curSlot stepping) []) 0 0 steppingSoft := Host.Outcome.next.inj (ht.symm.trans (htrap stepping 0))
  rw [heq, stepping_owes] at hnone
  exact absurd hnone (by decide)

end Sys2Proof.Machine
end

section
/-! SUPPORT. O8 and O10: the integer instructions of page 0 (spec/04 R65, spec/05 R70, R72, R73), and what page 0 and page 1 leave. -/

namespace Sys2Proof.Machine

open Sys2Proof.Terms

-- The model's operations on words, as the tables of R65, R72 and R73 give them

section Words

/-- Where two keys are equal it does not matter which of two equal values is taken. -/
theorem ite_le_eq_ite_lt {α β : Type} [LinearOrder α] {m n : α} {x y : β} (h : m = n → x = y) :
    (if m ≤ n then x else y) = if m < n then x else y := by
  rcases lt_trichotomy m n with hlt | heq | hgt
  · rw [if_pos hlt, if_pos hlt.le]
  · rw [if_pos heq.le, if_neg heq.not_lt, h heq]
  · rw [if_neg hgt.not_ge, if_neg hgt.not_gt]

variable (c b : Word)

theorem minSigned_eq : (if sleW c b then c else b) = if c.toInt < b.toInt then c else b := by
  simpa [sleW] using ite_le_eq_ite_lt (x := c) (y := b) BitVec.eq_of_toInt_eq

theorem maxSigned_eq : (if sleW c b then b else c) = if c.toInt < b.toInt then b else c := by
  simpa [sleW] using ite_le_eq_ite_lt (x := b) (y := c) fun h => (BitVec.eq_of_toInt_eq h).symm

theorem minUnsigned_eq : (if uleW c b then c else b) = if c.toNat < b.toNat then c else b := by
  simpa [uleW] using ite_le_eq_ite_lt (x := c) (y := b) BitVec.eq_of_toNat_eq

theorem maxUnsigned_eq : (if uleW c b then b else c) = if c.toNat < b.toNat then b else c := by
  simpa [uleW] using ite_le_eq_ite_lt (x := b) (y := c) fun h => (BitVec.eq_of_toNat_eq h).symm

theorem mul_eq_ofInt : c * b = BitVec.ofInt 64 (c.toInt * b.toInt) := by
  rw [BitVec.ofInt_mul, BitVec.ofInt_toInt, BitVec.ofInt_toInt]

theorem sdivW_eq : sdivW c b = if b = 0 then BitVec.allOnes 64 else c.sdiv b :=
  congrArg (ite _ _) (BitVec.eq_of_toInt_eq (by rw [wordOf, BitVec.toInt_ofInt, BitVec.toInt_sdiv]))

theorem udivW_eq : udivW c b = if b = 0 then BitVec.allOnes 64 else BitVec.ofNat 64 (c.toNat / b.toNat) :=
  congrArg (ite _ _) (BitVec.eq_of_toNat_eq (by
    rw [BitVec.toNat_udiv, BitVec.toNat_ofNat, Nat.mod_eq_of_lt ((Nat.div_le_self ..).trans_lt c.isLt)]))

theorem sremW_eq : sremW c b = if b = 0 then c else c.srem b :=
  congrArg (ite _ _) (BitVec.eq_of_toInt_eq (by
    rw [wordOf, BitVec.toInt_ofInt, ← BitVec.toInt_srem, ← BitVec.toInt_ofInt, BitVec.ofInt_toInt]))

theorem uremW_eq : uremW c b = if b = 0 then c else BitVec.ofNat 64 (c.toNat % b.toNat) :=
  congrArg (ite _ _) (BitVec.eq_of_toNat_eq (by
    rw [BitVec.toNat_umod, BitVec.toNat_ofNat, Nat.mod_eq_of_lt ((Nat.mod_le ..).trans_lt c.isLt)]))

theorem clzW_eq : clzW b = b.clz := by
  unfold clzW
  split
  · next h => rw [h]; decide
  · next h =>
    have hlo := BitVec.two_pow_sub_clz_le_toNat_of_ne_zero (by decide) h
    have hhi := BitVec.toNat_lt_two_pow_sub_clz (x := b)
    have hc : b.clz.toNat < 64 := BitVec.lt_def.mp (BitVec.clz_lt_iff_ne_zero.mpr h)
    have hlog : Nat.log2 b.toNat = 63 - b.clz.toNat := by
      rw [Nat.log2_eq_iff fun hz => h (BitVec.eq_of_toNat_eq hz)]
      exact ⟨hlo, by rwa [show 63 - b.clz.toNat + 1 = 64 - b.clz.toNat by omega]⟩
    apply BitVec.eq_of_toNat_eq
    rw [hlog, BitVec.toNat_ofNat]
    omega

theorem findFrom_spec (p : Nat → Bool) (n i : Nat) :
    match findFrom p n i with
    | some k => (i ≤ k ∧ k < i + n ∧ p k = true) ∧ ∀ j, i ≤ j → j < k → p j = false
    | none => ∀ j, i ≤ j → j < i + n → p j = false := by
  induction n generalizing i with
  | zero => exact fun j _ _ => by omega
  | succ n ih =>
    unfold findFrom
    by_cases hp : p i = true
    · rw [if_pos hp]
      exact ⟨⟨le_rfl, by omega, hp⟩, fun j _ _ => by omega⟩
    · rw [if_neg hp]
      specialize ih (i + 1)
      have hstep : ∀ j, i ≤ j → (i + 1 ≤ j → p j = false) → p j = false := fun j hj h => by
        rcases hj.eq_or_lt with rfl | hlt
        · simpa using hp
        · exact h hlt
      split at ih
      · obtain ⟨⟨hlo, hhi, hk⟩, hbelow⟩ := ih
        exact ⟨⟨by omega, by omega, hk⟩, fun j hj hjk => hstep j hj fun h => hbelow j h hjk⟩
      · exact fun j hj hjn => hstep j hj fun h => ih j h (by omega)

/-- The number of leading zeros is fixed by the highest set bit. -/
theorem clz_of_top {x : Word} {k : Nat} (hk : k < 64) (hx : x.getLsbD k = true) (htop : ∀ j, k < j → j < 64 → x.getLsbD j = false) :
    x.clz = BitVec.ofNat 64 (63 - k) := by
  have hne : x ≠ 0#64 := by rintro rfl; simp at hx
  have hset := BitVec.getLsbD_true_clz_of_ne_zero (by decide) hne
  have hc : x.clz.toNat < 64 := BitVec.lt_def.mp (BitVec.clz_lt_iff_ne_zero.mpr hne)
  have hlo : 63 - x.clz.toNat ≤ k := by
    by_contra h
    rw [htop _ (by omega) (by omega)] at hset
    cases hset
  have hhi : k < 64 - x.clz.toNat := by
    by_contra h
    have := Nat.testBit_lt_two_pow ((BitVec.toNat_lt_two_pow_sub_clz (x := x)).trans_le (Nat.pow_le_pow_right (by decide) (not_lt.mp h)))
    rw [BitVec.getLsbD, this] at hx
    cases hx
  apply BitVec.eq_of_toNat_eq
  rw [BitVec.toNat_ofNat]
  omega

theorem ctzW_eq : ctzW b = b.reverse.clz := by
  have hrev : ∀ j < 64, b.reverse.getLsbD (63 - j) = b.getLsbD j := fun j hj => by
    rw [BitVec.getLsbD_reverse, BitVec.getMsbD]
    simp [show 63 - j < 64 by omega, show 63 - (63 - j) = j by omega]
  have h := findFrom_spec (fun i => b.getLsbD i) 64 0
  unfold ctzW
  split at h
  · next k hk =>
    obtain ⟨⟨-, hlt, hset⟩, hbelow⟩ := h
    rw [hk, clz_of_top (k := 63 - k) (by omega) ((hrev k (by omega)).trans hset)]
    · rw [show 63 - (63 - k) = k by omega]; rfl
    · intro j hj hj64
      have := hrev (63 - j) (by omega)
      rw [show 63 - (63 - j) = j by omega] at this
      exact this.trans (hbelow _ (by omega) (by omega))
  · next hk =>
    have hz : b = 0#64 := BitVec.eq_of_getLsbD_eq fun j hj => by simpa using h j (by omega) (by omega)
    have hr : b.reverse = 0#64 := BitVec.eq_of_getLsbD_eq fun j _ => by simp [BitVec.getLsbD_reverse, BitVec.getMsbD, hz]
    rw [hk, hr]
    decide

theorem popcount_eq : popcount 64 b = (List.finRange 64).countP fun i => b.getLsbD i.val := by
  rw [popcount, ← List.countP_eq_length_filter, ← List.map_coe_finRange_eq_range, List.countP_map]
  rfl

theorem toNat_append_eq {n m : Nat} (x : BitVec n) (y : BitVec m) : (x ++ y).toNat = x.toNat * 2 ^ m + y.toNat := by
  rw [BitVec.toNat_append, ← Nat.shiftLeft_add_eq_or_of_lt y.isLt, Nat.shiftLeft_eq]

theorem bswapW_eq : bswapW b =
    b.extractLsb' 0 8 ++ b.extractLsb' 8 8 ++ b.extractLsb' 16 8 ++ b.extractLsb' 24 8 ++
        b.extractLsb' 32 8 ++ b.extractLsb' 40 8 ++ b.extractLsb' 48 8 ++ b.extractLsb' 56 8 := by
  refine (congrArg (BitVec.ofNat 64) ?_).trans ((BitVec.ofNat_toNat 64 _).trans (BitVec.setWidth_eq _))
  simp only [toNat_append_eq, BitVec.extractLsb'_toNat, Nat.shiftRight_eq_div_pow, pow_zero, Nat.div_one]
  simp only [leBytes, List.reverse_cons, List.reverse_nil, List.nil_append, List.cons_append, leNat, BitVec.toNat_ofNat,
    Nat.div_div_eq_div_mul]
  ring

theorem sextN_eq (iw : IWidth) : sextN b.toNat (iwBits iw) =
    match iw with
    | .b => (b.setWidth 8).signExtend 64
    | .h => (b.setWidth 16).signExtend 64
    | .w => (b.setWidth 32).signExtend 64 := by
  cases iw
  all_goals simp only [← BitVec.ofNat_toNat]
  · exact extend_eq_loaded (n := 1) true b.toNat (by decide) (by decide)
  · exact extend_eq_loaded (n := 2) true b.toNat (by decide) (by decide)
  · exact extend_eq_loaded (n := 4) true b.toNat (by decide) (by decide)

theorem zextN_eq (iw : IWidth) : zextN b.toNat (iwBits iw) =
    match iw with
    | .b => (b.setWidth 8).setWidth 64
    | .h => (b.setWidth 16).setWidth 64
    | .w => (b.setWidth 32).setWidth 64 := by
  cases iw <;> exact BitVec.eq_of_toNat_eq (by simp [zextN, iwBits])

theorem seq_eq : ofBool (c == b) = if c = b then 1 else 0 := by simp [ofBool]

theorem sne_eq : ofBool (c != b) = if c = b then 0 else 1 := by simp [ofBool, bne]

theorem slt_eq : ofBool (sltW c b) = if c.toInt < b.toInt then 1 else 0 := by simp [ofBool, sltW]

theorem sltn_eq : ofBool (ultW c b) = if c.toNat < b.toNat then 1 else 0 := by simp [ofBool, ultW]

theorem sle_eq : ofBool (sleW c b) = if b.toInt < c.toInt then 0 else 1 := by
  rw [← ite_not]
  simp [ofBool, sleW]

theorem slen_eq : ofBool (uleW c b) = if b.toNat < c.toNat then 0 else 1 := by
  rw [← ite_not]
  simp [ofBool, uleW]

theorem addi_eq (n : Int) : b + wordOf n = BitVec.ofInt 64 (b.toInt + n) := by rw [BitVec.ofInt_add, BitVec.ofInt_toInt]; rfl

end Words

-- Every form

section Forms

variable {s : State} {a b c : XReg}

/-- The end of an instruction whose one result is an x register, once the registers it names await nothing (R11, R72). -/
def intEnds (s : State) (a : XReg) (rs : List XReg) (v : Word) : Res :=
  needX s rs fun _ => .next (finish s (setX (curSlot s) a v) [v])

theorem needX_congr {rs : List XReg} {k k' : Slot → Res} (h : k (curSlot s) = k' (curSlot s)) : needX s rs k = needX s rs k' := by
  unfold needX
  rw [h]

theorem needX_retireX {rs : List XReg} {f : Slot → Word} {v : Word} (hv : f (curSlot s) = v) :
    (needX s rs fun sl => .next (retireX s a (f sl))) = intEnds s a rs v :=
  needX_congr (by rw [retireX_eq, hv])

theorem intBin_ends {f : Word → Word → Word} {v : Word} (hv : f (getX (curSlot s) c) (getX (curSlot s) b) = v) :
    intBin a c b f s = intEnds s a [a, c, b] v := needX_retireX hv

theorem intUna_ends {f : Word → Word} {v : Word} (hv : f (getX (curSlot s) b) = v) : intUna a b f s = intEnds s a [a, b] v :=
  needX_retireX hv

theorem execSel_ends {d : XReg} :
    execSel a c b d s = intEnds s a [a, c, b, d] (if getX (curSlot s) d = 0 then getX (curSlot s) b else getX (curSlot s) c) :=
  needX_retireX (ite_not ..)

theorem execLi_ends {n : Int} : execLi a n s = intEnds s a [a] (BitVec.ofInt 64 n) := needX_retireX rfl

end Forms

/-- Every integer instruction ends with the result of its table entry (R72, R73). -/
theorem exec_intResult {s : State} {i : Instr} {a : XReg} {rs : List XReg} {v : Word}
    (h : intResult (getX (curSlot s)) i = some (a, rs, v)) : exec i s = intEnds s a rs v := by
  unfold intResult at h
  split at h
  case h_1 c b => cases h; exact (intBin_ends rfl : execAdd a c b s = _)
  case h_2 c b => cases h; exact (intBin_ends rfl : execSub a c b s = _)
  case h_3 c b => cases h; exact (intBin_ends rfl : execAnd a c b s = _)
  case h_4 c b => cases h; exact (intBin_ends rfl : execOr a c b s = _)
  case h_5 c b => cases h; exact (intBin_ends rfl : execXor a c b s = _)
  case h_6 c b => cases h; exact (intBin_ends rfl : execAndn a c b s = _)
  case h_7 c b => cases h; exact (intBin_ends rfl : execOrn a c b s = _)
  case h_8 c b => cases h; exact (intBin_ends rfl : execXnor a c b s = _)
  case h_9 c b => cases h; exact (intBin_ends rfl : execShl a c b s = _)
  case h_10 c b => cases h; exact (intBin_ends rfl : execShr a c b s = _)
  case h_11 c b => cases h; exact (intBin_ends rfl : execSar a c b s = _)
  case h_12 c b => cases h; exact (intBin_ends rfl : execRol a c b s = _)
  case h_13 c b => cases h; exact (intBin_ends rfl : execRor a c b s = _)
  case h_14 c b => cases h; exact (intBin_ends (minSigned_eq ..) : execMin a c b s = _)
  case h_15 c b => cases h; exact (intBin_ends (maxSigned_eq ..) : execMax a c b s = _)
  case h_16 c b => cases h; exact (intBin_ends (minUnsigned_eq ..) : execMinn a c b s = _)
  case h_17 c b => cases h; exact (intBin_ends (maxUnsigned_eq ..) : execMaxn a c b s = _)
  case h_18 c b => cases h; exact (intBin_ends (mul_eq_ofInt ..) : execMul a c b s = _)
  case h_19 c b => cases h; exact (intBin_ends rfl : execMulh a c b s = _)
  case h_20 c b => cases h; exact (intBin_ends rfl : execMulhn a c b s = _)
  case h_21 c b => cases h; exact (intBin_ends (sdivW_eq ..) : execDiv a c b s = _)
  case h_22 c b => cases h; exact (intBin_ends (udivW_eq ..) : execDivn a c b s = _)
  case h_23 c b => cases h; exact (intBin_ends (sremW_eq ..) : execRem a c b s = _)
  case h_24 c b => cases h; exact (intBin_ends (uremW_eq ..) : execRemn a c b s = _)
  case h_25 c b => cases h; exact (intBin_ends (seq_eq ..) : execSeq a c b s = _)
  case h_26 c b => cases h; exact (intBin_ends (sne_eq ..) : execSne a c b s = _)
  case h_27 c b => cases h; exact (intBin_ends (slt_eq ..) : execSlt a c b s = _)
  case h_28 c b => cases h; exact (intBin_ends (sltn_eq ..) : execSltn a c b s = _)
  case h_29 c b => cases h; exact (intBin_ends (sle_eq ..) : execSle a c b s = _)
  case h_30 c b => cases h; exact (intBin_ends (slen_eq ..) : execSlen a c b s = _)
  case h_31 c b d => cases h; exact (execSel_ends : execSel a c b d s = _)
  case h_32 b => cases h; exact (intUna_ends (clzW_eq _) : execClz a b s = _)
  case h_33 b => cases h; exact (intUna_ends (ctzW_eq _) : execCtz a b s = _)
  case h_34 b => cases h; exact (intUna_ends (congrArg _ (popcount_eq _)) : execPopc a b s = _)
  case h_35 b => cases h; exact (intUna_ends rfl : execBrev a b s = _)
  case h_36 b => cases h; exact (intUna_ends (bswapW_eq _) : execBswap a b s = _)
  case h_37 iw _ b => cases h; exact (intUna_ends (sextN_eq _ iw) : execSext iw a b s = _)
  case h_38 iw _ b => cases h; exact (intUna_ends (zextN_eq _ iw) : execZext iw a b s = _)
  case h_39 b => cases h; exact (intUna_ends rfl : execMov a b s = _)
  case h_40 b n => cases h; exact (intUna_ends (addi_eq ..) : execAddi a b n s = _)
  case h_41 n => cases h; exact (execLi_ends : execLi a n s = _)
  case h_42 b n => cases h; exact (intUna_ends rfl : execAndi a b n s = _)
  case h_43 b n => cases h; exact (intUna_ends rfl : execOri a b n s = _)
  case h_44 b n => cases h; exact (intUna_ends rfl : execXori a b n s = _)
  case h_45 b n => cases h; exact (intUna_ends rfl : execShli a b n s = _)
  case h_46 b n => cases h; exact (intUna_ends rfl : execShri a b n s = _)
  case h_47 b n => cases h; exact (intUna_ends rfl : execSari a b n s = _)
  case h_48 b n => cases h; exact (intUna_ends rfl : execRori a b n s = _)
  case h_49 => cases h

/-- Settles O8: every form, by its entry of the table. -/
theorem integerInstructionsGiveTheirResults : Obligations.IntegerInstructionsGiveTheirResults :=
  fun _ _ _ _ _ h hr => (exec_intResult h).trans (needX_ready _ hr)

-- What the instructions of page 0 and page 1 leave as it was (R70)

/-- The slot `sl` with the registers, flags, generator and progress of q. -/
def progressed (sl q : Slot) : Slot :=
  { sl with x := q.x, fexc := q.fexc, lfsr := q.lfsr, pc := q.pc, mode := q.mode, retired := q.retired, fprint := q.fprint,
            folds := q.folds, stepOwed := q.stepOwed, waits := q.waits, twinWait := q.twinWait, stallAt := q.stallAt }

/-- A slot that only the destination register a, the slot's progress and, on page 1, fexc and the generator tell from `sl`. -/
structure RegistersOnly (a : XReg) (isFloat : Bool) (sl q : Slot) : Prop where
  regs : ∀ j : XReg, j ≠ a → getX q j = getX sl j
  flags : isFloat = false → q.fexc = sl.fexc ∧ q.lfsr = sl.lfsr
  rest : q = progressed sl q

/-- The state with another context in the current slot and other event counters in its core. -/
def withSlot (s : State) (q : Slot) (ev : Vector (BitVec 63) 18) : State :=
  setCore s s.cur.1 { curCore s with slots := (curCore s).slots.set s.cur.2 q, events := ev }

/-- The end of an instruction of R70: it issues or stalls, and only registers changed. -/
def changesOnly (s : State) (r : Res) (a : XReg) (isFloat : Bool) : Prop :=
  ∃ q ev, r = .next (withSlot s q ev) ∧ RegistersOnly a isFloat (curSlot s) q

theorem changesOnly_stallOn (s : State) (ws : List Nat) (a : XReg) (isFloat : Bool) : changesOnly s (stallOn s ws) a isFloat :=
  ⟨_, (curCore s).events, rfl, fun _ _ => rfl, fun _ => ⟨rfl, rfl⟩, rfl⟩

theorem changesOnly_finish (s : State) (a : XReg) (v : Word) (f : BitVec 5) (g : BitVec 32) (ws : List Word) {isFloat : Bool}
    (h : isFloat = false → f = (curSlot s).fexc ∧ g = (curSlot s).lfsr) :
    changesOnly s (.next (finish s (setX { curSlot s with fexc := f, lfsr := g } a v) ws)) a isFloat := by
  refine ⟨_, _, rfl, fun j hj => ?_, fun hf => ?_, ?_⟩
  · exact getX_setX_of_ne { curSlot s with fexc := f, lfsr := g } v hj
  · exact ⟨(setX_fexc ..).trans (h hf).1, (setX_lfsr ..).trans (h hf).2⟩
  · unfold setX
    split <;> rfl

/-- What waits for registers either stalls or goes on. -/
theorem changesOnly_needX {s : State} {rs rs' : List XReg} {k : Slot → Res} {r : Res} {a : XReg} {isFloat : Bool} (hk : r = needX s rs' k)
    (hrs : ∀ x ∈ rs, x ∈ rs') (h : xReady s rs → changesOnly s r a isFloat) : changesOnly s r a isFloat := by
  by_cases hw : rs'.any (pendingX (curSlot s)) = true
  · rw [hk, needX, if_pos hw]
    exact changesOnly_stallOn ..
  · refine h fun x hx => ?_
    by_contra hp
    exact hw (List.any_eq_true.mpr ⟨x, hrs x hx, by simpa using hp⟩)

/-- Every scalar floating-point instruction waits for its registers (R12). -/
theorem exec_fpResult_waits {s : State} {i : Instr} {x : XReg → Word} {e : FEnv} {a : XReg} {rs : List XReg} {r : Nat × FEnv}
    (h : fpResult x e i = some (a, rs, r)) : ∃ rs' k, exec i s = needX s rs' k ∧ ∀ y ∈ rs, y ∈ rs' := by
  unfold fpResult at h
  split at h <;> cases h
  all_goals
    simp only [exec, execFadd, execFsub, execFmul, execFdiv, execFsqrt, execFma, execFms, execFnma, execFnms, execFmin, execFmax, execFeq, execFlt,
      execFle, execFunord, execFclass, execFabs, execFneg, execFsign, execFcvtF2i, execFcvtF2n, execFcvtI2f, execFcvtN2f, execFcvtFf, execFcvtF2e,
      execFcvtE2f, floatArith, floatBits, floatConv]
    exact ⟨_, _, rfl, by simp⟩

theorem exec_intResult_changes {s : State} {i : Instr} {a : XReg} {rs : List XReg} {v : Word}
    (h : intResult (getX (curSlot s)) i = some (a, rs, v)) : changesOnly s (exec i s) a false := by
  refine changesOnly_needX (exec_intResult h) (fun _ hx => hx) fun hr => ?_
  rw [exec_intResult h, intEnds, needX_ready _ hr]
  exact changesOnly_finish s a v _ _ _ fun _ => ⟨rfl, rfl⟩

theorem exec_fpResult_changes {s : State} {i : Instr} {a : XReg} {rs : List XReg} {r : Nat × FEnv}
    (h : fpResult (getX (curSlot s)) { lfsr := (curSlot s).lfsr } i = some (a, rs, r)) : changesOnly s (exec i s) a true := by
  obtain ⟨rs', k, hk, hrs⟩ := exec_fpResult_waits (s := s) h
  refine changesOnly_needX hk hrs fun hr => ?_
  rw [exec_fpResult h hr]
  exact changesOnly_finish s a _ _ _ _ fun hf => by cases hf

theorem exec_nop_changes (s : State) : changesOnly s (exec .nop s) 0 false := by
  have h : exec .nop s = .next (finish s (setX (curSlot s) 0 0) []) := congrArg Host.Outcome.next (retire_eq s [])
  rw [h]
  exact changesOnly_finish s 0 0 _ _ _ fun _ => ⟨rfl, rfl⟩

theorem curSlot_withSlot (s : State) (q : Slot) (ev : Vector (BitVec 63) 18) : curSlot (withSlot s q ev) = q := by
  change (getCore (setCore s s.cur.1 _) s.cur.1).slots[s.cur.2] = q
  rw [getCore_setCore_self]
  simp

theorem curCore_withSlot (s : State) (q : Slot) (ev : Vector (BitVec 63) 18) :
    curCore (withSlot s q ev) = { curCore s with slots := (curCore s).slots.set s.cur.2 q, events := ev } := getCore_setCore_self ..

theorem getSlot_withSlot_of_ne (s : State) (q : Slot) (ev : Vector (BitVec 63) 18) {k : Fin 4} (h : k ≠ s.cur.2) :
    getSlot (withSlot s q ev) s.cur.1 k = getSlot s s.cur.1 k := by
  change (getCore (setCore s s.cur.1 _) s.cur.1).slots[k] = _
  rw [getCore_setCore_self]
  change ((curCore s).slots.set s.cur.2 q)[k] = _
  exact Vector.getElem_set_ne s.cur.2.isLt k.isLt fun e => h (Fin.ext e.symm)

/-- Settles O10: an instruction of R70 ends in its slot, where only registers changed. -/
theorem pageZeroAndOneChangeOnlyTheirRegisters : Obligations.PageZeroAndOneChangeOnlyTheirRegisters := by
  unfold Obligations.PageZeroAndOneChangeOnlyTheirRegisters
  intro s t i a isFloat hi ht
  have hc : changesOnly s (exec i s) a isFloat := by
    obtain ⟨⟨rs, v, h⟩, rfl⟩ | ⟨rfl, rfl, rfl⟩ | ⟨⟨rs, r, h⟩, rfl⟩ := hi
    · exact exec_intResult_changes h
    · exact exec_nop_changes s
    · exact exec_fpResult_changes h
  obtain ⟨q, ev, hq, hregs, hflags, hrest⟩ := hc
  obtain rfl := Host.Outcome.next.inj (ht.symm.trans hq)
  rw [curSlot_withSlot]
  have same : ∀ {α : Type} (f : Slot → α), f q = f (progressed (curSlot s) q) := fun f => congrArg f hrest
  exact ⟨hregs, fun h => (hflags h).1, fun h => (hflags h).2,
    same Slot.v, same Slot.m, same Slot.streams, same Slot.pendX, same Slot.pendV, same Slot.cntL, same Slot.cntS, same Slot.cntE,
    same Slot.cntM, same Slot.strict, same Slot.winbase, same Slot.cause, same Slot.tval, same Slot.epc, same Slot.tseq, same Slot.sup,
    same Slot.pm, same Slot.nest, same Slot.late, same Slot.exact, same Slot.treq,
    by rw [curCore_withSlot], fun k hk => getSlot_withSlot_of_ne s q ev hk, fun x hx => getCore_setCore_of_ne s _ hx, rfl⟩

end Sys2Proof.Machine
end

section
/-! SUPPORT. O20: the checks of scalar accesses (spec/05 R76, spec/10 R169). -/

namespace Sys2Proof.Machine

open Sys2Proof.Terms

/-- Every scalar store is a write of n bytes, 1, 2, 4 or 8, and of 4 or 8 where its size is a word or more. -/
theorem exec_storeForm {i : Instr} {a b : XReg} {imm : Int} {rlx : Bool} {n : Nat} {sized : Bool}
    (h : storeForm i = some (a, b, imm, rlx, n, sized)) : (∀ s, exec i s = storeScalar n sized a b imm rlx s) ∧ n ∈ [1, 2, 4, 8] := by
  unfold storeForm at h
  split at h <;> cases h <;> exact ⟨fun _ => rfl, by decide⟩

/-- An access whose checks give a cause traps with it, at its address, before anything else (R76). -/
theorem scalar_refused {s : State} {i : Instr} {a b : XReg} {imm : Int} {rlx sgn sized : Bool} {n : Nat} {c : BitVec 8}
    (hi : loadForm i = some (a, b, imm, rlx, n, sgn, sized) ∨ storeForm i = some (a, b, imm, rlx, n, sized)) (hr : xReady s [a, b])
    (hc : checkScalar s (ea s b imm) n sized = some c) : traps i s c (ea s b imm) := by
  have he : getX (curSlot s) b + wordOf imm = ea s b imm := rfl
  obtain hi | hi := hi
  · rw [traps, (exec_loadForm hi).1 s, loadScalar, needX_ready _ hr]
    dsimp only
    rw [he, hc]
    rfl
  · rw [traps, (exec_storeForm hi).1 s, storeScalar, needX_ready _ hr]
    dsimp only
    rw [he, hc]
    rfl

theorem badFields_iff (e : Word) : badFields e = true ↔
    (space e = 0 ∧ bits e 57 3 ≠ 0) ∨ (space e = 0xE ∧ bits e 56 4 ≠ 0) ∨
      (space e = 0xF ∧ (bits e 48 12 ≠ 0 ∨ bits e 24 11 ≠ 0 ∨ bits e 19 1 ≠ 0)) ∨ (space e ≠ 0 ∧ space e ≠ 0xE ∧ space e ≠ 0xF) := by
  unfold badFields
  split <;> simp_all [or_assoc]

theorem coreReachable_eq_false {s : State} {e : Word} : coreReachable s e = false ↔
    meshCore e ≠ 0x1FFF ∧ (curCore s).ctrl = false ∧ ∀ p, (curCore s).part = some p → inPart s p (meshCore e) = false := by
  unfold coreReachable
  cases (curCore s).part <;> simp [and_assoc]

section Stages

variable {s : State} {e : Word} {n : Nat} {sized : Bool}

/-- Steps 1 to 3 of R76. -/
theorem check14_badSpace (h : badFields e = true ∨ space e = 0xF ∧ coreReachable s e = false) : check14 s e = some cBADSPACE := by
  unfold check14
  by_cases hb : badFields e = true
  · rw [if_pos hb]
  · obtain ⟨hs, hr⟩ := h.resolve_left hb
    rw [if_neg hb, if_pos hs, hr]
    rfl

/-- Step 4. -/
theorem check14_badWindow (hb : badFields e = false) (hr : coreReachable s e = true) (hs : space e = 0xF) (hw : 14 ≤ meshWin e) :
    check14 s e = some cBADWINDOW := by
  simp [check14, hb, hr, hs, hw]

theorem check14_passes (hb : badFields e = false) (hr : space e = 0xF → coreReachable s e = true) (hw : space e = 0xF → meshWin e < 14) :
    check14 s e = none := by
  unfold check14
  by_cases hs : space e = 0xF
  · simp [hb, hs, hr hs, hw hs]
  · simp [hb, hs]

theorem checkScalar_of_check14 {c : BitVec 8} (h : check14 s e = some c) : checkScalar s e n sized = some c := by
  rw [checkScalar, h]
  rfl

/-- Step 5. -/
theorem checkScalar_uneven (h : check14 s e = none) (hu : (space e ≠ 0xF ∨ meshWin e = 0) ∧ e.toNat % n ≠ 0) :
    checkScalar s e n sized = some cMISALIGN := by
  rw [checkScalar, h, check5, if_pos hu]
  rfl

/-- The rules of R169 decide where an address is through a window. -/
theorem checkScalar_window (h : check14 s e = none) (hs : space e = 0xF) (hw : meshWin e ≠ 0) : checkScalar s e n sized = check6 e n sized := by
  rw [checkScalar, h, check5, if_neg (by simp [hs, hw])]
  rfl

end Stages

/-- Settles O20: each condition is the first check of R76 that fails. -/
theorem scalarAccessTraps : Obligations.ScalarAccessTraps := by
  unfold Obligations.ScalarAccessTraps
  intro s i a b imm rlx n sgn sized e bad foreign uneven hi hr
  have trapping : ∀ {c : BitVec 8}, checkScalar s e n sized = some c → traps i s c e := scalar_refused hi hr
  have hbad : bad ↔ badFields e = true := (badFields_iff e).symm
  have hforeign : foreign ↔ space e = 0xF ∧ coreReachable s e = false := and_congr_right fun _ => coreReachable_eq_false.symm
  rw [hbad, hforeign]
  simp only [Bool.not_eq_true, not_and, Bool.not_eq_false]
  refine ⟨fun h => ?_, fun hb hf hs hw => ?_, fun hb hf hw hu => ?_, fun hb hf hs h1 h7 => ?_, fun hb hf hs h8 hw hn => ?_,
    fun hb hf hs hn h => ?_⟩
  · exact trapping (checkScalar_of_check14 (check14_badSpace h))
  · exact trapping (checkScalar_of_check14 (check14_badWindow hb (hf hs) hs hw))
  · exact trapping (checkScalar_uneven (check14_passes hb hf hw) hu)
  · refine trapping ((checkScalar_window (check14_passes hb hf fun _ => by omega) hs (by omega)).trans ?_)
    rw [check6]
    simp [hs, isPlane, h1, h7, show meshWin e ≠ 0 by omega, cBADPLANE]
  · refine trapping ((checkScalar_window (check14_passes hb hf fun _ => hw) hs (by omega)).trans ?_)
    rw [check6]
    simp [hs, isPlane, hn, show meshWin e ≠ 0 by omega, show ¬meshWin e ≤ 7 by omega, cBADWINDOW]
  · have hw : 9 ≤ meshWin e ∧ meshWin e < 14 := by omega
    refine trapping ((checkScalar_window (check14_passes hb hf fun _ => hw.2) hs (by omega)).trans ?_)
    rw [check6]
    simp only [hs, isPlane, hn, show meshWin e ≠ 0 by omega, show ¬meshWin e ≤ 7 by omega, ne_eq, not_true_eq_false, if_false, and_false,
      decide_false, Bool.false_eq_true, Bool.not_true]
    obtain ⟨h11, h8, ho⟩ | ⟨h11, h4, ho⟩ | ⟨h11, h8, ho⟩ := h
    · simp [h11, h8, ho, cMISALIGN]
    · simp [h11, h4, ho, cMISALIGN]
    · simp [h11, h8, ho, show meshWin e ≠ 11 by omega, cMISALIGN]

end Sys2Proof.Machine
end

section
/-! SUPPORT. O19: what a scratchpad store leaves as it was (spec/05 R75, spec/06 R102, spec/10 R166, R170). -/

namespace Sys2Proof.Machine

open Sys2Proof.Terms

/-- Bytes that no write of a list touches stay. -/
theorem readByte_foldl_outside {α : Type} {x : Nat} {f : Mem → α → Mem} (L : List α) (m : Mem)
    (h : ∀ a ∈ L, ∀ m, readByte (f m a) x = readByte m x) : readByte (L.foldl f m) x = readByte m x := by
  induction L generalizing m with
  | nil => rfl
  | cons a L ih => exact (ih _ fun b hb => h b (by simp [hb])).trans (h a (by simp) m)

theorem elemAt_len_of_half {w : Nat} (h : elemHalf w = 1) (o : Nat) (l : Int) : (elemAt w o l).len = 1 := by
  unfold elemAt
  rw [h]
  rfl

/-- Storing an element changes only its bytes. -/
theorem readByte_writeElem_outside (m : Mem) (sc : Nat → Nat) (w : Nat) {e : ElemAt} (v : Nat) {x : Nat} (hl : elemHalf w = 1 → e.len = 1)
    (h : x < e.off ∨ e.off + e.len ≤ x) : readByte (writeElem m sc w e v) x = readByte m x := by
  unfold writeElem
  dsimp only
  split
  · next hh => exact readByte_writeByte_of_ne _ _ (by rw [hl hh] at h; omega)
  · exact readByte_writeLE_outside _ _ _ _ _ h

theorem readByte_storeGroup_outside (m : Mem) (w o x : Nat) (g : Nat × List Int) {y : Nat} (h : y < o ∨ o + 4 * planeDepth w ≤ y) (hx : y ≠ x) :
    readByte (storeGroup m w o x g) y = readByte m y := by
  unfold storeGroup
  dsimp only
  rw [readByte_writeByte_of_ne _ _ hx]
  refine readByte_foldl_outside _ _ fun p hp m => readByte_writeLE_outside _ _ _ _ _ ?_
  have hlen : p.2 < (planesOf (planeDepth w) g.2).length := by simpa using List.snd_lt_of_mem_zipIdx hp
  simp only [planesOf, List.length_map, List.length_range] at hlen
  omega

/-- Of the core only bytes, check bits, their event counter and the count of errors corrected change. -/
def bytesOnly (c c' : Core) : Prop :=
  { c' with spad := c.spad, spadUE := c.spadUE, spadCE := c.spadCE, events := c.events, corrected := c.corrected } = c ∧
    ∀ e : Fin 18, e ≠ 11 → c'.events[e] = c.events[e]

theorem correct_frame (c : Core) (rs : List (Nat × Nat)) : bytesOnly c (correct c rs) ∧ (correct c rs).spad = c.spad := by
  unfold correct
  dsimp only
  split
  · exact ⟨⟨rfl, fun _ _ => rfl⟩, rfl⟩
  · exact ⟨⟨rfl, fun e he => Vector.getElem_set_ne (11 : Fin 18).isLt e.isLt fun h => he (Fin.ext h.symm)⟩, rfl⟩

/-- A write that succeeds is its function on the bytes. -/
theorem spadWrite_frame {c c' : Core} {rs ws : List (Nat × Nat)} {f : Mem → Mem} (h : spadWrite c rs ws f = .ok ((), c')) :
    bytesOnly c c' ∧ c'.spad = f c.spad := by
  obtain ⟨⟨hsame, hev⟩, hspad⟩ := correct_frame c (rs ++ partWords ws)
  unfold spadWrite at h
  split at h
  · cases h
    exact ⟨⟨hsame, hev⟩, congrArg f hspad⟩
  · cases h
  · cases h

/-- Settles O19: a store is a write of the bytes or elements it names, one after another. -/
theorem scratchpadStoresChangeOnlyTheirBytes : Obligations.ScratchpadStoresChangeOnlyTheirBytes := by
  unfold Obligations.ScratchpadStoresChangeOnlyTheirBytes
  intro c c' wb w o same
  refine ⟨fun n v hw hp h => ?_, fun act v hw hp h => ?_, fun act v hp h => ?_⟩
  · unfold writeScalar at h
    by_cases h0 : w = 0
    · rw [if_pos h0] at h
      obtain ⟨hsame, hspad⟩ := spadWrite_frame h
      refine ⟨hsame, fun x hx => ?_⟩
      rw [hspad]
      refine readByte_writeLE_outside _ _ _ _ _ ?_
      by_contra hin
      have := hx (x - o)
      simp only [h0, if_true] at this
      omega
    · rw [if_neg h0] at h
      obtain ⟨hsame, hspad⟩ := spadWrite_frame h
      refine ⟨hsame, fun x hx => ?_⟩
      simp only [if_neg h0] at hx
      rw [hspad]
      refine readByte_foldl_outside _ _ fun e he m => ?_
      have hj : ∃ j < (if n = 8 then 2 else 1), e.1 = elemAt w o (j : Nat) := by
        by_cases h8 : n = 8
        · simp only [h8, if_true, List.mem_cons, List.not_mem_nil, or_false] at he
          obtain rfl | rfl := he
          · exact ⟨0, by simp [h8], rfl⟩
          · exact ⟨1, by simp [h8], rfl⟩
        · simp only [h8, if_false, List.mem_cons, List.not_mem_nil, or_false] at he
          obtain rfl := he
          exact ⟨0, by simp [h8], rfl⟩
      obtain ⟨j, hj, hej⟩ := hj
      exact readByte_writeElem_outside _ _ _ _ (fun hh => hej ▸ elemAt_len_of_half hh o j) (hej ▸ hx j hj)
  · unfold writeVec at h
    rw [hp, if_neg Bool.false_ne_true, writeLanesAt] at h
    obtain ⟨hsame, hspad⟩ := spadWrite_frame h
    refine ⟨hsame, fun x hx => ?_⟩
    rw [hspad]
    refine readByte_foldl_outside _ _ fun e he m => ?_
    obtain ⟨l, hl, rfl⟩ := List.mem_map.mp he
    exact readByte_writeElem_outside _ _ _ _ (fun hh => elemAt_len_of_half hh o l) (hx l (List.mem_filter.mp hl).2)
  · unfold writeVec at h
    rw [hp, if_pos rfl] at h
    obtain ⟨hsame, hspad⟩ := spadWrite_frame h
    refine ⟨hsame, fun x hx hne => ?_⟩
    rw [hspad]
    exact readByte_storeGroup_outside _ _ _ _ _ hx hne

end Sys2Proof.Machine
end

section
/-! SUPPORT. Requests that an NI with nothing outstanding takes, and what STRICT then holds (O21, O22; spec/05 R77, spec/06 R104, R111,
spec/16 R283). -/

namespace Sys2Proof.Machine

open Sys2Proof.Terms

section Taken

variable {s : State} {op : ROp} {addr : Word} {home dst : Endpoint} {ordered l st e : Bool} {dest : RDest} {ws : List Word}

/-- The state once an NI with nothing outstanding has taken a request r and sent its packet p: the slot, which has not retired, is `sl`. -/
def taken (s : State) (r : Req) (sl : Slot) (ws : List Word) (p : Packet) : State :=
  { setCore s s.cur.1 { curCore s with nextSeq := (curCore s).nextSeq + 1, nextUid := (curCore s).nextUid + 1,
                                       reqs := [{ r with foldEnd := (curSlot s).folds + (ws ++ dataPlaces r.dest).length }],
                                       slots := (curCore s).slots.set s.cur.2 sl } with
    net := s.net ++ [p] }

theorem curCore_taken (s : State) (r : Req) (sl : Slot) (ws : List Word) (p : Packet) :
    curCore (taken s r sl ws p) =
      { curCore s with nextSeq := (curCore s).nextSeq + 1, nextUid := (curCore s).nextUid + 1,
                       reqs := [{ r with foldEnd := (curSlot s).folds + (ws ++ dataPlaces r.dest).length }],
                       slots := (curCore s).slots.set s.cur.2 sl } :=
  getCore_setCore_self ..

theorem curSlot_taken (s : State) (r : Req) (sl : Slot) (ws : List Word) (p : Packet) : curSlot (taken s r sl ws p) = sl := by
  change (curCore (taken s r sl ws p)).slots[s.cur.2] = sl
  rw [curCore_taken]
  simp

theorem roomFor_idle (hi : idleNi s) (hl : l = true → (curSlot s).cntL < 31) (hs : st = true → (curSlot s).cntS < 64) :
    roomFor s l st = true := by
  obtain ⟨h1, h2, h3, h4⟩ := hi
  simp only [roomFor, h3, replayUsed, h1, List.filter_nil, List.map_nil]
  cases l <;> cases st <;> simp_all [Config.replayMax]

/-- The NI takes the request of an instruction, and its packet leaves (R77). -/
theorem sendReq_taken (side : State → State) (hi : idleNi s) (hl : l = true → (curSlot s).cntL < 31) (hs : st = true → (curSlot s).cntS < 64)
    (hm : ∀ m, op ≠ .msg m) (hld : leads s addr home dst) :
    sendReq s (mkReq s op addr home ordered dest l st e) ws side =
      afterRemote (taken s (askReq s op addr home ordered dest l st e) (raiseFor (curSlot s) (askReq s op addr home ordered dest l st e)) ws
        (firstPacket s op addr ordered dst)) (ws ++ dataPlaces dest) side := by
  obtain ⟨h1, h2, h3, h4⟩ := hi
  have hroom : roomFor s (mkReq s op addr home ordered dest l st e).cntL (mkReq s op addr home ordered dest l st e).cntS = true :=
    roomFor_idle ⟨h1, h2, h3, h4⟩ hl hs
  rw [sendReq, if_pos hroom]
  congr 1
  generalize hsl : raiseFor (curSlot s) (askReq s op addr home ordered dest l st e) = sl
  obtain ⟨c, hc⟩ : ∃ c, c = { curCore s with slots := (curCore s).slots.set s.cur.2 sl } := ⟨_, rfl⟩
  have hu : (updCur s fun q => raiseFor q (mkReq s op addr home ordered dest l st e)) = setCore s s.cur.1 c := by
    rw [hc, ← hsl]
    rfl
  have hcc : curCore (setCore s s.cur.1 c) = c := getCore_setCore_self ..
  have hlead : leads (setCore s s.cur.1 c) addr home dst := by
    rw [leads_congr (s := s) (t := setCore s s.cur.1 c) rfl rfl rfl rfl rfl rfl (by rw [hcc, hc]) (by rw [hcc, hc])]
    exact hld
  have hone := injectAll_one (setCore s s.cur.1 c) (placed s (mkReq s op addr home ordered dest l st e) ws) home dst
    (by rw [hcc, hc]; exact h1) (by rw [hcc, hc]; exact h2) rfl rfl (by rw [hcc, hc]; exact h4) rfl rfl hm hlead
  rw [hu]
  refine hone.trans ?_
  simp only [hcc, setCore_cur, setCore_setCore, taken, sendPkt, reqPkt, firstPacket, coreNumber, getCore_setCore_self]
  subst hc
  cases op with
  | msg m => exact absurd rfl (hm m)
  | _ => rfl

/-- A load-like request of a slot without STRICT (R77). -/
theorem loadReq_idle (hi : idleNi s) (hl : (curSlot s).cntL < 31) (hstr : (curSlot s).strict = false) (hm : ∀ m, op ≠ .msg m)
    (hld : leads s addr home dst) :
    loadReq s op addr ordered dest = .next (asked s (askReq s op addr home ordered dest true false false)
      (raiseFor (curSlot s) (askReq s op addr home ordered dest true false false)) [addr] (firstPacket s op addr ordered dst)) := by
  rw [loadReq, homeOf_leads s addr home dst hld]
  exact sendReq_idle s op addr home dst ordered dest true false false [addr] hi (fun _ => hl) (by simp) hstr hm hld

/-- Under STRICT the slot waits at its instruction for the request that the NI has just taken (R283). -/
theorem afterRemote_strict {u : State} (side : State → State) (h : (curSlot u).strict = true) :
    afterRemote u ws side = .next (updCur u fun sl =>
      { sl with mode := .stalled, waits := [], strictReq := some ((curCore u).nextSeq - 1), strictNext := some (curSlot (side u)).streams,
                twinWait := .none, fprint := foldPrint sl.fprint ws, folds := sl.folds + ws.length }) := by
  unfold afterRemote
  rw [if_pos h]
  rfl

/-- A request under STRICT: it is on its way, and the slot is stalled at its instruction until it has left the NI (R283). -/
theorem sendReq_strict (side : State → State) (hi : idleNi s) (hl : l = true → (curSlot s).cntL < 31) (hs : st = true → (curSlot s).cntS < 64)
    (hstr : (curSlot s).strict = true) (hm : ∀ m, op ≠ .msg m) (hld : leads s addr home dst) {r : Req} {sl : Slot}
    (hr : r = askReq s op addr home ordered dest l st e) (hsl : sl = raiseFor (curSlot s) r) :
    ∃ t, sendReq s (mkReq s op addr home ordered dest l st e) ws side = .next t ∧
      curSlot t = { sl with
        mode := .stalled, waits := [], strictReq := some (curCore s).nextSeq,
        strictNext := some (curSlot (side (taken s r sl ws (firstPacket s op addr ordered dst)))).streams, twinWait := .none,
        fprint := foldPrint sl.fprint (ws ++ dataPlaces dest), folds := sl.folds + (ws ++ dataPlaces dest).length } ∧
      t.net = s.net ++ [firstPacket s op addr ordered dst] := by
  have hstr' : (curSlot (taken s r sl ws (firstPacket s op addr ordered dst))).strict = true := by
    rw [curSlot_taken, hsl, hr, ← hstr]
    unfold raiseFor
    cases (askReq s op addr home ordered dest l st e).dest <;> simp
  rw [sendReq_taken side hi hl hs hm hld, ← hr, ← hsl, afterRemote_strict side hstr']
  refine ⟨_, rfl, ?_, rfl⟩
  rw [curSlot_updCur, curSlot_taken, curCore_taken]
  rfl

end Taken

/-- At the boundary after the request has left the NI the instruction retires, and its streams move on (R111, R283). -/
theorem slotTurn_strictDone {u : State} {n : Nat} (hq : (curSlot u).strictReq = some n) (hr : (curCore u).reqs = [])
    (hd : (curSlot u).due = []) :
    slotTurn exec u.cur.1 u.cur.2 u = .next (finish u { curSlot u with
      strictReq := none, strictNext := none, streams := (curSlot u).strictNext.getD (curSlot u).streams } []) := by
  have hlate : lateOpen (curCore u) (curSlot u) = false := by simp [lateOpen, strictRefused, hq, hd]
  have hstep : stepOpen (curCore u) (curSlot u) = false := by simp [stepOpen, hq]
  have hdone : strictDone (curCore u) n = true := by simp [strictDone, hr]
  change (if lateOpen (curCore u) (curSlot u) = true then _ else if stepOpen (curCore u) (curSlot u) = true then _ else _) = _
  rw [hlate, hstep, if_neg Bool.false_ne_true, if_neg Bool.false_ne_true]
  change (match (curSlot u).strictReq with
    | some n => if strictDone (curCore u) n then _ else _
    | none => _) = _
  rw [hq]
  dsimp only
  rw [hdone, if_pos rfl]
  exact congrArg Host.Outcome.next (retire_updCur u _ [] rfl rfl)

/-- The boundary after, as the state in which the slot was stalled gives it. -/
theorem strict_resumes {t u : State} {n : Nat} {st : Vector (Option Stream) 4} (hq : (curSlot t).strictReq = some n)
    (hn : (curSlot t).strictNext = some st) (hd : (curSlot t).due = []) (hu : curCore u = { curCore t with reqs := [] }) (hcur : u.cur = t.cur) :
    curSlot u = curSlot t ∧ slotTurn exec u.cur.1 u.cur.2 u =
      .next (finish u { curSlot u with strictReq := none, strictNext := none, streams := st } []) := by
  have hsl : curSlot u = curSlot t := by
    simp only [curSlot_eq, hu, hcur]
  refine ⟨hsl, ?_⟩
  rw [slotTurn_strictDone (hsl ▸ hq) (by rw [hu]) (hsl ▸ hd), hsl, hn]
  rfl

end Sys2Proof.Machine
end

section
/-! SUPPORT. O21: remote loads. -/

namespace Sys2Proof.Machine

open Sys2Proof.Terms

theorem raiseFor_load (s : State) (op : ROp) (addr : Word) (home : Endpoint) (ordered : Bool) (a : XReg) (n : Nat) (sgn : Bool) :
    raiseFor (curSlot s) (askReq s op addr home ordered (.x a n sgn) true false false) =
      { setPendX (curSlot s) a true with cntL := (curSlot s).cntL + 1 } := by
  unfold raiseFor
  change setPendX { curSlot s with cntL := (curSlot s).cntL + 1 } a true = _
  unfold setPendX
  split <;> rfl

theorem pendingX_setPendX (sl : Slot) (a : XReg) : pendingX (setPendX sl a true) a = decide (a ≠ 0) := by
  unfold pendingX setPendX
  by_cases ha : a = 0
  · simp [ha]
  · have hbit : (bit32 a.val).getLsbD a.val = true := by rw [bit32_eq]; simp
    simp [ha, hbit]

section Remote

variable {s : State} {i : Instr} {a b : XReg} {imm : Int} {rlx : Bool} {n : Nat} {sgn sized : Bool}

/-- A load of another home is its request (R77). -/
theorem exec_remoteLoad (hi : loadForm i = some (a, b, imm, rlx, n, sgn, sized)) (hr : xReady s [a, b])
    (hc : checkScalar s (ea s b imm) n sized = none) (ho : isOwn s (ea s b imm) = false) :
    exec i s = loadReq s (.read n) (ea s b imm) (!rlx) (.x a n sgn) := by
  have he : getX (curSlot s) b + wordOf imm = ea s b imm := rfl
  rw [(exec_loadForm hi).1 s, loadScalar, needX_ready _ hr]
  dsimp only
  rw [he, hc]
  dsimp only
  rw [ho, if_neg Bool.false_ne_true]

theorem exec_remoteVecLoad {a : VReg} {k : MReg} (bcast : Bool) (hx : xReady s [b]) (hv : vReady s [a]) (hu : unbound s [a])
    (hc : checkVec s (curSlot s) (ea s b imm) false bcast (getM (curSlot s) k) = none) (ho : isOwn s (ea s b imm) = false) :
    exec (if bcast then .vldb a b imm rlx k else .vld a b imm rlx k) s =
      loadReq s (.vread (getM (curSlot s) k) bcast) (ea s b imm) (!rlx) (.v a (getM (curSlot s) k) bcast) := by
  have he : getX (curSlot s) b + wordOf imm = ea s b imm := rfl
  have hi : exec (if bcast then .vldb a b imm rlx k else .vld a b imm rlx k) s = vecLoad bcast a b imm rlx k s := by cases bcast <;> rfl
  rw [hi, vecLoad, needXV_ready _ hx hv]
  dsimp only
  rw [streamFault_unbound _ [] [] [a] hu, he, hc]
  dsimp only
  rw [ho, if_neg Bool.false_ne_true]

end Remote

/-- Settles O21: the NI takes the load's request, and the instruction retires at once or, under STRICT, at the boundary after. -/
theorem remoteLoadsIssueTheirRequest : Obligations.RemoteLoadsIssueTheirRequest := by
  unfold Obligations.RemoteLoadsIssueTheirRequest
  refine ⟨fun s home dst hi hl hstr _ => ⟨?_, ?_⟩, ?_⟩
  · intro i a b imm rlx n sgn sized hf hr e hc ho hld
    rw [exec_remoteLoad hf hr hc ho, loadReq_idle hi hl hstr (by simp) hld, raiseFor_load]
  · intro bcast a b imm rlx k hx hv hu e act hc ho hld
    rw [exec_remoteVecLoad bcast hx hv hu hc ho, loadReq_idle hi hl hstr (by simp) hld]
    rfl
  · intro s i a b imm rlx n sgn sized home dst e hf hi hl hstr _ hr hc ho hld
    obtain ⟨t, ht, hsl, hnet⟩ := sendReq_strict (op := .read n) (ordered := !rlx) (l := true) (st := false) (e := false)
      (dest := .x a n sgn) (ws := [e]) id hi (fun _ => hl) (by simp) hstr (by simp) hld rfl rfl
    refine ⟨t, ?_, ?_⟩
    · rw [exec_remoteLoad hf hr hc ho, loadReq, homeOf_leads s e home dst hld]
      exact ht
    · rw [raiseFor_load, id, curSlot_taken] at hsl
      refine ⟨by rw [hsl], by rw [hsl]; simp, by rw [hsl]; simp, by rw [hsl], ?_, hnet, fun u hu hcur hd _ => ?_⟩
      · rw [hsl]
        exact pendingX_setPendX (curSlot s) a
      · obtain ⟨hsame, hturn⟩ := strict_resumes (st := (curSlot t).streams) (by rw [hsl]) (by rw [hsl]) hd hu hcur
        rw [hturn, ← hsame]

end Sys2Proof.Machine
end

section
/-! SUPPORT. O22: posted requests (spec/05 R77, spec/06 R104, spec/11 R192, R193, spec/17 R305). -/

namespace Sys2Proof.Machine

open Sys2Proof.Terms

/-- What an instruction does inside the slot leaves it as it is: nothing, or moving on streams that are not bound. -/
def quiet (s : State) (side : State → State) : Prop :=
  side = id ∨ ∃ rs, unbound s rs ∧ side = fun s => updCur s fun sl => consume sl rs

theorem consume_quiet {s u : State} {rs : List VReg} (h : unbound s rs) (hs : (curSlot u).streams = (curSlot s).streams) :
    consume (curSlot u) rs = curSlot u :=
  consume_unbound _ rs fun r hr => by
    have := h r hr
    unfold streamOf at this ⊢
    rwa [hs]

theorem retire_quiet {s u : State} {side : State → State} (h : quiet s side) (hs : (curSlot u).streams = (curSlot s).streams)
    (ws : List Word) : retire (side u) ws = finish u (curSlot u) ws := by
  obtain rfl | ⟨rs, hu, rfl⟩ := h
  · exact retire_eq u ws
  · have hc := consume_quiet hu hs
    rw [retire_updCur _ _ _ (by rw [hc]) (by rw [hc]), hc]

theorem retire_updCur_quiet {s : State} {side : State → State} (h : quiet s side) (f : Slot → Slot) (ws : List Word)
    (hpc : (f (curSlot s)).pc = (curSlot s).pc) (hlen : (f (curSlot s)).ilen = (curSlot s).ilen) :
    retire (updCur (side s) f) ws = finish s (f (curSlot s)) ws := by
  obtain rfl | ⟨rs, hu, rfl⟩ := h
  · exact retire_updCur s f ws hpc hlen
  · have hc := consume_unbound _ rs hu
    rw [updCur_updCur, retire_updCur _ _ _ (by rw [hc, hpc]) (by rw [hc, hlen]), hc]

section Post

variable {s : State} {op : ROp} {a : Word} {home dst : Endpoint} {ordered : Bool} {ws : List Word} {side : State → State}

theorem postReq_sends (side : State → State) (hp : plainAct s) :
    postReq s op a ordered ws side = sendReq s (mkReq s op a (homeOf s a) ordered .none false true false) (a :: ws) side := by
  obtain ⟨h1, h2⟩ := hp
  unfold postReq
  simp only [h1, h2, Bool.false_eq_true, if_false]

theorem afterRemote_quiet {u : State} (h : quiet s side) (hs : (curSlot u).streams = (curSlot s).streams) (hstr : (curSlot u).strict = false) :
    afterRemote u ws side = .next (finish u (curSlot u) ws) := by
  have : afterRemote u ws side = .next (retire (side u) ws) := by
    unfold afterRemote
    exact if_neg (by simp [hstr])
  rw [this, retire_quiet h hs]

/-- A posted request of an activation that is neither replayable nor a twin, beside which nothing happens in the slot. -/
theorem postReq_plain_quiet (h : quiet s side) (hp : plainAct s) (hi : idleNi s) (hs : (curSlot s).cntS < 64)
    (hstr : (curSlot s).strict = false) (hm : ∀ m, op ≠ .msg m) (hl : leads s a home dst) :
    postReq s op a ordered ws side = .next (asked s (askReq s op a home ordered .none false true false)
      { curSlot s with cntS := (curSlot s).cntS + 1 } (a :: ws) (firstPacket s op a ordered dst)) := by
  have hside : ∀ side', quiet s side' → postReq s op a ordered ws side' = postReq s op a ordered ws := fun side' h' => by
    rw [postReq_sends side' hp, postReq_sends id hp, homeOf_leads s a home dst hl, sendReq_taken side' hi (by simp) (fun _ => hs) hm hl,
      sendReq_taken id hi (by simp) (fun _ => hs) hm hl, afterRemote_quiet h' (by rw [curSlot_taken]; rfl) (by rw [curSlot_taken]; exact hstr),
      afterRemote_quiet (.inl rfl) rfl (by rw [curSlot_taken]; exact hstr)]
  rw [hside side h]
  exact postReq_plain s op a home dst ordered ws hp hi hs hstr hm hl

/-- A posted request of a replayable activation enters the outbox. -/
theorem postReq_buffered_quiet (h : quiet s side) (hr : (curSlot s).replayable = true) (hn : (curSlot s).outbox.length < 32) :
    postReq s op a ordered ws side = .next (finish s { curSlot s with
      outbox := (curSlot s).outbox ++
        [{ op := op, addr := a, ordered := ordered, winbase := (curSlot s).winbase, retAt := (curSlot s).retired + 1, snapReads := [],
           rect := none }] }
      (a :: ws)) := by
  have : postReq s op a ordered ws side = .next (retire (updCur (side s) fun sl =>
      { sl with outbox := sl.outbox ++
          [{ op := op, addr := a, ordered := ordered, winbase := sl.winbase, retAt := sl.retired + 1, snapReads := [], rect := none }] })
      (a :: ws)) := by
    unfold postReq
    simp only [hr, if_true, show Config.outboxMax = 32 from rfl, hn]
  rw [this, retire_updCur_quiet h _ _ rfl rfl]

end Post

-- The posted instructions

theorem orStay_runs {s t : State} (h : (curSlot t).mode = .run) : orStay s (.next t) = .next t := by
  unfold orStay
  dsimp only
  rw [if_neg (by simp [h])]

theorem sizeOf_eq (z : AmoSize) : sizeOf z = atomicForm.size z := by
  cases z <;> rfl

theorem exec_atomicForm {i : Instr} {op : AmoOp} {n : Nat} {sgn : Bool} {a b c d : XReg} (h : atomicForm i = some (op, n, sgn, a, b, c, d))
    (s : State) : exec i s = atomic op n sgn a b c d s := by
  unfold atomicForm at h
  simp only [← sizeOf_eq] at h
  split at h <;> cases h <;> rfl

section Posted

variable {s t : State} {ord : Bool} {ws : List Word} {b : XReg} {imm : Int}

theorem exec_remoteStore {i : Instr} {a : XReg} {rlx sized : Bool} {n : Nat} (h : storeForm i = some (a, b, imm, rlx, n, sized))
    (hr : xReady s [a, b]) (hc : checkScalar s (ea s b imm) n sized = none) (ho : isOwn s (ea s b imm) = false) :
    exec i s = postReq s (.write (leBytes n ((getX (curSlot s) a).toNat % 2 ^ (8 * n)))) (ea s b imm) (!rlx)
      [BitVec.ofNat 64 ((getX (curSlot s) a).toNat % 2 ^ (8 * n))] := by
  have he : getX (curSlot s) b + wordOf imm = ea s b imm := rfl
  rw [(exec_storeForm h).1 s, storeScalar, needX_ready _ hr]
  dsimp only
  rw [he, hc]
  dsimp only
  rw [ho, if_neg Bool.false_ne_true]

/-- An atomic without a result is posted (R192). -/
theorem exec_remoteAtomic {i : Instr} {op : AmoOp} {n : Nat} {sgn : Bool} {c d : XReg} (h : atomicForm i = some (op, n, sgn, 0, b, c, d))
    (hr : xReady s [0, b, c, d]) (hc : checkAtomic s (getX (curSlot s) b) n = none) (ho : isOwn s (getX (curSlot s) b) = false) :
    exec i s = postReq s (.amo op n (getX (curSlot s) c) (getX (curSlot s) d)) (getX (curSlot s) b) true [getX (curSlot s) c] := by
  rw [exec_atomicForm h, atomic, needX_ready _ hr]
  dsimp only
  rw [hc]
  dsimp only
  rw [ho, if_neg Bool.false_ne_true, if_pos rfl]

/-- A vector store of an unbound register; the streams it moves on are none. -/
theorem exec_remoteVecStore {a : VReg} {rlx : Bool} {k : MReg} (hx : xReady s [b]) (hv : vReady s [a]) (hu : unbound s [a])
    (hc : checkVec s (curSlot s) (ea s b imm) true false (getM (curSlot s) k) = none) (ho : isOwn s (ea s b imm) = false) :
    exec (.vst a b imm rlx k) s = orStay s (postReq s (.vwrite (getM (curSlot s) k) (getV (curSlot s) a)) (ea s b imm) (!rlx)
      (vecWords (getV (curSlot s) a)) fun s => updCur s fun sl => consume sl [a]) := by
  have he : getX (curSlot s) b + wordOf imm = ea s b imm := rfl
  have hread : readSource s (curSlot s) a = .ok (getV (curSlot s) a, s) := by
    rw [readSource, hu a (by simp)]
    rfl
  change execVst a b imm rlx k s = _
  rw [execVst, needXV_ready _ hx hv]
  dsimp only
  rw [streamFault_unbound _ [a] [] [] hu, he, hc, hread]
  dsimp only [orUE]
  rw [ho, if_neg Bool.false_ne_true]

/-- What a vector add asks of the home of its address: an add at the indices, or at successive words (R193). -/
def vecAddOp (ty : VTy) (act : Mask32) (data : Lanes) : Option Lanes → ROp
  | some i => .vaddi ty act i data
  | none => .vadd ty act data

theorem exec_remoteVecAdd {ty : VTy} {a : VReg} {c : Option VReg} {k : MReg} {idx : Option Lanes}
    (hidx : idx = if c.isSome then some (srcAt ((a :: c.toList).map (getV (curSlot s))) 1) else none)
    (hx : xReady s [b]) (hv : vReady s (a :: c.toList)) (hu : unbound s (a :: c.toList))
    (hc : checkAdd s (getX (curSlot s) b) (getM (curSlot s) k) idx = none) (hk : getM (curSlot s) k ≠ 0)
    (ho : isOwn s (getX (curSlot s) b) = false) :
    vecAdd ty a b c k s = orStay s (postReq s (vecAddOp ty (getM (curSlot s) k) (getV (curSlot s) a) idx)
      (getX (curSlot s) b) true (vecWords (getV (curSlot s) a)) fun s => updCur s fun sl => consume sl (a :: c.toList)) := by
  rw [vecAdd, needXV_ready _ hx hv]
  dsimp only
  rw [streamFault_unbound _ (a :: c.toList) [] [] (by simp only [List.append_nil]; exact hu), readSources_unbound _ _ _ hu]
  dsimp only [orUE]
  rw [← hidx, hc]
  dsimp only
  rw [if_neg hk, ho, if_neg Bool.false_ne_true]
  rfl

/-- Each posted instruction with a remote address ends as its request does, and beside it nothing happens in the slot. -/
theorem exec_postForm {i : Instr} {xs : List XReg} {vs : List VReg} {e : Word} {ok : Prop} {op : ROp}
    (h : postForm s i = some (xs, vs, e, ok, op, ord, ws)) (hok : ok) (hx : xReady s xs) (hv : vReady s vs) (hu : unbound s vs)
    (ho : isOwn s e = false) (ht : ∀ side, quiet s side → postReq s op e ord ws side = .next t) (hm : (curSlot t).mode = .run) :
    exec i s = .next t := by
  have moving : ∀ {rs}, unbound s rs → orStay s (postReq s op e ord ws fun s => updCur s fun sl => consume sl rs) = .next t := fun {rs} hrs => by
    rw [ht _ (.inr ⟨rs, hrs, rfl⟩), orStay_runs hm]
  unfold postForm at h
  split at h
  case h_1 => 
    cases h
    rw [exec_remoteVecStore hx hv hu hok ho]
    exact moving hu
  case h_2 ty a b k =>
    cases h
    exact (exec_remoteVecAdd (c := none) rfl hx hv hu hok.1 hok.2 ho).trans (moving hu)
  case h_3 ty a b c k =>
    cases h
    exact (exec_remoteVecAdd (c := some c) rfl hx hv hu hok.1 hok.2 ho).trans (moving hu)
  case h_4 =>
    split at h
    case h_1 hst =>
      cases h
      rw [exec_remoteStore hst hx hok ho]
      exact ht id (.inl rfl)
    case h_2 hat =>
      cases h
      obtain ⟨hc, rfl⟩ := hok
      rw [exec_remoteAtomic hat hx hc ho]
      exact ht id (.inl rfl)
    case h_3 => cases h

end Posted

theorem postForm_noMessage {s : State} {i : Instr} {xs : List XReg} {vs : List VReg} {e : Word} {ok : Prop} {op : ROp} {ord : Bool}
    {ws : List Word} (h : postForm s i = some (xs, vs, e, ok, op, ord, ws)) (m : _) : op ≠ .msg m := by
  unfold postForm at h
  split at h
  case h_4 => split at h <;> cases h <;> simp
  all_goals cases h; simp

/-- Settles O22: each posted instruction is its request, which the NI takes or the outbox keeps. The clause on STRICT speaks of a VST whose
A is bound to a stream, of which the statement's own premises (`unbound`) leave no case; what STRICT holds back is `sendReq_strict`. -/
theorem postedRequestsIssueOrAreBuffered : Obligations.PostedRequestsIssueOrAreBuffered := by
  unfold Obligations.PostedRequestsIssueOrAreBuffered
  intro s i xs vs e ok op ord ws home dst h hok hx hv hu ho
  refine ⟨fun hi hs hstr hp hl => ?_, fun hr hn => ?_, ?_⟩
  · exact exec_postForm h hok hx hv hu ho (fun side hside => postReq_plain_quiet hside hp hi hs hstr (postForm_noMessage h) hl)
      (retired_mode ..)
  · exact exec_postForm h hok hx hv hu ho (fun side hside => postReq_buffered_quiet hside hr hn) (retired_mode ..)
  · intro a b imm rlx k st hi _ _ _ hbound
    subst hi
    cases h
    rw [hu a (by simp)] at hbound
    cases hbound

end Sys2Proof.Machine
end

section
/-! SUPPORT. What the release of R306 leaves as it was. -/

namespace Sys2Proof.Machine

open Sys2Proof.Terms

/-- Of a slot a release changes the outbox, the replayable bit, the S count and the record of held messages. -/
def slotReleases (sl sl' : Slot) : Prop :=
  sl' = { sl with outbox := sl'.outbox, replayable := sl'.replayable, cntS := sl'.cntS, fired := sl'.fired }

theorem slotReleases.trans {a b c : Slot} (h : slotReleases a b) (h' : slotReleases b c) : slotReleases a c := by
  unfold slotReleases at *
  rw [h] at h'
  exact h'

/-- A release changes neither the scratchpad of a core nor its check bits. -/
structure CoreReleases (c d : Core) : Prop where
  spad : d.spad = c.spad
  ue : d.spadUE = c.spadUE
  ce : d.spadCE = c.spadCE
  slots : ∀ k : Fin 4, slotReleases c.slots[k] d.slots[k]

theorem CoreReleases.refl (c : Core) : CoreReleases c c := ⟨rfl, rfl, rfl, fun _ => rfl⟩

/-- What the NI notes of requests is no part of it. -/
theorem coreReleases_requests (c : Core) (n u : Nat) (rs : List Req) : CoreReleases c { c with nextSeq := n, nextUid := u, reqs := rs } :=
  ⟨rfl, rfl, rfl, fun _ => rfl⟩

theorem CoreReleases.trans {c d e : Core} (h : CoreReleases c d) (h' : CoreReleases d e) : CoreReleases c e :=
  ⟨h'.spad.trans h.spad, h'.ue.trans h.ue, h'.ce.trans h.ce, fun k => (h.slots k).trans (h'.slots k)⟩

theorem coreReleases_of_mail {c d : Core} (h : mail c d) : CoreReleases c d :=
  ⟨by rw [h], by rw [h], by rw [h], fun k => by rw [h.slots]; rfl⟩

theorem coreReleases_updAct (c : Core) (k : Fin 4) (act : BitVec 48) {f : Slot → Slot} (hf : ∀ sl, slotReleases sl (f sl)) :
    CoreReleases c (updAct c k act f) := by
  unfold updAct
  split
  · exact ⟨rfl, rfl, rfl, fun _ => rfl⟩
  · split
    · refine ⟨rfl, rfl, rfl, fun j => ?_⟩
      by_cases hj : j = k
      · subst hj
        simpa using hf _
      · have hne : k.val ≠ j.val := fun h => hj (Fin.ext h.symm)
        simp only [Fin.getElem_fin, Vector.getElem_set_ne _ _ hne]
        rfl
    · exact .refl c

structure Releases (s t : State) : Prop where
  cur : t.cur = s.cur
  cores : ∀ y, CoreReleases (getCore s y) (getCore t y)

theorem Releases.refl (s : State) : Releases s s := ⟨rfl, fun _ => .refl _⟩

theorem Releases.trans {s t u : State} (h : Releases s t) (h' : Releases t u) : Releases s u :=
  ⟨h'.cur.trans h.cur, fun y => (h.cores y).trans (h'.cores y)⟩

theorem releases_of_posts {s t : State} (h : posts s t) : Releases s t := ⟨h.cur, fun y => coreReleases_of_mail (h.2 y)⟩

theorem releases_setCore {s : State} {x : Nat} {c : Core} (h : CoreReleases (getCore s x) c) : Releases s (setCore s x c) := by
  refine ⟨rfl, fun y => ?_⟩
  by_cases hy : y = x
  · subst hy
    rw [getCore_setCore_self]
    exact h
  · rw [getCore_setCore_of_ne s c hy]
    exact .refl _

theorem releases_updMember (s : State) (m : Member) {f : Slot → Slot} (hf : ∀ sl, slotReleases sl (f sl)) : Releases s (updMember s m f) :=
  releases_setCore (coreReleases_updAct _ _ _ hf)

theorem releases_launch (s : State) (x : Nat) (r : Req) : Releases s (launch s x r) := by
  have hsame : ∀ p, Releases s (sendPkt s p) := fun _ => ⟨rfl, fun _ => .refl _⟩
  unfold launch
  dsimp only
  split
  · split
    · exact hsame _
    · exact hsame _
    · split <;> exact hsame _
  · exact hsame _

theorem releases_pumpList (x : Nat) (rs : List Req) (s : State) : Releases s (pumpList x rs s) := by
  induction rs generalizing s with
  | nil => exact .refl s
  | cons r rs ih =>
    unfold pumpList
    dsimp only
    split
    · exact (releases_setCore (coreReleases_requests (getCore s x) _ _ _)).trans ((releases_launch ..).trans (ih _))
    · exact ih s

theorem releases_injectAll (s : State) (x : Nat) (rs : List Req) : Releases s (injectAll s x rs) :=
  (releases_setCore (coreReleases_requests (getCore s x) _ _ _)).trans (releases_pumpList ..)

theorem releases_releaseOutbox (s : State) (m : Member) : Releases s (releaseOutbox s m) := by
  unfold releaseOutbox
  refine (releases_updMember s m ?_).trans (foldl_related Releases .refl .trans (fun t o => ?_) _ _)
  · exact fun _ => rfl
  dsimp only
  split
  · refine releases_updMember t m ?_
    exact fun _ => rfl
  · exact releases_injectAll ..

theorem releases_freeHeld (s : State) (m : Member) : Releases s (freeHeld s m) := by
  unfold freeHeld
  have hfree := foldl_related mail mail.refl mail.trans mail_freeHeldIn (heldOf (memberSlot s m)) (getCore s m.site)
  have hdrop : ∀ sl, slotReleases sl (noHeld sl) := fun _ => rfl
  exact (releases_setCore ((coreReleases_of_mail hfree).trans (coreReleases_updAct _ _ _ hdrop))).trans (releases_of_posts (posts_wakeChans ..))

theorem releases_released (s : State) : Releases s (released s) := by
  unfold released release
  split
  · have hout := foldl_related Releases .refl .trans releases_releaseOutbox (releaseSet s s.cur.1 s.cur.2) s
    dsimp only
    split
    · exact hout
    · exact hout.trans (releases_freeHeld ..)
  · exact .refl s

section Released

variable {s t : State} (h : Releases s t)

include h

theorem Releases.core : CoreReleases (curCore s) (curCore t) := by
  unfold curCore
  rw [h.cur]
  exact h.cores _

theorem Releases.curSlot : slotReleases (curSlot s) (curSlot t) := by
  have hslot : Machine.curSlot t = (curCore t).slots[s.cur.2] := by simp only [curSlot_eq, h.cur]
  rw [hslot]
  exact h.core.slots _

theorem Releases.fallThrough : fallThrough t = fallThrough s := by
  unfold Terms.fallThrough
  rw [h.curSlot]

theorem Releases.sound {rs : List (Nat × Nat)} (hs : sound (curCore s) rs) : sound (curCore t) rs := by
  unfold Terms.sound
  rw [h.core.ue, h.core.ce]
  exact hs

theorem Releases.spadSite {off : Nat} (ht : (Machine.curSlot s).twin = none) : spadSite t off = t.cur.1 := by
  have : (Machine.curSlot t).twin = none := by rw [h.curSlot]; exact ht
  simp [Machine.spadSite, primaryOf, this]

end Released

end Sys2Proof.Machine
end

section
/-! SUPPORT. O23: local vector, gather, scatter and tile accesses (spec/05 R75, spec/06 R102 to R106, spec/12 R199, R202, spec/17 R306). -/

namespace Sys2Proof.Machine

open Sys2Proof.Terms

-- What reads and writes leave of the core

theorem bytesOnly.slots {c c' : Core} (h : bytesOnly c c') : c'.slots = c.slots := by
  simpa using congrArg Core.slots h.1

theorem spadRead_slots {α : Type} {c c' : Core} {rs : List (Nat × Nat)} {f : Mem → α} {v : α} (h : spadRead c rs f = .ok (v, c')) :
    c'.slots = c.slots := by
  unfold spadRead at h
  split at h
  · cases h
  · cases h
    exact (correct_frame c rs).1.slots

theorem readPlaneLanes_slots {c c' : Core} {w o x : Nat} {act : Mask32} {ls : List (Fin 32 × Nat)}
    (h : readPlaneLanes c w o x act = .ok (ls, c')) : c'.slots = c.slots := by
  unfold readPlaneLanes at h
  split at h
  · cases h
    rfl
  · split at h
    · cases h
    · next hg =>
      cases h
      unfold readGroup at hg
      exact spadRead_slots hg

theorem readVec_slots {c c' : Core} {wb : Word} {w o : Nat} {act : Mask32} {bcast : Bool} {ls : List (Fin 32 × Nat)}
    (h : readVec c wb w o act bcast = .ok (ls, c')) : c'.slots = c.slots := by
  unfold readVec at h
  split at h
  · exact readPlaneLanes_slots h
  · exact spadRead_slots h

theorem readTile_slots {c c' : Core} {y : Tile} {r g : Nat} {act : Mask32} {ls : List (Fin 32 × Nat)}
    (h : readTile c y r g act = .ok (ls, c')) : c'.slots = c.slots := by
  unfold readTile at h
  split at h
  · exact readPlaneLanes_slots h
  · exact spadRead_slots h

theorem writeLanesAt_slots {c c' : Core} {sc : Nat → Nat} {w : Nat} {es : List (Nat × ElemAt)} (h : writeLanesAt c sc w es = .ok ((), c')) :
    c'.slots = c.slots := by
  unfold writeLanesAt at h
  exact (spadWrite_frame h).1.slots

theorem writeVec_slots {c c' : Core} {wb : Word} {w o : Nat} {act : Mask32} {v : Lanes} (h : writeVec c wb w o act v = .ok ((), c')) :
    c'.slots = c.slots := by
  unfold writeVec at h
  split at h
  · unfold writeGroup at h
    exact (spadWrite_frame h).1.slots
  · exact writeLanesAt_slots h

-- RAW lanes

theorem elemAt_raw (o l : Nat) : elemAt 0 o (l : Int) = ⟨o + 4 * l, 4, false⟩ := by
  change (⟨((o : Int) + (l : Int) * (4 : Nat)).toNat, 4, false⟩ : ElemAt) = _
  rw [show ((o : Int) + (l : Int) * (4 : Nat)).toNat = o + 4 * l by omega]

theorem readVec_raw {c : Core} {wb : Word} {o : Nat} {act : Mask32} {bcast : Bool}
    (h : ∀ l : Fin 32, act.getLsbD l.val = true → sound c [(o + (if bcast then 0 else 4 * l.val), 4)]) :
    readVec c wb 0 o act bcast = .ok ((laneList act).map fun l => (l, readLE c.spad (o + (if bcast then 0 else 4 * l.val)) 4), c) := by
  have he : ∀ l : Fin 32, elemAt 0 o (if bcast then 0 else (l.val : Int)) = ⟨o + (if bcast then 0 else 4 * l.val), 4, false⟩ := fun l => by
    cases bcast
    · exact elemAt_raw o l.val
    · exact elemAt_raw o 0
  have hsound : sound c (((laneList act).map fun l => (l, elemAt 0 o (if bcast then 0 else (l.val : Int)))).flatMap fun e =>
      elemRanges (mx4ScaleOff wb) 0 e.2) := by
    intro r hr
    obtain ⟨e, he', hr⟩ := List.mem_flatMap.mp hr
    obtain ⟨l, hl, rfl⟩ := List.mem_map.mp he'
    rw [he] at hr
    exact h l (by simpa [laneList] using hl) r hr
  change readLanesAt c (mx4ScaleOff wb) 0 _ = _
  rw [readLanesAt, spadRead_sound hsound, List.map_map]
  refine congrArg (fun ls => Except.ok (ls, c)) (List.map_congr_left fun l _ => ?_)
  simp only [Function.comp, he]
  rfl

theorem spadWrite_sound {c : Core} {rs ws : List (Nat × Nat)} (hr : sound c rs) (hw : sound c ws) (f : Mem → Mem) :
    ∃ c', spadWrite c rs ws f = .ok ((), c') := by
  have hue : ueOfWrite c.spadUE ws = none := by
    rw [ueOfWrite, List.find?_eq_none]
    intro k hk
    obtain ⟨r, hr, hkr⟩ := List.mem_flatMap.mp hk
    simp [(hw r hr k hkr).1]
  unfold spadWrite
  rw [ueOfRead_sound hr, hue]
  exact ⟨_, rfl⟩

/-- Words stored through RAW, lane after lane. -/
theorem writeLanesAt_raw {c : Core} (sc : Nat → Nat) (act : Mask32) (at_ : Fin 32 → Nat) (v : Lanes)
    (h : ∀ l : Fin 32, act.getLsbD l.val = true → sound c [(at_ l, 4)]) :
    ∃ c', writeLanesAt c sc 0 ((laneList act).map fun l => (v[l].toNat, ⟨at_ l, 4, false⟩)) = .ok ((), c') ∧
      c'.spad = lanesStored c.spad (fun l => act.getLsbD l.val) at_ v := by
  have hw : sound c (((laneList act).map fun l => (v[l].toNat, (⟨at_ l, 4, false⟩ : ElemAt))).map fun e => (e.2.off, e.2.len)) := by
    intro r hr
    simp only [List.map_map, List.mem_map, Function.comp] at hr
    obtain ⟨l, hl, rfl⟩ := hr
    exact h l (by simpa [laneList] using hl) _ (by simp)
  obtain ⟨c', hc'⟩ := spadWrite_sound (rs := []) (by simp [sound]) hw fun m =>
    ((laneList act).map fun l => (v[l].toNat, (⟨at_ l, 4, false⟩ : ElemAt))).foldl (fun m e => writeElem m sc 0 e.2 e.1) m
  refine ⟨c', hc', (spadWrite_frame hc').2.trans ?_⟩
  have hword : ∀ (m : Mem) (l : Fin 32), writeElem m sc 0 ⟨at_ l, 4, false⟩ v[l].toNat = writeLE m (at_ l) 4 v[l].toNat := fun m l =>
    congrArg (writeLE m (at_ l) 4) (Nat.mod_eq_of_lt v[l].isLt)
  rw [List.foldl_map, laneList, List.foldl_filter, lanesStored]
  simp only [hword]

end Sys2Proof.Machine
end

section
/-! SUPPORT. O23: the steps of local loads and stores. -/

namespace Sys2Proof.Machine

open Sys2Proof.Terms

theorem withSpad_ok {α : Type} {s : State} {off : Nat} {f : Core → SpadRes α} {v : α} {c : Core} (k : α → State → Res)
    (hs : spadSite s off = s.cur.1) (h : f (curCore s) = .ok (v, c)) : withSpad s off f k = k v (setCore s s.cur.1 c) := by
  rw [withSpad, ownSpad_ok hs h]
  rfl

/-- What a load does once it has its core and its lanes. -/
theorem retire_loaded {s : State} {c : Core} (h : c.slots = (curCore s).slots) {g : Slot → Slot} {sl : Slot} (hg : g (curSlot s) = sl)
    (hp : sl.pc = (curSlot s).pc) (hi : sl.ilen = (curSlot s).ilen) (ws : List Word) :
    retire (updCur (setCore s s.cur.1 c) g) ws = retired s c sl (fallThrough s) ws := by
  have hu : curSlot (setCore s s.cur.1 c) = curSlot s := curSlot_updCurCore (f := fun _ => c) h
  rw [retire_updCur _ _ _ (by rw [hu, hg, hp]) (by rw [hu, hg, hi]), hu, hg, finish_setCore h]

section Loads

variable {s : State} {a : VReg} {b : XReg} {k : MReg} {ls : List (Fin 32 × Nat)} {c' : Core}

theorem exec_localVecLoad {imm : Int} {rlx : Bool} (bcast : Bool) (hx : xReady s [b]) (hv : vReady s [a]) (hu : unbound s [a])
    (hc : checkVec s (curSlot s) (ea s b imm) false bcast (getM (curSlot s) k) = none) (hl : isLocal s (ea s b imm))
    (h : readVec (curCore s) (curSlot s).winbase (meshWin (ea s b imm)) (meshOff (ea s b imm)) (getM (curSlot s) k) bcast = .ok (ls, c')) :
    exec (if bcast then .vldb a b imm rlx k else .vld a b imm rlx k) s =
      .next (retired s c' (setV (curSlot s) a (putLanes (getV (curSlot s) a) ls)) (fallThrough s) (vecWords (putLanes (getV (curSlot s) a) ls))) := by
  have he : getX (curSlot s) b + wordOf imm = ea s b imm := rfl
  have hi : exec (if bcast then .vldb a b imm rlx k else .vld a b imm rlx k) s = vecLoad bcast a b imm rlx k s := by cases bcast <;> rfl
  obtain ⟨hown, hsite⟩ := hl
  rw [hi, vecLoad, needXV_ready _ hx hv]
  dsimp only
  rw [streamFault_unbound _ [] [] [a] hu, he, hc]
  dsimp only
  rw [if_pos hown, withSpad_ok _ hsite h]
  exact congrArg Host.Outcome.next (retire_loaded (readVec_slots h) rfl rfl rfl _)

theorem exec_localGather {d : VReg} (hx : xReady s [b]) (hv : vReady s [a, d]) (hu : unbound s [a, d])
    (hc : checkGather s (getX (curSlot s) b) (getV (curSlot s) d) (getM (curSlot s) k) = none) (hl : isLocal s (getX (curSlot s) b))
    (h : readLanesAt (curCore s) (mx4ScaleOff (curSlot s).winbase) (meshWin (getX (curSlot s) b))
      (gatherElems (getX (curSlot s) b) (getV (curSlot s) d) (getM (curSlot s) k)) = .ok (ls, c')) :
    exec (.vldx a b d k) s =
      .next (retired s c' (setV (curSlot s) a (putLanes (getV (curSlot s) a) ls)) (fallThrough s) (vecWords (putLanes (getV (curSlot s) a) ls))) := by
  have hread : readSource s (curSlot s) d = .ok (getV (curSlot s) d, s) := by
    rw [readSource, hu d (by simp)]
    rfl
  have hud : unbound s [d] := fun r hr => hu r (by simp_all)
  obtain ⟨hown, hsite⟩ := hl
  change execVldx a b d k s = _
  rw [execVldx, needXV_ready _ hx hv]
  dsimp only
  rw [streamFault_unbound _ [d] [] [a] (by intro r hr; exact hu r (by simp_all [or_comm])), hread]
  dsimp only [orUE]
  rw [hc]
  dsimp only
  rw [withSpad_ok _ hsite h]
  refine congrArg Host.Outcome.next (retire_loaded (sl := setV (curSlot s) a (putLanes (getV (curSlot s) a) ls)) (spadRead_slots h) ?_ rfl rfl _)
  rw [consume_unbound _ _ hud]
  rfl

theorem exec_tileLoad {t : TileIx} {y : Tile} (ht : (curSlot s).twin = none) (hx : xReady s [b]) (hv : vReady s [a]) (hu : unbound s [a])
    (hy : getTile (curCore s) t.val = some y) (hr : tileReady y = true) (hf : y.fault = false) (hsel : selOk (some y) (getX (curSlot s) b) false = true)
    (h : readTile (curCore s) y (selRow (getX (curSlot s) b)) (selGroup (getX (curSlot s) b)) (getM (curSlot s) k) = .ok (ls, c')) :
    exec (.vldt a t b k) s =
      .next (retired s c' (setV (curSlot s) a (putLanes (getV (curSlot s) a) ls)) (fallThrough s) (vecWords (putLanes (getV (curSlot s) a) ls))) := by
  have hsite : ownSite s = s.cur.1 := by simp [ownSite, primaryOf, ht]
  have hcore : ownCore s = curCore s := by rw [ownCore, hsite]; rfl
  change execVldt a t b k s = _
  rw [execVldt, needXV_ready _ hx hv]
  dsimp only
  rw [streamFault_unbound _ [] [] [a] hu, hcore, hy, hsel]
  dsimp only
  rw [if_neg (by simp), hr, hf, if_neg (by simp), if_neg Bool.false_ne_true, h, hsite]
  exact congrArg Host.Outcome.next (retire_loaded (readTile_slots h) rfl rfl rfl _)

end Loads

section Stores

/-- Where a store is performed: at once within the slot frame, else after the release of R306. -/
def storeState (s : State) (inside : Bool) : State := if inside then s else released s

theorem releases_storeState (s : State) (inside : Bool) : Releases s (storeState s inside) := by
  cases inside
  · exact releases_released s
  · exact .refl s

variable {s : State} {inside : Bool} {side : State → State}

/-- A store, which moves on no stream, ends with its core changed and the instruction retired. -/
theorem localStore_ends {k : State → Res} {c' : Core} (hq : quiet s side) (hmay : inside = true ∨ (curSlot s).twin = none ∧ mayRelease s)
    (hk : k (storeState s inside) = .next (retire (side (setCore (storeState s inside) (storeState s inside).cur.1 c')) []))
    (hc : c'.slots = (curCore (storeState s inside)).slots) :
    localStore s inside side k =
      .next (retired (storeState s inside) c' (curSlot (storeState s inside)) (fallThrough (storeState s inside)) []) := by
  have hslot := (releases_storeState s inside).curSlot
  generalize hR : storeState s inside = R at hk hc hslot ⊢
  have hu : curSlot (setCore R R.cur.1 c') = curSlot R := curSlot_updCurCore (f := fun _ => c') hc
  rw [retire_quiet hq (by rw [hu, hslot]), hu, finish_setCore hc] at hk
  cases inside with
  | true =>
    obtain rfl : s = R := hR
    exact hk
  | false =>
    obtain rfl : released s = R := hR
    obtain ⟨htwin, hroom⟩ := hmay.resolve_left Bool.false_ne_true
    refine irrevocable_solo s 0 side k _ htwin hroom hk (.inl ?_)
    rw [retired_mode]
    simp

/-- What is stored through RAW, when a store has ended so. -/
theorem completes_raw {i : Instr} {k : MReg} {a : VReg} {at_ : Fin 32 → Nat} {c' : Core}
    (h : exec i s = .next (retired (storeState s inside) c' (curSlot (storeState s inside)) (fallThrough (storeState s inside)) []))
    (hc : c'.spad = lanesStored (curCore (storeState s inside)).spad (fun l => (getM (curSlot s) k).getLsbD l.val) at_ (getV (curSlot s) a)) :
    completes i s fun u =>
      (curCore u).spad = lanesStored (curCore s).spad (fun l => (getM (curSlot s) k).getLsbD l.val) at_ (getV (curSlot s) a) ∧
      (curSlot u).pc = fallThrough s ∧ (curSlot u).x = (curSlot s).x ∧ (curSlot u).v = (curSlot s).v := by
  have hR := releases_storeState s inside
  have hslot := hR.curSlot
  rw [hR.core.spad] at hc
  rw [hR.fallThrough] at h
  refine ⟨_, h, ?_, ?_, ?_, ?_⟩
  · rw [← hc]
    simp [retired, curCore]
  · simp [retired, curSlot, curCore]
  · rw [show (curSlot s).x = (curSlot (storeState s inside)).x by rw [hslot]]
    simp [retired, curSlot, curCore]
  · rw [show (curSlot s).v = (curSlot (storeState s inside)).v by rw [hslot]]
    simp [retired, curSlot, curCore]

end Stores

end Sys2Proof.Machine
end

section
/-! SUPPORT. O23: local stores, and the elements of a scatter through RAW. -/

namespace Sys2Proof.Machine

open Sys2Proof.Terms

section Stores

variable {s : State} {inside : Bool} {a : VReg} {b : XReg} {k : MReg} {c' : Core}

theorem storeState_site {off : Nat} (hs : spadSite s off = s.cur.1) (hmay : inside = true ∨ (curSlot s).twin = none ∧ mayRelease s) :
    spadSite (storeState s inside) off = (storeState s inside).cur.1 := by
  cases inside
  · exact (releases_released s).spadSite (hmay.resolve_left Bool.false_ne_true).1
  · exact hs

/-- A store into the own scratchpad, which moves on no stream. -/
theorem spadStore_ends {side : State → State} {off : Nat} {f : Core → SpadRes Unit} (hq : quiet s side) (hs : spadSite s off = s.cur.1)
    (hmay : inside = true ∨ (curSlot s).twin = none ∧ mayRelease s) (h : f (curCore (storeState s inside)) = .ok ((), c'))
    (hc : c'.slots = (curCore (storeState s inside)).slots) :
    localStore s inside side (fun s => withSpad s off f fun _ s => .next (retire (side s) [])) =
      .next (retired (storeState s inside) c' (curSlot (storeState s inside)) (fallThrough (storeState s inside)) []) :=
  localStore_ends hq hmay (withSpad_ok _ (storeState_site hs hmay) h) hc

theorem orStay_retired {c : Core} {t : State} {sl : Slot} {pc : Word} {ws : List Word} :
    orStay s (.next (retired t c sl pc ws)) = .next (retired t c sl pc ws) :=
  orStay_runs (retired_mode ..)

theorem exec_localVecStore {imm : Int} {rlx : Bool} (hx : xReady s [b]) (hv : vReady s [a]) (hu : unbound s [a])
    (hc : checkVec s (curSlot s) (ea s b imm) true false (getM (curSlot s) k) = none) (hl : isLocal s (ea s b imm))
    (hin : inside = vecInside s.cur.2 (curSlot s).winbase (meshWin (ea s b imm)) (meshOff (ea s b imm)) (getM (curSlot s) k))
    (hmay : inside = true ∨ (curSlot s).twin = none ∧ mayRelease s)
    (h : writeVec (curCore (storeState s inside)) (curSlot s).winbase (meshWin (ea s b imm)) (meshOff (ea s b imm)) (getM (curSlot s) k)
      (getV (curSlot s) a) = .ok ((), c')) :
    exec (.vst a b imm rlx k) s =
      .next (retired (storeState s inside) c' (curSlot (storeState s inside)) (fallThrough (storeState s inside)) []) := by
  have he : getX (curSlot s) b + wordOf imm = ea s b imm := rfl
  have hread : readSource s (curSlot s) a = .ok (getV (curSlot s) a, s) := by
    rw [readSource, hu a (by simp)]
    rfl
  obtain ⟨hown, hsite⟩ := hl
  change execVst a b imm rlx k s = _
  rw [execVst, needXV_ready _ hx hv]
  dsimp only
  rw [streamFault_unbound _ [a] [] [] hu, he, hc, hread]
  dsimp only [orUE]
  rw [if_pos hown, ← hin, spadStore_ends (.inr ⟨[a], hu, rfl⟩) hsite hmay h (writeVec_slots h), orStay_retired]

theorem exec_localScatter {d : VReg} (hx : xReady s [b]) (hv : vReady s [a, d]) (hu : unbound s [a, d])
    (hc : checkGather s (getX (curSlot s) b) (getV (curSlot s) d) (getM (curSlot s) k) = none) (hl : isLocal s (getX (curSlot s) b))
    {es : List (Fin 32 × ElemAt)} (hes : es = gatherElems (getX (curSlot s) b) (getV (curSlot s) d) (getM (curSlot s) k))
    (hin : inside = es.all fun y => inFrame s.cur.2 y.2.off && inFrame s.cur.2 (y.2.off + y.2.len - 1))
    (hmay : inside = true ∨ (curSlot s).twin = none ∧ mayRelease s)
    (h : writeLanesAt (curCore (storeState s inside)) (mx4ScaleOff (curSlot s).winbase) (meshWin (getX (curSlot s) b))
      (es.map fun y => ((getV (curSlot s) a)[y.1].toNat, y.2)) = .ok ((), c')) :
    exec (.vstx a b d k) s =
      .next (retired (storeState s inside) c' (curSlot (storeState s inside)) (fallThrough (storeState s inside)) []) := by
  obtain ⟨hown, hsite⟩ := hl
  change execVstx a b d k s = _
  rw [execVstx, needXV_ready _ hx hv]
  dsimp only
  rw [streamFault_unbound _ [a, d] [] [] hu, readSources_unbound _ _ _ hu]
  have h0 : srcAt ([a, d].map (getV (curSlot s))) 0 = getV (curSlot s) a := rfl
  have h1 : srcAt ([a, d].map (getV (curSlot s))) 1 = getV (curSlot s) d := rfl
  dsimp only [orUE]
  rw [h0, h1, hc]
  dsimp only
  rw [← hes, ← hin]
  exact spadStore_ends (.inr ⟨[a, d], hu, rfl⟩) hsite hmay h (writeLanesAt_slots h)

/-- FIN turns the berth READY (R106, R202). -/
def berthReady (c : Core) (n : Nat) (fin : Bool) : Core :=
  if fin then (match getTile c n with | some z => setTile c n { z with state := .ready } | none => c) else c

theorem berthReady_slots (c : Core) (n : Nat) (fin : Bool) : (berthReady c n fin).slots = c.slots := by
  unfold berthReady
  split
  · split <;> rfl
  · rfl

theorem updTile_setCore (R : State) (c : Core) (n : Nat) (fin : Bool) :
    (if fin = true then updTile (setCore R R.cur.1 c) R.cur.1 n fun e => { e with state := .ready } else setCore R R.cur.1 c) =
      setCore R R.cur.1 (berthReady c n fin) := by
  cases fin
  · rfl
  · rw [if_pos rfl, updTile, updCore, getCore_setCore_self, setCore_setCore]
    rfl

theorem exec_tileStore {t : TileIx} {y : Tile} (ht : (curSlot s).twin = none) (hmay : mayRelease s) (hx : xReady s [b]) (hv : vReady s [a])
    (hu : unbound s [a]) (hy : getTile (curCore s) t.val = some y) (he : y.state = .empty) (hd : y.dest = false)
    (hsel : selOk (some y) (getX (curSlot s) b) true = true)
    (h : writeLanesAt (curCore (released s)) (tileScale y (selRow (getX (curSlot s) b)) (selGroup (getX (curSlot s) b))) y.win
      ((laneList (getM (curSlot s) k)).map fun l =>
        ((getV (curSlot s) a)[l].toNat, elemAt y.win (groupOff y (selRow (getX (curSlot s) b)) (selGroup (getX (curSlot s) b))) (l.val : Int))) =
      .ok ((), c')) :
    exec (.vstt a t b k) s = .next (retired (released s)
      (berthReady c' t.val (selFin (getX (curSlot s) b))) (curSlot (released s)) (fallThrough (released s)) []) := by
  have hcore : ownCore s = curCore s := by
    rw [ownCore, show ownSite s = s.cur.1 by simp [ownSite, primaryOf, ht]]
    rfl
  have hread : readSource s (curSlot s) a = .ok (getV (curSlot s) a, s) := by
    rw [readSource, hu a (by simp)]
    rfl
  have htakes : takesResult s = false := by simp [takesResult, isSecondary, ht]
  change execVstt a t b k s = _
  rw [execVstt, needXV_ready _ hx hv]
  dsimp only
  rw [streamFault_unbound _ [a] [] [] hu, hcore, hy, hsel, htakes]
  dsimp only
  rw [if_neg Bool.false_ne_true, if_neg (by simp), if_neg (by simp [he, hd]), hread]
  dsimp only [orUE]
  refine localStore_ends (inside := false) (.inr ⟨[a], hu, rfl⟩) (.inr ⟨ht, hmay⟩) ?_ ((berthReady_slots ..).trans (writeLanesAt_slots h))
  dsimp only [storeState]
  rw [if_neg Bool.false_ne_true, h]
  dsimp only [putCur]
  rw [setCore_cur, updTile_setCore]

end Stores

end Sys2Proof.Machine
end

section
/-! SUPPORT. O23: the settlement. -/

namespace Sys2Proof.Machine

open Sys2Proof.Terms

-- Where the lanes of a gather lie

/-- The layout of a mesh address (R162). -/
theorem mesh_toNat {x : Word} (hb : badFields x = false) (hs : space x = 0xF) :
    x.toNat = 15 * 2 ^ 60 + meshCore x * 2 ^ 35 + meshWin x * 2 ^ 20 + meshOff x := by
  have hzero : ¬(bits x 48 12 ≠ 0 ∨ bits x 24 11 ≠ 0 ∨ bits x 19 1 ≠ 0) := fun h => by
    rw [(badFields_iff x).mpr (.inr (.inr (.inl ⟨hs, h⟩)))] at hb
    cases hb
  push Not at hzero
  obtain ⟨h48, h24, h19⟩ := hzero
  unfold space at hs
  unfold meshCore meshWin meshOff
  unfold bits at *
  have := x.isLt
  omega

theorem check14_fields {s : State} {x : Word} (h : check14 s x = none) : badFields x = false := by
  unfold check14 at h
  split at h
  · cases h
  · next hb => simpa using hb

theorem isOwn_space {s : State} {x : Word} (h : isOwn s x = true) : space x = 0xF := by
  unfold isOwn at h
  simp only [Bool.and_eq_true, beq_iff_eq] at h
  exact h.1

/-- A displacement of less than a core's space stays in the core where the fields stay what they must be. -/
theorem mesh_displaced {x : Word} {d : Int} (hx : badFields x = false) (hs : space x = 0xF) (hp : badFields (x + wordOf d) = false)
    (hps : space (x + wordOf d) = 0xF) (hw : meshWin (x + wordOf d) = meshWin x) (hd : -2 ^ 33 ≤ d ∧ d < 2 ^ 33) :
    (meshOff (x + wordOf d) : Int) = meshOff x + d := by
  have hX := mesh_toNat hx hs
  have hP := mesh_toNat hp hps
  have hadd : (x + wordOf d).toNat = (x.toNat + (d % 2 ^ 64).toNat) % 2 ^ 64 := by
    rw [BitVec.toNat_add, wordOf, BitVec.toNat_ofInt]
    rfl
  have hox : meshOff x < 2 ^ 19 := Nat.mod_lt _ (by norm_num)
  have hop : meshOff (x + wordOf d) < 2 ^ 19 := Nat.mod_lt _ (by norm_num)
  have hcx : meshCore x < 2 ^ 13 := Nat.mod_lt _ (by norm_num)
  have hcp : meshCore (x + wordOf d) < 2 ^ 13 := Nat.mod_lt _ (by norm_num)
  rw [hw] at hP
  omega

/-- What a lane that passes the checks of R105 keeps. -/
theorem checkGather_passed {s : State} {x : Word} {idx : Lanes} {act : Mask32} (hc : checkGather s x idx act = none) :
    check14 s x = none ∧ isOwn s x = true ∧ elemHalf (meshWin x) ≠ 1 ∧
      ∀ l ∈ laneList act, let p := lanePlace x (elemHalf (meshWin x) / 2) idx[l]
        check14 s p = none ∧ isOwn s p = true ∧ meshWin p = meshWin x := by
  unfold checkGather at hc
  split at hc
  · cases hc
  next h14 =>
  split at hc
  · cases hc
  next hown =>
  split at hc
  · cases hc
  split at hc
  · cases hc
  next hhalf =>
  refine ⟨h14, by simpa using hown, hhalf, fun l hl => ?_⟩
  have hlane := List.findSome?_eq_none_iff.mp hc l hl
  dsimp only at hlane ⊢
  generalize lanePlace x (elemHalf (meshWin x) / 2) idx[l] = p at hlane ⊢
  split at hlane
  · cases hlane
  next hp =>
  split at hlane
  · cases hlane
  next hkeep =>
  simp only [Bool.or_eq_true, decide_eq_true_eq, not_or, Bool.not_eq_true', Bool.not_eq_false] at hkeep
  obtain ⟨⟨hownp, hwin⟩, -⟩ := hkeep
  exact ⟨hp, hownp, not_not.mp hwin⟩

/-- Where an active lane lies through RAW. -/
theorem lanePlace_raw {s : State} {x : Word} {idx : Lanes} {act : Mask32} (hc : checkGather s x idx act = none) (hw : meshWin x = 0) {l : Fin 32}
    (hl : act.getLsbD l.val = true) : meshOff (lanePlace x 4 idx[l]) = ((meshOff x : Int) + 4 * (idx[l]).toInt).toNat := by
  obtain ⟨hx, hown, -, hlanes⟩ := checkGather_passed hc
  have hlane := hlanes l (by simpa [laneList] using hl)
  rw [hw] at hlane
  obtain ⟨hp, hownp, hwin⟩ : check14 s (lanePlace x 4 idx[l]) = none ∧ isOwn s (lanePlace x 4 idx[l]) = true ∧ meshWin (lanePlace x 4 idx[l]) = 0 := hlane
  have hplace : lanePlace x 4 idx[l] = x + wordOf (idx[l].toInt * 4) := by
    rw [lanePlace, signedN_toNat]
    rfl
  rw [hplace] at hp hownp hwin ⊢
  have hlo := BitVec.le_toInt idx[l]
  have hhi := BitVec.toInt_lt (x := idx[l])
  have := mesh_displaced (check14_fields hx) (isOwn_space hown) (check14_fields hp) (isOwn_space hownp) (hwin.trans hw.symm)
    (by norm_num at hlo hhi ⊢; omega)
  omega

/-- The elements of a scatter through RAW. -/
theorem gatherElems_raw {s : State} {x : Word} {idx : Lanes} {act : Mask32} (hc : checkGather s x idx act = none) (hw : meshWin x = 0) :
    gatherElems x idx act = (laneList act).map fun l => (l, ⟨((meshOff x : Int) + 4 * (idx[l]).toInt).toNat, 4, false⟩) := by
  unfold gatherElems
  rw [hw]
  refine List.map_congr_left fun l hl => ?_
  rw [← lanePlace_raw hc hw (by simpa [laneList] using hl)]
  rfl

theorem writeVec_raw (c : Core) (wb : Word) (o : Nat) (act : Mask32) (v : Lanes) :
    writeVec c wb 0 o act v =
      writeLanesAt c (mx4ScaleOff wb) 0 ((laneList act).map fun l => (v[l].toNat, ⟨o + 4 * l.val, 4, false⟩)) := by
  simp only [← elemAt_raw]
  rfl

theorem berthReady_spad (c : Core) (n : Nat) (fin : Bool) : (berthReady c n fin).spad = c.spad := by
  unfold berthReady
  split
  · split <;> rfl
  · rfl

theorem sound_storeState {s : State} {inside : Bool} {rs : List (Nat × Nat)} (h : sound (curCore s) rs) : sound (curCore (storeState s inside)) rs :=
  (releases_storeState s inside).sound h

/-- Settles O23: each access is a read or write of the core's own scratchpad, after which the instruction retires. -/
theorem localVectorAccessesComplete : Obligations.LocalVectorAccessesComplete := by
  unfold Obligations.LocalVectorAccessesComplete
  refine ⟨fun s => ⟨?_, ?_, ?_⟩, fun s => ⟨?_, ?_, ?_⟩⟩
  · intro bcast a b imm rlx k hx hv hu e act i hc hl
    refine ⟨fun ls c' h => exec_localVecLoad bcast hx hv hu hc hl h, fun hw hsound => ?_⟩
    have hread := readVec_raw (wb := (curSlot s).winbase) hsound
    have hend := exec_localVecLoad (rlx := rlx) bcast hx hv hu hc hl (by rw [hw]; exact hread)
    rw [putLanes_active] at hend
    exact hend
  · intro a b d k hx hv hu e act hc hl ls c' h
    exact exec_localGather hx hv hu hc hl h
  · intro a t b k y ht hx hv hu hy hr hf hsel ls c' h
    exact exec_tileLoad ht hx hv hu hy hr hf hsel h
  · intro a b imm rlx k hx hv hu e act inside hc hl hmay
    refine ⟨fun c' h => exec_localVecStore hx hv hu hc hl rfl hmay h, fun hw hsound => ?_⟩
    obtain ⟨c', hwrite, hspad⟩ := writeLanesAt_raw (mx4ScaleOff (curSlot s).winbase) act (fun l => meshOff e + 4 * l.val) (getV (curSlot s) a)
      fun l hl => sound_storeState (inside := inside) (hsound l hl)
    have hvec : writeVec (curCore (storeState s inside)) (curSlot s).winbase (meshWin e) (meshOff e) act (getV (curSlot s) a) = .ok ((), c') := by
      rw [hw, writeVec_raw]
      exact hwrite
    exact completes_raw (exec_localVecStore hx hv hu hc hl rfl hmay hvec) hspad
  · intro a b d k hx hv hu e act es inside hc hl hmay
    refine ⟨fun c' h => exec_localScatter hx hv hu hc hl rfl rfl hmay h, ?_⟩
    intro hw at_ hsound
    obtain ⟨c', hwrite, hspad⟩ := writeLanesAt_raw (mx4ScaleOff (curSlot s).winbase) act at_ (getV (curSlot s) a)
      fun l hl => sound_storeState (inside := inside) (hsound l hl)
    have hlanes : writeLanesAt (curCore (storeState s inside)) (mx4ScaleOff (curSlot s).winbase) (meshWin e)
        (es.map fun y => ((getV (curSlot s) a)[y.1].toNat, y.2)) = .ok ((), c') := by
      rw [hw, show es = _ from gatherElems_raw hc hw, List.map_map]
      exact hwrite
    exact completes_raw (exec_localScatter hx hv hu hc hl rfl rfl hmay hlanes) hspad
  · intro a t b k y hx hv hu hy he hd hsel ht hmay x
    refine ⟨fun hw hsound => ?_, fun c' h => exec_tileStore ht hmay hx hv hu hy he hd hsel h⟩
    obtain ⟨c', hwrite, hspad⟩ := writeLanesAt_raw (tileScale y (selRow x) (selGroup x)) (getM (curSlot s) k)
      (fun l => groupOff y (selRow x) (selGroup x) + 4 * l.val) (getV (curSlot s) a)
      fun l hl => sound_storeState (inside := false) (hsound l hl)
    refine completes_raw (inside := false) (exec_tileStore ht hmay hx hv hu hy he hd hsel (c' := c') ?_) ?_
    · simp only [hw, elemAt_raw]
      exact hwrite
    · exact (berthReady_spad ..).trans hspad

end Sys2Proof.Machine
end

section
/-! SUPPORT. O7: bytes, registers and the elements of natural windows (spec/05 R75, spec/04 R49, spec/06 R107, spec/10 R163, R168). -/

namespace Sys2Proof.Machine

open Sys2Proof.Terms

/-- Byte k of a number written little-endian (R75). -/
theorem readByte_writeLE_inside {m : Mem} (h : Mem.wf m = true) {n k : Nat} (hk : k < n) (a v : Nat) :
    readByte (writeLE m a n v) (a + k) = BitVec.ofNat 8 (v / 2 ^ (8 * k)) := by
  induction n generalizing m a v k with
  | zero => omega
  | succ n ih =>
    change readByte (writeLE (writeByte m a (BitVec.ofNat 8 v)) (a + 1) n (v / 256)) (a + k) = _
    cases k with
    | zero =>
      rw [readByte_writeLE_outside _ _ _ _ _ (by omega), Nat.add_zero, readByte_writeByte_self h]
      simp
    | succ k =>
      have := ih (wf_writeByte h a (BitVec.ofNat 8 v)) (k := k) (by omega) (a + 1) (v / 256)
      rw [show a + (k + 1) = a + 1 + k by omega, this, Nat.div_div_eq_div_mul, show (256 : Nat) = 2 ^ 8 by norm_num, ← pow_add]
      congr 3
      ring

theorem readLE_one (m : Mem) (a : Nat) : readLE m a 1 = (readByte m a).toNat := by
  simp [readLE, readBytes, leNat]

-- Registers

theorem getM_setM_of_ne (sl : Slot) {i j : MReg} (v : Mask32) (h : j ≠ i) : getM (setM sl i v) j = getM sl j := by
  unfold getM setM
  split
  · rfl
  · split
    · rfl
    · exact Vector.getElem_set_ne i.isLt j.isLt fun e => h (Fin.ext e.symm)

theorem getV_setV_of_ne (sl : Slot) {i j : VReg} (v : Lanes) (h : j ≠ i) : getV (setV sl i v) j = getV sl j :=
  Vector.getElem_set_ne i.isLt j.isLt fun e => h (Fin.ext e.symm)

theorem getX_setX (sl : Slot) (v : Word) (i j : XReg) : getX (setX sl i v) j = if j = 0 then 0 else if j = i then v else getX sl j := by
  by_cases h0 : j = 0
  · rw [if_pos h0, h0, getX_zero]
  · rw [if_neg h0]
    by_cases hij : j = i
    · subst hij
      rw [if_pos rfl, getX_setX_self _ _ h0]
    · rw [if_neg hij, getX_setX_of_ne _ _ hij]

theorem getM_setM (sl : Slot) (v : Mask32) (i j : MReg) :
    getM (setM sl i v) j = if j = 0 then BitVec.allOnes 32 else if j = i then v else getM sl j := by
  by_cases h0 : j = 0
  · rw [if_pos h0, h0, getM_zero]
  · rw [if_neg h0]
    by_cases hij : j = i
    · subst hij
      rw [if_pos rfl, getM_setM_self _ _ h0]
    · rw [if_neg hij, getM_setM_of_ne _ _ hij]

theorem getV_setV (sl : Slot) (v : Lanes) (i j : VReg) : getV (setV sl i v) j = if j = i then v else getV sl j := by
  by_cases hij : j = i
  · subst hij
    rw [if_pos rfl, getV_setV_self]
  · rw [if_neg hij, getV_setV_of_ne _ _ hij]

-- Elements

theorem elemAt_half {w : Nat} (h : w = 8 ∨ w = 12) (o l : Nat) : elemAt w o (l : Int) = ⟨o + l / 2, 1, decide (l % 2 = 1)⟩ := by
  have hhalf : elemHalf w = 1 := by obtain rfl | rfl := h <;> rfl
  unfold elemAt
  rw [hhalf]
  have hoff : ((o : Int) + (l : Int) / 2).toNat = o + l / 2 := by omega
  have hhi : ((l : Int) % 2 == 1) = decide (l % 2 = 1) := by
    rw [Bool.beq_eq_decide_eq]
    exact decide_eq_decide.2 (by omega)
  simp only [hoff, hhi]

/-- A 4-bit element is a half of its byte (R163). -/
theorem readElem_half {w : Nat} (h : w = 8 ∨ w = 12) (m : Mem) (sc : Nat → Nat) (off : Nat) (hi : Bool) :
    readElem m sc w ⟨off, 1, hi⟩ =
      decRead w (readByte m (sc off)).toNat ((readByte m off).toNat / (if hi = true then 16 else 1) % 16) := by
  have hhalf : elemHalf w = 1 := by obtain rfl | rfl := h <;> rfl
  have hlt := (readByte m off).isLt
  unfold readElem
  dsimp only
  rw [if_pos hhalf, readLE_one]
  congr 1
  cases hi
  · simp
  · rw [if_pos rfl, if_pos rfl]
    omega

/-- The other half keeps its value (R170). -/
theorem writeElem_half {w : Nat} (h : w = 8 ∨ w = 12) (m : Mem) (sc : Nat → Nat) (off v : Nat) (hi : Bool) :
    writeElem m sc w ⟨off, 1, hi⟩ v = writeByte m off (BitVec.ofNat 8
      (if hi = true then decWrite w (readByte m (sc off)).toNat v * 16 + (readByte m off).toNat % 16
       else (readByte m off).toNat / 16 * 16 + decWrite w (readByte m (sc off)).toNat v)) := by
  have hhalf : elemHalf w = 1 := by obtain rfl | rfl := h <;> rfl
  unfold writeElem
  dsimp only
  rw [if_pos hhalf]

/-- The element of n bytes of a window whose conversion has no scale byte (R163). -/
def wholeElem (w n : Nat) : Prop := (w = 9 ∨ w = 10 ∨ w = 13) ∧ n = 1 ∨ w = 11 ∧ n = 2

section Whole

variable {w n : Nat} (h : wholeElem w n)

include h

theorem elemHalf_whole : elemHalf w = 2 * n := by
  obtain ⟨rfl | rfl | rfl, rfl⟩ | ⟨rfl, rfl⟩ := h <;> rfl

/-- The scale byte matters to window 8 alone. -/
theorem decRead_whole (scale c : Nat) : decRead w scale c = decRead w 0 c := by
  obtain ⟨rfl | rfl | rfl, -⟩ | ⟨rfl, -⟩ := h <;> rfl

theorem decWrite_whole (scale v : Nat) : decWrite w scale v = decWrite w 0 v := by
  obtain ⟨rfl | rfl | rfl, -⟩ | ⟨rfl, -⟩ := h <;> rfl

theorem elemAt_whole (o l : Nat) : elemAt w o (l : Int) = ⟨o + n * l, n, false⟩ := by
  have hoff : ∀ k : Nat, ((o : Int) + (l : Int) * k).toNat = o + k * l := fun k => by
    rw [← Nat.cast_mul, ← Nat.cast_add, Int.toNat_natCast, Nat.mul_comm]
  obtain ⟨rfl | rfl | rfl, rfl⟩ | ⟨rfl, rfl⟩ := h
  · exact congrArg (ElemAt.mk · 1 false) (hoff 1)
  · exact congrArg (ElemAt.mk · 1 false) (hoff 1)
  · exact congrArg (ElemAt.mk · 1 false) (hoff 1)
  · exact congrArg (ElemAt.mk · 2 false) (hoff 2)

theorem readElem_whole (m : Mem) (sc : Nat → Nat) (off : Nat) : readElem m sc w ⟨off, n, false⟩ = decRead w 0 (readLE m off n) := by
  have hhalf := elemHalf_whole h
  unfold readElem
  dsimp only
  rw [if_neg (by omega), decRead_whole h]

theorem writeElem_whole (m : Mem) (sc : Nat → Nat) (off v : Nat) : writeElem m sc w ⟨off, n, false⟩ v = writeLE m off n (decWrite w 0 v) := by
  have hhalf := elemHalf_whole h
  unfold writeElem
  dsimp only
  rw [if_neg (by omega), decWrite_whole h]

end Whole

end Sys2Proof.Machine
end

section
/-! SUPPORT. O7: the planes of a group (spec/10 R165). -/

namespace Sys2Proof.Machine

open Sys2Proof.Terms

/-- A number gathered from bits, bit j being `b j % 2`. -/
def gathered (b : Nat → Nat) (n : Nat) : Nat := (List.range n).foldl (fun acc j => acc + b j % 2 * 2 ^ j) 0

theorem gathered_succ (b : Nat → Nat) (n : Nat) : gathered b (n + 1) = gathered b n + b n % 2 * 2 ^ n := by
  rw [gathered, List.range_succ, List.foldl_append]
  rfl

theorem gathered_lt (b : Nat → Nat) (n : Nat) : gathered b n < 2 ^ n := by
  induction n with
  | zero => simp [gathered]
  | succ n ih =>
    have : b n % 2 * 2 ^ n ≤ 2 ^ n := by
      have := Nat.mul_le_mul_right (2 ^ n) (show b n % 2 ≤ 1 by omega)
      omega
    rw [gathered_succ, pow_succ]
    omega

theorem testBit_gathered (b : Nat → Nat) {n j : Nat} (h : j < n) : (gathered b n).testBit j = (b j).testBit 0 := by
  induction n with
  | zero => omega
  | succ n ih =>
    have hbit : gathered b (n + 1) = 2 ^ n * (b n % 2) + gathered b n := by
      rw [gathered_succ, Nat.mul_comm, Nat.add_comm]
    rw [hbit, Nat.testBit_two_pow_mul_add _ (gathered_lt b n)]
    by_cases hj : j < n
    · rw [if_pos hj, ih hj]
    · obtain rfl : j = n := by omega
      simp

/-- The bits of v from bit d − 1 down to bit d − n, read as a number, are v's top part. -/
theorem foldl_topBits {v d : Nat} (hv : v < 2 ^ d) {n : Nat} (hn : n ≤ d) :
    (List.range n).foldl (fun acc p => acc * 2 + v / 2 ^ (d - 1 - p) % 2) 0 = v / 2 ^ (d - n) := by
  induction n with
  | zero => simp [Nat.div_eq_of_lt hv]
  | succ n ih =>
    have hsplit : v / 2 ^ (d - n) = v / 2 ^ (d - 1 - n) / 2 := by
      rw [Nat.div_div_eq_div_mul, ← pow_succ]
      congr 2
      omega
    rw [List.range_succ, List.foldl_append, ih (by omega), hsplit, show d - (n + 1) = d - 1 - n by omega]
    simp only [List.foldl_cons, List.foldl_nil]
    omega

section Planes

variable {d : Nat} {q : List Int}

/-- The D bits of element j of a group. -/
def elemBits (d : Nat) (q : List Int) (j : Nat) : Nat := (((nth q j).getD 0) % (2 ^ d : Int)).toNat

theorem planesOf_eq (d : Nat) (q : List Int) :
    planesOf d q = (List.range d).map fun p => gathered (fun j => elemBits d q j / 2 ^ (d - 1 - p)) 32 := rfl

theorem testBit_plane {j p w : Nat} (hj : j < 32) (hp : nth (planesOf d q) p = some w) :
    w < 2 ^ 32 ∧ w.testBit j = (elemBits d q j).testBit (d - 1 - p) := by
  rw [nth_eq_getElem?, planesOf_eq, List.getElem?_map, Option.map_eq_some_iff] at hp
  obtain ⟨p', hp', rfl⟩ := hp
  obtain rfl : p' = p := by
    obtain ⟨hlt, hget⟩ := List.getElem?_eq_some_iff.mp hp'
    rw [← hget, List.getElem_range]
  refine ⟨gathered_lt _ _, ?_⟩
  rw [testBit_gathered _ hj, Nat.testBit_div_two_pow, Nat.zero_add]

theorem elemBits_lt (d : Nat) (q : List Int) (j : Nat) : elemBits d q j < 2 ^ d := by
  have h0 := Int.emod_nonneg ((nth q j).getD 0) (show (2 : Int) ^ d ≠ 0 by positivity)
  have h1 := Int.emod_lt_of_pos ((nth q j).getD 0) (show (0 : Int) < 2 ^ d by positivity)
  unfold elemBits
  zify
  rw [Int.toNat_of_nonneg h0]
  exact h1

/-- The planes hold the D bits of each element (R165). -/
theorem foldl_planesOf {j : Nat} (hj : j < 32) :
    (planesOf d q).foldl (fun acc p => acc * 2 + p / 2 ^ j % 2) 0 = elemBits d q j := by
  have hbit : ∀ p, gathered (fun j => elemBits d q j / 2 ^ (d - 1 - p)) 32 / 2 ^ j % 2 = elemBits d q j / 2 ^ (d - 1 - p) % 2 := fun p => by
    rw [← Nat.toNat_testBit, testBit_gathered _ hj, Nat.toNat_testBit, pow_zero, Nat.div_one]
  rw [planesOf_eq, List.foldl_map]
  simp only [hbit]
  rw [foldl_topBits (elemBits_lt d q j) le_rfl, Nat.sub_self, pow_zero, Nat.div_one]

theorem planeInt_planesOf {j : Nat} {t : Int} (hd : 1 ≤ d) (hj : j < 32) (ht : nth q j = some t) (hlo : -2 ^ (d - 1) ≤ t) (hhi : t < 2 ^ (d - 1)) :
    planeInt d (planesOf d q) j = t := by
  have hpow : (2 : Int) ^ d = 2 * 2 ^ (d - 1) := by
    rw [← pow_succ', Nat.sub_add_cancel hd]
  have hbits : elemBits d q j = (t % 2 ^ d).toNat := by rw [elemBits, ht, Option.getD_some]
  unfold planeInt
  dsimp only
  rw [foldl_planesOf hj, hbits]
  have hcast : (((2 ^ (d - 1) : Nat)) : Int) = 2 ^ (d - 1) := by norm_num
  by_cases h0 : 0 ≤ t
  · rw [Int.emod_eq_of_lt h0 (by omega), if_pos (by omega), Int.toNat_of_nonneg h0]
  · have hmod : t % 2 ^ d = t + 2 ^ d := by
      rw [← Int.add_emod_right, Int.emod_eq_of_lt (by omega) (by omega)]
    rw [hmod, if_neg (by omega), Int.toNat_of_nonneg (by omega)]
    omega

end Planes

end Sys2Proof.Machine
end

section
/-! SUPPORT. O7: the aligned integers and the exponent byte of a group (spec/10 R165, R166). -/

namespace Sys2Proof.Machine

open Sys2Proof.Terms

/-- RoundInt takes the nearest integer, the even one on a tie. -/
theorem nearestInt_roundInt (s : Bool) (m : Nat) (e k : Int) : nearestInt (signedSize (.num s m e) * 2 ^ k) (roundInt (.num s m e) k) := by
  have hsize : size (.num s m (e + k)) = m * 2 ^ e * 2 ^ k := by
    rw [size_num, zpow_add₀ (by norm_num)]
    ring
  obtain ⟨X, hX⟩ : ∃ X, X = size (.num s m (e + k)) := ⟨_, rfl⟩
  have h0 : 0 ≤ X := by
    rw [hX, hsize]
    positivity
  obtain ⟨n, hn⟩ : ∃ n, n = ⌊X⌋₊ := ⟨_, rfl⟩
  have hlo : (n : ℚ) ≤ X := hn ▸ Nat.floor_le h0
  have hhi : X < n + 1 := hn ▸ Nat.lt_floor_add_one X
  obtain ⟨b, hb⟩ : ∃ b, b = if away .rne 0 s (n % 2 == 1) n (n + 1) X then n + 1 else n := ⟨_, rfl⟩
  have hround : (roundUnits .rne 0 s m (e + k) false 0).1 = b := by
    rw [roundUnits_integer (n := n) (hX ▸ hlo) (hX ▸ hhi), ← hX, hb]
  have hnear : |X - b| < 1 / 2 ∨ |X - b| = 1 / 2 ∧ b % 2 = 0 := by
    simp only [away, Bool.or_eq_true, decide_eq_true_eq, Bool.and_eq_true, beq_iff_eq] at hb
    split at hb
    · next h =>
      subst hb
      push_cast
      rw [abs_of_neg (by linarith)]
      obtain h | ⟨h, hodd⟩ := h
      · exact .inl (by linarith)
      · exact .inr ⟨by linarith, by omega⟩
    · next h =>
      subst hb
      rw [abs_of_nonneg (by linarith)]
      rw [not_or, not_and] at h
      obtain ⟨h1, h2⟩ := h
      by_cases heq : (b : ℚ) + (b + 1) = 2 * X
      · exact .inr ⟨by linarith, by have := h2 heq; omega⟩
      · have := lt_of_le_of_ne (not_lt.mp h1) (Ne.symm heq)
        exact .inl (by linarith)
  unfold roundInt nearestInt
  dsimp only
  rw [hround, signedSize_num, mul_assoc, ← hsize, ← hX]
  cases s
  · rw [if_neg Bool.false_ne_true, if_neg Bool.false_ne_true, one_mul, Int.cast_natCast]
    exact hnear.imp_right fun h => ⟨h.1, by omega⟩
  · rw [if_pos rfl, if_pos rfl]
    push_cast
    rw [show -1 * X - -(b : ℚ) = -(X - b) by ring, abs_neg]
    exact hnear.imp_right fun h => ⟨h.1, by omega⟩

-- The exponent byte

/-- A nonzero value lies in the binade of its leading bit. -/
theorem size_binade {v : FVal} (h : fvNonzero v = true) : (2 : ℚ) ^ fvTop v ≤ size v ∧ size v < 2 ^ (fvTop v + 1) := by
  cases v with
  | nan => cases h
  | inf s => cases h
  | num s m e =>
    have hm : 0 < m := Nat.pos_of_ne_zero (by simpa [fvNonzero] using h)
    exact binade_of_log2 (st := false) (d := 0) hm ⟨le_rfl, one_pos, by simp⟩ (by rw [size_num, add_zero])

theorem size_zero {s : Bool} {m : Nat} {e : Int} (h : fvNonzero (.num s m e) = false) : size (.num s m e) = 0 := by
  obtain rfl : m = 0 := by simpa [fvNonzero] using h
  simp [size]

/-- The group's top is the largest of its values' tops. -/
theorem groupTop_spec (vs : List FVal) :
    (∀ v ∈ vs, fvNonzero v = true → fvTop v ≤ groupTop vs) ∧
      (groupTop vs = -127 ∨ ∃ v ∈ vs, fvNonzero v = true ∧ fvTop v = groupTop vs) := by
  unfold groupTop
  dsimp only
  generalize hts : (vs.filter fvNonzero).map fvTop = tops
  have hmem : ∀ t, t ∈ tops ↔ ∃ v ∈ vs, fvNonzero v = true ∧ fvTop v = t := fun t => by
    rw [← hts]
    simp [and_assoc]
  cases tops with
  | nil => exact ⟨fun v hv hn => absurd ((hmem _).mpr ⟨v, hv, hn, rfl⟩) (by simp), .inl rfl⟩
  | cons t ts =>
    obtain ⟨hin, hmax⟩ := List.max?_eq_some_iff.mp (List.max?_cons' (x := t) (xs := ts))
    exact ⟨fun v hv hn => hmax _ ((hmem _).mpr ⟨v, hv, hn, rfl⟩), .inr ((hmem _).mp hin)⟩

/-- The exponent byte of R166 before any step up. -/
theorem topByte_groupTop {vs : List FVal} (hfin : ∀ v ∈ vs, ∃ neg m e, v = .num neg m e) :
    topByte vs (min (max (groupTop vs + 127) 0) 254).toNat := by
  obtain ⟨hmax, hmem⟩ := groupTop_spec vs
  obtain ⟨x, hx⟩ : ∃ x, x = (min (max (groupTop vs + 127) 0) 254).toNat := ⟨_, rfl⟩
  rw [← hx]
  refine ⟨by omega, fun hlt v hv => ?_, fun hpos => ?_⟩
  · cases hn : fvNonzero v with
    | false =>
      obtain ⟨s, m, e, rfl⟩ := hfin v hv
      rw [size_zero hn]
      positivity
    | true =>
      have htop := hmax v hv hn
      exact (size_binade hn).2.trans_le (zpow_le_zpow_right₀ (by norm_num) (by omega))
  · obtain h | ⟨v, hv, hn, htop⟩ := hmem
    · omega
    · exact ⟨v, hv, (zpow_le_zpow_right₀ (by norm_num) (by omega)).trans (size_binade hn).1⟩

/-- The integers of a group of finite values under an exponent byte. -/
theorem alignedTo_roundInt (d : Nat) {vs : List FVal} (x : Nat) (hfin : ∀ v ∈ vs, ∃ neg m e, v = .num neg m e) :
    alignedTo d vs x (vs.map fun v => roundInt v (127 + d - 2 - x)) := by
  refine ⟨List.length_map _, fun e he => ?_⟩
  obtain ⟨v, hv, rfl⟩ : ∃ v ∈ vs, e = (v, roundInt v (127 + d - 2 - x)) := by
    rw [← List.map_prod_left_eq_zip, List.mem_map] at he
    obtain ⟨v, hv, rfl⟩ := he
    exact ⟨v, hv, rfl⟩
  obtain ⟨s, m, k, rfl⟩ := hfin v hv
  exact nearestInt_roundInt ..

/-- A group with a NaN or an infinity (R166). -/
theorem planeEncode_special (d : Nat) {vs : List FVal} (h : ∃ v ∈ vs, v = .nan ∨ ∃ neg, v = .inf neg) :
    planeEncode d vs = (255, vs.map fun _ => 0) := by
  refine if_pos (List.any_eq_true.mpr ?_)
  obtain ⟨v, hv, rfl | ⟨neg, rfl⟩⟩ := h
  · exact ⟨_, hv, rfl⟩
  · exact ⟨_, hv, rfl⟩

/-- A group of finite values: the exponent byte goes up where an element rounds to 2^(D − 1), and 254 clamps (R166). -/
theorem planeEncode_finite (d : Nat) {vs : List FVal} (hfin : ∀ v ∈ vs, ∃ neg m e, v = .num neg m e) :
    ∃ x q, topByte vs x ∧ alignedTo d vs x q ∧
      ((∀ t ∈ q, t ≠ 2 ^ (d - 1)) → planeEncode d vs = (x, q)) ∧
      (2 ^ (d - 1) ∈ q → x < 254 → ∃ q', alignedTo d vs (x + 1) q' ∧ planeEncode d vs = (x + 1, q')) ∧
      (2 ^ (d - 1) ∈ q → x = 254 → planeEncode d vs = (254, q.map fun t => min t (2 ^ (d - 1) - 1))) := by
  have hany : ¬vs.any (fun v => !fvFinite v) = true := by
    rw [List.any_eq_true]
    rintro ⟨v, hv, hn⟩
    obtain ⟨s, m, e, rfl⟩ := hfin v hv
    cases hn
  refine ⟨_, _, topByte_groupTop hfin, alignedTo_roundInt d _ hfin, ?_⟩
  unfold planeEncode
  rw [if_neg hany]
  dsimp only
  generalize (min (max (groupTop vs + 127) 0) 254).toNat = x
  have hin : ∀ q : List Int, q.any (fun t => t == 2 ^ (d - 1)) = true ↔ 2 ^ (d - 1) ∈ q := fun q => by simp
  refine ⟨fun h => ?_, fun h hx => ⟨_, alignedTo_roundInt d (x + 1) hfin, ?_⟩, fun h hx => ?_⟩
  · rw [if_neg ((hin _).not.mpr fun hm => h _ hm rfl)]
  · rw [if_pos ((hin _).mpr h), if_pos hx]
  · rw [if_pos ((hin _).mpr h), if_neg (by omega), hx]

end Sys2Proof.Machine
end

section
/-! SUPPORT. O7: values read into lanes are exact in FP32 (spec/04 R50, R62, spec/10 R168). -/

namespace Sys2Proof.Machine

open Sys2Proof.Terms

theorem mag_lt_succ (f : FFmt) (n : Nat) : mag f n < mag f (n + 1) := by
  obtain ⟨c, t, rfl, ht, hc⟩ := exists_binade f n
  rw [mag_binade hc ht.le, Nat.add_assoc, mag_binade (hc.imp_right fun h => by omega) (by omega)]
  push_cast
  exact mul_lt_mul_of_pos_right (by linarith) (by positivity)

theorem fp32_maxBits : fp32.maxBits = 255 * 2 ^ 23 - 1 := by decide

/-- Reals of up to 24 bits in the range of FP32 are values of it. -/
theorem exists_fp32 {m : Nat} {e : Int} (hm : 0 < m) (hbits : m < 2 ^ 24) (he : -149 ≤ e) (htop : e + Nat.log2 m ≤ 127) :
    ∃ n ≤ fp32.maxBits, mag fp32 n = m * 2 ^ e := by
  have hlo : 2 ^ Nat.log2 m ≤ m := Nat.log2_self_le hm.ne'
  have hhi : m < 2 ^ (Nat.log2 m + 1) := Nat.lt_log2_self
  have hL : Nat.log2 m ≤ 23 := Nat.le_of_lt_succ ((Nat.log2_lt hm.ne').mpr hbits)
  generalize Nat.log2 m = L at *
  by_cases hnormal : -126 ≤ e + L
  · obtain ⟨c, hc⟩ : ∃ c : Nat, (c : Int) = e + L + 126 := ⟨(e + L + 126).toNat, by omega⟩
    have ht : 2 ^ 23 ≤ m * 2 ^ (23 - L) := by
      calc 2 ^ 23 = 2 ^ L * 2 ^ (23 - L) := by rw [← pow_add, Nat.add_sub_cancel' hL]
        _ ≤ m * 2 ^ (23 - L) := Nat.mul_le_mul_right _ hlo
    have ht' : m * 2 ^ (23 - L) < 2 ^ 24 := by
      calc m * 2 ^ (23 - L) < 2 ^ (L + 1) * 2 ^ (23 - L) := Nat.mul_lt_mul_of_pos_right hhi (by positivity)
        _ = 2 ^ 24 := by rw [← pow_add]; congr 1; omega
    refine ⟨c * 2 ^ 23 + m * 2 ^ (23 - L), ?_, ?_⟩
    · rw [fp32_maxBits]
      omega
    · refine (mag_binade (f := fp32) (.inr ht) (by change _ ≤ 2 * 2 ^ 23; omega)).trans ?_
      have hexp : (c : Int) + fp32.emin - (23 : Nat) = e - (23 - L : Nat) := by
        change (c : Int) + (1 - 127) - 23 = _
        omega
      push_cast
      rw [show fp32.frac = 23 from rfl, hexp, zpow_sub₀ (by norm_num), zpow_natCast]
      field_simp
  · have ht : m * 2 ^ (e + 149).toNat < 2 ^ 23 := by
      calc m * 2 ^ (e + 149).toNat < 2 ^ (L + 1) * 2 ^ (e + 149).toNat := Nat.mul_lt_mul_of_pos_right hhi (by positivity)
        _ ≤ 2 ^ 23 := by rw [← pow_add]; exact Nat.pow_le_pow_right (by norm_num) (by omega)
    refine ⟨0 * 2 ^ 23 + m * 2 ^ (e + 149).toNat, ?_, ?_⟩
    · rw [fp32_maxBits, Nat.zero_mul, Nat.zero_add]
      exact ht.le.trans (by norm_num)
    · refine (mag_binade (f := fp32) (.inl rfl) (by change _ ≤ 2 * 2 ^ 23; omega)).trans ?_
      have hexp : (2 : ℚ) ^ e = 2 ^ (e + 149).toNat * 2 ^ (((0 : Nat) : Int) + fp32.emin - fp32.frac) := by
        rw [← zpow_natCast, ← zpow_add₀ (by norm_num)]
        congr 1
        change e = _ + (((0 : Nat) : Int) + (1 - 127) - 23)
        omega
      rw [hexp]
      push_cast
      ring

/-- A value of FP32 rounds to itself. -/
theorem roundRne_exact {neg : Bool} {m n : Nat} {e : Int} (hm : 0 < m) (hn : n ≤ fp32.maxBits) (hmag : mag fp32 n = m * 2 ^ e) :
    (roundRne fp32 (exOk (.num neg m e))).bits = (if neg then 2 ^ 31 else 0) + n := by
  have hf : fp32.proper := ⟨by decide, by decide⟩
  have hx : exOk (.num neg m e) = ⟨.real neg m e false, 0⟩ := by simp [exOk, FVal.exact, hm.ne']
  obtain ⟨-, hend⟩ := roundWith_real_ends hf (m := rneMod) (r := 0) (neg := neg) (n := 0) (lo := n) (st := false) (k := m) (e := e)
    (x := mag fp32 n) ⟨hm, hmag⟩ le_rfl (mag_lt_succ _ _)
  rw [away_exact _ _ _ _ (mag_lt_succ _ _)] at hend
  rw [roundRne, hx]
  exact (hend hn).1

/-- So the pattern stands for it. -/
theorem isValue_roundRne {neg : Bool} {m : Nat} {e : Int} (hbits : m < 2 ^ 24) (he : -149 ≤ e) (htop : e + Nat.log2 m ≤ 127) :
    isValue (roundRne fp32 (exOk (.num neg m e))).bits neg (signedSize (.num neg m e)) := by
  by_cases hm : m = 0
  · subst hm
    have hzero : exOk (.num neg 0 e) = ⟨.zero neg, 0⟩ := rfl
    rw [signedSize_eq_zero.mpr rfl, hzero, roundRne, roundWith_zero]
    cases neg
    · exact ⟨0, -149, rfl, signedSize_eq_zero.mpr rfl⟩
    · exact ⟨0, -149, rfl, signedSize_eq_zero.mpr rfl⟩
  · have hpos := Nat.pos_of_ne_zero hm
    obtain ⟨n, hn, hmag⟩ := exists_fp32 hpos hbits he htop
    rw [roundRne_exact hpos hn hmag]
    have hmax : n < 2 ^ 31 := lt_of_le_of_lt hn (by decide)
    have hmod : ((if neg = true then 2 ^ 31 else 0) + n) % fp32.signBit = n := by
      change _ % 2 ^ 31 = n
      split <;> omega
    have hsign : decide (fp32.signBit ≤ (if neg = true then 2 ^ 31 else 0) + n) = neg := by
      change decide (2 ^ 31 ≤ _) = neg
      cases neg
      · simpa using hmax
      · simp
    obtain ⟨m', e', hval, hsize⟩ := valOf_finite (f := fp32) ⟨by decide, by decide⟩ (b := (if neg = true then 2 ^ 31 else 0) + n)
      (by change _ < 2 * 2 ^ 31; split <;> omega) (by rw [hmod]; exact hn)
    rw [hsign] at hval
    refine ⟨m', e', hval, ?_⟩
    rw [signedSize_num, signedSize_num, hsize, hmod, hmag]

end Sys2Proof.Machine
end

section
/-! SUPPORT. O7: the conversions of the natural windows (spec/04 R61 to R63, spec/10 R168). -/

namespace Sys2Proof.Machine

open Sys2Proof.Terms

-- The floating windows

/-- The formats of the floating natural windows (R163). -/
def windowFormats : List FFmt := [e4m3, e5m2, bf16]

theorem proper_of_windowFormats {f : FFmt} (h : f ∈ windowFormats) : f.proper := by
  refine proper_of_mem ?_
  simp only [windowFormats, List.mem_cons, List.not_mem_nil, or_false] at h ⊢
  tauto

/-- A finite value of such a format lies in FP32. -/
theorem valOf_window {f : FFmt} (hf : f ∈ windowFormats) {c : Nat} (hc : c < 2 * f.signBit) (hn : c % f.signBit ≤ f.maxBits) :
    ∃ m e, valOf f c = .num (decide (f.signBit ≤ c)) m e ∧ (m : ℚ) * 2 ^ e = mag f (c % f.signBit) ∧ m < 2 ^ 8 ∧ -133 ≤ e ∧ e ≤ 120 := by
  have hsmall : f.frac ≤ 7 ∧ -126 ≤ f.emin ∧ (f.maxBits / 2 ^ f.frac : Nat) - (f.bias : Int) - f.frac ≤ 120 ∧ -126 ≤ (1 : Int) - f.bias ∧
      f.emin - f.frac ≤ 120 := by
    simp only [windowFormats, List.mem_cons, List.not_mem_nil, or_false] at hf
    obtain rfl | rfl | rfl := hf <;> decide
  obtain ⟨hfrac, hemin, htop, hbias, hsub⟩ := hsmall
  have hF : 2 ^ f.frac ≤ 2 ^ 7 := Nat.pow_le_pow_right (by norm_num) hfrac
  have hval := valOf_eq (proper_of_windowFormats hf) hc
  dsimp only at hval
  rw [if_neg hn.not_gt] at hval
  rw [mag]
  have hdiv : c % f.signBit / 2 ^ f.frac ≤ f.maxBits / 2 ^ f.frac := Nat.div_le_div_right hn
  generalize c % f.signBit = n at *
  split at hval
  · next hlt =>
    refine ⟨_, _, hval, (if_pos hlt).symm, by omega, by omega, by omega⟩
  · next hge =>
    have hmod := Nat.mod_lt n (Nat.two_pow_pos f.frac)
    have hpos : 1 ≤ n / 2 ^ f.frac := (Nat.one_le_div_iff (Nat.two_pow_pos _)).mpr (by omega)
    refine ⟨_, _, hval, (if_neg hge).symm, by omega, by omega, by omega⟩

/-- A finite value is read exactly (R168). -/
theorem isValue_window {f : FFmt} (hf : f ∈ windowFormats) {c : Nat} (hc : c < 2 * f.signBit) (hn : c % f.signBit ≤ f.maxBits) :
    isValue (roundRne fp32 (exOk (valOf f c))).bits (decide (f.signBit ≤ c))
      (if decide (f.signBit ≤ c) = true then -mag f (c % f.signBit) else mag f (c % f.signBit)) := by
  obtain ⟨m, e, hval, hmag, hm, hlo, hhi⟩ := valOf_window hf hc hn
  have hlog : Nat.log2 m ≤ 7 := by
    by_cases h0 : m = 0
    · subst h0
      decide
    · exact Nat.le_of_lt_succ ((Nat.log2_lt h0).mpr hm)
  have h := isValue_roundRne (neg := decide (f.signBit ≤ c)) (m := m) (e := e) (by omega) (by omega) (by omega)
  rw [signedSize_num, hmag] at h
  rw [hval]
  convert h using 1
  split <;> ring

-- Codes of blocks

/-- The type of a block by the top bits of its scale byte (R61). -/
def blockTyOf (k : Nat) : BlockTy := blockTy (64 * k)

theorem blockTy_eq {scale : Nat} (h : scale < 256) : blockTy scale = blockTyOf (scale / 64) ∧ scale / 64 < 4 := by
  have hk : scale / 64 < 4 := by omega
  refine ⟨?_, hk⟩
  have : 64 * (scale / 64) / 64 = scale / 64 := by omega
  unfold blockTyOf blockTy
  rw [this]

/-- The table of R62, doubled. -/
theorem codeVal2_table : ((List.range 4).map fun k => (List.range 16).map (codeVal2 (blockTyOf k))) =
    [[0, 2, 4, 6, 8, 10, 12, 14, -16, -14, -12, -10, -8, -6, -4, -2],
     [0, 1, 2, 3, 4, 6, 8, 12, 0, -1, -2, -3, -4, -6, -8, -12],
     [0, 2, 4, 8, 16, 32, 64, 128, 0, -2, -4, -8, -16, -32, -64, -128],
     [0, 2, 4, 6, 8, 12, 16, 32, 0, -2, -4, -6, -8, -12, -16, -32]] := by
  decide

theorem codeValues_eq :
    codeValues = ((List.range 4).map fun k => (List.range 16).map (codeVal2 (blockTyOf k))).map fun l => l.map fun v : Int => (v : ℚ) / 2 := by
  rw [codeVal2_table]
  norm_num [codeValues]

theorem codeValue_eq {scale c : Nat} (h : scale < 256) (hc : c < 16) : codeValue scale c = (codeVal2 (blockTy scale) c : ℚ) / 2 := by
  obtain ⟨hty, hk⟩ := blockTy_eq h
  rw [codeValue, codeValues_eq, hty, List.getElem?_map, List.getElem?_map, List.getElem?_range hk]
  dsimp only [Option.map_some, Option.bind_some]
  rw [List.getElem?_map, List.getElem?_map, List.getElem?_range hc]
  rfl

theorem codeVal2_natAbs : ∀ k < 4, ∀ c < 16, (codeVal2 (blockTyOf k) c).natAbs ≤ 128 := by
  decide

/-- A code is read exactly (R62, R168). -/
theorem isValue_code {scale c : Nat} (h : scale < 256) (hc : c < 16) (hs : scale % 64 ≠ 63) :
    isValue (decRead 8 scale c) (decide (codeValue scale c < 0)) (codeValue scale c * 2 ^ (((scale % 64 : Nat) : Int) - 32)) := by
  have hval : blockVal scale c = .num (decide (codeVal2 (blockTy scale) c < 0)) (codeVal2 (blockTy scale) c).natAbs ((scale % 64 : Nat) - 33) := by
    unfold blockVal
    rw [if_neg hs, Nat.mod_eq_of_lt hc]
  have hsmall : (codeVal2 (blockTy scale) c).natAbs ≤ 128 := by
    obtain ⟨hty, hk⟩ := blockTy_eq h
    rw [hty]
    exact codeVal2_natAbs _ hk c hc
  rw [codeValue_eq h hc]
  change isValue (roundRne fp32 (exOk (blockVal scale c))).bits _ _
  rw [hval]
  generalize codeVal2 (blockTy scale) c = v at *
  have hlog : Nat.log2 v.natAbs ≤ 7 := by
    by_cases h0 : v.natAbs = 0
    · rw [h0]
      decide
    · exact Nat.le_of_lt_succ ((Nat.log2_lt h0).mpr (by omega))
  have hdone := isValue_roundRne (neg := decide (v < 0)) (m := v.natAbs) (e := (scale % 64 : Nat) - 33) (by omega) (by omega) (by omega)
  have hneg : decide ((v : ℚ) / 2 < 0) = decide (v < 0) := by
    refine decide_eq_decide.2 ?_
    rw [div_lt_iff₀ (by norm_num), zero_mul, Int.cast_lt_zero]
  rw [hneg]
  convert hdone using 1
  have habs : (v : ℚ) = (if decide (v < 0) = true then -1 else 1) * (v.natAbs : ℚ) := by
    by_cases hv : v < 0
    · rw [if_pos (decide_eq_true hv), Nat.cast_natAbs, abs_of_neg hv]
      push_cast
      ring
    · rw [if_neg (by simp [hv]), Nat.cast_natAbs, abs_of_nonneg (not_lt.mp hv), one_mul]
  rw [signedSize_num, ← mul_assoc, ← habs, show (((scale % 64 : Nat) : Int) - 32) = ((scale % 64 : Nat) - 33) + 1 by ring,
    zpow_add_one₀ (by norm_num)]
  ring

end Sys2Proof.Machine
end

section
/-! SUPPORT. O7: the encoding of a value into a code (spec/04 R63). -/

namespace Sys2Proof.Machine

open Sys2Proof.Terms

-- The codes of a type

theorem blockTy_cases {scale : Nat} (h : scale < 256) :
    blockTy scale = .s4 ∧ scale < 64 ∨ (blockTy scale = .e2m1 ∨ blockTy scale = .p4 ∨ blockTy scale = .h4) ∧ ¬scale < 64 := by
  obtain ⟨hty, hk⟩ := blockTy_eq h
  have hof : ∀ k < 4, blockTyOf k = .s4 ∧ k = 0 ∨ (blockTyOf k = .e2m1 ∨ blockTyOf k = .p4 ∨ blockTyOf k = .h4) ∧ k ≠ 0 := by decide
  rw [hty]
  exact (hof _ hk).imp (fun h => ⟨h.1, by omega⟩) fun h => ⟨h.1, by omega⟩

/-- The most negative code (R63). -/
def lowCode (scale : Nat) : Nat := if scale < 64 then 8 else 15

/-- The codes that encoding chooses from, beside 0 (R63). -/
def someCodes (scale : Nat) : List Nat :=
  if scale < 64 then [1, 2, 3, 4, 5, 6, 7, 8, 9, 10, 11, 12, 13, 14, 15] else [1, 2, 3, 4, 5, 6, 7, 9, 10, 11, 12, 13, 14, 15]

theorem mem_someCodes {scale d : Nat} : d ∈ 0 :: someCodes scale ↔ d < 16 ∧ (64 ≤ scale → d ≠ 8) := by
  unfold someCodes
  split
  · simp only [List.mem_cons, List.not_mem_nil, or_false]
    omega
  · simp only [List.mem_cons, List.not_mem_nil, or_false]
    omega

theorem blockEncode_special {scale : Nat} {x : FVal} (h : scale % 64 = 63 ∨ x = .nan) : (blockEncode scale x).1 = 0 := by
  unfold blockEncode
  dsimp only
  split
  · rfl
  · next hs =>
    rw [h.resolve_left hs]

theorem blockEncode_inf {scale : Nat} (h : scale < 256) (hs : scale % 64 ≠ 63) (neg : Bool) :
    (blockEncode scale (.inf neg)).1 = if neg then lowCode scale else 7 := by
  unfold blockEncode lowCode
  dsimp only
  rw [if_neg hs]
  obtain ⟨hb, hl⟩ | ⟨hb | hb | hb, hl⟩ := blockTy_cases h <;> rw [hb] <;> simp only [hl, if_true, if_false]

theorem blockEncode_num {scale : Nat} (h : scale < 256) (hs : scale % 64 ≠ 63) (s : Bool) (m : Nat) (e : Int) :
    (blockEncode scale (.num s m e)).1 =
      let e1 := e - ((scale % 64 : Nat) - 32) + 1
      if m = 0 then 0 else if e1 + Nat.log2 m > 12 then (if s then lowCode scale else 7)
      else (someCodes scale).foldl (betterCode (blockTy scale) (scaled s m e1 (min e1 0)) ((2 ^ (-(min e1 0)).toNat : Nat) : Int)) 0 := by
  unfold blockEncode lowCode someCodes
  dsimp only
  rw [if_neg hs]
  split
  · rfl
  · split
    · obtain ⟨hb, hl⟩ | ⟨hb | hb | hb, hl⟩ := blockTy_cases h <;> rw [hb] <;> simp only [hl, if_true, if_false]
    · obtain ⟨hb, hl⟩ | ⟨hb | hb | hb, hl⟩ := blockTy_cases h <;> rw [hb] <;> simp only [hl, if_true, if_false]

-- The better code

/-- How far a code is from y2 / u, twice the value to be encoded, and then whether its magnitude index is odd. -/
def codeKey (t : BlockTy) (y2 u : Int) (c : Nat) : Nat := 2 * (y2 - codeVal2 t c * u).natAbs + c % 2

theorem magIndex_parity : ∀ k < 4, ∀ c < 16, magIndex (blockTyOf k) c % 2 = c % 2 := by
  decide

theorem betterCode_eq {scale : Nat} (h : scale < 256) (y2 u : Int) {best c : Nat} (hb : best < 16) (hc : c < 16) :
    betterCode (blockTy scale) y2 u best c =
      if codeKey (blockTy scale) y2 u c < codeKey (blockTy scale) y2 u best then c else best := by
  obtain ⟨hty, hk⟩ := blockTy_eq h
  rw [hty]
  unfold betterCode codeKey
  dsimp only
  rw [magIndex_parity _ hk _ hb, magIndex_parity _ hk _ hc]
  congr 1
  exact propext (by omega)

/-- The code chosen has the least key. -/
theorem foldl_betterCode {scale : Nat} (h : scale < 256) (y2 u : Int) (cs : List Nat) (b : Nat) (hcs : ∀ c ∈ b :: cs, c < 16) :
    cs.foldl (betterCode (blockTy scale) y2 u) b ∈ b :: cs ∧
      ∀ d ∈ b :: cs, codeKey (blockTy scale) y2 u (cs.foldl (betterCode (blockTy scale) y2 u) b) ≤ codeKey (blockTy scale) y2 u d := by
  induction cs generalizing b with
  | nil => simp
  | cons c cs ih =>
    rw [List.foldl_cons, betterCode_eq h y2 u (hcs b (by simp)) (hcs c (by simp))]
    split
    · next hlt =>
      obtain ⟨hin, hmin⟩ := ih c fun d hd => hcs d (by simp at hd ⊢; tauto)
      refine ⟨List.mem_cons_of_mem _ hin, fun d hd => ?_⟩
      obtain rfl | hd := List.mem_cons.mp hd
      · exact (hmin c (by simp)).trans hlt.le
      · exact hmin d hd
    · next hge =>
      obtain ⟨hin, hmin⟩ := ih b fun d hd => hcs d (by simp at hd ⊢; tauto)
      refine ⟨by simp at hin ⊢; tauto, fun d hd => ?_⟩
      simp only [List.mem_cons] at hd
      obtain rfl | rfl | hd := hd
      · exact hmin d (by simp)
      · exact (hmin b (by simp)).trans (not_lt.mp hge)
      · exact hmin d (by simp [hd])

-- Codes between codes

/-- Between two codes of odd magnitude index lies a third. -/
theorem code_between_odd : ∀ k < 4, ∀ c ∈ [1, 3, 5, 7, 9, 11, 13, 15], ∀ d ∈ [1, 3, 5, 7, 9, 11, 13, 15], c ≠ d →
    ∃ b ∈ [0, 2, 4, 6, 10, 12, 14],
      codeVal2 (blockTyOf k) c < codeVal2 (blockTyOf k) b ∧ codeVal2 (blockTyOf k) b < codeVal2 (blockTyOf k) d ∨
      codeVal2 (blockTyOf k) d < codeVal2 (blockTyOf k) b ∧ codeVal2 (blockTyOf k) b < codeVal2 (blockTyOf k) c := by
  decide

theorem code_between {scale c d : Nat} (h : scale < 256) (hc : c < 16) (hd : d < 16) (hco : c % 2 = 1) (hdo : d % 2 = 1) (hne : c ≠ d) :
    ∃ b ∈ 0 :: someCodes scale,
      codeVal2 (blockTy scale) c < codeVal2 (blockTy scale) b ∧ codeVal2 (blockTy scale) b < codeVal2 (blockTy scale) d ∨
      codeVal2 (blockTy scale) d < codeVal2 (blockTy scale) b ∧ codeVal2 (blockTy scale) b < codeVal2 (blockTy scale) c := by
  obtain ⟨hty, hk⟩ := blockTy_eq h
  have hodd : ∀ n < 16, n % 2 = 1 → n ∈ [1, 3, 5, 7, 9, 11, 13, 15] := by decide
  have heven : ∀ n ∈ [0, 2, 4, 6, 10, 12, 14], n < 16 ∧ n ≠ 8 := by decide
  obtain ⟨b, hb, hlt⟩ := code_between_odd _ hk c (hodd c hc hco) d (hodd d hd hdo) hne
  rw [hty]
  exact ⟨b, mem_someCodes.mpr ⟨(heven b hb).1, fun _ => (heven b hb).2⟩, hlt⟩

/-- The code of least key is the encoding (R63). -/
theorem encodes_of_least {scale code : Nat} (h : scale < 256) {y2 u : Int} (hu : 0 < u) (hin : code ∈ 0 :: someCodes scale)
    (hmin : ∀ d ∈ 0 :: someCodes scale, codeKey (blockTy scale) y2 u code ≤ codeKey (blockTy scale) y2 u d) {d : Nat}
    (hd : d ∈ 0 :: someCodes scale) (hne : d ≠ code) :
    (y2 - codeVal2 (blockTy scale) code * u).natAbs < (y2 - codeVal2 (blockTy scale) d * u).natAbs ∨
      (y2 - codeVal2 (blockTy scale) code * u).natAbs = (y2 - codeVal2 (blockTy scale) d * u).natAbs ∧ code % 2 = 0 := by
  have hkey := hmin d hd
  unfold codeKey at hkey
  by_cases heq : (y2 - codeVal2 (blockTy scale) code * u).natAbs = (y2 - codeVal2 (blockTy scale) d * u).natAbs
  · refine .inr ⟨heq, ?_⟩
    by_contra hodd
    obtain ⟨b, hb, hbetween⟩ := code_between h (mem_someCodes.mp hin).1 (mem_someCodes.mp hd).1 (by omega) (by omega) hne.symm
    have hb := hmin b hb
    unfold codeKey at hb
    have hmul : ∀ {v w : Int}, v < w → v * u < w * u := fun hvw => Int.mul_lt_mul_of_pos_right hvw hu
    have hbetween := hbetween.imp (fun h => And.intro (hmul h.1) (hmul h.2)) fun h => And.intro (hmul h.1) (hmul h.2)
    omega
  · exact .inl (by omega)

-- The encoding as rationals

/-- An encoding, from twice the value and the codes' doubled values. -/
theorem encodes_of_doubled {scale code : Nat} {y : ℚ} (h : scale < 256) (hin : code ∈ 0 :: someCodes scale)
    (hnear : ∀ d ∈ 0 :: someCodes scale, d ≠ code →
      |2 * y - codeVal2 (blockTy scale) code| < |2 * y - codeVal2 (blockTy scale) d| ∨
        |2 * y - codeVal2 (blockTy scale) code| = |2 * y - codeVal2 (blockTy scale) d| ∧ code % 2 = 0) :
    encodes scale y code := by
  obtain ⟨hc, h8⟩ := mem_someCodes.mp hin
  refine ⟨hc, h8, fun d hd hd8 hne => ?_⟩
  have hhalf : ∀ v : ℚ, |y - v / 2| = |2 * y - v| / 2 := fun v => by
    rw [← abs_of_pos (show (0 : ℚ) < 2 by norm_num), ← abs_div, abs_of_pos (show (0 : ℚ) < 2 by norm_num)]
    congr 1
    ring
  rw [codeValue_eq h hc, codeValue_eq h hd, hhalf, hhalf, div_lt_div_iff_of_pos_right (by norm_num), div_left_inj' (by norm_num)]
  exact hnear d (mem_someCodes.mpr ⟨hd, hd8⟩) hne

end Sys2Proof.Machine
end

section
/-! SUPPORT. O7: what a value written to a block becomes (spec/04 R63, spec/10 R168). -/

namespace Sys2Proof.Machine

open Sys2Proof.Terms

section Codes

variable {scale d : Nat} (h : scale < 256) (hd : d ∈ 0 :: someCodes scale)

include h hd

theorem codeVal2_ne_zero (hne : d ≠ 0) : codeVal2 (blockTy scale) d ≠ 0 := by
  have hall : ∀ k < 4, ∀ d < 16, (k = 0 ∨ d ≠ 8) → d ≠ 0 → codeVal2 (blockTyOf k) d ≠ 0 := by decide
  obtain ⟨hty, hk⟩ := blockTy_eq h
  obtain ⟨hd16, hd8⟩ := mem_someCodes.mp hd
  rw [hty]
  exact hall _ hk d hd16 (by omega) hne

theorem codeVal2_lt_top (hne : d ≠ 7) : codeVal2 (blockTy scale) d < codeVal2 (blockTy scale) 7 := by
  have hall : ∀ k < 4, ∀ d < 16, d ≠ 7 → codeVal2 (blockTyOf k) d < codeVal2 (blockTyOf k) 7 := by decide
  obtain ⟨hty, hk⟩ := blockTy_eq h
  rw [hty]
  exact hall _ hk d (mem_someCodes.mp hd).1 hne

theorem lowCode_lt_codeVal2 (hne : d ≠ lowCode scale) : codeVal2 (blockTy scale) (lowCode scale) < codeVal2 (blockTy scale) d := by
  have hall : ∀ k < 4, ∀ d < 16, d ≠ (if k = 0 then 8 else 15) →
      codeVal2 (blockTyOf k) (if k = 0 then 8 else 15) < codeVal2 (blockTyOf k) d := by decide
  obtain ⟨hty, hk⟩ := blockTy_eq h
  have hlow : lowCode scale = if scale / 64 = 0 then 8 else 15 := by
    unfold lowCode
    exact if_congr (by omega) rfl rfl
  rw [hlow] at hne ⊢
  rw [hty]
  exact hall _ hk d (mem_someCodes.mp hd).1 hne

theorem codeVal2_bounds : -128 ≤ codeVal2 (blockTy scale) d ∧ codeVal2 (blockTy scale) d ≤ 128 := by
  obtain ⟨hty, hk⟩ := blockTy_eq h
  have := codeVal2_natAbs _ hk d (mem_someCodes.mp hd).1
  rw [hty]
  omega

end Codes

/-- A value beyond all codes takes the one at its end (R63). -/
theorem encodes_beyond {scale : Nat} {y : ℚ} (h : scale < 256) :
    (128 < 2 * y → encodes scale y 7) ∧ (2 * y < -128 → encodes scale y (lowCode scale)) := by
  have h7 : 7 ∈ 0 :: someCodes scale := mem_someCodes.mpr ⟨by norm_num, by norm_num⟩
  have hl : lowCode scale ∈ 0 :: someCodes scale := by
    rw [mem_someCodes]
    unfold lowCode
    split <;> omega
  have hcast : ∀ d ∈ 0 :: someCodes scale, (-128 : ℚ) ≤ codeVal2 (blockTy scale) d ∧ (codeVal2 (blockTy scale) d : ℚ) ≤ 128 := fun d hd => by
    exact_mod_cast codeVal2_bounds h hd
  refine ⟨fun hy => encodes_of_doubled h h7 fun d hd hne => .inl ?_, fun hy => encodes_of_doubled h hl fun d hd hne => .inl ?_⟩
  · have hlt : (codeVal2 (blockTy scale) d : ℚ) < codeVal2 (blockTy scale) 7 := by exact_mod_cast codeVal2_lt_top h hd hne
    have hb := (hcast 7 h7).2
    rw [abs_of_pos (by linarith), abs_of_pos (by linarith)]
    linarith
  · have hlt : (codeVal2 (blockTy scale) (lowCode scale) : ℚ) < codeVal2 (blockTy scale) d := by exact_mod_cast lowCode_lt_codeVal2 h hd hne
    have hb := (hcast _ hl).1
    rw [abs_of_neg (by linarith), abs_of_neg (by linarith)]
    linarith

/-- Encoding takes the nearest code (R63). -/
theorem encodes_blockEncode {scale : Nat} (h : scale < 256) (hs : scale % 64 ≠ 63) (neg : Bool) (m : Nat) (e : Int) :
    encodes scale (signedSize (.num neg m e) / 2 ^ (((scale % 64 : Nat) : Int) - 32)) (blockEncode scale (.num neg m e)).1 := by
  obtain ⟨e1, he1⟩ : ∃ e1, e1 = e - ((scale % 64 : Nat) - 32) + 1 := ⟨_, rfl⟩
  obtain ⟨y, hy⟩ : ∃ y, y = signedSize (.num neg m e) / 2 ^ (((scale % 64 : Nat) : Int) - 32) := ⟨_, rfl⟩
  have hdouble : 2 * y = signedSize (.num neg m e1) := by
    have hpow : (2 : ℚ) ^ e1 = 2 ^ e / 2 ^ (((scale % 64 : Nat) : Int) - 32) * 2 := by
      rw [he1, zpow_add_one₀ (by norm_num), ← zpow_sub₀ (by norm_num)]
    rw [hy, signedSize_num, signedSize_num, hpow]
    ring
  rw [blockEncode_num h hs, ← hy]
  dsimp only
  rw [← he1]
  split
  · next hm =>
    subst hm
    rw [signedSize_eq_zero.mpr rfl] at hdouble
    refine encodes_of_doubled h (by simp) fun d hd hne => .inl ?_
    have h0 : codeVal2 (blockTy scale) 0 = 0 := by cases blockTy scale <;> rfl
    have hd0 : (codeVal2 (blockTy scale) d : ℚ) ≠ 0 := by exact_mod_cast codeVal2_ne_zero h hd hne
    rw [hdouble, h0]
    simpa using hd0
  · next hm =>
    split
    · next hbig =>
      have hsize : (128 : ℚ) < m * 2 ^ e1 := by
        have hbin := (size_binade (v := .num false m e1) (by simpa [fvNonzero] using hm)).1
        calc (128 : ℚ) < 2 ^ (13 : Int) := by norm_num
          _ ≤ 2 ^ (e1 + (Nat.log2 m : Int)) := zpow_le_zpow_right₀ (by norm_num) (by omega)
          _ ≤ m * 2 ^ e1 := hbin
      rw [signedSize_num] at hdouble
      cases neg
      · exact (encodes_beyond h).1 (by simpa [hdouble] using hsize)
      · exact (encodes_beyond h).2 (by simpa [hdouble] using hsize)
    · obtain ⟨e0, he0⟩ : ∃ e0, e0 = min e1 0 := ⟨_, rfl⟩
      rw [← he0]
      obtain ⟨u, hu⟩ : ∃ u : Int, u = ((2 ^ (-e0).toNat : Nat) : Int) := ⟨_, rfl⟩
      obtain ⟨y2, hy2⟩ : ∃ y2, y2 = scaled neg m e1 e0 := ⟨_, rfl⟩
      rw [← hu, ← hy2]
      have hupos : 0 < u := by
        rw [hu]
        positivity
      have hunit : (u : ℚ) * 2 ^ e0 = 1 := by
        rw [hu]
        push_cast
        rw [← zpow_natCast, ← zpow_add₀ (by norm_num), show ((-e0).toNat : Int) + e0 = 0 by omega, zpow_zero]
      have hdist : ∀ v : Int, |2 * y - v| = ((y2 - v * u).natAbs : ℚ) * 2 ^ e0 := fun v => by
        have hsub : 2 * y - v = ((y2 - v * u : Int) : ℚ) * 2 ^ e0 := by
          rw [hdouble, ← scaled_eq (e0 := e0) (by omega), ← hy2]
          push_cast
          rw [sub_mul, mul_assoc, hunit, mul_one]
        rw [hsub, abs_mul, abs_of_pos (show (0 : ℚ) < 2 ^ e0 by positivity), Nat.cast_natAbs, Int.cast_abs]
      obtain ⟨hin, hmin⟩ := foldl_betterCode h y2 u (someCodes scale) 0 fun c hc => (mem_someCodes.mp hc).1
      refine encodes_of_doubled h hin fun d hd hne => ?_
      rw [hdist, hdist, mul_lt_mul_iff_left₀ (by positivity), mul_left_inj' (by positivity)]
      exact_mod_cast encodes_of_least h hupos hin hmin hd hne

end Sys2Proof.Machine
end

section
/-! SUPPORT. O7: the settlement. -/

namespace Sys2Proof.Machine

open Sys2Proof.Terms

-- Reads through the natural windows

theorem signedN_eq {n : Nat} (hn : 0 < n) (c : Nat) : signedN c n = (BitVec.ofNat n c).toInt := by
  have hpow : 2 ^ n = 2 * 2 ^ (n - 1) := by rw [← pow_succ', Nat.sub_add_cancel hn]
  rw [signedN, BitVec.toInt_eq_toNat_cond, BitVec.toNat_ofNat]
  by_cases hlow : c % 2 ^ n < 2 ^ (n - 1)
  · rw [if_pos hlow, if_pos (by omega)]
  · rw [if_neg hlow, if_neg (by omega)]
    push_cast
    rfl

theorem decRead_int4 (scale c : Nat) : decRead 12 scale c = ((BitVec.ofNat 4 c).signExtend 32).toNat := by
  change (signedN c 4 % 2 ^ 32).toNat = _
  rw [signedN_eq (by norm_num), BitVec.signExtend, BitVec.toNat_ofInt]
  rfl

theorem decRead_int8 (scale c : Nat) : decRead 13 scale c = ((BitVec.ofNat 8 c).signExtend 32).toNat := by
  change (signedN c 8 % 2 ^ 32).toNat = _
  rw [signedN_eq (by norm_num), BitVec.signExtend, BitVec.toNat_ofInt]
  rfl

theorem decRead_noScale {scale : Nat} (h : scale % 64 = 63) (c : Nat) : decRead 8 scale c = 0x7FC00000 := by
  have hnan : blockVal scale c = .nan := if_pos h
  change (roundRne fp32 (exOk (blockVal scale c))).bits = _
  rw [hnan]
  rfl

theorem lt_signBit {f : FFmt} {c : Nat} (hc : c < 2 ^ (f.ebits + f.frac + 1)) : c < 2 * f.signBit := by
  rw [FFmt.signBit, ← pow_succ']
  exact hc

section Window

variable {f : FFmt} (hf : f ∈ windowFormats) {c : Nat} (hc : c < 2 ^ (f.ebits + f.frac + 1))

include hf hc

theorem roundRne_window_inf (hi : f.hasInf = true) (hn : c % 2 ^ (f.ebits + f.frac) = f.infBits) :
    (roundRne fp32 (exOk (valOf f c))).bits = if decide (2 ^ (f.ebits + f.frac) ≤ c) = true then 0xFF800000 else 0x7F800000 := by
  have hmax : f.maxBits < f.infBits := by
    have hpos : 0 < f.infBits := by
      simp only [windowFormats, List.mem_cons, List.not_mem_nil, or_false] at hf
      obtain rfl | rfl | rfl := hf <;> decide
    rw [FFmt.maxBits, if_pos hi]
    omega
  have hbeyond : f.maxBits < c % f.signBit := by
    rw [FFmt.signBit]
    omega
  have hval := valOf_special (proper_of_windowFormats hf) (lt_signBit hc) hbeyond
  rw [if_pos ⟨hi, hn⟩] at hval
  rw [hval]
  change (roundWith fp32 rneMod 0 ⟨.inf (decide (2 ^ (f.ebits + f.frac) ≤ c)), 0⟩).bits = _
  rw [roundWith_inf]
  cases decide (2 ^ (f.ebits + f.frac) ≤ c) <;> decide

theorem roundRne_window_nan (hn : f.maxBits < c % 2 ^ (f.ebits + f.frac))
    (hno : ¬(f.hasInf = true ∧ c % 2 ^ (f.ebits + f.frac) = f.infBits)) : (roundRne fp32 (exOk (valOf f c))).bits = 0x7FC00000 := by
  have hval := valOf_special (proper_of_windowFormats hf) (lt_signBit hc) hn
  rw [FFmt.signBit, if_neg hno] at hval
  rw [hval]
  rfl

end Window

-- Writes through the natural windows

theorem decWrite_int4 (scale : Nat) (v : BitVec 32) : decWrite 12 scale v.toNat = (BitVec.ofInt 4 (max (-8) (min 7 v.toInt))).toNat := by
  change ((min (max (signedN v.toNat 32) (-8)) 7) % 16).toNat = _
  rw [signedN_toNat, BitVec.toNat_ofInt, show min (max v.toInt (-8)) 7 = max (-8) (min 7 v.toInt) by omega]
  rfl

theorem decWrite_int8 (scale : Nat) (v : BitVec 32) :
    decWrite 13 scale v.toNat = (BitVec.ofInt 8 (max (-128) (min 127 v.toInt))).toNat := by
  change ((min (max (signedN v.toNat 32) (-128)) 127) % 256).toNat = _
  rw [signedN_toNat, BitVec.toNat_ofInt, show min (max v.toInt (-128)) 127 = max (-128) (min 127 v.toInt) by omega]
  rfl

-- Plane groups

theorem signedN_low {n : Nat} (hn : 0 < n) (v : BitVec 32) : signedN v.toNat n = (v.setWidth n).toInt := by
  rw [signedN_eq hn, BitVec.ofNat_toNat]

theorem planeWrite_s8 (lanes : List (BitVec 32)) :
    planeWrite 1 (lanes.map BitVec.toNat) = (133, lanes.map fun v => (v.setWidth 8).toInt * 2 ^ 8) := by
  change (133, ((lanes.map BitVec.toNat).map fun v => signedN v 8).map fun v => v * 2 ^ 8) = _
  rw [List.map_map, List.map_map]
  exact congrArg (Prod.mk 133) (List.map_congr_left fun v _ => congrArg (· * 2 ^ 8) (signedN_low (by norm_num) v))

theorem planeWrite_s4 (lanes : List (BitVec 32)) :
    planeWrite 2 (lanes.map BitVec.toNat) = (129, lanes.map fun v => (v.setWidth 4).toInt * 2 ^ 4) := by
  change (129, ((lanes.map BitVec.toNat).map fun v => signedN v 4).map fun v => v * 2 ^ 4) = _
  rw [List.map_map, List.map_map]
  exact congrArg (Prod.mk 129) (List.map_congr_left fun v _ => congrArg (· * 2 ^ 4) (signedN_low (by norm_num) v))

theorem planeRead_int {w k : Nat} (x : Nat) (q : Int) (h : w = 1 ∧ k = 8 ∨ w = 2 ∧ k = 4) :
    planeRead w x q = (BitVec.ofInt 32 (q / 2 ^ k)).toNat := by
  rw [BitVec.toNat_ofInt]
  obtain ⟨rfl, rfl⟩ | ⟨rfl, rfl⟩ := h
  · rfl
  · rfl

theorem planeRead_float {w : Nat} (h : w = 3 ∨ w = 4 ∨ w = 5 ∨ w = 6 ∨ w = 7) {x : Nat} (hx : x < 255) (q : Int) :
    planeRead w 255 q = 0x7FC00000 ∧
      planeRead w x q = (roundWith fp32 ⟨.rne, false⟩ 0
        (exOk (.num (decide (q < 0)) q.natAbs ((x : Int) - 127 - ((if w = 3 then 8 else if w = 4 ∨ w = 5 then 16 else 32) - 2))))).bits := by
  have hx' : ¬x = 255 := by omega
  obtain rfl | rfl | rfl | rfl | rfl := h
  · exact ⟨rfl, if_neg hx'⟩
  · exact ⟨rfl, if_neg hx'⟩
  · exact ⟨rfl, if_neg hx'⟩
  · exact ⟨rfl, if_neg hx'⟩
  · exact ⟨rfl, if_neg hx'⟩

/-- Settles O7: each part by the law of its operation. -/
theorem readsSeeWrites : Obligations.ReadsSeeWrites := by
  unfold Obligations.ReadsSeeWrites
  refine ⟨?_, ?_, ?_, ?_, ?_, ?_, ?_, ?_⟩
  · intro m a n v b hm hv
    refine ⟨?_, readByte_writeLE_outside m a n v b, fun k hk => readByte_writeLE_inside hm hk a v⟩
    rw [readLE_writeLE_self hm, show (256 : Nat) = 2 ^ 8 by norm_num, ← pow_mul, Nat.mod_eq_of_lt hv]
  · intro sl v w u
    exact ⟨getX_setX sl v, getM_setM sl w, getV_setV sl u, setX_zero sl v, setM_zero sl w⟩
  · intro scale hscale
    refine ⟨fun c hc => ⟨decRead_int4 scale c, fun hs => decRead_noScale hs c, isValue_code hscale hc⟩, fun c _ => decRead_int8 scale c, ?_, ?_⟩
    · intro e he c hc n neg
      have hread : ∃ f ∈ windowFormats, e.2 = f ∧ decRead e.1 scale c = (roundRne fp32 (exOk (valOf f c))).bits := by
        simp only [List.mem_cons, List.not_mem_nil, or_false] at he
        obtain rfl | rfl | rfl := he
        · exact ⟨e4m3, by simp [windowFormats], rfl, rfl⟩
        · exact ⟨e5m2, by simp [windowFormats], rfl, rfl⟩
        · exact ⟨bf16, by simp [windowFormats], rfl, rfl⟩
      obtain ⟨f, hf, hef, hdec⟩ := hread
      rw [hdec]
      subst hef
      exact ⟨isValue_window hf (lt_signBit hc), roundRne_window_inf hf hc, roundRne_window_nan hf hc⟩
    · intro v
      refine ⟨decWrite_int4 scale v, decWrite_int8 scale v, ?_, blockEncode_special, fun neg hs hv => ?_, fun neg m e hs hv => ?_⟩
      · intro e he
        simp only [List.mem_cons, List.not_mem_nil, or_false] at he
        obtain rfl | rfl | rfl := he <;> rfl
      · exact (congrArg (fun x => (blockEncode scale x).1) hv).trans (blockEncode_inf hscale hs neg)
      · have henc := encodes_blockEncode hscale hs neg m e
        rw [← hv] at henc
        exact hv ▸ henc
  · intro m sc w o l v e byte
    refine ⟨fun hw => ?_, fun n hn => ?_⟩
    · have he : e = ⟨o + l / 2, 1, decide (l % 2 = 1)⟩ := elemAt_half hw o l
      refine ⟨by rw [he], by rw [he], by rw [he, decide_eq_true_iff], ?_, ?_⟩
      · rw [show byte = (readByte m e.off).toNat from rfl, he]
        exact readElem_half hw m sc _ _
      · rw [show byte = (readByte m e.off).toNat from rfl, he]
        exact writeElem_half hw m sc _ _ _
    · have he : e = ⟨o + n * l, n, false⟩ := elemAt_whole hn o l
      rw [he]
      exact ⟨rfl, rfl, readElem_whole hn m sc _, writeElem_whole hn m sc _ _⟩
  · intro d q hd hq hrange
    refine ⟨by simp [planesOf], fun j t ht => ?_⟩
    have hj : j < 32 := by
      rw [nth_eq_getElem?] at ht
      rw [← hq]
      exact (List.getElem?_eq_some_iff.mp ht).1
    obtain ⟨hlo, hhi⟩ := hrange t (by rw [nth_eq_getElem?] at ht; exact List.mem_of_getElem? ht)
    refine ⟨planeInt_planesOf (by omega) hj ht hlo hhi, fun p w hp => ?_⟩
    obtain ⟨hw, hbit⟩ := testBit_plane hj hp
    rw [elemBits, ht] at hbit
    exact ⟨hw, hbit⟩
  · intro d vs _
    exact ⟨planeEncode_special d, planeEncode_finite d⟩
  · intro lanes hl ns
    refine ⟨planeWrite_s8 lanes, planeWrite_s4 lanes, ?_, fun e he => ?_⟩
    · change planeEncode 8 (ns.map fun v => blockVal (ns.headD 0 / 256 % 256) (v % 16)) = _
      rw [List.map_map]
      rfl
    · simp only [List.mem_cons, List.not_mem_nil, or_false] at he
      obtain rfl | rfl | rfl | rfl := he <;> rfl
  · intro w x q hx
    exact ⟨fun _ _ => planeRead_int x q (.inl ⟨rfl, rfl⟩), fun _ _ => planeRead_int x q (.inr ⟨rfl, rfl⟩), fun hw => planeRead_float hw hx q⟩

end Sys2Proof.Machine
end

section
/-! SUPPORT. O15: mask instructions, VINS and VEXT (spec/06 R97, R107). -/

namespace Sys2Proof.Machine

open Sys2Proof.Terms

section Masks

variable {s : State}

/-- The retired state in which a mask or a scalar register has a new value. -/
def maskEnds (s : State) : (MReg × Mask32) ⊕ (XReg × Word) → State
  | .inl (a, v) => finish s (setM (curSlot s) a v) [v.setWidth 64]
  | .inr (a, v) => finish s (setX (curSlot s) a v) [v]

theorem writeMask_ends (a : MReg) (v : Mask32) : writeMask s a v = .next (maskEnds s (.inl (a, v))) := by
  rw [writeMask, retire_updCur s _ _ (setM_pc ..) (setM_ilen ..), BitVec.ofNat_toNat]
  rfl

theorem maskToX_ends {a : XReg} {b : MReg} {f : Mask32 → Nat} {v : Word} (hx : xReady s [a]) (hv : BitVec.ofNat 64 (f (getM (curSlot s) b)) = v) :
    maskToX a b f s = .next (maskEnds s (.inr (a, v))) := by
  rw [maskToX, needX_ready _ hx, retireX_eq, hv]
  rfl

theorem execMset_ends {a : MReg} {b : XReg} (hx : xReady s [b]) :
    execMset a b s = .next (maskEnds s (.inl (a, (getX (curSlot s) b).setWidth 32))) := by
  rw [execMset, needX_ready _ hx, writeMask_ends, BitVec.ofNat_toNat]

/-- The first number at which a test holds, as the first of a list that passes it. -/
theorem findFrom_eq_find? (p : Nat → Bool) (n i : Nat) : findFrom p n i = (List.range' i n).find? p := by
  induction n generalizing i with
  | zero => rfl
  | succ n ih =>
    rw [List.range'_succ, List.find?_cons, findFrom, ih]
    cases p i <;> rfl

theorem firstLane_eq (v : Mask32) :
    BitVec.ofNat 64 ((findFrom (fun i => v.getLsbD i) 32 0).getD 32) =
      (((List.range 32).find? fun i => v.getLsbD i).map fun i => BitVec.ofNat 64 i).getD 32 := by
  rw [findFrom_eq_find?, ← List.range_eq_range']
  cases (List.range 32).find? fun i => v.getLsbD i <;> rfl

/-- Each mask instruction ends with the value of its table entry (R107). -/
theorem exec_maskResult {i : Instr} {xs : List XReg} {r : (MReg × Mask32) ⊕ (XReg × Word)}
    (h : maskResult (getX (curSlot s)) (getM (curSlot s)) i = some (xs, r)) (hx : xReady s xs) : exec i s = .next (maskEnds s r) := by
  unfold maskResult at h
  split at h
  case h_1 a c b =>
    cases h
    exact (writeMask_ends .. : execMand a c b s = _)
  case h_2 a c b =>
    cases h
    exact (writeMask_ends .. : execMor a c b s = _)
  case h_3 a c b =>
    cases h
    exact (writeMask_ends .. : execMxor a c b s = _)
  case h_4 a b =>
    cases h
    exact (writeMask_ends .. : execMnot a b s = _)
  case h_5 a b =>
    cases h
    exact (execMset_ends hx : execMset a b s = _)
  case h_6 a b =>
    cases h
    exact (maskToX_ends hx (congrArg _ List.countP_eq_length_filter.symm) : execMpop a b s = _)
  case h_7 a b =>
    cases h
    exact (maskToX_ends hx (firstLane_eq _) : execMfirst a b s = _)
  case h_8 a b =>
    cases h
    exact (maskToX_ends hx (BitVec.ofNat_toNat ..) : execMget a b s = _)
  case h_9 => cases h

end Masks

section Lanes

variable {s : State} {n : Fin 32}

theorem exec_vins {a : VReg} {b : XReg} (hx : xReady s [b]) (hv : vReady s [a]) (hu : unbound s [a]) {v : Lanes}
    (hr : v = (getV (curSlot s) a).set n ((getX (curSlot s) b).setWidth 32)) :
    exec (.vins a b n) s = .next (finish s (setV (curSlot s) a v) (vecWords v)) := by
  change execVins a b n s = _
  rw [execVins, needXV_ready _ hx hv, streamFault_unbound _ [] [] [a] hu]
  dsimp only
  rw [retire_updCur s _ _ rfl rfl, BitVec.ofNat_toNat, ← hr]

/-- A lane as the scalar register that VEXT writes (R97). -/
def extracted (t : VTy) (y : Lane) : Word :=
  match t with
  | .s32 => sextN y.toNat 32
  | _ => zextN y.toNat 32

theorem extracted_eq (t : VTy) (y : Lane) : extracted t y = match t with | .s32 => y.signExtend 64 | _ => y.setWidth 64 := by
  have hs : sextN y.toNat 32 = y.signExtend 64 :=
    (extend_eq_loaded (n := 4) true y.toNat (by decide) (by decide)).trans (by simp [loaded])
  have hz : zextN y.toNat 32 = y.setWidth 64 := by rw [zextN, Nat.mod_eq_of_lt y.isLt, BitVec.ofNat_toNat]
  cases t with
  | s32 => exact hs
  | n32 => exact hz
  | f32 => exact hz

theorem exec_vext {t : VTy} {a : XReg} {b : VReg} (hx : xReady s [a]) (hv : vReady s [b]) (hu : unbound s [b]) {v : Word}
    (hr : v = extracted t (getV (curSlot s) b)[n]) : exec (.vext t a b n) s = .next (finish s (setX (curSlot s) a v) [v]) := by
  have hend : retireX (updCur s fun sl => consume sl [b]) a v = finish s (setX (curSlot s) a v) [v] := by
    have hc := consume_unbound (curSlot s) [b] hu
    rw [retireX, updCur_updCur, retire_updCur s _ _ (by rw [setX_pc, hc]) (by rw [setX_ilen, hc]), hc]
  change execVext t a b n s = _
  rw [execVext, needXV_ready _ hx hv, streamFault_unbound _ [b] [] [] hu, readSources_unbound _ _ _ hu, ← hend, hr]
  rfl

end Lanes

/-- Settles O15: the mask, lanes or word that each instruction leaves. -/
theorem maskInsertAndExtractResults : Obligations.MaskInsertAndExtractResults := by
  unfold Obligations.MaskInsertAndExtractResults
  refine fun s => ⟨fun i xs r h hx => ?_, fun a b n hx hv hu => exec_vins hx hv hu rfl, fun t a b n hx hv hu => ?_⟩
  · rw [exec_maskResult h hx]
    cases r <;> rfl
  · exact exec_vext hx hv hu (extracted_eq ..).symm

end Sys2Proof.Machine
end

section
/-! SUPPORT. Vector registers and streams of the current slot put in the place of others (O16): what requests, releases and the mail of cores
do is the same whatever they hold. -/

namespace Sys2Proof.Machine

open Sys2Proof.Terms

theorem tset_comm {α : Type} (t : Table α) {i j : Nat} (v w : α) (h : i ≠ j) : tset (tset t i v) j w = tset (tset t j w) i v := by
  induction t with
  | nil => grind [tset]
  | cons e t ih => grind [tset]

theorem setCore_comm (s : State) {x y : Nat} (c d : Core) (h : x ≠ y) : setCore (setCore s x c) y d = setCore (setCore s y d) x c := by
  simp only [setCore, tset_comm _ c d h]

section Swapped

variable (V : Vector Lanes 32) (S : Vector (Option Stream) 4)

/-- The context with other vector registers and streams. -/
def swapSlot (sl : Slot) : Slot := { sl with v := V, streams := S }

def swapCore (k : Fin 4) (c : Core) : Core := { c with slots := c.slots.set k (swapSlot V S c.slots[k]) }

/-- The core at a site, with other vector registers and streams in the slot p where that is a slot of it. -/
def swapAt (p : Nat × Fin 4) (y : Nat) (c : Core) : Core := if y = p.1 then swapCore V S p.2 c else c

/-- The machine with other vector registers and streams in the current slot. -/
def swapped (s : State) : State := updCur s (swapSlot V S)

variable {V S} {s : State} {p : Nat × Fin 4} {y : Nat} {c : Core}

@[simp] theorem swapped_cur : (swapped V S s).cur = s.cur := rfl

theorem swapped_eq : swapped V S s = setCore s s.cur.1 (swapCore V S s.cur.2 (curCore s)) := rfl

theorem getCore_swapped : getCore (swapped V S s) y = swapAt V S s.cur y (getCore s y) := by
  unfold swapAt
  split
  · next h => rw [h, swapped_eq, getCore_setCore_self]; rfl
  · next h => rw [swapped_eq, getCore_setCore_of_ne _ _ h]

theorem setCore_swapped : setCore (swapped V S s) y (swapAt V S s.cur y c) = swapped V S (setCore s y c) := by
  rw [swapped_eq, swapped_eq]
  unfold swapAt curCore
  split
  · next h => simp only [h, setCore_cur, getCore_setCore_self, setCore_setCore]
  · next h =>
    rw [setCore_cur, getCore_setCore_of_ne _ _ (Ne.symm h), setCore_comm _ _ _ (Ne.symm h)]

theorem updCore_swapped {f f' : Core → Core} (h : f' (swapAt V S s.cur y (getCore s y)) = swapAt V S s.cur y (f (getCore s y))) :
    updCore (swapped V S s) y f' = swapped V S (updCore s y f) := by
  rw [updCore, getCore_swapped, h, setCore_swapped]
  rfl

/-- What does not look at the slots of a core. -/
theorem swapAt_field {α : Type} {g : Core → α} (h : ∀ k c, g (swapCore V S k c) = g c) : g (swapAt V S p y c) = g c := by
  unfold swapAt
  split
  · exact h ..
  · rfl

theorem swapAt_update {f : Core → Core} (h : ∀ k c, f (swapCore V S k c) = swapCore V S k (f c)) :
    f (swapAt V S p y c) = swapAt V S p y (f c) := by
  unfold swapAt
  split
  · exact h ..
  · rfl

@[simp] theorem swapAt_reqs : (swapAt V S p y c).reqs = c.reqs := swapAt_field (g := Core.reqs) fun _ _ => rfl
@[simp] theorem swapAt_halted : (swapAt V S p y c).halted = c.halted := swapAt_field (g := Core.halted) fun _ _ => rfl
@[simp] theorem swapAt_ctrl : (swapAt V S p y c).ctrl = c.ctrl := swapAt_field (g := Core.ctrl) fun _ _ => rfl
@[simp] theorem swapAt_lcore : (swapAt V S p y c).lcore = c.lcore := swapAt_field (g := Core.lcore) fun _ _ => rfl
@[simp] theorem swapAt_part : (swapAt V S p y c).part = c.part := swapAt_field (g := Core.part) fun _ _ => rfl
@[simp] theorem swapAt_mapVer : (swapAt V S p y c).mapVer = c.mapVer := swapAt_field (g := Core.mapVer) fun _ _ => rfl
@[simp] theorem swapAt_baseVer : (swapAt V S p y c).baseVer = c.baseVer := swapAt_field (g := Core.baseVer) fun _ _ => rfl
@[simp] theorem swapAt_chans : (swapAt V S p y c).chans = c.chans := swapAt_field (g := Core.chans) fun _ _ => rfl

-- What looks at other parts of the machine alone

@[simp] theorem coreNumber_swapped : coreNumber (swapped V S s) y = coreNumber s y := by
  simp only [coreNumber, getCore_swapped, swapAt_ctrl, swapAt_lcore]

@[simp] theorem corePart_swapped : corePart (swapped V S s) y = corePart s y := by
  simp only [corePart, getCore_swapped, swapAt_part]

@[simp] theorem reqPkt_swapped (r : Req) : reqPkt (swapped V S s) y r = reqPkt s y r := by
  simp only [reqPkt, coreNumber_swapped]
  rfl

@[simp] theorem routeTo_swapped (lc : Nat) : routeTo (swapped V S s) y lc = routeTo s y lc := by
  simp only [routeTo, getCore_swapped, swapAt_mapVer, swapAt_baseVer]
  rfl

@[simp] theorem niFull_swapAt : niFull (swapAt V S p y c) = niFull c := swapAt_field (g := niFull) fun _ _ => rfl
@[simp] theorem replayUsed_swapAt : replayUsed (swapAt V S p y c) = replayUsed c := swapAt_field (g := replayUsed) fun _ _ => rfl

/-- What the slots of a core give together, where none gives by its vector registers and streams. -/
theorem flatMap_swapCore {α : Type} {g : Slot → List α} (h : ∀ sl, g (swapSlot V S sl) = g sl) (k : Fin 4) (c : Core) :
    (swapCore V S k c).slots.toList.flatMap g = c.slots.toList.flatMap g := by
  have hk : g (swapSlot V S c.slots[k]) = (c.slots.toList.map g)[k.val]'(by simp) := by simp [h]
  simp only [List.flatMap_def, swapCore, Vector.toList_set, List.map_set]
  rw [hk, List.set_getElem_self]

theorem owedFailures_swapAt : owedFailures (swapAt V S p y c) = owedFailures c := by
  refine swapAt_field (g := owedFailures) fun k c => ?_
  unfold owedFailures
  rw [flatMap_swapCore fun _ => rfl]
  rfl

theorem mayGo_swapAt (r : Req) : mayGo (swapAt V S p y c) r = mayGo c r := by
  unfold mayGo unheld snapDone
  have hhold : holding (swapAt V S p y c) r.home = holding c r.home := swapAt_field (g := fun c => holding c r.home) fun _ _ => rfl
  rw [owedFailures_swapAt, swapAt_reqs, hhold]

theorem sendPkt_swapped (q : Packet) : sendPkt (swapped V S s) q = swapped V S (sendPkt s q) := rfl

theorem launch_swapped (r : Req) : launch (swapped V S s) y r = swapped V S (launch s y r) := by
  unfold launch
  simp only [reqPkt_swapped, routeTo_swapped, sendPkt_swapped]
  split
  · split
    · rfl
    · rfl
    · split <;> rfl
  · rfl

theorem pumpList_swapped (rs : List Req) : pumpList y rs (swapped V S s) = swapped V S (pumpList y rs s) := by
  induction rs generalizing s with
  | nil => rfl
  | cons r rs ih =>
    have hset : ∀ q, setReq (swapAt V S s.cur y (getCore s y)) q = swapAt V S s.cur y (setReq (getCore s y) q) := fun q =>
      swapAt_update (f := fun c => setReq c q) fun _ _ => rfl
    simp only [pumpList, getCore_swapped, swapAt_halted, mayGo_swapAt, hset, setCore_swapped, launch_swapped, ih]
    split <;> rfl

/-- The core whose NI has taken requests that it holds. -/
def tookReqs (rs : List Req) (c : Core) : Core :=
  { c with nextSeq := c.nextSeq + 1, nextUid := c.nextUid + rs.length,
           reqs := c.reqs ++ rs.zipIdx.map fun e => { e.1 with uid := c.nextUid + e.2, seqn := c.nextSeq, status := .held } }

theorem pump_swapped : pump (swapped V S s) y = swapped V S (pump s y) := by
  rw [pump, getCore_swapped, swapAt_reqs, pumpList_swapped]
  rfl

theorem injectAll_swapped (rs : List Req) : injectAll (swapped V S s) y rs = swapped V S (injectAll s y rs) := by
  have hinj : ∀ s, injectAll s y rs = pump (updCore s y (tookReqs rs)) y := fun _ => rfl
  have htook : ∀ c, tookReqs rs (swapAt V S s.cur y c) = swapAt V S s.cur y (tookReqs rs c) := fun _ => swapAt_update fun _ _ => rfl
  rw [hinj, hinj, updCore_swapped (htook _), pump_swapped]

theorem foldl_swapped {α : Type} {f : State → α → State} (hf : ∀ s x, f (swapped V S s) x = swapped V S (f s x)) (l : List α) :
    l.foldl f (swapped V S s) = swapped V S (l.foldl f s) := by
  induction l generalizing s with
  | nil => rfl
  | cons x l ih => rw [List.foldl_cons, hf, ih, List.foldl_cons]

-- Waiting senders

theorem wakeWaiters_swapped (ch : Nat) : wakeWaiters (swapped V S s) y ch = swapped V S (wakeWaiters s y ch) := by
  unfold wakeWaiters
  rw [getCore_swapped, swapAt_chans]
  split
  · rfl
  · next x _ =>
    split
    · rfl
    · have hset : ∀ c, setChan (swapAt V S s.cur y c) ch { x with waiters := [] } = swapAt V S s.cur y (setChan c ch { x with waiters := [] }) :=
        fun _ => swapAt_update (f := fun c => setChan c ch { x with waiters := [] }) fun _ _ => rfl
      rw [updCore_swapped (f := fun c => setChan c ch { x with waiters := [] }) (hset _), foldl_swapped fun _ _ => rfl]

theorem wakeChans_swapped (chs : List Nat) : wakeChans (swapped V S s) y chs = swapped V S (wakeChans s y chs) := by
  refine foldl_swapped (fun s ch => ?_) chs
  rw [getCore_swapped, swapAt_chans]
  split
  · split
    · exact wakeWaiters_swapped ch
    · rfl
  · rfl

-- Activations

/-- What a slot of a core gives that does not look at its vector registers and streams. -/
theorem slot_swapCore {α : Type} {g : Slot → α} (h : ∀ sl, g (swapSlot V S sl) = g sl) (j k : Fin 4) (c : Core) :
    g (swapCore V S k c).slots[j] = g c.slots[j] := by
  by_cases hj : j = k
  · subst hj
    simp [swapCore, h]
  · have hne : k.val ≠ j.val := fun e => hj (Fin.ext e.symm)
    simp [swapCore, Vector.getElem_set_ne _ _ hne]

/-- What a context gives that does not look at its vector registers and streams. -/
theorem actSlot_swapAt {α : Type} {g : Slot → α} (h : ∀ sl, g (swapSlot V S sl) = g sl) (k : Fin 4) (act : BitVec 48) :
    g (actSlot (swapAt V S p y c) k act) = g (actSlot c k act) := by
  refine swapAt_field (g := fun c => g (actSlot c k act)) fun j c => ?_
  have hact := slot_swapCore (V := V) (S := S) (g := Slot.actId) (fun _ => rfl) k j c
  have haway : (swapCore V S j c).away = c.away := rfl
  unfold actSlot
  rw [hact, haway]
  split
  · rfl
  · split
    · exact slot_swapCore h ..
    · rfl

theorem memberSlot_swapped {α : Type} {g : Slot → α} (h : ∀ sl, g (swapSlot V S sl) = g sl) (m : Member) :
    g (memberSlot (swapped V S s) m) = g (memberSlot s m) := by
  rw [memberSlot, getCore_swapped, actSlot_swapAt h]
  rfl

theorem updAct_swapAt {f : Slot → Slot} (hf : ∀ sl, f (swapSlot V S sl) = swapSlot V S (f sl)) (k : Fin 4) (act : BitVec 48) :
    updAct (swapAt V S p y c) k act f = swapAt V S p y (updAct c k act f) := by
  refine swapAt_update (f := fun c => updAct c k act f) fun j c => ?_
  have hact := slot_swapCore (V := V) (S := S) (g := Slot.actId) (fun _ => rfl) k j c
  have hpark : parked (swapCore V S j c) k act = parked c k act := rfl
  unfold updAct
  rw [hact, hpark]
  split
  · rfl
  · split
    · by_cases hk : k = j
      · subst hk
        simp [swapCore, hf]
      · have hne : k.val ≠ j.val := fun e => hk (Fin.ext e)
        simp only [swapCore, Fin.getElem_fin, Vector.getElem_set_ne _ _ hne, Vector.getElem_set_ne _ _ hne.symm]
        rw [Vector.set_comm _ _ hne]
    · rfl

theorem updMember_swapped {f : Slot → Slot} (hf : ∀ sl, f (swapSlot V S sl) = swapSlot V S (f sl)) (m : Member) :
    updMember (swapped V S s) m f = swapped V S (updMember s m f) :=
  updCore_swapped (updAct_swapAt hf ..)

-- The release of R306

/-- A context whose outbox of n requests is released. -/
def emptied (n : Nat) (sl : Slot) : Slot := { sl with outbox := [], replayable := false, cntS := sl.cntS + n }

/-- A request of an outbox that is released: one that goes nowhere gives its count back. -/
def releaseOne (m : Member) (s : State) (o : OutReq) : State :=
  if (outReqs s m o).isEmpty then updMember s m fun sl => { sl with cntS := sl.cntS - 1 } else injectAll s m.site (outReqs s m o)

theorem releaseOutbox_eq (s : State) (m : Member) :
    releaseOutbox s m = (outboxOf (memberSlot s m)).foldl (releaseOne m) (updMember s m (emptied (outboxOf (memberSlot s m)).length)) := rfl

theorem outReqs_swapped (m : Member) (o : OutReq) : outReqs (swapped V S s) m o = outReqs s m o := by
  unfold outReqs
  simp only [getCore_swapped, swapAt_reqs, corePart_swapped, coreNumber_swapped]
  rfl

theorem releaseOne_swapped (m : Member) (o : OutReq) : releaseOne m (swapped V S s) o = swapped V S (releaseOne m s o) := by
  unfold releaseOne
  rw [outReqs_swapped]
  split
  · exact updMember_swapped (f := fun sl => { sl with cntS := sl.cntS - 1 }) (fun _ => rfl) m
  · exact injectAll_swapped _

theorem releaseOutbox_swapped (m : Member) : releaseOutbox (swapped V S s) m = swapped V S (releaseOutbox s m) := by
  rw [releaseOutbox_eq, memberSlot_swapped (g := outboxOf) fun _ => rfl, updMember_swapped (f := emptied _) fun _ => rfl,
    foldl_swapped fun _ o => releaseOne_swapped m o]
  rfl

/-- What neither looks at the slots of a core nor changes them. -/
theorem swapAt_apart {f : Core → Core} (h : ∀ w c, f { c with slots := w } = { f c with slots := w }) :
    f (swapAt V S p y c) = swapAt V S p y (f c) := by
  refine swapAt_update fun k c => ?_
  have hs : (f c).slots = c.slots := (congrArg Core.slots (h c.slots c) :)
  rw [swapCore, h, swapCore, hs]

theorem markChan_apart (ch : Nat) (w : Vector Slot 4) (c : Core) : markChan { c with slots := w } ch = { markChan c ch with slots := w } := by
  unfold markChan
  split <;> rfl

theorem freePart_apart (h : Held) (w : Vector Slot 4) (c : Core) : freePart { c with slots := w } h = { freePart c h with slots := w } := by
  unfold freePart
  split <;> rfl

theorem freeHeldIn_apart (h : Held) (w : Vector Slot 4) (c : Core) :
    freeHeldIn { c with slots := w } h = { freeHeldIn c h with slots := w } := by
  have hchan : heldChan { c with slots := w } h = heldChan c h := rfl
  have hset : ∀ c x, setChan { c with slots := w } h.chan x = { setChan c h.chan x with slots := w } := fun _ _ => rfl
  unfold freeHeldIn
  rw [hchan]
  split
  · rw [freePart_apart, hset, markChan_apart]
  · exact freePart_apart ..
  · dsimp only
    split
    · rw [hset, markChan_apart]
    · rfl
  · split <;> rfl

theorem freeHeldIn_swapAt (hs : List Held) : hs.foldl freeHeldIn (swapAt V S p y c) = swapAt V S p y (hs.foldl freeHeldIn c) := by
  induction hs generalizing c with
  | nil => rfl
  | cons h hs ih => rw [List.foldl_cons, swapAt_apart (f := fun c => freeHeldIn c h) (freeHeldIn_apart h), ih, List.foldl_cons]

theorem roamingOf_swapAt (hs : List Held) : roamingOf (swapAt V S p y c) hs = roamingOf c hs :=
  swapAt_field (g := fun c => roamingOf c hs) fun _ _ => rfl

theorem freeHeld_swapped (m : Member) : freeHeld (swapped V S s) m = swapped V S (freeHeld s m) := by
  unfold freeHeld
  dsimp only
  rw [memberSlot_swapped (g := heldOf) fun _ => rfl,
    updCore_swapped (f := fun c => updAct ((heldOf (memberSlot s m)).foldl freeHeldIn c) m.slot m.act noHeld)
      (by rw [freeHeldIn_swapAt, updAct_swapAt (f := noHeld) fun _ => rfl]),
    getCore_swapped, roamingOf_swapAt, wakeChans_swapped]

-- What an instruction asks before an irrevocable operation

theorem getSlot_swapped {α : Type} {g : Slot → α} (h : ∀ sl, g (swapSlot V S sl) = g sl) (x : Nat) (k : Fin 4) :
    g (getSlot (swapped V S s) x k) = g (getSlot s x k) := by
  rw [getSlot, getCore_swapped]
  exact swapAt_field (g := fun c => g c.slots[k]) fun j c => slot_swapCore h k j c

theorem selfOf_swapped (x : Nat) (k : Fin 4) : selfOf (swapped V S s) x k = selfOf s x k :=
  congrArg (Member.mk x k) (getSlot_swapped (g := Slot.actId) (fun _ => rfl) x k)

theorem memberRuns_swapped (m : Member) : memberRuns (swapped V S s) m = memberRuns s m := by
  have hact := getSlot_swapped (s := s) (V := V) (S := S) (g := fun sl => sl.actId == m.act && runnable sl) (fun _ => rfl) m.site m.slot
  have hpark : parked (getCore (swapped V S s) m.site) m.slot m.act = parked (getCore s m.site) m.slot m.act := by
    rw [getCore_swapped]
    exact swapAt_field (g := fun c => parked c m.slot m.act) fun _ _ => rfl
  exact congrArg₂ (· || ·) hpark hact

theorem partners_swapped (x : Nat) (k : Fin 4) : partners (swapped V S s) x k = partners s x k := by
  unfold partners
  rw [getSlot_swapped (g := Slot.group) fun _ => rfl, selfOf_swapped]
  simp only [funext memberRuns_swapped]

theorem holderOf_swapped (x : Nat) (k : Fin 4) : holderOf (swapped V S s) x k = holderOf s x k := by
  rw [holderOf, getSlot_swapped (g := Slot.group) fun _ => rfl, selfOf_swapped]
  rfl

theorem releaseSet_swapped (x : Nat) (k : Fin 4) : releaseSet (swapped V S s) x k = releaseSet s x k := by
  rw [releaseSet, getSlot_swapped (g := isSecondary) fun _ => rfl, selfOf_swapped, partners_swapped]
  rfl

theorem memberRoom_swapped (m : Member) : memberRoom (swapped V S s) m = memberRoom s m := by
  unfold memberRoom
  dsimp only
  rw [memberSlot_swapped (g := outboxOf) fun _ => rfl, memberSlot_swapped (g := Slot.cntS) fun _ => rfl, getCore_swapped, niFull_swapAt,
    replayUsed_swapAt]

theorem outboxRoom_swapped (x : Nat) (k : Fin 4) : outboxRoom (swapped V S s) x k = outboxRoom s x k := by
  rw [outboxRoom, releaseSet_swapped, funext memberRoom_swapped]
  rfl

theorem release_swapped (x : Nat) (k : Fin 4) : release (swapped V S s) x k = swapped V S (release s x k) := by
  unfold release
  dsimp only
  rw [getSlot_swapped (g := Slot.replayable) fun _ => rfl, getSlot_swapped (g := isSecondary) fun _ => rfl, releaseSet_swapped, holderOf_swapped,
    foldl_swapped fun _ => releaseOutbox_swapped]
  split
  · split
    · rfl
    · exact freeHeld_swapped _
  · rfl

end Swapped

end Sys2Proof.Machine
end

section
/-! SUPPORT. Scratchpad accesses do not look at the slots of their core, and an instruction asks the same of the machine whatever vector registers
and streams its slot holds (O16). -/

namespace Sys2Proof.Machine

open Sys2Proof.Terms

/-- The core with other slots. -/
def reslot (w : Vector Slot 4) (c : Core) : Core := { c with slots := w }

/-- The access neither looks at the slots of its core nor changes them. -/
def spadApart {α : Type} (f : Core → SpadRes α) : Prop := ∀ w c, f (reslot w c) = (f c).map fun e => (e.1, reslot w e.2)

theorem correct_reslot (rs : List (Nat × Nat)) (w : Vector Slot 4) (c : Core) : correct (reslot w c) rs = reslot w (correct c rs) := by
  unfold correct
  dsimp only [reslot]
  split <;> rfl

theorem spadRead_apart {α : Type} (rs : List (Nat × Nat)) (f : Mem → α) : spadApart fun c => spadRead c rs f := by
  intro w c
  have hue : (reslot w c).spadUE = c.spadUE := rfl
  unfold spadRead
  dsimp only
  rw [hue, correct_reslot]
  split <;> rfl

theorem spadWrite_apart (rs ws : List (Nat × Nat)) (f : Mem → Mem) : spadApart fun c => spadWrite c rs ws f := by
  intro w c
  have hue : (reslot w c).spadUE = c.spadUE := rfl
  unfold spadWrite
  dsimp only
  rw [hue, correct_reslot]
  split <;> rfl

theorem readLanesAt_apart (sc : Nat → Nat) (w : Nat) (es : List (Fin 32 × ElemAt)) : spadApart fun c => readLanesAt c sc w es :=
  spadRead_apart _ _

theorem writeLanesAt_apart (sc : Nat → Nat) (w : Nat) (es : List (Nat × ElemAt)) : spadApart fun c => writeLanesAt c sc w es := by
  unfold writeLanesAt
  exact spadWrite_apart _ _ _

theorem readGroup_apart (w o x : Nat) : spadApart fun c => readGroup c w o x := by
  unfold readGroup
  exact spadRead_apart _ _

theorem readPlaneLanes_apart (w o x : Nat) (act : Mask32) : spadApart fun c => readPlaneLanes c w o x act := by
  intro q c
  have hgroup : readGroup (reslot q c) w o x = (readGroup c w o x).map fun e => (e.1, reslot q e.2) := readGroup_apart w o x q c
  unfold readPlaneLanes
  dsimp only
  rw [hgroup]
  split
  · rfl
  · cases readGroup c w o x <;> rfl

theorem readVec_apart (wb : Word) (w o : Nat) (act : Mask32) (bcast : Bool) : spadApart fun c => readVec c wb w o act bcast := by
  intro q c
  unfold readVec
  dsimp only
  split
  · exact readPlaneLanes_apart _ _ _ _ q c
  · exact readLanesAt_apart _ _ _ q c

theorem writeVec_apart (wb : Word) (w o : Nat) (act : Mask32) (v : Lanes) : spadApart fun c => writeVec c wb w o act v := by
  intro q c
  unfold writeVec
  dsimp only
  split
  · exact spadWrite_apart _ _ _ q c
  · exact writeLanesAt_apart _ _ _ q c

theorem readTile_apart (t : Tile) (i g : Nat) (act : Mask32) : spadApart fun c => readTile c t i g act := by
  intro q c
  unfold readTile
  dsimp only
  split
  · exact readPlaneLanes_apart _ _ _ _ q c
  · exact readLanesAt_apart _ _ _ q c

theorem spadAdds_apart (t : VTy) (ws : List (Fin 32 × Int)) (data : Lanes) : spadApart fun c => spadAdds c t ws data := by
  unfold spadAdds
  exact spadWrite_apart _ _ _

/-- So the slots of the core are as they were. -/
theorem spadApart.slots {α : Type} {f : Core → SpadRes α} (hf : spadApart f) {c d : Core} {v : α} (h : f c = .ok (v, d)) : d.slots = c.slots := by
  have hc := hf c.slots c
  rw [show reslot c.slots c = c from rfl, h] at hc
  have hd : d = reslot c.slots d := congrArg Prod.snd (Except.ok.inj hc)
  rw [hd]
  rfl

-- What instructions ask of the machine

section Swapped

variable {V : Vector Lanes 32} {S : Vector (Option Stream) 4} {s : State}

@[simp] theorem curSlot_swapped : curSlot (swapped V S s) = swapSlot V S (curSlot s) := curSlot_updCur ..

/-- What the current core gives without its slots. -/
theorem curCore_swapped {α : Type} {g : Core → α} (h : ∀ k c, g (swapCore V S k c) = g c) : g (curCore (swapped V S s)) = g (curCore s) := by
  have hc : curCore (swapped V S s) = swapAt V S s.cur s.cur.1 (curCore s) := getCore_swapped
  rw [hc]
  exact swapAt_field h

theorem inPart_swapped (p lc : Nat) : inPart (swapped V S s) p lc = inPart s p lc := by
  have hsite : siteOf (swapped V S s) lc = siteOf s lc := rfl
  simp only [inPart, hsite, getCore_swapped, swapAt_ctrl, swapAt_part]

theorem coreReachable_swapped (e : Word) : coreReachable (swapped V S s) e = coreReachable s e := by
  have hctrl : (curCore (swapped V S s)).ctrl = (curCore s).ctrl := curCore_swapped fun _ _ => rfl
  have hpart : (curCore (swapped V S s)).part = (curCore s).part := curCore_swapped fun _ _ => rfl
  unfold coreReachable
  rw [hctrl, hpart]
  cases (curCore s).part with
  | none => rfl
  | some p => simp only [inPart_swapped]

theorem check14_swapped (e : Word) : check14 (swapped V S s) e = check14 s e := by
  rw [check14, coreReachable_swapped]
  rfl

theorem isOwn_swapped (e : Word) : isOwn (swapped V S s) e = isOwn s e := by
  have hprim : primaryOf (swapSlot V S (curSlot s)) = primaryOf (curSlot s) := rfl
  simp only [isOwn, coreNumber_swapped, curSlot_swapped, hprim, swapped_cur]

theorem checkVec_swapped (e : Word) (store bcast : Bool) (act : Mask32) :
    checkVec (swapped V S s) (swapSlot V S (curSlot s)) e store bcast act = checkVec s (curSlot s) e store bcast act := by
  unfold checkVec
  rw [check14_swapped]
  rfl

theorem checkGather_swapped (x : Word) (idx : Lanes) (act : Mask32) : checkGather (swapped V S s) x idx act = checkGather s x idx act := by
  simp only [checkGather, check14_swapped, isOwn_swapped]

theorem checkAdd_swapped (e : Word) (act : Mask32) (idx : Option Lanes) : checkAdd (swapped V S s) e act idx = checkAdd s e act idx := by
  simp only [checkAdd, check14_swapped]

theorem mkReq_swapped (op : ROp) (addr : Word) (home : Endpoint) (ordered : Bool) (dest : RDest) (l st e : Bool) :
    mkReq (swapped V S s) op addr home ordered dest l st e = mkReq s op addr home ordered dest l st e := by
  simp only [mkReq, corePart_swapped, curSlot_swapped, swapped_cur]
  rfl

theorem roomFor_swapped (l st : Bool) : roomFor (swapped V S s) l st = roomFor s l st := by
  have hused : replayUsed (curCore (swapped V S s)) = replayUsed (curCore s) := curCore_swapped fun _ _ => rfl
  have hfull : niFull (curCore (swapped V S s)) = niFull (curCore s) := curCore_swapped fun _ _ => rfl
  simp only [roomFor, hused, hfull, curSlot_swapped]
  rfl

theorem sendMsg_swapped (v : Word) (kind : Nat) (gang rel : Bool) (seq : BitVec 16) (ws : List Word) :
    sendMsg (swapped V S s) v kind gang rel seq ws = sendMsg s v kind gang rel seq ws := by
  simp only [sendMsg, coreNumber_swapped, swapped_cur]
  rfl

theorem ownTile_swapped (n : Nat) : getTile (ownCore (swapped V S s)) n = getTile (ownCore s) n := by
  have hsite : ownSite (swapped V S s) = ownSite s := by
    simp only [ownSite, curSlot_swapped, swapped_cur]
    rfl
  rw [ownCore, hsite, getCore_swapped]
  exact swapAt_field (g := fun c => getTile c n) fun _ _ => rfl

end Swapped

end Sys2Proof.Machine
end

section
/-! SUPPORT. A trap, the end of an activation and a stall leave the retirement counts of the slots as they were (O16). -/

namespace Sys2Proof.Machine

open Sys2Proof.Terms

-- Cores

/-- No slot of the core has retired an instruction. -/
def idled (c d : Core) : Prop := ∀ k : Fin 4, d.slots[k].retired = c.slots[k].retired

theorem idled.trans {c d e : Core} (h : idled c d) (h' : idled d e) : idled c e := fun k => (h' k).trans (h k)

theorem idled_of_slots {c d : Core} (h : d.slots = c.slots) : idled c d := fun k => by rw [h]

theorem idled_set (c : Core) (k : Fin 4) {sl : Slot} (h : sl.retired = c.slots[k].retired) : idled c { c with slots := c.slots.set k sl } := by
  intro j
  by_cases hj : j = k
  · subst hj
    simpa using h
  · have hne : k.val ≠ j.val := fun h => hj (Fin.ext h.symm)
    simp only [Fin.getElem_fin, Vector.getElem_set_ne _ _ hne]

theorem idled_updAct (c : Core) (k : Fin 4) (act : BitVec 48) {f : Slot → Slot} (hf : ∀ sl, (f sl).retired = sl.retired) :
    idled c (updAct c k act f) := by
  unfold updAct
  split
  · exact idled_of_slots rfl
  · split
    · exact idled_set c k (hf _)
    · exact idled_of_slots rfl

theorem idled_pushResumes (c : Core) : idled c (pushResumes c) := by
  refine foldl_related idled (fun _ _ => rfl) idled.trans (fun d a => ?_) _ c
  split <;> exact idled_of_slots rfl

theorem idled_dropParked (c : Core) (k : Fin 4) (act : BitVec 48) : idled c (dropParked c k act) := by
  unfold dropParked
  split
  · exact idled_of_slots rfl
  · refine idled.trans ?_ (idled_pushResumes _)
    dsimp only
    split
    · exact idled_set c k rfl
    · exact idled_of_slots rfl

-- The machine

/-- No slot has retired an instruction, and the current slot is the same. -/
structure Idled (s t : State) : Prop where
  cur : t.cur = s.cur
  cores : ∀ y, idled (getCore s y) (getCore t y)

theorem Idled.refl (s : State) : Idled s s := ⟨rfl, fun _ _ => rfl⟩

theorem Idled.trans {s t u : State} (h : Idled s t) (h' : Idled t u) : Idled s u :=
  ⟨h'.cur.trans h.cur, fun y => (h.cores y).trans (h'.cores y)⟩

theorem Idled.retired {s t : State} (h : Idled s t) : (curSlot t).retired = (curSlot s).retired := by
  have ht : curSlot t = (curCore t).slots[s.cur.2] := by simp only [curSlot_eq, h.cur]
  rw [ht, curCore, h.cur]
  exact h.cores _ _

theorem idled_of_releases {s t : State} (h : Releases s t) : Idled s t := ⟨h.cur, fun y k => by rw [(h.cores y).slots k]⟩

theorem idled_of_posts {s t : State} (h : posts s t) : Idled s t := idled_of_releases (releases_of_posts h)

theorem idled_updCore {s : State} {x : Nat} {f : Core → Core} (h : idled (getCore s x) (f (getCore s x))) : Idled s (updCore s x f) := by
  refine ⟨rfl, fun y => ?_⟩
  by_cases hy : y = x
  · subst hy
    rw [getCore_updCore_self]
    exact h
  · rw [getCore_updCore_of_ne s f hy]
    exact fun _ => rfl

theorem idled_setSlot (s : State) (x : Nat) (k : Fin 4) {f : Slot → Slot} (hf : ∀ sl, (f sl).retired = sl.retired) :
    Idled s (setSlot s x k f) :=
  idled_updCore (idled_set _ k (hf _))

theorem idled_foldl {α : Type} {f : State → α → State} (hf : ∀ s x, Idled s (f s x)) (s : State) (l : List α) : Idled s (l.foldl f s) :=
  foldl_related Idled .refl .trans hf l s

theorem idled_reportDue (s : State) (x : Nat) (k : Fin 4) (d : Due) : Idled s (reportDue s x k d) := by
  unfold reportDue
  exact idled_of_posts (posts_report ..)

theorem idled_closeSlot (s : State) (x : Nat) (k : Fin 4) : Idled s (closeSlot s x k) := by
  unfold closeSlot
  dsimp only
  refine (idled_foldl (fun t d => idled_reportDue t x k d) s (getSlot s x k).due).trans (idled_setSlot _ x k ?_)
  exact fun _ => rfl

theorem idled_endQuiet (s : State) (x : Nat) (k : Fin 4) : Idled s (endQuiet s x k) := by
  unfold endQuiet
  dsimp only
  refine Idled.trans ?_ (idled_closeSlot ..)
  refine Idled.trans ?_ (idled_of_posts (posts_trace ..))
  refine Idled.trans ?_ (idled_setSlot _ x k (by exact fun _ => rfl))
  exact Idled.trans (idled_of_posts (accountOf_mail ..).1) (idled_of_releases (releases_freeHeld ..))

theorem idled_endBy (s : State) (x : Nat) (k : Fin 4) (r : Report) : Idled s (endBy s x k r) :=
  (idled_of_posts (posts_report ..)).trans (idled_endQuiet ..)

/-- A trap retires nothing (R270 to R272). -/
theorem idled_takeTrap (s : State) (x : Nat) (k : Fin 4) (t : TrapInfo) : Idled s (takeTrap s x k t) := by
  unfold takeTrap
  dsimp only
  split
  · exact idled_endBy ..
  · split
    · exact idled_endBy ..
    · refine (idled_of_posts (posts_trace ..)).trans (idled_setSlot _ x k ?_)
      exact fun _ => rfl

theorem idled_dropMember (s : State) (m : Member) : Idled s (dropMember s m) := by
  have hkill : Idled s (updCore s m.site fun c => killReqs c m.slot m.act) := idled_updCore (idled_of_slots rfl)
  unfold dropMember
  dsimp only
  split
  · exact hkill.trans (idled_updCore (idled_dropParked _ _ _))
  · refine hkill.trans (Idled.trans (idled_setSlot _ m.site m.slot ?_) (idled_closeSlot ..))
    exact fun _ => rfl

theorem idled_traceKill (s : State) (m : Member) : Idled s (traceKill s m) := by
  unfold traceKill traceAct
  dsimp only
  split
  · refine idled_of_posts ((posts_updCore (x := m.site) ?_).trans (posts_sendBulk ..))
    rfl
  · exact .refl s

theorem idled_returnHeld (s : State) (m : Member) : Idled s (returnHeld s m) := by
  have hback := foldl_related mail mail.refl mail.trans mail_returnHeldIn (heldOf (memberSlot s m)) (getCore s m.site)
  have hdrop : ∀ sl, (noHeld sl).retired = sl.retired := fun _ => rfl
  exact (idled_updCore ((idled_of_slots hback.slots).trans (idled_updAct _ _ _ hdrop))).trans (idled_of_posts (posts_wakeChans ..))

/-- The end of an activation by an uncorrectable error retires nothing (R307). -/
theorem idled_replayError (s : State) (x : Nat) (k : Fin 4) (cause : Nat) (tval : Word) : Idled s (replayError s x k cause tval) := by
  unfold replayError redeliver
  dsimp only
  split
  · exact (idled_traceKill ..).trans ((idled_foldl idled_traceKill ..).trans ((idled_returnHeld ..).trans (idled_foldl idled_dropMember ..)))
  · exact (idled_of_posts (posts_report ..)).trans
      ((idled_foldl (fun t m => (idled_of_posts (accountOf_mail ..).1).trans (idled_traceKill ..)) ..).trans
        ((idled_of_releases (releases_freeHeld ..)).trans (idled_foldl idled_dropMember ..)))

-- Outcomes

/-- If the outcome is a state, then the current slot has retired nothing in it. -/
def unretired (s : State) (r : Res) : Prop := ∀ u, r = .next u → (curSlot u).retired = (curSlot s).retired

theorem unretired_next {s t : State} (h : Idled s t) : unretired s (.next t) := fun _ hu => Host.Outcome.next.inj hu ▸ h.retired

theorem unretired_trap (s : State) (cause : BitVec 8) (tval : Word) : unretired s (trap s cause tval) := unretired_next (idled_takeTrap ..)

theorem unretired_localUE (s : State) (k : Nat) : unretired s (localUE s k) := by
  unfold localUE
  dsimp only
  split
  · exact unretired_next (idled_replayError ..)
  · exact unretired_next ((idled_of_posts (posts_unreplayable ..)).trans (idled_takeTrap ..))

theorem unretired_stallOn (s : State) (ws : List Nat) : unretired s (stallOn s ws) :=
  unretired_next (idled_setSlot _ _ _ (by exact fun _ => rfl))

end Sys2Proof.Machine
end

section
/-! SUPPORT. The run of a vector instruction on bound read streams against its run on plain registers that hold what they give (R111, O16). -/

namespace Sys2Proof.Machine

open Sys2Proof.Terms

-- The plain run

/-- The vector registers of the current slot, the sources holding what they give. -/
@[irreducible] def plainV (s : State) (srcs : List VReg) : Vector Lanes 32 :=
  Vector.ofFn fun r : VReg => if r ∈ srcs then fed s r else (curSlot s).v[r]

/-- The streams of the current slot, the sources unbound. -/
@[irreducible] def plainS (s : State) (srcs : List VReg) : Vector (Option Stream) 4 :=
  Vector.ofFn fun i : Fin 4 => if (⟨28 + i.val, by omega⟩ : VReg) ∈ srcs ++ [] then none else (curSlot s).streams[i]

/-- A state of the run on streams as the run on plain registers has it. -/
def mirror (s : State) (srcs : List VReg) (t : State) : State := swapped (plainV s srcs) (plainS s srcs) t

/-- The vector registers after the plain run, the bound sources as they were. -/
@[irreducible] def backV (s : State) (srcs : List VReg) (v : Vector Lanes 32) : Vector Lanes 32 :=
  Vector.ofFn fun r : VReg => if r ∈ srcs ∧ (streamOf (curSlot s) r).isSome then (curSlot s).v[r] else v[r]

/-- The context with the bound sources as they were and their streams moved on. -/
def handBack (s : State) (srcs : List VReg) (q : Slot) : Slot := swapSlot (backV s srcs q.v) (movedOn (curSlot s) srcs) q

theorem swapSlot_pc (V : Vector Lanes 32) (S : Vector (Option Stream) 4) (q : Slot) : (swapSlot V S q).pc = q.pc := rfl
theorem swapSlot_ilen (V : Vector Lanes 32) (S : Vector (Option Stream) 4) (q : Slot) : (swapSlot V S q).ilen = q.ilen := rfl

theorem handBack_pc {s : State} {srcs : List VReg} (q : Slot) : (handBack s srcs q).pc = q.pc := swapSlot_pc ..
theorem handBack_ilen {s : State} {srcs : List VReg} (q : Slot) : (handBack s srcs q).ilen = q.ilen := swapSlot_ilen ..

theorem updCur_eq (s : State) (f : Slot → Slot) :
    updCur s f = setCore s s.cur.1 { curCore s with slots := (curCore s).slots.set s.cur.2 (f (curSlot s)) } := rfl

theorem updCur_congr {s : State} {f g : Slot → Slot} (h : f (curSlot s) = g (curSlot s)) : updCur s f = updCur s g := by
  rw [updCur_eq, updCur_eq, h]

theorem plainly_eq (s : State) (srcs : List VReg) : plainly s srcs [] = mirror s srcs s := by
  unfold plainly mirror swapped
  apply updCur_congr
  unfold plainV plainS
  rfl

theorem withStreams_eq (s : State) (srcs : List VReg) (u : State) : withStreams s srcs u = updCur u (handBack s srcs) := by
  unfold withStreams handBack backV
  apply updCur_congr
  rfl

/-- The state is on the way of an instruction of the current slot of s that has not retired it and moved on no stream. -/
structure Kept (s t : State) : Prop where
  cur : t.cur = s.cur
  v : (curSlot t).v = (curSlot s).v
  streams : (curSlot t).streams = (curSlot s).streams
  twin : (curSlot t).twin = none
  retired : (curSlot t).retired = (curSlot s).retired

/-- Where the first outcome retires the instruction, the second is the same with the streams moved on. -/
def agree (s : State) (srcs : List VReg) (r r' : Res) : Prop :=
  ∀ u, r = .next u → (curSlot u).retired = (curSlot s).retired + 1 → r' = .next (withStreams s srcs u)

/-- The change of the slot brings the slot of the plain run to that of the run on streams. -/
def carries (s : State) (srcs : List VReg) (g : Slot → Slot) : Prop :=
  ∀ q, q.v = (curSlot s).v → q.streams = (curSlot s).streams → handBack s srcs (g (swapSlot (plainV s srcs) (plainS s srcs) q)) = g q

/-- The change of the slot does not look at its vector registers and streams and leaves them. -/
def slotApart (h : Slot → Slot) : Prop := ∀ V S q, h (swapSlot V S q) = swapSlot V S (h q)

section Changes

variable {s : State} {srcs : List VReg} {g h : Slot → Slot}

theorem slotApart.v (hh : slotApart h) (q : Slot) : (h q).v = q.v := by
  rw [show q = swapSlot q.v q.streams q from rfl, hh]
  rfl

theorem slotApart.streams (hh : slotApart h) (q : Slot) : (h q).streams = q.streams := by
  rw [show q = swapSlot q.v q.streams q from rfl, hh]
  rfl

theorem updCur_swapped {V : Vector Lanes 32} {S : Vector (Option Stream) 4} (hh : slotApart h) (t : State) :
    updCur (swapped V S t) h = swapped V S (updCur t h) := by
  rw [swapped, swapped, updCur_updCur, updCur_updCur, funext (hh V S)]

theorem handBack_apart (hh : slotApart h) (q : Slot) : handBack s srcs (h q) = h (handBack s srcs q) := by
  rw [handBack, handBack, hh.v, hh]

theorem carries_apart (hh : slotApart h) (hg : carries s srcs g) : carries s srcs fun q => h (g q) := fun q hv hs => by
  rw [handBack_apart hh, hg q hv hs]

theorem backV_set {a : VReg} (ha : streamOf (curSlot s) a = none) (w : Vector Lanes 32) (v : Lanes) :
    backV s srcs (w.set a v) = (backV s srcs w).set a v := by
  ext1 r hr
  simp only [backV, Vector.getElem_ofFn, Fin.getElem_fin, Vector.getElem_set]
  by_cases hra : a.val = r
  · subst hra
    simp [ha]
  · simp [hra]

theorem setV_swapSlot (V : Vector Lanes 32) (S : Vector (Option Stream) 4) (q : Slot) (a : VReg) (v : Lanes) :
    setV (swapSlot V S q) a v = swapSlot (V.set a v) S q := rfl

theorem swapSlot_setV (V : Vector Lanes 32) (S : Vector (Option Stream) 4) (q : Slot) (a : VReg) (v : Lanes) :
    swapSlot V S (setV q a v) = swapSlot V S q := rfl

theorem swapSlot_swapSlot (V W : Vector Lanes 32) (S T : Vector (Option Stream) 4) (q : Slot) :
    swapSlot V S (swapSlot W T q) = swapSlot V S q := rfl

/-- A register that is no stream is written in both runs. -/
theorem carries_setV {a : VReg} (ha : streamOf (curSlot s) a = none) (v : Lanes) (hg : carries s srcs g) :
    carries s srcs fun q => setV (g q) a v := by
  intro q hv hs
  have hset : ∀ p : Slot, handBack s srcs (setV p a v) = setV (handBack s srcs p) a v := fun p => by
    rw [handBack, handBack, setV_swapSlot, swapSlot_setV, ← backV_set ha]
    rfl
  rw [hset, hg q hv hs]

/-- The vector registers that the plain run changed go back. -/
theorem backV_plainV : backV s srcs (plainV s srcs) = (curSlot s).v := by
  ext1 r hr
  simp only [backV, plainV, Vector.getElem_ofFn, Fin.getElem_fin]
  by_cases hm : (⟨r, hr⟩ : VReg) ∈ srcs
  · cases hb : streamOf (curSlot s) ⟨r, hr⟩ with
    | none => simp [hm, fed, hb, getV]
    | some t => simp [hm]
  · simp [hm]

theorem handBack_plain {q : Slot} (hv : q.v = (curSlot s).v) (V : Vector (Option Stream) 4) :
    handBack s srcs (swapSlot (plainV s srcs) V q) = swapSlot q.v (movedOn (curSlot s) srcs) q := by
  rw [handBack, swapSlot_swapSlot, hv, ← backV_plainV (srcs := srcs)]
  rfl

theorem movedOn_nil : movedOn (curSlot s) [] = (curSlot s).streams := by
  ext1 i hi
  simp [movedOn]

theorem carries_id : carries s [] fun q => q := fun q hv hs => by
  rw [handBack_plain hv, movedOn_nil, ← hs]
  rfl

/-- The streams move on once in both runs. -/
theorem consume_streams {q : Slot} (hs : q.streams = (curSlot s).streams) {names : List VReg}
    (hn : ∀ r, streamOf (curSlot s) r ≠ none → (r ∈ names ↔ r ∈ srcs)) : (consume q names).streams = movedOn (curSlot s) srcs := by
  ext1 i hi
  simp only [consume, movedOn, Vector.getElem_ofFn, Fin.getElem_fin, hs]
  cases hb : (curSlot s).streams[i] with
  | none => rfl
  | some t =>
    have hbound : streamOf (curSlot s) ⟨28 + i, by omega⟩ = some t := by
      rw [streamOf, dif_pos (by simp)]
      simpa using hb
    have hany : (names.any fun r => r.val == 28 + i) = decide ((⟨28 + i, by omega⟩ : VReg) ∈ names) := by
      rw [Bool.eq_iff_iff, List.any_eq_true, decide_eq_true_iff]
      constructor
      · rintro ⟨r, hr, he⟩
        have : r = ⟨28 + i, by omega⟩ := Fin.ext (by simpa using he)
        exact this ▸ hr
      · exact fun hr => ⟨_, hr, by simp⟩
    have hiff := hn ⟨28 + i, by omega⟩ (by simp [hbound])
    simp only [hany, hiff, Option.map_some, decide_eq_true_eq]
    split <;> rfl

theorem carries_consume {names : List VReg} (hn : ∀ r, streamOf (curSlot s) r ≠ none → (r ∈ names ↔ r ∈ srcs)) :
    carries s srcs fun q => consume q names := by
  intro q hv hs
  have hp : ∀ p : Slot, handBack s srcs (consume p names) = handBack s srcs p := fun _ => rfl
  rw [hp, handBack_plain hv, ← consume_streams hs hn]
  rfl

end Changes

-- Steps of the two runs

section Runs

variable {s t : State} {srcs : List VReg}

@[simp] theorem mirror_cur : (mirror s srcs t).cur = t.cur := rfl

theorem curSlot_mirror : curSlot (mirror s srcs t) = swapSlot (plainV s srcs) (plainS s srcs) (curSlot t) := curSlot_swapped

theorem Kept.refl (ht : (curSlot s).twin = none) : Kept s s := ⟨rfl, rfl, rfl, ht, rfl⟩

/-- What changes only other parts of the current slot and other parts of the machine. -/
theorem Kept.step {u : State} (h : Kept s t) (hc : u.cur = t.cur) (hv : (curSlot u).v = (curSlot t).v)
    (hs : (curSlot u).streams = (curSlot t).streams) (ht : (curSlot u).twin = (curSlot t).twin)
    (hr : (curSlot u).retired = (curSlot t).retired) : Kept s u :=
  ⟨hc.trans h.cur, hv.trans h.v, hs.trans h.streams, ht.trans h.twin, hr.trans h.retired⟩

theorem Kept.releases {u : State} (h : Kept s t) (hr : Releases t u) : Kept s u := by
  have hsl := hr.curSlot
  refine h.step hr.cur ?_ ?_ ?_ ?_ <;> rw [hsl]

theorem Kept.setCore {c : Core} (h : Kept s t) (hc : c.slots = (curCore t).slots) : Kept s (setCore t t.cur.1 c) := by
  have hsl : curSlot (updCurCore t fun _ => c) = curSlot t := curSlot_updCurCore hc
  change Kept s (updCurCore t fun _ => c)
  refine h.step rfl ?_ ?_ ?_ ?_ <;> rw [hsl]

theorem withStreams_retired (p : State) (c : Core) (sl : Slot) (pc : Word) (ws : List Word) :
    withStreams s srcs (retired p c sl pc ws) = retired p c (handBack s srcs sl) pc ws := by
  simp only [withStreams_eq, updCur_eq, retired, curSlot, curCore, getCore_setCore_self, setCore_cur, setCore_setCore]
  simp only [Fin.getElem_fin, Vector.getElem_set_self, Vector.set_set]
  rfl

theorem withStreams_retire (p : State) (ws : List Word) : withStreams s srcs (retire p ws) = retire (updCur p (handBack s srcs)) ws := by
  rw [retire_eq, finish, withStreams_retired, retire_updCur p _ ws (handBack_pc _) (handBack_ilen _)]
  rfl

theorem agree_unretired {r r' : Res} {p : State} (h : unretired p r) (hp : (curSlot p).retired = (curSlot s).retired) : agree s srcs r r' := by
  intro u hu hr
  rw [h u hu, hp] at hr
  omega

/-- What the plain run does not end in a state. -/
theorem agree_ended {r r' : Res} (h : ∀ u, r ≠ .next u) : agree s srcs r r' := fun u hu => absurd hu (h u)

variable (hk : Kept s t)

include hk

theorem Kept.mirror_retired : (curSlot (mirror s srcs t)).retired = (curSlot s).retired := by
  rw [curSlot_mirror]
  exact hk.retired

theorem agree_trap (cause : BitVec 8) (tval : Word) (r' : Res) : agree s srcs (trap (mirror s srcs t) cause tval) r' :=
  agree_unretired (unretired_trap _ _ _) hk.mirror_retired

theorem agree_localUE (k : Nat) (r' : Res) : agree s srcs (localUE (mirror s srcs t) k) r' :=
  agree_unretired (unretired_localUE _ _) hk.mirror_retired

theorem agree_stallOn (ws : List Nat) (r' : Res) : agree s srcs (stallOn (mirror s srcs t) ws) r' :=
  agree_unretired (unretired_stallOn _ _) hk.mirror_retired

/-- Both runs retire. -/
theorem agree_retire {g : Slot → Slot} (hg : carries s srcs g) (ws : List Word) :
    agree s srcs (.next (retire (updCur (mirror s srcs t) g) ws)) (.next (retire (updCur t g) ws)) := by
  intro u hu _
  obtain rfl := Host.Outcome.next.inj hu
  have hsame : updCur (updCur (mirror s srcs t) g) (handBack s srcs) = updCur t g := by
    rw [mirror, swapped, updCur_updCur, updCur_updCur]
    exact updCur_congr (hg _ hk.v hk.streams)
  rw [withStreams_retire, hsame]

end Runs

end Sys2Proof.Machine
end

section
/-! SUPPORT. The steps that vector instructions take, in the run on bound read streams and in the plain run: scratchpad accesses, irrevocable
operations and requests (O16). -/

namespace Sys2Proof.Machine

open Sys2Proof.Terms

/-- The instruction has not issued: its slot stalls for another reason than STRICT. -/
def stalls (q : State) : Prop := (curSlot q).mode = .stalled ∧ (curSlot q).strictReq = none

/-- What an irrevocable operation that stalls leaves undone. -/
def unlessStalled (s : State) (r : Res) : Res :=
  match r with
  | .next t => if (curSlot t).mode = .stalled ∧ (curSlot t).strictReq = none then stallOn s (curSlot t).waits else .next t
  | o => o

theorem irrevocable_untwinned {s : State} (ht : (curSlot s).twin = none) (d : XReg) (side : State → State) (k : State → Res) :
    irrevocable s d side k = needOutbox s fun s => unlessStalled s (k (released s)) := by
  unfold irrevocable needOutbox
  split
  · rfl
  · dsimp only
    rw [ht]
    rfl

theorem unretired_stallTwin (s : State) (w : TwinWait) : unretired s (stallTwin s w) :=
  unretired_next (idled_setSlot _ _ _ (by exact fun _ => rfl))

theorem slotApart_raiseFor (r : Req) : slotApart fun q => raiseFor q r := by
  intro V S q
  unfold raiseFor setPendX setPendV
  dsimp only
  split
  · split <;> rfl
  · rfl
  · rfl

theorem raiseFor_frame (q : Slot) (r : Req) :
    raiseFor q r = { q with cntL := (raiseFor q r).cntL, cntS := (raiseFor q r).cntS, cntE := (raiseFor q r).cntE,
                            pendX := (raiseFor q r).pendX, pendV := (raiseFor q r).pendV } := by
  unfold raiseFor setPendX setPendV
  dsimp only
  split
  · split <;> rfl
  · rfl
  · rfl

/-- A posted request enters the outbox of the slot (R305). -/
def buffering (op : ROp) (addr : Word) (ordered : Bool) (sl : Slot) : Slot :=
  { sl with outbox := sl.outbox ++ [{ op := op, addr := addr, ordered := ordered, winbase := sl.winbase, retAt := sl.retired + 1,
                                      snapReads := [], rect := none }] }

/-- A message enters the outbox of the slot. -/
def buffered (o : OutReq) (sl : Slot) : Slot := { sl with outbox := sl.outbox ++ [o] }

/-- The outbox entry of a message that goes to one destination (R305). -/
def outMessage (s : State) (m : Msg) : OutReq :=
  { op := .msg m, addr := 0, ordered := true, winbase := 0, rect := none, retAt := (curSlot s).retired + 1,
    snapReads := ((curCore s).reqs.filter fun r => r.slot == s.cur.2 && r.act == (curSlot s).actId && r.cntL).map fun r => r.uid }

section Runs

variable {s t : State} {srcs : List VReg} (hk : Kept s t)

-- Accesses to the own scratchpad

/-- An access to the scratchpad of the current core. -/
def curSpad {α : Type} (s : State) (f : Core → SpadRes α) : Except Nat (α × State) :=
  match f (curCore s) with
  | .error k => .error k
  | .ok (a, c) => .ok (a, setCore s s.cur.1 c)

theorem ownSpad_untwinned {α : Type} (ht : (curSlot s).twin = none) (off : Nat) (f : Core → SpadRes α) : ownSpad s off f = curSpad s f := by
  have hsite : spadSite s off = s.cur.1 := by simp [spadSite, primaryOf, ht]
  unfold ownSpad curSpad
  dsimp only
  rw [hsite]
  rfl

theorem curCore_mirror : curCore (mirror s srcs t) = swapCore (plainV s srcs) (plainS s srcs) t.cur.2 (curCore t) := by
  rw [mirror, swapped_eq, curCore, setCore_cur, getCore_setCore_self]

theorem setCore_mirror {c : Core} (hc : c.slots = (curCore t).slots) :
    setCore (mirror s srcs t) t.cur.1 (reslot (curCore (mirror s srcs t)).slots c) = mirror s srcs (setCore t t.cur.1 c) := by
  rw [curCore_mirror]
  have hcore : curCore (setCore t t.cur.1 c) = c := getCore_setCore_self ..
  rw [mirror, mirror, swapped_eq, swapped_eq, setCore_setCore, hcore, setCore_cur, setCore_setCore]
  simp only [swapCore, hc]
  rfl

include hk

theorem mirror_twin : (curSlot (mirror s srcs t)).twin = none := by
  rw [curSlot_mirror]
  exact hk.twin

theorem agree_curSpad {α : Type} {f : Core → SpadRes α} (hf : spadApart f) {k k' : α → State → Res}
    (h : ∀ v u, Kept s u → agree s srcs (k v (mirror s srcs u)) (k' v u)) :
    agree s srcs (orUE (mirror s srcs t) (curSpad (mirror s srcs t) f) k) (orUE t (curSpad t f) k') := by
  have hplain := hf (swapCore (plainV s srcs) (plainS s srcs) t.cur.2 (curCore t)).slots (curCore t)
  change f (swapCore (plainV s srcs) (plainS s srcs) t.cur.2 (curCore t)) = _ at hplain
  rw [← curCore_mirror] at hplain
  unfold curSpad
  rw [hplain]
  cases hr : f (curCore t) with
  | error n => exact agree_localUE hk n _
  | ok e =>
    have hslots := hf.slots (v := e.1) (d := e.2) hr
    change agree s srcs (k e.1 (setCore (mirror s srcs t) t.cur.1 _)) (k' e.1 (setCore t t.cur.1 e.2))
    rw [setCore_mirror hslots]
    exact h _ _ (hk.setCore hslots)

/-- The same where an instruction writes the access out. -/
theorem agree_spad {α : Type} {f : Core → SpadRes α} (hf : spadApart f) {a a' : Except Nat (α × State)}
    (ha : a = curSpad (mirror s srcs t) f) (ha' : a' = curSpad t f) {k k' : α → State → Res}
    (h : ∀ v u, Kept s u → agree s srcs (k v (mirror s srcs u)) (k' v u)) :
    agree s srcs (orUE (mirror s srcs t) a k) (orUE t a' k') := by
  rw [ha, ha']
  exact agree_curSpad hk hf h

theorem agree_withSpad {α : Type} {f : Core → SpadRes α} (hf : spadApart f) (off : Nat) {k k' : α → State → Res}
    (h : ∀ v u, Kept s u → agree s srcs (k v (mirror s srcs u)) (k' v u)) :
    agree s srcs (withSpad (mirror s srcs t) off f k) (withSpad t off f k') := by
  rw [withSpad, withSpad, ownSpad_untwinned (mirror_twin hk), ownSpad_untwinned hk.twin]
  exact agree_curSpad hk hf h

-- Irrevocable operations

omit hk in
/-- The state that the plain run ends in and its counterpart stall alike. -/
theorem withStreams_mode (u : State) : (curSlot (withStreams s srcs u)).mode = (curSlot u).mode := by
  rw [withStreams_eq, curSlot_updCur]
  rfl

omit hk in
theorem withStreams_strictReq (u : State) : (curSlot (withStreams s srcs u)).strictReq = (curSlot u).strictReq := by
  rw [withStreams_eq, curSlot_updCur]
  rfl

omit hk in
/-- An outcome that is kept unless it stalls, and otherwise retires nothing. -/
theorem agree_unless {r r' a a' : Res} (h : agree s srcs r r') (hend : (∀ q, r ≠ .next q) → a = r)
    (hstall : ∀ q, r = .next q → stalls q → agree s srcs a a') (hgo : ∀ q, r = .next q → ¬stalls q → a = .next q)
    (hgo' : ∀ q, r' = .next q → ¬stalls q → a' = .next q) : agree s srcs a a' := by
  cases hr : r with
  | next q =>
    by_cases hq : stalls q
    · exact hstall q hr hq
    · intro u hu hret
      rw [hgo q hr hq] at hu
      obtain rfl := Host.Outcome.next.inj hu
      have hst : stalls (withStreams s srcs q) ↔ stalls q := by rw [stalls, withStreams_mode, withStreams_strictReq, stalls]
      exact hgo' _ (h q hr hret) (hst.not.mpr hq)
  | fault f =>
    rw [hend (by simp [hr]), hr]
    exact agree_ended (by simp)
  | refused f =>
    rw [hend (by simp [hr]), hr]
    exact agree_ended (by simp)

/-- An instruction that finds that it stalls is undone. -/
theorem agree_orStay {r r' : Res} (h : agree s srcs r r') (p : State) : agree s srcs (orStay (mirror s srcs t) r) (orStay p r') := by
  refine agree_unless h ?_ ?_ ?_ ?_
  · intro hr
    cases r with
    | next q => exact absurd rfl (hr q)
    | fault f => rfl
    | refused f => rfl
  · intro q hq hst
    subst hq
    rw [orStay, if_pos (by exact hst)]
    split
    · exact agree_stallOn hk _ _
    · exact agree_unretired (unretired_stallTwin _ _) hk.mirror_retired
  · intro q hq hst
    subst hq
    exact if_neg hst
  · intro q hq hst
    subst hq
    exact if_neg hst

theorem agree_irrevocable {d d' : XReg} {side side' : State → State} {k k' : State → Res}
    (h : agree s srcs (k (mirror s srcs (released t))) (k' (released t))) :
    agree s srcs (irrevocable (mirror s srcs t) d side k) (irrevocable t d' side' k') := by
  have hrep : (curSlot (mirror s srcs t)).replayable = (curSlot t).replayable := by
    rw [curSlot_mirror]
    rfl
  have hrel : released (mirror s srcs t) = mirror s srcs (released t) := release_swapped ..
  rw [irrevocable_untwinned (mirror_twin hk), irrevocable_untwinned hk.twin, needOutbox, needOutbox, hrep, mirror_cur, mirror,
    outboxRoom_swapped, ← mirror]
  split
  · exact agree_stallOn hk _ _
  · rw [hrel]
    refine agree_unless h ?_ ?_ ?_ ?_
    · intro hr
      cases hm : k (mirror s srcs (released t)) with
      | next q => exact absurd hm (hr q)
      | fault f => rfl
      | refused f => rfl
    · intro q hq hst
      rw [hq, unlessStalled, if_pos (by exact hst)]
      exact agree_stallOn hk _ _
    · intro q hq hst
      rw [hq]
      exact if_neg hst
    · intro q hq hst
      rw [hq]
      exact if_neg hst

theorem agree_localStore {inside : Bool} {side side' : State → State} {k k' : State → Res}
    (h : ∀ u, Kept s u → agree s srcs (k (mirror s srcs u)) (k' u)) :
    agree s srcs (localStore (mirror s srcs t) inside side k) (localStore t inside side' k') := by
  unfold localStore
  split
  · exact h t hk
  · exact agree_irrevocable hk (h _ (hk.releases (releases_released t)))

-- Requests

theorem Kept.updCur {h : Slot → Slot} (hh : slotApart h) (ht : (h (curSlot t)).twin = (curSlot t).twin)
    (hr : (h (curSlot t)).retired = (curSlot t).retired) : Kept s (updCur t h) := by
  refine hk.step rfl ?_ ?_ ?_ ?_ <;> rw [curSlot_updCur]
  · exact hh.v _
  · exact hh.streams _
  · exact ht
  · exact hr

/-- After a request is taken. -/
theorem agree_afterRemote {g : Slot → Slot} (hg : carries s srcs g) {side : State → State}
    (hside : ∀ u ws, retire (side u) ws = retire (updCur u g) ws)
    (ws : List Word) : agree s srcs (afterRemote (mirror s srcs t) ws side) (afterRemote t ws side) := by
  have hstrict : (curSlot (mirror s srcs t)).strict = (curSlot t).strict := by
    rw [curSlot_mirror]
    rfl
  unfold afterRemote
  dsimp only
  rw [hstrict]
  split
  · refine agree_unretired (unretired_next (idled_updCore (idled_set _ _ ?_))) hk.mirror_retired
    rfl
  · rw [hside, hside]
    exact agree_retire hk hg ws

theorem agree_sendReq {g : Slot → Slot} (hg : carries s srcs g) {side : State → State}
    (hside : ∀ u ws, retire (side u) ws = retire (updCur u g) ws)
    (r : Req) (ws : List Word) : agree s srcs (sendReq (mirror s srcs t) r ws side) (sendReq t r ws side) := by
  have hplaced : placed (mirror s srcs t) r ws = placed t r ws := by
    rw [placed, curSlot_mirror]
    rfl
  unfold sendReq
  rw [mirror_cur, hplaced, mirror, roomFor_swapped, updCur_swapped (slotApart_raiseFor r), injectAll_swapped, ← mirror, ← mirror]
  split
  · refine agree_afterRemote ?_ hg hside _
    refine Kept.releases ?_ (releases_injectAll ..)
    exact hk.updCur (slotApart_raiseFor r) (by rw [raiseFor_frame]) (by rw [raiseFor_frame])
  · exact agree_stallOn hk _ _

theorem agree_postReq {g : Slot → Slot} (hg : carries s srcs g) (op : ROp) (addr : Word) (ordered : Bool) (ws : List Word) :
    agree s srcs (postReq (mirror s srcs t) op addr ordered ws fun u => updCur u g) (postReq t op addr ordered ws fun u => updCur u g) := by
  have hsend : ∀ u, Kept s u → agree s srcs
      (sendReq (mirror s srcs u) (mkReq (mirror s srcs u) op addr (homeOf (mirror s srcs u) addr) ordered .none false true false)
        (addr :: ws) fun u => updCur u g)
      (sendReq u (mkReq u op addr (homeOf u addr) ordered .none false true false)
        (addr :: ws) fun u => updCur u g) := fun u hu => by
    rw [mirror, mkReq_swapped, ← mirror]
    exact agree_sendReq hu hg (fun _ _ => rfl) _ _
  have hsl : ∀ {α : Type} {g : Slot → α}, (∀ V S q, g (swapSlot V S q) = g q) → g (curSlot (mirror s srcs t)) = g (curSlot t) := fun h => by
    rw [curSlot_mirror, h]
  unfold postReq
  dsimp only
  rw [hsl (g := Slot.replayable) fun _ _ _ => rfl, hsl (g := Slot.outbox) fun _ _ _ => rfl, mirror_twin hk, hk.twin]
  split
  · split
    · change agree s srcs (.next (retire (updCur (updCur _ g) (buffering op addr ordered)) _))
        (.next (retire (updCur (updCur _ g) (buffering op addr ordered)) _))
      rw [updCur_updCur, updCur_updCur]
      exact agree_retire hk (carries_apart (h := buffering op addr ordered) (fun _ _ _ => rfl) hg) _
    · exact agree_irrevocable hk (hsend _ (hk.releases (releases_released t)))
  · exact hsend t hk

-- Messages

theorem agree_injectSend {g : Slot → Slot} (hg : carries s srcs g) (m : Msg) (ws : List Word) :
    agree s srcs (injectSend (mirror s srcs t) m none ws fun u => updCur u g) (injectSend t m none ws fun u => updCur u g) := by
  have hsnap : snapshotLS (curCore (mirror s srcs t)) t.cur.2 (curSlot (mirror s srcs t)).actId =
      snapshotLS (curCore t) t.cur.2 (curSlot t).actId := by
    rw [curSlot_mirror]
    exact curCore_swapped (g := fun c => snapshotLS c t.cur.2 (curSlot t).actId) fun _ _ => rfl
  have hhome : msgHome (mirror s srcs t) t.cur.1 m.dstDev m.dstCore = msgHome t t.cur.1 m.dstDev m.dstCore := rfl
  have hcount : slotApart fun q => { q with cntS := q.cntS + 1 } := fun _ _ _ => rfl
  unfold injectSend
  dsimp only
  rw [mirror_cur, hsnap, hhome, mirror, roomFor_swapped, mkReq_swapped, updCur_swapped hcount, injectAll_swapped, ← mirror, ← mirror]
  split
  · refine agree_afterRemote ?_ hg (fun _ _ => rfl) _
    exact (hk.updCur hcount rfl rfl).releases (releases_injectAll ..)
  · exact agree_stallOn hk _ _

omit hk in
theorem outMessage_mirror (m : Msg) : outMessage (mirror s srcs t) m = outMessage t m := by
  have hreqs : (curCore (mirror s srcs t)).reqs = (curCore t).reqs := curCore_swapped fun _ _ => rfl
  rw [outMessage, hreqs, curSlot_mirror]
  rfl

theorem agree_postMsg {g : Slot → Slot} (hg : carries s srcs g) (m : Msg) (ws : List Word) :
    agree s srcs (postMsg (mirror s srcs t) m none ws fun u => updCur u g) (postMsg t m none ws fun u => updCur u g) := by
  have hsl : ∀ {α : Type} {g : Slot → α}, (∀ V S q, g (swapSlot V S q) = g q) → g (curSlot (mirror s srcs t)) = g (curSlot t) := fun h => by
    rw [curSlot_mirror, h]
  unfold postMsg
  dsimp only
  rw [hsl (g := Slot.replayable) fun _ _ _ => rfl, hsl (g := Slot.outbox) fun _ _ _ => rfl, mirror_twin hk, hk.twin]
  split
  · split
    · change agree s srcs (.next (retire (updCur (updCur _ g) (buffered (outMessage (mirror s srcs t) m))) ws))
        (.next (retire (updCur (updCur _ g) (buffered (outMessage t m))) ws))
      rw [outMessage_mirror, updCur_updCur, updCur_updCur]
      exact agree_retire hk (carries_apart (h := buffered (outMessage t m)) (fun _ _ _ => rfl) hg) _
    · exact agree_irrevocable hk (agree_injectSend (hk.releases (releases_released t)) hg m ws)
  · exact agree_injectSend hk hg m ws

end Runs

end Sys2Proof.Machine
end

section
/-! SUPPORT. What bound read streams feed a vector instruction with (R111, O16). -/

namespace Sys2Proof.Machine

open Sys2Proof.Terms

/-- The state, or the same with its current core put back. -/
def restated (s t : State) : Prop := t = s ∨ t = setCore s s.cur.1 (curCore s)

theorem curCore_restated {s t : State} (h : restated s t) : curCore t = curCore s := by
  rcases h with rfl | rfl
  · rfl
  · exact getCore_setCore_self ..

theorem cur_restated {s t : State} (h : restated s t) : t.cur = s.cur := by
  rcases h with rfl | rfl <;> rfl

theorem setCore_restated {s t : State} (h : restated s t) (c : Core) : setCore t s.cur.1 c = setCore s s.cur.1 c := by
  rcases h with rfl | rfl
  · rfl
  · exact setCore_setCore ..

theorem curSlot_restated {s t : State} (h : restated s t) : curSlot t = curSlot s := by
  simp only [curSlot_eq, curCore_restated h, cur_restated h]

/-- Lanes put into zeros, those below the end. -/
theorem putLanes_zeros (p : Fin 32 → Bool) (g : Fin 32 → Nat) :
    putLanes (Vector.replicate 32 0) (((List.finRange 32).filter p).map fun l => (l, g l)) =
      Vector.ofFn fun l : Fin 32 => if p l then BitVec.ofNat 32 (g l) else 0 := by
  rw [putLanes_map]
  ext1 i hi
  simp [Vector.getElem_ofFn]

section Reads

variable {s t : State}

/-- The lanes below the end of a stream are read as they stand. -/
theorem readLanesAt_sound {c : Core} {sc : Nat → Nat} {w : Nat} {L : List (Fin 32)} {e : Fin 32 → ElemAt}
    (h : ∀ l ∈ L, sound c (elemRanges sc w (e l))) :
    readLanesAt c sc w (L.map fun l => (l, e l)) = .ok (L.map fun l => (l, readElem c.spad sc w (e l)), c) := by
  have hs : sound c ((L.map fun l => (l, e l)).flatMap fun x => elemRanges sc w x.2) := by
    intro r hr
    obtain ⟨x, hx, hr⟩ := List.mem_flatMap.mp hr
    obtain ⟨l, hl, rfl⟩ := List.mem_map.mp hx
    exact h l hl r hr
  rw [readLanesAt, spadRead_sound hs, List.map_map]
  rfl

/-- A source without bit errors in what it reads gives what `fed` says. -/
theorem readSource_fed (ht : (curSlot s).twin = none) {r : VReg}
    (hf : ∀ y, streamOf (curSlot s) r = some y → soundStream s y) (hst : restated s t) :
    ∃ u, restated s u ∧ readSource t (curSlot s) r = .ok (fed s r, u) := by
  unfold readSource fed
  cases hb : streamOf (curSlot s) r with
  | none => exact ⟨t, hst, rfl⟩
  | some y =>
    have hlanes := readLanesAt_sound (c := curCore s) (sc := mx4ScaleOff (curSlot s).winbase) (w := meshWin y.base)
      (L := (List.finRange 32).filter fun l => decide (y.pos + l.val < y.count)) (e := fun l => streamElem y (y.pos + l.val))
      fun l hl => hf y hb l (by simpa using hl)
    have hsame : setCore t t.cur.1 (curCore s) = setCore s s.cur.1 (curCore s) := by
      rw [cur_restated hst]
      exact setCore_restated hst _
    refine ⟨_, .inr rfl, ?_⟩
    dsimp only
    rw [ownSpad_untwinned (by rw [curSlot_restated hst]; exact ht), curSpad, curCore_restated hst, hlanes]
    dsimp only
    rw [hsame, putLanes_zeros]
    simp only [decide_eq_true_eq]
    rfl

theorem readSources_fed (ht : (curSlot s).twin = none) {rs : List VReg} (hf : feeds s rs) (hst : restated s t) :
    ∃ u, restated s u ∧ readSources t (curSlot s) rs = .ok (rs.map (fed s), u) := by
  induction rs generalizing t with
  | nil => exact ⟨t, hst, rfl⟩
  | cons r rs ih =>
    obtain ⟨u, hu, hr⟩ := readSource_fed ht (fun y hy => (hf r (by simp) y hy).2.2) hst
    obtain ⟨v, hv, hrs⟩ := ih (fun q hq => hf q (by simp [hq])) hu
    exact ⟨v, hv, by rw [readSources, hr]; dsimp only; rw [hrs]; rfl⟩

/-- No source, destination or loaded register is at fault. -/
theorem streamFault_none {sl : Slot} {srcs dsts loads : List VReg} (h : ∀ r, streamFault1 sl srcs dsts loads r = none) :
    streamFault sl srcs dsts loads = none := by
  simp [streamFault, h]

/-- Bound read streams with elements left are not at fault. -/
theorem streamFault_fed {srcs dsts loads : List VReg} (hf : feeds s srcs) (hu : unbound s (dsts ++ loads)) :
    streamFault (curSlot s) srcs dsts loads = none := by
  refine streamFault_none fun r => ?_
  unfold streamFault1
  cases hb : streamOf (curSlot s) r with
  | none => rfl
  | some y =>
    have hrest : r ∉ dsts ∧ r ∉ loads := by
      constructor <;> intro hm <;> (rw [hu r (by simp [hm])] at hb; cases hb)
    by_cases hm : r ∈ srcs
    · obtain ⟨hw, hp, -⟩ := hf r hm y hb
      simp [hrest, hm, hw, Nat.not_le.mpr hp]
    · simp [hrest, hm]

-- The plain run

variable {srcs : List VReg}

theorem mirror_restated (h : restated s t) : mirror s srcs t = mirror s srcs s := by
  rw [mirror, mirror, swapped_eq, swapped_eq, cur_restated h, curCore_restated h, setCore_restated h]

theorem kept_restated (ht : (curSlot s).twin = none) (h : restated s t) : Kept s t :=
  (Kept.refl ht).step (cur_restated h) (by rw [curSlot_restated h]) (by rw [curSlot_restated h]) (by rw [curSlot_restated h])
    (by rw [curSlot_restated h])

/-- A source of the plain run is no stream and holds what it gives. -/
theorem streamOf_mirror {r : VReg} (hr : r ∈ srcs ∨ streamOf (curSlot s) r = none) : streamOf (curSlot (mirror s srcs s)) r = none := by
  rw [curSlot_mirror]
  unfold streamOf at hr ⊢
  split
  · next h =>
    have hreg : (⟨28 + (r.val - 28), by omega⟩ : VReg) = r := Fin.ext (by simp; omega)
    simp only [swapSlot, plainS, Fin.getElem_fin, Vector.getElem_ofFn, List.append_nil, hreg]
    rcases hr with hr | hr
    · rw [if_pos hr]
    · rw [dif_pos h] at hr
      split
      · rfl
      · exact hr
  · rfl

theorem getV_mirror {r : VReg} (hr : r ∈ srcs) : getV (curSlot (mirror s srcs s)) r = fed s r := by
  rw [curSlot_mirror]
  simp [getV, swapSlot, plainV, hr]

/-- A register that is no stream holds in the plain run what it holds. -/
theorem getV_mirror_unbound {r : VReg} (hr : streamOf (curSlot s) r = none) : getV (curSlot (mirror s srcs s)) r = getV (curSlot s) r := by
  rw [curSlot_mirror]
  simp only [getV, swapSlot, plainV, Fin.getElem_fin, Vector.getElem_ofFn]
  split
  · simp [fed, hr, getV]
  · rfl

/-- The sources are read in both runs, and give the same. -/
theorem agree_reads (ht : (curSlot s).twin = none) (hf : feeds s srcs) {k k' : List Lanes → State → Res}
    (h : ∀ u, Kept s u → mirror s srcs u = mirror s srcs s → agree s srcs (k (srcs.map (fed s)) (mirror s srcs u)) (k' (srcs.map (fed s)) u)) :
    agree s srcs (orUE (mirror s srcs s) (readSources (mirror s srcs s) (curSlot (mirror s srcs s)) srcs) k)
      (orUE s (readSources s (curSlot s) srcs) k') := by
  obtain ⟨u, hu, hr⟩ := readSources_fed ht hf (.inl rfl)
  have hplain : srcs.map (getV (curSlot (mirror s srcs s))) = srcs.map (fed s) := List.map_congr_left fun r hr => getV_mirror hr
  rw [hr, readSources_unbound _ _ _ fun r hr => streamOf_mirror (.inl hr), hplain]
  have hk := h u (kept_restated ht hu) (mirror_restated hu)
  rwa [mirror_restated hu] at hk

/-- One source is read. -/
theorem orUE_readSource (s : State) (sl : Slot) (r : VReg) (k : Lanes → State → Res) :
    orUE s (readSource s sl r) k = orUE s (readSources s sl [r]) fun vs u => k (srcAt vs 0) u := by
  unfold readSources
  cases readSource s sl r with
  | error n => rfl
  | ok e => rfl

/-- Streams are not at fault in the plain run either. -/
theorem streamFault_mirror {dsts loads : List VReg} (hu : unbound s (dsts ++ loads)) :
    streamFault (curSlot (mirror s srcs s)) srcs dsts loads = none := by
  refine streamFault_unbound _ _ _ _ fun r hr => streamOf_mirror ?_
  rw [List.append_assoc] at hr
  exact (List.mem_append.mp hr).imp_right (hu r)

end Reads

end Sys2Proof.Machine
end

section
/-! SUPPORT. Each kind of vector instruction on bound read streams, against its plain run (R111, O16). -/

namespace Sys2Proof.Machine

open Sys2Proof.Terms

/-- A lane operation looks at neither the vector registers nor the streams of the slot: its sources come to it as values. -/
def laneOp (F : Slot → List Lanes → FEnv → List (Fin 32 × Nat) × FEnv) : Prop := ∀ V S sl, F (swapSlot V S sl) = F sl

theorem slotApart_putEnv (e : FEnv) : slotApart fun q => putEnv q e := fun _ _ _ => rfl
theorem slotApart_setM (a : MReg) (v : Mask32) : slotApart fun q => setM q a v := by
  intro V S q
  unfold setM
  dsimp only
  split <;> rfl
theorem slotApart_setX (a : XReg) (v : Word) : slotApart fun q => setX q a v := by
  intro V S q
  unfold setX
  dsimp only
  split <;> rfl

theorem getM_swapSlot (V : Vector Lanes 32) (S : Vector (Option Stream) 4) (q : Slot) (k : MReg) : getM (swapSlot V S q) k = getM q k := rfl
theorem envOf_swapSlot (V : Vector Lanes 32) (S : Vector (Option Stream) 4) (q : Slot) : envOf (swapSlot V S q) = envOf q := rfl

section Instructions

variable {s : State} {srcs : List VReg}

theorem xReady_mirror {xs : List XReg} (h : xReady s xs) : xReady (mirror s srcs s) xs := by
  unfold xReady at *
  rw [curSlot_mirror]
  exact h

theorem vReady_mirror {vs : List VReg} (h : vReady s vs) : vReady (mirror s srcs s) vs := by
  unfold vReady at *
  rw [curSlot_mirror]
  exact h

theorem getX_mirror (b : XReg) : getX (curSlot (mirror s srcs s)) b = getX (curSlot s) b := by
  rw [curSlot_mirror]
  rfl

theorem getM_mirror (k : MReg) : getM (curSlot (mirror s srcs s)) k = getM (curSlot s) k := by
  rw [curSlot_mirror]
  rfl

theorem winbase_mirror : (curSlot (mirror s srcs s)).winbase = (curSlot s).winbase := by
  rw [curSlot_mirror]
  rfl

theorem isOwn_mirror {t : State} (e : Word) : isOwn (mirror s srcs t) e = isOwn t e := isOwn_swapped e

theorem checkVec_mirror (e : Word) (store bcast : Bool) (act : Mask32) :
    checkVec (mirror s srcs s) (curSlot (mirror s srcs s)) e store bcast act = checkVec s (curSlot s) e store bcast act := by
  rw [curSlot_mirror]
  exact checkVec_swapped e store bcast act

theorem checkGather_mirror (x : Word) (idx : Lanes) (act : Mask32) : checkGather (mirror s srcs s) x idx act = checkGather s x idx act :=
  checkGather_swapped x idx act

theorem checkAdd_mirror (e : Word) (act : Mask32) (idx : Option Lanes) : checkAdd (mirror s srcs s) e act idx = checkAdd s e act idx :=
  checkAdd_swapped e act idx

theorem ownTile_mirror (n : Nat) : getTile (ownCore (mirror s srcs s)) n = getTile (ownCore s) n := ownTile_swapped n

/-- Besides its sources an instruction names no stream. -/
theorem names_bound {a : VReg} (ha : streamOf (curSlot s) a = none) (r : VReg) (hr : streamOf (curSlot s) r ≠ none) :
    r ∈ a :: srcs ↔ r ∈ srcs := by
  have hne : r ≠ a := fun h => hr (h ▸ ha)
  simp [hne]

variable (ht : (curSlot s).twin = none) (hf : feeds s srcs)

include ht hf

theorem agree_vecOp {xs : List XReg} {a : VReg} {F : Slot → List Lanes → FEnv → List (Fin 32 × Nat) × FEnv} (hF : laneOp F)
    (hx : xReady s xs) (hv : vReady s (a :: srcs)) (hu : unbound s [a]) :
    agree s srcs (vecOp (mirror s srcs s) xs srcs a F) (vecOp s xs srcs a F) := by
  have ha : streamOf (curSlot s) a = none := hu a (by simp)
  have hpa := streamOf_mirror (srcs := srcs) (.inr ha)
  have hra := getV_mirror_unbound (srcs := srcs) ha
  unfold vecOp
  rw [needXV_ready _ (xReady_mirror hx) (vReady_mirror hv), needXV_ready _ hx hv]
  dsimp only
  rw [streamFault_mirror (by simpa using hu), streamFault_fed hf (by simpa using hu)]
  refine agree_reads ht hf fun u hk hm => ?_
  have hFe : F (curSlot (mirror s srcs s)) (srcs.map (fed s)) (envOf (curSlot (mirror s srcs s))) =
      F (curSlot s) (srcs.map (fed s)) (envOf (curSlot s)) := by
    rw [curSlot_mirror, hF]
    rfl
  have hau : streamOf (curSlot u) a = none := by
    unfold streamOf at ha ⊢
    rw [hk.streams]
    exact ha
  have hgu : getV (curSlot u) a = getV (curSlot s) a := by rw [getV, hk.v, getV]
  rw [hFe, writeDest, writeDest, hm, hpa, hau]
  dsimp only
  have hget : ∀ sl : Slot, sl.v[a] = getV sl a := fun _ => rfl
  rw [hget, hget, hra, hgu, ← hm]
  exact agree_retire hk (carries_setV ha _ (carries_apart (slotApart_putEnv _) (carries_consume (names_bound ha)))) _

theorem agree_vecCmp {a : MReg} {c b : VReg} {k : MReg} {p : Nat → Nat → FEnv → Bool × FEnv} (hs : srcs = [c, b]) (hv : vReady s srcs) :
    agree s srcs (vecCmp a c b k p (mirror s srcs s)) (vecCmp a c b k p s) := by
  have hx : xReady s [] := by simp [xReady]
  unfold vecCmp
  rw [← hs, needXV_ready _ (xReady_mirror hx) (vReady_mirror hv), needXV_ready _ hx hv]
  dsimp only
  rw [streamFault_mirror (by simp [unbound]), streamFault_fed hf (by simp [unbound])]
  refine agree_reads ht hf fun u hk _ => ?_
  rw [curSlot_mirror, getM_swapSlot, getM_swapSlot, envOf_swapSlot]
  exact agree_retire hk (carries_apart (slotApart_setM a _) (carries_apart (slotApart_putEnv _) (carries_consume fun _ _ => Iff.rfl))) _

theorem agree_vext {t : VTy} {a : XReg} {b : VReg} {n : Fin 32} (hs : srcs = [b]) (hx : xReady s [a]) (hv : vReady s srcs) :
    agree s srcs (execVext t a b n (mirror s srcs s)) (execVext t a b n s) := by
  unfold execVext
  rw [← hs, needXV_ready _ (xReady_mirror hx) (vReady_mirror hv), needXV_ready _ hx hv]
  dsimp only
  rw [streamFault_mirror (by simp [unbound]), streamFault_fed hf (by simp [unbound])]
  refine agree_reads ht hf fun u hk _ => ?_
  unfold retireX
  rw [updCur_updCur, updCur_updCur]
  exact agree_retire hk (carries_apart (slotApart_setX a _) (carries_consume fun _ _ => Iff.rfl)) _

omit ht hf in
/-- A store of both runs into the own scratchpad. -/
theorem agree_store {t : State} (hk : Kept s t) {inside : Bool} {off : Nat} {f : Core → SpadRes Unit} (hsp : spadApart f) {g : Slot → Slot}
    (hg : carries s srcs g) :
    agree s srcs
      (localStore (mirror s srcs t) inside (fun u => updCur u g) fun u => withSpad u off f fun _ u => .next (retire (updCur u g) []))
      (localStore t inside (fun u => updCur u g) fun u => withSpad u off f fun _ u => .next (retire (updCur u g) [])) :=
  agree_localStore hk fun _ hu => agree_withSpad hu hsp off fun _ _ hw => agree_retire hw hg []

omit ht hf in
theorem carries_srcs : carries s srcs fun q => consume q srcs := carries_consume fun _ _ => Iff.rfl

theorem agree_vst {a : VReg} {b : XReg} {imm : Int} {rlx : Bool} {k : MReg} (hs : srcs = [a]) (hx : xReady s [b]) (hv : vReady s srcs) :
    agree s srcs (execVst a b imm rlx k (mirror s srcs s)) (execVst a b imm rlx k s) := by
  have hself : Kept s s := .refl ht
  unfold execVst
  rw [← hs, needXV_ready _ (xReady_mirror hx) (vReady_mirror hv), needXV_ready _ hx hv]
  dsimp only
  rw [streamFault_mirror (by simp [unbound]), streamFault_fed hf (by simp [unbound]), orUE_readSource, orUE_readSource, ← hs,
    getX_mirror, getM_mirror, checkVec_mirror, winbase_mirror]
  dsimp only
  split
  · exact agree_trap hself _ _ _
  · refine agree_orStay hself (agree_reads ht hf fun u hk _ => ?_) _
    rw [isOwn_mirror, mirror_cur]
    split
    · exact agree_store hk (writeVec_apart _ _ _ _ _) carries_srcs
    · exact agree_postReq hk carries_srcs _ _ _ _

theorem agree_vecAdd {t : VTy} {a : VReg} {b : XReg} {c : Option VReg} {k : MReg} (hs : srcs = a :: c.toList) (hx : xReady s [b])
    (hv : vReady s srcs) : agree s srcs (vecAdd t a b c k (mirror s srcs s)) (vecAdd t a b c k s) := by
  have hself : Kept s s := .refl ht
  unfold vecAdd
  dsimp only
  rw [← hs, needXV_ready _ (xReady_mirror hx) (vReady_mirror hv), needXV_ready _ hx hv, streamFault_mirror (by simp [unbound]),
    streamFault_fed hf (by simp [unbound]), getX_mirror, getM_mirror]
  refine agree_orStay hself (agree_reads ht hf fun u hk _ => ?_) _
  rw [checkAdd_mirror, isOwn_mirror]
  split
  · exact agree_trap hself _ _ _
  · split
    · exact agree_retire hk carries_srcs _
    · split
      · rw [mirror_cur]
        exact agree_store hk (spadAdds_apart _ _ _) carries_srcs
      · exact agree_postReq hk carries_srcs _ _ _ _

theorem agree_vstx {a : VReg} {b : XReg} {c : VReg} {k : MReg} (hs : srcs = [a, c]) (hx : xReady s [b]) (hv : vReady s srcs) :
    agree s srcs (execVstx a b c k (mirror s srcs s)) (execVstx a b c k s) := by
  have hself : Kept s s := .refl ht
  unfold execVstx
  rw [← hs, needXV_ready _ (xReady_mirror hx) (vReady_mirror hv), needXV_ready _ hx hv]
  dsimp only
  rw [streamFault_mirror (by simp [unbound]), streamFault_fed hf (by simp [unbound]), getX_mirror, getM_mirror, winbase_mirror]
  refine agree_reads ht hf fun u hk _ => ?_
  rw [checkGather_mirror]
  split
  · exact agree_trap hself _ _ _
  · rw [mirror_cur]
    exact agree_store hk (writeLanesAt_apart _ _ _) carries_srcs

theorem agree_vldx {a : VReg} {b : XReg} {c : VReg} {k : MReg} (hs : srcs = [c]) (hu : unbound s [a]) (hx : xReady s [b])
    (hv : vReady s [a, c]) : agree s srcs (execVldx a b c k (mirror s srcs s)) (execVldx a b c k s) := by
  have hself : Kept s s := .refl ht
  have ha : streamOf (curSlot s) a = none := hu a (by simp)
  have hget : ∀ sl : Slot, sl.v[a] = getV sl a := fun _ => rfl
  unfold execVldx
  rw [needXV_ready _ (xReady_mirror hx) (vReady_mirror hv), needXV_ready _ hx hv, ← hs]
  dsimp only
  rw [streamFault_mirror (by simpa using hu), streamFault_fed hf (by simpa using hu), orUE_readSource, orUE_readSource, ← hs,
    getX_mirror, getM_mirror, winbase_mirror, hget, hget, getV_mirror_unbound ha]
  refine agree_reads ht hf fun u hk _ => ?_
  rw [checkGather_mirror]
  split
  · exact agree_trap hself _ _ _
  · refine agree_withSpad hk (readLanesAt_apart _ _ _) _ fun ls w hw => ?_
    exact agree_retire hw (carries_setV ha _ carries_srcs) _

theorem agree_sendv {a : XReg} {b : VReg} {n : Fin 7} (hs : srcs = if n.val = 0 then [] else [b]) (hx : xReady s [a])
    (hv : vReady s srcs) : agree s srcs (execSendv a b n (mirror s srcs s)) (execSendv a b n s) := by
  have hself : Kept s s := .refl ht
  unfold execSendv
  dsimp only
  rw [← hs, needXV_ready _ (xReady_mirror hx) (vReady_mirror hv), needXV_ready _ hx hv, streamFault_mirror (by simp [unbound]),
    streamFault_fed hf (by simp [unbound]), getX_mirror]
  dsimp only
  split
  · exact agree_trap hself _ _ _
  · refine agree_orStay hself (agree_reads ht hf fun u hk _ => ?_) _
    rw [mirror, sendMsg_swapped, ← mirror]
    exact agree_postMsg hk carries_srcs _ _

/-- The core with a tile entry changed. -/
def withTile (n : Nat) (f : Tile → Tile) (c : Core) : Core :=
  match getTile c n with
  | some e => setTile c n (f e)
  | none => c

omit ht hf in
theorem updTile_mirror {t : State} (n : Nat) (f : Tile → Tile) :
    updTile (mirror s srcs t) t.cur.1 n f = mirror s srcs (updTile t t.cur.1 n f) := by
  refine updCore_swapped (f := withTile n f) (f' := withTile n f) (swapAt_apart fun w c => ?_)
  have htile : getTile { c with slots := w } n = getTile c n := rfl
  unfold withTile
  rw [htile]
  split <;> rfl

omit ht hf in
theorem Kept.updTile {t : State} (hk : Kept s t) (n : Nat) (f : Tile → Tile) : Kept s (updTile t t.cur.1 n f) := by
  refine hk.setCore ?_
  dsimp only
  split <;> rfl

omit ht hf in
theorem writeTile_spad (u : State) (sc : Nat → Nat) (w : Nat) (es : List (Nat × ElemAt)) :
    (match writeLanesAt (curCore u) sc w es with
      | .error k => .error k
      | .ok (x, c) => .ok (x, putCur u c)) = curSpad u fun c => writeLanesAt c sc w es := by
  unfold curSpad
  dsimp only
  cases writeLanesAt (curCore u) sc w es <;> rfl

omit ht hf in
theorem readTile_spad (u : State) (e : Tile) (i g : Nat) (act : Mask32) :
    (match readTile (getCore u u.cur.1) e i g act with
      | .error k => .error k
      | .ok (ls, c) => .ok (ls, setCore u u.cur.1 c)) = curSpad u fun c => readTile c e i g act := by
  unfold curSpad curCore
  dsimp only
  cases readTile (getCore u u.cur.1) e i g act <;> rfl

theorem agree_vstt {a : VReg} {t : TileIx} {b : XReg} {k : MReg} (hs : srcs = [a]) (hx : xReady s [b]) (hv : vReady s srcs) :
    agree s srcs (execVstt a t b k (mirror s srcs s)) (execVstt a t b k s) := by
  have hself : Kept s s := .refl ht
  have htakes : ∀ u : State, (curSlot u).twin = none → takesResult u = false := fun u hu => by simp [takesResult, isSecondary, hu]
  unfold execVstt
  rw [← hs, needXV_ready _ (xReady_mirror hx) (vReady_mirror hv), needXV_ready _ hx hv]
  dsimp only
  rw [streamFault_mirror (by simp [unbound]), streamFault_fed hf (by simp [unbound]), getX_mirror, getM_mirror, ownTile_mirror,
    htakes _ (mirror_twin hself), htakes _ ht, if_neg Bool.false_ne_true, if_neg Bool.false_ne_true]
  dsimp only
  split
  · exact agree_trap hself _ _ _
  · split
    · exact agree_trap hself _ _ _
    · next e _ =>
      split
      · exact agree_stallOn hself _ _
      · rw [orUE_readSource, orUE_readSource, ← hs]
        refine agree_reads ht hf fun u hk _ => agree_localStore hk fun w hw => ?_
        refine agree_spad hw (writeLanesAt_apart _ _ _) (writeTile_spad ..) (writeTile_spad ..) fun _ y hy => ?_
        rw [mirror_cur, updTile_mirror]
        split
        · exact agree_retire (hy.updTile _ _) carries_srcs _
        · exact agree_retire hy carries_srcs _

end Instructions

-- What has no sources

section Loads

variable {s : State} {a : VReg} {b : XReg} (ht : (curSlot s).twin = none) (hu : unbound s [a]) (hx : xReady s [b]) (hv : vReady s [a])

include ht hu hx hv

theorem agree_vins {n : Fin 32} : agree s [] (execVins a b n (mirror s [] s)) (execVins a b n s) := by
  have ha : streamOf (curSlot s) a = none := hu a (by simp)
  unfold execVins
  rw [needXV_ready _ (xReady_mirror hx) (vReady_mirror hv), needXV_ready _ hx hv]
  dsimp only
  rw [streamFault_mirror (by simpa using hu), streamFault_fed (by simp [feeds]) (by simpa using hu), getX_mirror, getV_mirror_unbound ha]
  exact agree_retire (.refl ht) (carries_setV ha _ carries_id) _

theorem agree_vecLoad {bcast : Bool} {imm : Int} {rlx : Bool} {k : MReg} :
    agree s [] (vecLoad bcast a b imm rlx k (mirror s [] s)) (vecLoad bcast a b imm rlx k s) := by
  have hself : Kept s s := .refl ht
  have ha : streamOf (curSlot s) a = none := hu a (by simp)
  have hget : ∀ sl : Slot, sl.v[a] = getV sl a := fun _ => rfl
  unfold vecLoad
  rw [needXV_ready _ (xReady_mirror hx) (vReady_mirror hv), needXV_ready _ hx hv]
  dsimp only
  rw [streamFault_mirror (by simpa using hu), streamFault_fed (by simp [feeds]) (by simpa using hu), getX_mirror, getM_mirror, checkVec_mirror,
    isOwn_mirror, winbase_mirror, hget, hget, getV_mirror_unbound ha]
  dsimp only
  split
  · exact agree_trap hself _ _ _
  · split
    · exact agree_withSpad hself (readVec_apart _ _ _ _ _) _ fun ls w hw => agree_retire hw (carries_setV ha _ carries_id) _
    · have hsend := fun r ws => agree_sendReq hself (carries_id (s := s)) (side := id) (fun u ws => ?_) r ws
      · unfold loadReq
        rw [mirror, mkReq_swapped, ← mirror]
        exact hsend _ _
      · rw [id, retire_eq, retire_updCur _ _ _ rfl rfl]

theorem agree_vldt {t : TileIx} {k : MReg} : agree s [] (execVldt a t b k (mirror s [] s)) (execVldt a t b k s) := by
  have hself : Kept s s := .refl ht
  have ha : streamOf (curSlot s) a = none := hu a (by simp)
  have hget : ∀ sl : Slot, sl.v[a] = getV sl a := fun _ => rfl
  have hown : ∀ u : State, (curSlot u).twin = none → ownSite u = u.cur.1 := fun u hu => by simp [ownSite, primaryOf, hu]
  unfold execVldt
  rw [needXV_ready _ (xReady_mirror hx) (vReady_mirror hv), needXV_ready _ hx hv]
  dsimp only
  rw [streamFault_mirror (by simpa using hu), streamFault_fed (by simp [feeds]) (by simpa using hu), getX_mirror, getM_mirror, ownTile_mirror,
    hget, hget, getV_mirror_unbound ha]
  dsimp only
  split
  · exact agree_trap hself _ _ _
  · split
    · exact agree_trap hself _ _ _
    · next e _ =>
      split
      · exact agree_stallOn hself _ _
      · split
        · exact agree_trap hself _ _ _
        · rw [ownCore, ownCore, hown _ (mirror_twin hself), hown _ ht]
          exact agree_spad hself (readTile_apart _ _ _ _) (readTile_spad ..) (readTile_spad ..) fun ls w hw =>
            agree_retire hw (carries_setV ha _ carries_id) _

end Loads

end Sys2Proof.Machine
end

section
/-! SUPPORT. The vector instructions by their forms (O16): those that write lanes to a vector register are lane operations, and each other one
is read in its own terms. -/

namespace Sys2Proof.Machine

open Sys2Proof.Terms

/-- The operation writes the lanes of a mask, in their order. -/
def writesLanes (F : Slot → List Lanes → FEnv → List (Fin 32 × Nat) × FEnv) (k : MReg) : Prop :=
  ∀ sl vs e, ((F sl vs e).1).map Prod.fst = laneList (getM sl k)

/-- The instruction is a lane operation of its form. -/
structure laneForm (i : Instr) (f : VecForm) (a : VReg) (F : Slot → List Lanes → FEnv → List (Fin 32 × Nat) × FEnv) : Prop where
  run : ∀ s, exec i s = vecOp s f.xs f.srcs a F
  dst : f.dst = some a
  loads : f.loads = []
  lane : laneOp F
  writes : writesLanes F f.wr

theorem mapLanes_lanes (act : Mask32) (g : Fin 32 → FEnv → Nat × FEnv) (e : FEnv) : ((mapLanes act g e).1).map Prod.fst = laneList act := by
  have key : ∀ (L : List (Fin 32)) (r : List (Fin 32 × Nat) × FEnv),
      ((L.foldl (fun r l => let y := g l r.2; (r.1 ++ [(l, y.1)], y.2)) r).1).map Prod.fst = r.1.map Prod.fst ++ L := by
    intro L
    induction L with
    | nil => simp
    | cons l L ih => intro r; simp [ih]
  exact key _ _

section Lanes

variable {i : Instr} {a b c d : VReg} {k : MReg}

-- Operations lane by lane under the mask

theorem laneForm_bin {g : Nat → Nat → FEnv → Nat × FEnv} (hr : ∀ s, exec i s = vecBin a c b k g s) :
    ∃ F, laneForm i { srcs := [c, b], dst := some a, wr := k } a F :=
  ⟨_, hr, rfl, rfl, fun _ _ _ => rfl, fun _ _ _ => mapLanes_lanes ..⟩

theorem laneForm_una {g : Nat → FEnv → Nat × FEnv} (hr : ∀ s, exec i s = vecUna a b k g s) :
    ∃ F, laneForm i { srcs := [b], dst := some a, wr := k } a F :=
  ⟨_, hr, rfl, rfl, fun _ _ _ => rfl, fun _ _ _ => mapLanes_lanes ..⟩

theorem laneForm_fun {f : FFun} {m : RMod} (hr : ∀ s, exec i s = vecFun f m a b k s) :
    ∃ F, laneForm i { srcs := [b], dst := some a, wr := k } a F :=
  laneForm_una hr

theorem laneForm_tri {g : Nat → Nat → Nat → FEnv → Nat × FEnv} (hr : ∀ s, exec i s = vecTri a c b k g s) :
    ∃ F, laneForm i { srcs := [c, b, a], dst := some a, wr := k } a F :=
  ⟨_, hr, rfl, rfl, fun _ _ _ => rfl, fun _ _ _ => mapLanes_lanes ..⟩

theorem laneForm_sel (m : MReg) : ∃ F, laneForm (.vsel a c b m k) { srcs := [c, b], dst := some a, wr := k } a F :=
  ⟨_, fun s => (rfl : execVsel a c b m k s = _), rfl, rfl, fun _ _ _ => rfl, fun _ _ _ => mapLanes_lanes ..⟩

theorem laneForm_perm : ∃ F, laneForm (.vperm a c b k) { srcs := [c, b], dst := some a, wr := k } a F :=
  ⟨_, fun s => (rfl : execVperm a c b k s = _), rfl, rfl, fun _ _ _ => rfl, fun _ _ _ => mapLanes_lanes ..⟩

theorem laneForm_bcast (x : XReg) : ∃ F, laneForm (.vbcast a x k) { xs := [x], dst := some a, wr := k } a F :=
  ⟨_, fun s => (rfl : execVbcast a x k s = _), rfl, rfl, fun _ _ _ => rfl, fun _ _ _ => mapLanes_lanes ..⟩

theorem laneForm_iota (m : MReg) : ∃ F, laneForm (.viota a m k) { dst := some a, wr := k } a F :=
  ⟨_, fun s => (rfl : execViota a m k s = _), rfl, rfl, fun _ _ _ => rfl, fun _ _ _ => mapLanes_lanes ..⟩

end Lanes

/-- A reduction writes every lane (R98). -/
theorem laneForm_reduce {i : Instr} {a b : VReg} {k : MReg} {ident : Nat} {c : Combine}
    (hr : ∀ s, exec i s = vecReduce a b k ident c s) : ∃ F, laneForm i { srcs := [b], dst := some a } a F := by
  refine ⟨_, hr, rfl, rfl, fun V S sl => rfl, fun sl vs e => ?_⟩
  have hall : laneList (getM sl 0) = List.finRange 32 :=
    List.filter_eq_self.mpr fun l _ => BitVec.getLsbD_allOnes.trans (decide_eq_true l.isLt)
  rw [hall, List.map_map]
  exact List.map_id _

/-- The lanes that a scan writes (R98). -/
def scanned (t : VTy) (rnd : Rnd) (k : MReg) (sl : Slot) (vs : List Lanes) (e : FEnv) : List (Fin 32 × Nat) × FEnv :=
  let r := scanLanes (addNode t rnd) (maskedLanes (getM sl k) (srcAt vs 0) (addIdent t)) e
  ((laneList (getM sl k)).map fun l => (l, (nth r.1 l.val).getD 0), r.2)

/-- A scan writes the lanes of its mask. -/
theorem laneForm_scan (t : VTy) (rnd : Rnd) (a b : VReg) (k : MReg) :
    ∃ F, laneForm (.vscan t rnd a b k) { srcs := [b], dst := some a, wr := k } a F := by
  have hrun : ∀ s, execVscan t rnd a b k s = vecOp s [] [b] a (scanned t rnd k) := fun s => by
    unfold execVscan scanned
    rfl
  refine ⟨scanned t rnd k, hrun, rfl, rfl, fun V S sl => ?_, fun sl vs e => ?_⟩
  · funext vs e
    rw [scanned, getM_swapSlot, scanned]
  · simp [scanned, Function.comp_def]

/-- The instructions with a vector destination are lane operations. -/
theorem laneForm_of_dst {i : Instr} {f : VecForm} {a : VReg} (h : vecForm i = some f) (hd : f.dst = some a) : ∃ F, laneForm i f a F := by
  unfold vecForm at h
  split at h <;> cases h <;> cases hd
  -- the goals stand in the order of the forms
  iterate 12 exact laneForm_bin fun s => by unfold exec; exact rfl
  · exact laneForm_perm
  iterate 4 exact laneForm_tri fun s => by unfold exec; exact rfl
  · exact laneForm_sel _
  iterate 3 exact laneForm_una fun s => by unfold exec; exact rfl
  iterate 6 exact laneForm_fun fun s => by unfold exec; exact rfl
  iterate 9 exact laneForm_una fun s => by unfold exec; exact rfl
  · exact laneForm_bcast _
  · exact laneForm_iota _
  iterate 5 exact laneForm_reduce fun s => by unfold exec; exact rfl
  · exact laneForm_scan ..

end Sys2Proof.Machine
end

section
/-! SUPPORT. O16: the sources and the stream faults of every vector instruction. -/

namespace Sys2Proof.Machine

open Sys2Proof.Terms

section Sources

variable {s : State} {i : Instr} {f : VecForm}

/-- The instructions without a vector destination, on bound read streams and on plain registers. -/
theorem agree_of_undst (h : vecForm i = some f) (hd : f.dst = none) (ht : (curSlot s).twin = none) (hf : feeds s f.srcs)
    (hu : unbound s f.loads) (hx : xReady s f.xs) (hv : vReady s (f.loads ++ f.srcs)) :
    agree s f.srcs (exec i (mirror s f.srcs s)) (exec i s) := by
  unfold vecForm at h
  split at h <;> cases h <;> cases hd <;> unfold exec
  -- the goals stand in the order of the forms
  iterate 4 exact agree_vecCmp ht hf rfl hv
  · exact agree_vins ht hu hx hv
  · exact agree_vext ht hf rfl hx hv
  iterate 2 exact agree_vecLoad ht hu hx hv
  · exact agree_vldt ht hu hx hv
  · exact agree_vst ht hf rfl hx hv
  · exact agree_vstt ht hf rfl hx hv
  · exact agree_vecAdd ht hf rfl hx hv
  · exact agree_vldx ht hf rfl hu hx hv
  · exact agree_vstx ht hf rfl hx hv
  · exact agree_vecAdd ht hf rfl hx hv
  · exact agree_sendv ht hf rfl hx hv

theorem agree_of_form (h : vecForm i = some f) (ht : (curSlot s).twin = none) (hf : feeds s f.srcs)
    (hu : unbound s (f.dst.toList ++ f.loads)) (hr : vecReady s f) : agree s f.srcs (exec i (mirror s f.srcs s)) (exec i s) := by
  obtain ⟨hx, hv⟩ := hr
  cases hd : f.dst with
  | none => exact agree_of_undst h hd ht hf (by simpa [hd] using hu) hx fun r hr => hv r (by simp at hr ⊢; tauto)
  | some a =>
    obtain ⟨F, hF⟩ := laneForm_of_dst h hd
    rw [hF.run, hF.run]
    exact agree_vecOp ht hf hF.lane hx (fun r hr => hv r (by simp [hd] at hr ⊢; tauto)) (by simpa [hd, hF.loads] using hu)

end Sources

-- Faults

section Faults

variable {s : State} {tv : Word}

theorem vecOp_faults {xs : List XReg} {srcs : List VReg} {a : VReg} {F : Slot → List Lanes → FEnv → List (Fin 32 × Nat) × FEnv}
    (hx : xReady s xs) (hv : vReady s (a :: srcs)) (h : streamFault (curSlot s) srcs [a] [] = some tv) :
    vecOp s xs srcs a F = trap s cSTREAM tv := by
  rw [vecOp, needXV_ready _ hx hv, h]

theorem vecCmp_faults {a : MReg} {c b : VReg} {k : MReg} {p : Nat → Nat → FEnv → Bool × FEnv} (hv : vReady s [c, b])
    (h : streamFault (curSlot s) [c, b] [] [] = some tv) : vecCmp a c b k p s = trap s cSTREAM tv := by
  rw [vecCmp, needXV_ready _ (by simp [xReady]) hv, h]

theorem vecLoad_faults {bcast : Bool} {a : VReg} {b : XReg} {imm : Int} {rlx : Bool} {k : MReg} (hx : xReady s [b]) (hv : vReady s [a])
    (h : streamFault (curSlot s) [] [] [a] = some tv) : vecLoad bcast a b imm rlx k s = trap s cSTREAM tv := by
  rw [vecLoad, needXV_ready _ hx hv]
  dsimp only
  rw [h]

theorem vecAdd_faults {t : VTy} {a : VReg} {b : XReg} {c : Option VReg} {k : MReg} (hx : xReady s [b]) (hv : vReady s (a :: c.toList))
    (h : streamFault (curSlot s) (a :: c.toList) [] [] = some tv) : vecAdd t a b c k s = trap s cSTREAM tv := by
  rw [vecAdd, needXV_ready _ hx hv, h]

theorem execVins_faults {a : VReg} {b : XReg} {n : Fin 32} (hx : xReady s [b]) (hv : vReady s [a])
    (h : streamFault (curSlot s) [] [] [a] = some tv) : execVins a b n s = trap s cSTREAM tv := by
  unfold execVins
  rw [needXV_ready _ hx hv]
  dsimp only
  rw [h]

theorem execVext_faults {t : VTy} {a : VReg} {b : XReg} {n : Fin 32} (hx : xReady s [b]) (hv : vReady s [a])
    (h : streamFault (curSlot s) [a] [] [] = some tv) : execVext t b a n s = trap s cSTREAM tv := by
  unfold execVext
  rw [needXV_ready _ hx hv]
  dsimp only
  rw [h]

theorem execVldt_faults {a : VReg} {t : TileIx} {b : XReg} {k : MReg} (hx : xReady s [b]) (hv : vReady s [a])
    (h : streamFault (curSlot s) [] [] [a] = some tv) : execVldt a t b k s = trap s cSTREAM tv := by
  unfold execVldt
  rw [needXV_ready _ hx hv]
  dsimp only
  rw [h]

theorem execVst_faults {a : VReg} {b : XReg} {imm : Int} {rlx : Bool} {k : MReg} (hx : xReady s [b]) (hv : vReady s [a])
    (h : streamFault (curSlot s) [a] [] [] = some tv) : execVst a b imm rlx k s = trap s cSTREAM tv := by
  unfold execVst
  rw [needXV_ready _ hx hv]
  dsimp only
  rw [h]

theorem execVstt_faults {a : VReg} {t : TileIx} {b : XReg} {k : MReg} (hx : xReady s [b]) (hv : vReady s [a])
    (h : streamFault (curSlot s) [a] [] [] = some tv) : execVstt a t b k s = trap s cSTREAM tv := by
  unfold execVstt
  rw [needXV_ready _ hx hv]
  dsimp only
  rw [h]

theorem execVldx_faults {a : VReg} {b : XReg} {c : VReg} {k : MReg} (hx : xReady s [b]) (hv : vReady s [a, c])
    (h : streamFault (curSlot s) [c] [] [a] = some tv) : execVldx a b c k s = trap s cSTREAM tv := by
  unfold execVldx
  rw [needXV_ready _ hx hv]
  dsimp only
  rw [h]

theorem execVstx_faults {a : VReg} {b : XReg} {c : VReg} {k : MReg} (hx : xReady s [b]) (hv : vReady s [a, c])
    (h : streamFault (curSlot s) [a, c] [] [] = some tv) : execVstx a b c k s = trap s cSTREAM tv := by
  unfold execVstx
  rw [needXV_ready _ hx hv]
  dsimp only
  rw [h]

theorem execSendv_faults {b : XReg} {c : VReg} {n : Fin 7} (hx : xReady s [b]) (hv : vReady s (if n.val = 0 then [] else [c]))
    (h : streamFault (curSlot s) (if n.val = 0 then [] else [c]) [] [] = some tv) : execSendv b c n s = trap s cSTREAM tv := by
  unfold execSendv
  dsimp only
  rw [needXV_ready _ hx hv, h]

theorem faults_of_undst {i : Instr} {f : VecForm} (h : vecForm i = some f) (hd : f.dst = none) (hx : xReady s f.xs)
    (hv : vReady s (f.loads ++ f.srcs)) (hfault : streamFault (curSlot s) f.srcs [] f.loads = some tv) :
    exec i s = trap s cSTREAM tv := by
  unfold vecForm at h
  split at h <;> cases h <;> cases hd <;> unfold exec
  -- the goals stand in the order of the forms
  iterate 4 exact vecCmp_faults hv hfault
  · exact execVins_faults hx hv hfault
  · exact execVext_faults hx hv hfault
  iterate 2 exact vecLoad_faults hx hv hfault
  · exact execVldt_faults hx hv hfault
  · exact execVst_faults hx hv hfault
  · exact execVstt_faults hx hv hfault
  · exact vecAdd_faults hx hv hfault
  · exact execVldx_faults hx hv hfault
  · exact execVstx_faults hx hv hfault
  · exact vecAdd_faults hx hv hfault
  · exact execSendv_faults hx hv hfault

theorem faults_of_form {i : Instr} {f : VecForm} (h : vecForm i = some f) (hr : vecReady s f)
    (hfault : streamFault (curSlot s) f.srcs f.dst.toList f.loads = some tv) : exec i s = trap s cSTREAM tv := by
  obtain ⟨hx, hv⟩ := hr
  cases hd : f.dst with
  | none => exact faults_of_undst h hd hx (fun r hr => hv r (by simp at hr ⊢; tauto)) (by simpa [hd] using hfault)
  | some a =>
    obtain ⟨F, hF⟩ := laneForm_of_dst h hd
    rw [hF.run]
    exact vecOp_faults hx (fun r hr => hv r (by simp [hd] at hr ⊢; tauto)) (by simpa [hd, hF.loads] using hfault)

/-- The fault of one register is what the statement says of it. -/
theorem faultOf_eq (f : VecForm) (r : VReg) : faultOf s f r = streamFault1 (curSlot s) f.srcs f.dst.toList f.loads r := by
  unfold faultOf streamFault1
  cases streamOf (curSlot s) r with
  | none => rfl
  | some t =>
    simp only [Option.bind_some, Bool.or_eq_true, Bool.and_eq_true, List.contains_iff_mem, Option.mem_toList, Bool.not_eq_true', or_assoc,
      decide_eq_true_eq]

/-- The lowest register at fault gives the trap value (R112). -/
theorem streamFault_lowest {srcs dsts loads : List VReg} {sl : Slot} {r : VReg} {n : Nat} (hr : streamFault1 sl srcs dsts loads r = some n)
    (hlow : ∀ q < r, streamFault1 sl srcs dsts loads q = none) : streamFault sl srcs dsts loads = some (BitVec.ofNat 64 (r.val * 256 + n)) := by
  have hstream : 28 ≤ r.val := by
    by_contra h
    simp [streamFault1, streamOf, h] at hr
  have hcases : r.val = 28 ∨ r.val = 29 ∨ r.val = 30 ∨ r.val = 31 := by omega
  obtain h | h | h | h := hcases
  · obtain rfl : r = 28 := Fin.ext h
    simp [streamFault, hr]
  · obtain rfl : r = 29 := Fin.ext h
    simp [streamFault, hr, hlow 28]
  · obtain rfl : r = 30 := Fin.ext h
    simp [streamFault, hr, hlow 28, hlow 29]
  · obtain rfl : r = 31 := Fin.ext h
    simp [streamFault, hr, hlow 28, hlow 29, hlow 30]

end Faults

end Sys2Proof.Machine
end

section
/-! SUPPORT. O16: a bound write stream as the destination of a lane operation (R111). -/

namespace Sys2Proof.Machine

open Sys2Proof.Terms

-- Lane values are taken modulo 2^32

theorem valOf_mod (v : Nat) : valOf fp32 (v % 2 ^ 32) = valOf fp32 v := by
  have hsign : v % 2 ^ 32 / fp32.signBit % 2 = v / fp32.signBit % 2 := by
    change v % 2 ^ 32 / 2 ^ 31 % 2 = v / 2 ^ 31 % 2
    omega
  have hexp : v % 2 ^ 32 / 2 ^ fp32.frac % 2 ^ fp32.ebits = v / 2 ^ fp32.frac % 2 ^ fp32.ebits := by
    change v % 2 ^ 32 / 2 ^ 23 % 2 ^ 8 = v / 2 ^ 23 % 2 ^ 8
    omega
  have hfrac : v % 2 ^ 32 % 2 ^ fp32.frac = v % 2 ^ fp32.frac := by
    change v % 2 ^ 32 % 2 ^ 23 = v % 2 ^ 23
    omega
  unfold valOf
  rw [hsign, hexp, hfrac]

theorem decWrite_mod (w scale v : Nat) : decWrite w scale (v % 2 ^ 32) = decWrite w scale v := by
  have hsigned : signedN (v % 2 ^ 32) 32 = signedN v 32 := by
    unfold signedN
    rw [Nat.mod_mod]
  unfold decWrite
  split
  all_goals simp only [valOf_mod, hsigned, Nat.mod_mod]

theorem writeElem_mod (m : Mem) (sc : Nat → Nat) (w : Nat) (e : ElemAt) (v : Nat) :
    writeElem m sc w e (BitVec.ofNat 32 v).toNat = writeElem m sc w e v := by
  unfold writeElem
  rw [BitVec.toNat_ofNat, decWrite_mod]

-- Lanes listed with their values

theorem putLanes_other {ls : List (Fin 32 × Nat)} {l : Fin 32} (h : l ∉ ls.map Prod.fst) (old : Lanes) : (putLanes old ls)[l] = old[l] := by
  induction ls generalizing old with
  | nil => rfl
  | cons e ls ih =>
    simp only [List.map_cons, List.mem_cons, not_or] at h
    obtain ⟨he, hl⟩ := h
    have hne : e.1.val ≠ l.val := fun hv => he (Fin.ext hv.symm)
    change (putLanes (old.set e.1 (BitVec.ofNat 32 e.2)) ls)[l] = _
    rw [ih hl]
    exact Vector.getElem_set_ne _ _ hne

theorem putLanes_member {ls : List (Fin 32 × Nat)} (hd : (ls.map Prod.fst).Nodup) {e : Fin 32 × Nat} (he : e ∈ ls) (old : Lanes) :
    (putLanes old ls)[e.1] = BitVec.ofNat 32 e.2 := by
  induction ls generalizing old with
  | nil => simp at he
  | cons x ls ih =>
    simp only [List.map_cons, List.nodup_cons] at hd
    obtain ⟨hx, hd⟩ := hd
    change (putLanes (old.set x.1 (BitVec.ofNat 32 x.2)) ls)[e.1] = _
    rcases List.mem_cons.mp he with rfl | he
    · rw [putLanes_other hx]
      exact Vector.getElem_set_self ..
    · exact ih hd he _

/-- Lanes stored from a list are those stored from the register that the list is put into. -/
theorem foldl_putLanes {ls : List (Fin 32 × Nat)} {k : Mask32} (hk : ls.map Prod.fst = laneList k) (old : Lanes) (p : Fin 32 → Bool)
    (sc : Nat → Nat) (w : Nat) (e : Fin 32 → ElemAt) (m : Mem) :
    (ls.filter fun x => p x.1).foldl (fun m x => writeElem m sc w (e x.1) x.2) m =
      (List.finRange 32).foldl (fun m l => if k.getLsbD l.val && p l then writeElem m sc w (e l) (putLanes old ls)[l].toNat else m) m := by
  have hd : (ls.map Prod.fst).Nodup := hk ▸ (List.nodup_finRange 32).filter _
  have hval : ∀ (L : List (Fin 32 × Nat)) (m : Mem), (∀ x ∈ L, x ∈ ls) →
      (L.filter fun x => p x.1).foldl (fun m x => writeElem m sc w (e x.1) x.2) m =
        ((L.map Prod.fst).filter p).foldl (fun m l => writeElem m sc w (e l) (putLanes old ls)[l].toNat) m := by
    intro L
    induction L with
    | nil => exact fun _ _ => rfl
    | cons x L ih =>
      intro m hL
      have hx : writeElem m sc w (e x.1) (putLanes old ls)[x.1].toNat = writeElem m sc w (e x.1) x.2 := by
        rw [putLanes_member hd (hL x (by simp)), writeElem_mod]
      by_cases hp : p x.1 = true
      · simp only [List.map_cons, List.filter_cons, hp, if_true, List.foldl_cons, hx]
        exact ih _ fun y hy => hL y (by simp [hy])
      · simp only [List.map_cons, List.filter_cons, hp]
        exact ih _ fun y hy => hL y (by simp [hy])
  rw [hval ls m fun _ hx => hx, hk, laneList, List.filter_filter, List.foldl_filter]
  simp only [Bool.and_comm]

-- The store

theorem sound_elem {c : Core} {sc : Nat → Nat} {w : Nat} {e : ElemAt} (h : sound c (elemRanges sc w e)) : sound c [(e.off, e.len)] := by
  intro r hr
  obtain rfl := List.mem_singleton.mp hr
  refine h _ ?_
  unfold elemRanges
  split <;> simp

theorem sound_scale {c : Core} {sc : Nat → Nat} {e : ElemAt} (h : sound c (elemRanges sc 8 e)) : sound c [(sc e.off, 1)] := by
  intro r hr
  obtain rfl := List.mem_singleton.mp hr
  exact h _ (by simp [elemRanges])

/-- Elements without bit errors are written. -/
theorem writeLanesAt_sound {c : Core} {sc : Nat → Nat} {w : Nat} {es : List (Nat × ElemAt)} (hlen : ∀ e ∈ es, elemHalf w = 1 → e.2.len = 1)
    (h : ∀ e ∈ es, sound c (elemRanges sc w e.2)) :
    ∃ c', writeLanesAt c sc w es = .ok ((), c') ∧ c'.spad = es.foldl (fun m e => writeElem m sc w e.2 e.1) c.spad := by
  have hwrites : sound c (es.map fun e => (e.2.off, e.2.len)) := by
    intro r hr
    obtain ⟨e, he, rfl⟩ := List.mem_map.mp hr
    exact sound_elem (h e he) _ (by simp)
  have hscales : sound c (if w = 8 then es.map fun e => (sc e.2.off, 1) else []) := by
    intro r hr
    split at hr
    · next hw =>
      obtain ⟨e, he, rfl⟩ := List.mem_map.mp hr
      subst hw
      exact sound_scale (h e he) _ (by simp)
    · simp at hr
  have hhalves : sound c (halfBytes w es) := by
    intro r hr
    unfold halfBytes at hr
    split at hr
    · next hw =>
      obtain ⟨e, he, rfl⟩ := List.mem_map.mp hr
      have hm := (List.mem_filter.mp he).1
      exact sound_elem (h e hm) _ (by simp [hlen e hm hw])
    · simp at hr
  have hreads : sound c ((if w = 8 then es.map fun e => (sc e.2.off, 1) else []) ++ halfBytes w es) := fun r hr =>
    (List.mem_append.mp hr).elim (hscales r) (hhalves r)
  obtain ⟨c', hc'⟩ := spadWrite_sound hreads hwrites fun m => es.foldl (fun m e => writeElem m sc w e.2 e.1) m
  exact ⟨c', hc', (spadWrite_frame hc').2⟩

/-- The lanes below the end of a stream without bit errors are stored. -/
theorem storeStream_sound {c : Core} {sl : Slot} {t : Stream} {ls : List (Fin 32 × Nat)}
    (h : ∀ l : Fin 32, t.pos + l.val < t.count → sound c (elemRanges (mx4ScaleOff sl.winbase) (meshWin t.base) (streamAt t (t.pos + l.val)))) :
    ∃ c', storeStream c sl t ls = .ok ((), c') ∧
      c'.spad = (ls.filter fun x => decide (t.pos + x.1.val < t.count)).foldl
        (fun m x => writeElem m (mx4ScaleOff sl.winbase) (meshWin t.base) (streamAt t (t.pos + x.1.val)) x.2) c.spad := by
  have hmem : ∀ e ∈ (ls.filter fun x => decide (t.pos + x.1.val < t.count)).map fun x => (x.2, streamElem t (t.pos + x.1.val)),
      ∃ l : Fin 32, t.pos + l.val < t.count ∧ e.2 = streamAt t (t.pos + l.val) := by
    intro e he
    obtain ⟨x, hx, rfl⟩ := List.mem_map.mp he
    exact ⟨x.1, by simpa using (List.mem_filter.mp hx).2, rfl⟩
  obtain ⟨c', hok, hspad⟩ := writeLanesAt_sound (c := c) (sc := mx4ScaleOff sl.winbase) (w := meshWin t.base)
    (es := (ls.filter fun x => decide (t.pos + x.1.val < t.count)).map fun x => (x.2, streamElem t (t.pos + x.1.val)))
    (fun e he hh => by
      obtain ⟨l, -, hl⟩ := hmem e he
      rw [hl]
      exact elemAt_len_of_half hh ..)
    (fun e he => by
      obtain ⟨l, hp, hl⟩ := hmem e he
      rw [hl]
      exact h l hp)
  exact ⟨c', hok, hspad.trans List.foldl_map⟩

/-- Through RAW an element of a stream is a word. -/
theorem writeElem_raw {t : Stream} (hw : meshWin t.base = 0) (m : Mem) (sc : Nat → Nat) (n : Nat) (v : Lane) :
    writeElem m sc (meshWin t.base) (streamAt t n) v.toNat = writeLE m ((meshOff t.base : Int) + 4 * ((n : Int) * t.stride)).toNat 4 v.toNat := by
  have helem : streamAt t n = ⟨((meshOff t.base : Int) + 4 * ((n : Int) * t.stride)).toNat, 4, false⟩ := by
    rw [streamAt, hw]
    change (⟨((meshOff t.base : Int) + (n : Int) * t.stride * (4 : Nat)).toNat, 4, false⟩ : ElemAt) = _
    rw [show (n : Int) * t.stride * (4 : Nat) = 4 * ((n : Int) * t.stride) by push_cast; ring]
  rw [helem, hw]
  exact congrArg (writeLE m _ 4) (Nat.mod_eq_of_lt v.isLt)

end Sys2Proof.Machine
end

section
/-! SUPPORT. O16: the run of a lane operation whose destination is a bound write stream (R111, R306). -/

namespace Sys2Proof.Machine

open Sys2Proof.Terms

theorem curSlot_retired (s : State) (c : Core) (sl : Slot) (pc : Word) (ws : List Word) :
    curSlot (retired s c sl pc ws) =
      { sl with pc := pc, mode := .run, retired := sl.retired + 1, fprint := ws.foldl (fun f w => f.rotateLeft 5 ^^^ w) sl.fprint,
                folds := sl.folds + ws.length, stepOwed := sl.stepOwed || owesStep c s.cur.2 sl } := by
  simp [retired, curSlot, curCore]

theorem spad_retired (s : State) (c : Core) (sl : Slot) (pc : Word) (ws : List Word) : (curCore (retired s c sl pc ws)).spad = c.spad := by
  simp [retired, curCore]

theorem slotReleases.registers {sl sl' : Slot} (h : slotReleases sl sl') :
    sl'.x = sl.x ∧ sl'.v = sl.v ∧ sl'.m = sl.m ∧ sl'.fexc = sl.fexc ∧ sl'.streams = sl.streams := by
  unfold slotReleases at h
  refine ⟨?_, ?_, ?_, ?_, ?_⟩ <;> rw [h]

section Stores

variable {s u : State}

/-- A store that retires is performed at once or after the release. -/
theorem localStore_runs {inside : Bool} {side : State → State} {k : State → Res} {t : State} (ht : (curSlot s).twin = none) (hmay : mayRelease s)
    (hk : k (storeState s inside) = .next t) (hm : (curSlot t).mode ≠ .stalled) : localStore s inside side k = .next t := by
  cases inside with
  | true => exact hk
  | false => exact irrevocable_solo s 0 side k t ht hmay hk (.inl hm)

theorem releases_restated (h : restated s u) : Releases s u := by
  rcases h with rfl | rfl
  · exact .refl _
  · exact releases_setCore (.refl _)

/-- A core put back is the state with its own registers and streams put in. -/
theorem putBack_swapped : setCore s s.cur.1 (curCore s) = swapped (curSlot s).v (curSlot s).streams s := by
  rw [swapped_eq, swapCore]
  have hsl : swapSlot (curSlot s).v (curSlot s).streams (curCore s).slots[s.cur.2] = (curCore s).slots[s.cur.2] := rfl
  rw [hsl]
  simp

theorem mayRelease_restated (h : restated s u) (hmay : mayRelease s) : mayRelease u := by
  rcases h with rfl | rfl
  · exact hmay
  · intro hrep
    rw [putBack_swapped, swapped_cur, outboxRoom_swapped]
    rw [putBack_swapped, curSlot_swapped] at hrep
    exact hmay hrep

/-- The state in which lanes are stored to a stream: at once inside the slot frame, otherwise after the release (R306). -/
def streamState (s : State) (t : Stream) (ls : List (Fin 32 × Nat)) : State := storeState s (!streamOutside s.cur.2 t ls)

/-- Lanes are stored to a bound stream, and the streams named move on. -/
theorem writeDest_stores {names : List VReg} {a : VReg} {t : Stream} {ls : List (Fin 32 × Nat)} {e : FEnv} {c' : Core}
    (ha : streamOf (curSlot s) a = some t) (ht : (curSlot s).twin = none) (hmay : mayRelease s)
    (h : storeStream (curCore (streamState s t ls)) (curSlot s) t ls = .ok ((), c')) :
    writeDest s names a ls e =
      .next (retired (streamState s t ls) c' (putEnv (consume (curSlot (streamState s t ls)) names) e) (fallThrough (streamState s t ls))
        (vecWords (putLanes (Vector.replicate 32 0) ls))) := by
  have hslots : c'.slots = (curCore (streamState s t ls)).slots := by
    unfold storeStream at h
    exact writeLanesAt_slots h
  have hsite := (releases_storeState s (!streamOutside s.cur.2 t ls)).spadSite (off := meshOff t.base) ht
  unfold writeDest
  dsimp only
  rw [ha]
  refine localStore_runs ht hmay ?_ ?_
  · rw [withSpad_ok _ hsite h]
    exact congrArg Host.Outcome.next (retire_loaded hslots rfl rfl rfl _)
  · rw [retired_mode]
    simp

end Stores

section Destination

variable {s : State} {srcs : List VReg} {a : VReg} {t : Stream} (ha : streamOf (curSlot s) a = some t) (hna : a ∉ srcs)
  (hw : t.write = true) (hp : t.pos < t.count)

include ha hna hw hp

/-- A bound write stream with elements left is not at fault as the destination. -/
theorem streamFault_written (hf : feeds s srcs) : streamFault (curSlot s) srcs [a] [] = none := by
  refine streamFault_none fun r => ?_
  unfold streamFault1
  cases hb : streamOf (curSlot s) r with
  | none => rfl
  | some y =>
    by_cases hra : r = a
    · subst hra
      obtain rfl : t = y := Option.some.inj (ha.symm.trans hb)
      simp [hna, hw, Nat.not_le.mpr hp]
    · by_cases hm : r ∈ srcs
      · obtain ⟨hyw, hyp, -⟩ := hf r hm y hb
        simp [hra, hm, hyw, Nat.not_le.mpr hyp]
      · simp [hra, hm]

/-- What the lane operation gives for the sources. -/
def laneResult (s : State) (srcs : List VReg) (F : Slot → List Lanes → FEnv → List (Fin 32 × Nat) × FEnv) : List (Fin 32 × Nat) × FEnv :=
  F (curSlot s) (srcs.map (fed s)) (envOf (curSlot s))

/-- The lane operation stores its lanes to the stream and retires. -/
theorem vecOp_stores {xs : List XReg} {F : Slot → List Lanes → FEnv → List (Fin 32 × Nat) × FEnv} (hx : xReady s xs) (hv : vReady s (a :: srcs))
    (hsound : soundStream s t) (ht : (curSlot s).twin = none) (hf : feeds s srcs) (hmay : mayRelease s) :
    ∃ R c', Releases s R ∧
      vecOp s xs srcs a F =
        .next (retired R c' (putEnv (consume (curSlot R) (a :: srcs)) (laneResult s srcs F).2) (fallThrough R)
          (vecWords (putLanes (Vector.replicate 32 0) (laneResult s srcs F).1))) ∧
      c'.spad = ((laneResult s srcs F).1.filter fun x => decide (t.pos + x.1.val < t.count)).foldl
        (fun m x => writeElem m (mx4ScaleOff (curSlot s).winbase) (meshWin t.base) (streamAt t (t.pos + x.1.val)) x.2) (curCore s).spad := by
  obtain ⟨u, hu, hread⟩ := readSources_fed ht hf (.inl rfl)
  have hsl := curSlot_restated hu
  have hR : Releases s (streamState u t (laneResult s srcs F).1) := (releases_restated hu).trans (releases_storeState ..)
  obtain ⟨c', hok, hspad⟩ := storeStream_sound (c := curCore (streamState u t (laneResult s srcs F).1)) (sl := curSlot s)
    (ls := (laneResult s srcs F).1) fun l hl => hR.sound (hsound l hl)
  refine ⟨_, c', hR, ?_, by rw [hspad, hR.core.spad]⟩
  unfold vecOp
  rw [needXV_ready _ hx hv]
  dsimp only
  rw [streamFault_written ha hna hw hp hf, hread]
  exact writeDest_stores (by rw [hsl]; exact ha) (by rw [hsl]; exact ht) (mayRelease_restated hu hmay) (by rw [hsl]; exact hok)

omit ha hna hw hp

theorem streamOf_plainly {more : List VReg} {r : VReg} (hr : r ∈ srcs ++ more) : streamOf (curSlot (plainly s srcs more)) r = none := by
  rw [plainly, curSlot_updCur]
  unfold streamOf
  split
  · next h =>
    have hreg : (⟨28 + (r.val - 28), by omega⟩ : VReg) = r := Fin.ext (by simp; omega)
    simp only [Fin.getElem_fin, Vector.getElem_ofFn, hreg, if_pos hr]
  · rfl

theorem getV_plainly {more : List VReg} {r : VReg} (hr : r ∈ srcs) : getV (curSlot (plainly s srcs more)) r = fed s r := by
  rw [plainly, curSlot_updCur]
  simp [getV, hr]

/-- Beside vector registers and streams the plain run starts from the same context. -/
theorem curSlot_plainly (more : List VReg) :
    ∃ V S, curSlot (plainly s srcs more) = swapSlot V S (curSlot s) := by
  rw [plainly, curSlot_updCur]
  exact ⟨_, _, rfl⟩

/-- The lanes and the environment that the plain run of a lane operation ends with. -/
theorem vecOp_plainly {xs : List XReg} {F : Slot → List Lanes → FEnv → List (Fin 32 × Nat) × FEnv} (hF : laneOp F) (hx : xReady s xs)
    (hv : vReady s (a :: srcs)) {u : State} (hu : vecOp (plainly s srcs [a]) xs srcs a F = .next u) :
    (∃ old, getV (curSlot u) a = putLanes old (laneResult s srcs F).1) ∧
      (curSlot u).fexc = (putEnv (curSlot s) (laneResult s srcs F).2).fexc ∧ (curSlot u).lfsr = (laneResult s srcs F).2.lfsr := by
  obtain ⟨V, S, hsl⟩ := curSlot_plainly (s := s) (srcs := srcs) [a]
  have hx' : xReady (plainly s srcs [a]) xs := by
    unfold xReady
    rw [hsl]
    exact hx
  have hv' : vReady (plainly s srcs [a]) (a :: srcs) := by
    unfold vReady
    rw [hsl]
    exact hv
  have hunb : unbound (plainly s srcs [a]) (a :: srcs) := fun r hr => streamOf_plainly (by simp at hr ⊢; tauto)
  have hsrcs : srcs.map (getV (curSlot (plainly s srcs [a]))) = srcs.map (fed s) := List.map_congr_left fun r hr => getV_plainly hr
  have hres : F (curSlot (plainly s srcs [a])) (srcs.map (getV (curSlot (plainly s srcs [a])))) (envOf (curSlot (plainly s srcs [a]))) =
      laneResult s srcs F := by
    rw [hsrcs, hsl, hF]
    rfl
  rw [vecOp_unbound _ _ _ _ _ hx' hv' hunb, hres] at hu
  obtain rfl := Host.Outcome.next.inj hu
  rw [finish, curSlot_retired, hsl]
  exact ⟨⟨_, getV_setV_self ..⟩, rfl, rfl⟩

end Destination

/-- A lane operation with a bound write stream as its destination (R111). -/
theorem completes_stores {s : State} {i : Instr} {f : VecForm} {a : VReg} {t : Stream} (h : vecForm i = some f) (hr : vecReady s f)
    (hd : f.dst = some a) (ha : streamOf (curSlot s) a = some t) (hna : a ∉ f.srcs) (hw : t.write = true) (hp : t.pos < t.count)
    (hsound : soundStream s t) (ht : (curSlot s).twin = none) (hf : feeds s f.srcs) (hmay : mayRelease s) {u : State}
    (hu : exec i (plainly s f.srcs [a]) = .next u) :
    completes i s fun w =>
      (curSlot w).streams = movedOn (curSlot s) (a :: f.srcs) ∧ (curSlot w).v = (curSlot s).v ∧ (curSlot w).pc = fallThrough s ∧
      (curSlot w).fexc = (curSlot u).fexc ∧ (curSlot w).lfsr = (curSlot u).lfsr ∧ (curSlot w).x = (curSlot s).x ∧
      (curSlot w).m = (curSlot s).m ∧
      (curCore w).spad = (List.finRange 32).foldl (fun m l =>
        if (getM (curSlot s) f.wr).getLsbD l.val ∧ t.pos + l.val < t.count then
          writeElem m (mx4ScaleOff (curSlot s).winbase) (meshWin t.base) (streamAt t (t.pos + l.val)) (getV (curSlot u) a)[l].toNat
        else m) (curCore s).spad ∧
      (meshWin t.base = 0 → (curCore w).spad = lanesStored (curCore s).spad
        (fun l => (getM (curSlot s) f.wr).getLsbD l.val && decide (t.pos + l.val < t.count))
        (fun l => ((meshOff t.base : Int) + 4 * (((t.pos + l.val : Nat) : Int) * t.stride)).toNat) (getV (curSlot u) a)) := by
  obtain ⟨hx, hv⟩ := hr
  obtain ⟨F, hF⟩ := laneForm_of_dst h hd
  have hv' : vReady s (a :: f.srcs) := fun r hr => hv r (by simp [hd] at hr ⊢; tauto)
  rw [hF.run] at hu
  obtain ⟨⟨old, hlanes⟩, hfexc, hlfsr⟩ := vecOp_plainly hF.lane hx hv' hu
  obtain ⟨R, c', hR, hrun, hspad⟩ := vecOp_stores (F := F) ha hna hw hp hx hv' hsound ht hf hmay
  obtain ⟨hregX, hregV, hregM, hregF, hstreams⟩ := hR.curSlot.registers
  have hwrites : (laneResult s f.srcs F).1.map Prod.fst = laneList (getM (curSlot s) f.wr) := hF.writes ..
  rw [foldl_putLanes hwrites old (fun l => decide (t.pos + l.val < t.count)) _ _ (fun l => streamAt t (t.pos + l.val)), ← hlanes] at hspad
  refine ⟨_, (hF.run s).trans hrun, ?_⟩
  dsimp only
  rw [spad_retired, curSlot_retired, hfexc, hlfsr, hR.fallThrough]
  refine ⟨consume_streams hstreams fun _ _ => Iff.rfl, ?_, rfl, ?_, rfl, ?_, ?_, ?_, fun hraw => ?_⟩
  · exact hregV
  · exact congrArg (fun w => w ||| BitVec.ofNat 5 (laneResult s f.srcs F).2.fl) hregF
  · exact hregX
  · exact hregM
  · rw [hspad]
    simp only [Bool.and_eq_true, decide_eq_true_eq]
  · rw [hspad]
    simp only [writeElem_raw hraw]
    rfl

end Sys2Proof.Machine
end

section
/-! SUPPORT. O16: streams bound and ended (spec/06 R108 to R110, R112). -/

namespace Sys2Proof.Machine

open Sys2Proof.Terms

-- The words of a descriptor

theorem readLE_add (m : Mem) (a n k : Nat) : readLE m a (n + k) = readLE m a n + 256 ^ n * readLE m (a + n) k := by
  unfold readLE
  induction n generalizing a with
  | zero => simp [readBytes, leNat]
  | succ n ih =>
    rw [Nat.succ_add_eq_add_succ, Nat.add_succ, readBytes, readBytes, leNat, leNat, ih, pow_succ, Nat.succ_add_eq_add_succ]
    ring

theorem readLE_lt (m : Mem) (a n : Nat) : readLE m a n < 256 ^ n := by
  unfold readLE
  induction n generalizing a with
  | zero => exact Nat.one_pos
  | succ n ih =>
    have hb := (readByte m a).isLt
    have hr := ih (a + 1)
    rw [readBytes, leNat, pow_succ]
    omega

/-- A word of a descriptor. -/
def descWord (m : Mem) (a n : Nat) : Word := BitVec.ofNat 64 (readLE m (a + 8 * n) 8)

theorem descWord_toNat (m : Mem) (a n : Nat) : (descWord m a n).toNat = readLE m (a + 8 * n) 8 := by
  have h : readLE m (a + 8 * n) 8 < 2 ^ 64 := readLE_lt ..
  rw [descWord, BitVec.toNat_ofNat, Nat.mod_eq_of_lt h]

/-- The 32 bytes of a descriptor are its four words, the lowest first (R109). -/
theorem readLE_descriptor (m : Mem) (a : Nat) :
    readLE m a 32 = (descWord m a 0).toNat + 2 ^ 64 * (descWord m a 1).toNat + 2 ^ 128 * (descWord m a 2).toNat +
      2 ^ 192 * (descWord m a 3).toNat := by
  simp only [descWord_toNat]
  rw [show (32 : Nat) = 8 + (8 + (8 + 8)) from rfl, readLE_add, readLE_add, readLE_add]
  norm_num
  ring

/-- The stream that a descriptor names, as BSTR reads its bytes (R109). -/
def descStream (d : Nat) : Stream :=
  { base := BitVec.ofNat 64 d, count := d / 2 ^ 64 % 2 ^ 32, stride := signedN (d / 2 ^ 96) 32, write := d / 2 ^ 128 % 2 == 1, pos := 0 }

theorem descStream_words (m : Mem) (a : Nat) :
    descStream (readLE m a 32) =
      { base := descWord m a 0, count := ((descWord m a 1).setWidth 32).toNat, stride := ((descWord m a 1).extractLsb' 32 32).toInt,
        write := (descWord m a 2).getLsbD 0, pos := 0 } := by
  have hd := readLE_descriptor m a
  generalize readLE m a 32 = d at hd ⊢
  generalize descWord m a 0 = w0, descWord m a 1 = w1, descWord m a 2 = w2, descWord m a 3 = w3 at hd ⊢
  have h0 := w0.isLt
  have h1 := w1.isLt
  have hbase : BitVec.ofNat 64 d = w0 := by
    apply BitVec.eq_of_toNat_eq
    rw [BitVec.toNat_ofNat]
    omega
  have hcount : d / 2 ^ 64 % 2 ^ 32 = (w1.setWidth 32).toNat := by
    rw [BitVec.toNat_setWidth]
    omega
  have hstride : BitVec.ofNat 32 (d / 2 ^ 96) = w1.extractLsb' 32 32 := by
    apply BitVec.eq_of_toNat_eq
    rw [BitVec.toNat_ofNat, BitVec.extractLsb'_toNat, Nat.shiftRight_eq_div_pow]
    omega
  have hwrite : (d / 2 ^ 128 % 2 == 1) = w2.getLsbD 0 := by
    rw [BitVec.getLsbD, Nat.testBit_zero, beq_eq_decide]
    congr 2
    omega
  rw [descStream, hbase, hcount, signedN_eq (by decide), hstride, hwrite]

/-- The reserved bits of a descriptor are those from bit 129 (R109). -/
theorem descriptor_reserved (m : Mem) (a : Nat) : readLE m a 32 / 2 ^ 129 ≠ 0 ↔ 2 ≤ (descWord m a 2).toNat ∨ descWord m a 3 ≠ 0 := by
  have h0 := (descWord m a 0).isLt
  have h1 := (descWord m a 1).isLt
  have h2 := (descWord m a 2).isLt
  have h3 : descWord m a 3 ≠ 0 ↔ (descWord m a 3).toNat ≠ 0 := not_congr BitVec.toNat_eq
  rw [readLE_descriptor, h3]
  omega

section Binds

variable {s u : State} {r : SReg} {b c : XReg} {t : Stream}

theorem finish_restated (h : restated s u) (sl : Slot) (ws : List Word) : finish u sl ws = finish s sl ws := by
  rcases h with rfl | rfl
  · rfl
  · exact finish_setCore rfl sl ws

theorem bindOk_restated (h : restated s u) : bindOk u t = bindOk s t := by
  rcases h with rfl | rfl
  · rfl
  · rw [putBack_swapped]
    unfold bindOk
    rw [isOwn_swapped]

/-- A bind that can be honoured binds the stream; one that cannot traps (R110, R112). -/
theorem bind_eq : bind s r t =
    if bindOk s t then .next (finish s (bindStream (curSlot s) r (some t)) []) else trap s cSTREAM (bindTval r) := by
  unfold bind
  rw [retire_updCur]
  · rfl
  · rfl

theorem execSbind_ready (hx : xReady s [b, c]) (hv : vReady s [streamReg r]) : execSbind r b c s =
    if (getX (curSlot s) c).toNat / 2 ^ 32 ≠ 0 then trap s cSTREAM (bindTval r)
    else bind s r { base := getX (curSlot s) b, count := (getX (curSlot s) c).toNat, stride := 1, write := false, pos := 0 } :=
  needXV_ready _ hx hv

/-- SBIND binds a stream of stride 1 if its count fits and it can be honoured (R110). -/
theorem execSbind_binds (hx : xReady s [b, c]) (hv : vReady s [streamReg r])
    (ht : t = { base := getX (curSlot s) b, count := (getX (curSlot s) c).toNat, stride := 1, write := false, pos := 0 })
    (hc : t.count < 2 ^ 32) (hok : bindOk s t = true) :
    execSbind r b c s = .next (finish s (bindStream (curSlot s) r (some t)) []) := by
  subst ht
  have hfits : ¬ (getX (curSlot s) c).toNat / 2 ^ 32 ≠ 0 := not_not.mpr (Nat.div_eq_of_lt hc)
  rw [execSbind_ready hx hv, if_neg hfits, bind_eq, if_pos hok]

theorem execSbind_traps (hx : xReady s [b, c]) (hv : vReady s [streamReg r])
    (ht : t = { base := getX (curSlot s) b, count := (getX (curSlot s) c).toNat, stride := 1, write := false, pos := 0 })
    (hbad : 2 ^ 32 ≤ t.count ∨ bindOk s t = false) : execSbind r b c s = trap s cSTREAM (bindTval r) := by
  subst ht
  rw [execSbind_ready hx hv]
  split
  · rfl
  · next hfits =>
    have hok := hbad.resolve_left fun hc => hfits (Nat.div_pos hc (by decide)).ne'
    rw [bind_eq, hok]
    rfl

theorem execSunbind_ready (hv : vReady s [streamReg r]) : execSunbind r s =
    .next (finish s (if (curSlot s).streams[r] = none then curSlot s else bindStream (curSlot s) r none) []) := by
  have hx : xReady s [] := fun _ h => absurd h (by simp)
  unfold execSunbind
  rw [needXV_ready _ hx hv]
  cases hb : (curSlot s).streams[r] with
  | none => rw [if_pos rfl]; exact congrArg Host.Outcome.next (retire_eq ..)
  | some y =>
    rw [if_neg (by simp)]
    exact congrArg Host.Outcome.next (retire_updCur s (fun sl => bindStream sl r none) [] rfl rfl)

theorem execSrem_ready (hx : xReady s [b]) : execSrem b r s = .next
    (let v := match (curSlot s).streams[r] with | some t => BitVec.ofNat 64 (t.count - t.pos) | none => 0
     finish s (setX (curSlot s) b v) [v]) :=
  (needX_ready _ hx).trans (congrArg Host.Outcome.next (retireX_eq ..))

/-- A descriptor that may not be read fails the bind (R110). -/
theorem execBstr_badDescriptor (hx : xReady s [b]) (hv : vReady s [streamReg r]) (hd : descOk s (getX (curSlot s) b) 32 = false) :
    execBstr r b s = trap s cSTREAM (bindTval r) := by
  unfold execBstr
  rw [needXV_ready _ hx hv]
  dsimp only
  rw [hd]
  rfl

/-- BSTR binds the stream of a descriptor that may be read and has no bit errors. -/
theorem execBstr_ready (hx : xReady s [b]) (hv : vReady s [streamReg r]) (hd : descOk s (getX (curSlot s) b) 32 = true)
    (hsite : spadSite s (meshOff (getX (curSlot s) b)) = s.cur.1) (hsound : sound (curCore s) [(meshOff (getX (curSlot s) b), 32)]) :
    ∃ u, restated s u ∧ execBstr r b s =
      let d := readLE (curCore s).spad (meshOff (getX (curSlot s) b)) 32
      if d / 2 ^ 129 ≠ 0 then trap u cSTREAM (bindTval r) else bind u r (descStream d) := by
  refine ⟨_, .inr rfl, ?_⟩
  unfold execBstr
  rw [needXV_ready _ hx hv]
  dsimp only
  rw [hd, withSpad_ok _ hsite (spadRead_sound hsound _)]
  rfl

/-- A descriptor whose reserved bits are zero binds its stream if that can be honoured (R109, R110). -/
theorem execBstr_binds (hx : xReady s [b]) (hv : vReady s [streamReg r]) (hd : descOk s (getX (curSlot s) b) 32 = true)
    (hsite : spadSite s (meshOff (getX (curSlot s) b)) = s.cur.1) (hsound : sound (curCore s) [(meshOff (getX (curSlot s) b), 32)])
    (hres : ¬ readLE (curCore s).spad (meshOff (getX (curSlot s) b)) 32 / 2 ^ 129 ≠ 0)
    (ht : descStream (readLE (curCore s).spad (meshOff (getX (curSlot s) b)) 32) = t) (hok : bindOk s t = true) :
    execBstr r b s = .next (finish s (bindStream (curSlot s) r (some t)) []) := by
  obtain ⟨u, hu, hrun⟩ := execBstr_ready hx hv hd hsite hsound
  rw [hrun]
  dsimp only
  rw [if_neg hres, ht, bind_eq, bindOk_restated hu, if_pos hok, finish_restated hu, curSlot_restated hu]

/-- Reserved bits, or a stream that cannot be bound, trap (R112). -/
theorem entersHandler_bstr (hx : xReady s [b]) (hv : vReady s [streamReg r]) (hd : descOk s (getX (curSlot s) b) 32 = true)
    (hsite : spadSite s (meshOff (getX (curSlot s) b)) = s.cur.1) (hsound : sound (curCore s) [(meshOff (getX (curSlot s) b), 32)])
    (ht : descStream (readLE (curCore s).spad (meshOff (getX (curSlot s) b)) 32) = t)
    (hbad : readLE (curCore s).spad (meshOff (getX (curSlot s) b)) 32 / 2 ^ 129 ≠ 0 ∨ bindOk s t = false) :
    entersHandler (.bstr r b) s cSTREAM (bindTval r) := by
  obtain ⟨u, hu, hrun⟩ := execBstr_ready hx hv hd hsite hsound
  have htrap : execBstr r b s = trap u cSTREAM (bindTval r) := by
    rw [hrun]
    dsimp only
    split
    · rfl
    · next hres =>
      have hok : bindOk s t = false := hbad.resolve_left hres
      rw [ht, bind_eq, bindOk_restated hu, hok]
      rfl
  exact entersHandler_of_trap htrap (curSlot_restated hu) (by rw [curCore_restated hu])

end Binds

end Sys2Proof.Machine
end

section
/-! SUPPORT. O16: streams are bound, feed and take the lanes of every vector instruction, and are ended or trap (spec/06 R108 to R112). -/

namespace Sys2Proof.Machine

open Sys2Proof.Terms

/-- Settles O16: a run on bound read streams is the run on plain registers that hold what the streams give, with the streams moved on, and
a bound write stream gets the lanes that the plain run leaves in its register. -/
theorem streamsAreBoundFedAndEnded : Obligations.StreamsAreBoundFedAndEnded := by
  unfold Obligations.StreamsAreBoundFedAndEnded
  refine ⟨fun s r b c => ⟨fun hx hv => ⟨?_, ?_⟩, fun t hx hv hd hsite hsound ht => ⟨?_, ?_⟩, fun hx hv hd => ?_, fun hv => ?_, fun hx => ?_⟩,
    fun s i f h hr => ⟨?_, ?_, ?_⟩⟩
  case refine_1 =>
    rintro ⟨hc, hok⟩
    exact execSbind_binds hx hv rfl hc hok
  case refine_2 => exact execSbind_traps hx hv rfl
  case refine_3 =>
    rintro ⟨h2, h3, hok⟩
    refine execBstr_binds hx hv hd hsite hsound ?_ ((descStream_words ..).trans ht.symm) hok
    rw [descriptor_reserved]
    rintro (h | h)
    · exact absurd h (Nat.not_le.mpr h2)
    · exact h h3
  case refine_4 =>
    intro hbad
    refine entersHandler_bstr hx hv hd hsite hsound ((descStream_words ..).trans ht.symm) ?_
    rw [descriptor_reserved]
    exact or_assoc.mpr hbad
  case refine_5 => exact execBstr_badDescriptor hx hv hd
  case refine_6 => exact execSunbind_ready hv
  case refine_7 => exact execSrem_ready hx
  case refine_8 =>
    intro htwin hf hu
    rw [plainly_eq]
    exact agree_of_form h htwin hf hu hr
  case refine_9 =>
    intro a t hd ha hna hw hp hsound htwin hf hmay u hu _
    exact completes_stores h hr hd ha hna hw hp hsound htwin hf hmay hu
  case refine_10 =>
    intro r n hfault hlow
    refine faults_of_form h hr (streamFault_lowest ((faultOf_eq ..).symm.trans hfault) fun q hq => ?_)
    exact (faultOf_eq ..).symm.trans (hlow q hq)

end Sys2Proof.Machine
end

section
/-! SUPPORT. O29: PATSET, PATCLR and PATGET. The statement is about every pattern table, also one that lists an index more than once. -/

namespace Sys2Proof.Machine

open Sys2Proof.Terms

/-- A FIFO channel with one message queued. -/
def queuedChan : Chan :=
  { kind := .fifo, cap := 4, peer := false, code := false, faultCh := none, faultRaw := 0, ovfBase := 0, ovfSize := 0, nextSeq := 0,
    queue := [⟨{ chan := 3, dstCore := 1, count := 1, srcCore := 2 }, 0, false, 0⟩] }

/-- A quorum pattern of channel 3 that counts two messages. -/
def quorumTwo : Pat :=
  { raw := [], terms := [3], qn := 2, comb := .none, replay := false, twin := false, gang := 0, entry := 0 }

/-- A core whose table lists pattern 63 three times. Slot 0 is at a PATSET of x3, x2, x1: x2 holds 63, and x1 the address of a descriptor of
the one term 3. -/
def thriceListed : State :=
  { cur := (1, 0)
    cores := [(1, { part := some 0, lcore := some 1, chans := [(3, queuedChan)], pats := List.replicate 3 (63, quorumTwo),
                    spad := writeLE [] 0x200 32 3,
                    slots := #v[{ mode := .run, x := ((Vector.replicate 32 0).set 1 (meshAddr 0x1FFF 0 0x200)).set 2 63 }, {}, {}, {}] })]
    parts := [(0, { running := true, clusters := [0] })] }

/-- What PATSET leaves at 63: the last of the three patterns, with the message in its partial. -/
theorem thriceListed_patset : ∃ t, exec (.patset 3 2 1) thriceListed = .next t ∧
    (tget (curCore t).pats 63).map (fun p => p.qn) = some 2 :=
  ⟨_, rfl, by decide⟩

/-- Refutes O29: of a table that lists an index three times, PATSET takes out the first entry and replaces the second; what the channel has
queued then goes to the third, a quorum pattern, which ends where the pattern of the descriptor should stand. -/
theorem not_patternsAreSetReadAndCleared : ¬ Obligations.PatternsAreSetReadAndCleared := by
  unfold Obligations.PatternsAreSetReadAndCleared
  intro h
  obtain ⟨hset, -⟩ := h thriceListed 3 2 1
  have hrec : record thriceListed 1 32 := ⟨by decide, by unfold sound; decide, rfl⟩
  have hx : xReady thriceListed [3, 2, 1] := by unfold xReady; decide
  have hroom : mayRelease thriceListed := fun hr => absurd hr (by decide)
  obtain ⟨-, hdone, -⟩ := hset hrec hx hroom
  obtain ⟨t, ht, -, -, -, -, -, -, -, -, y, hy, hpat, -⟩ := hdone (by decide)
  obtain ⟨u, hu, hqn⟩ := thriceListed_patset
  have htu : t = u := Host.Outcome.next.inj (ht.symm.trans hu)
  rw [← htu] at hqn
  have hat : tget (curCore t).pats 63 = some y := hy
  have hyqn : y.qn = 2 := by
    rw [hat] at hqn
    exact Option.some.inj hqn
  have hzero : y.qn = 0 := congrArg Pat.qn hpat
  omega

end Sys2Proof.Machine
end

section
/-! SUPPORT. Bodies of gangs and twins (spec/07 R130, spec/17 R308): reservations, and what a group that starts leaves in its slots. -/

namespace Sys2Proof.Machine

open Sys2Proof.Terms

-- Slots of a core

theorem getSlot_eq_of_slots {s t : State} {x : Nat} (h : (getCore t x).slots = (getCore s x).slots) (k : Fin 4) : getSlot t x k = getSlot s x k := by
  unfold getSlot
  rw [h]

theorem getSlot_setCore_of_ne (s : State) {x y : Nat} (c : Core) (k : Fin 4) (h : y ≠ x) : getSlot (setCore s x c) y k = getSlot s y k := by
  unfold getSlot
  rw [getCore_setCore_of_ne s c h]

theorem getSlot_setSlot_other (s : State) {x y : Nat} (k : Fin 4) (f : Slot → Slot) (h : y ≠ x) (j : Fin 4) :
    getSlot (setSlot s x k f) y j = getSlot s y j := getSlot_setCore_of_ne s _ j h

/-- The grants of every core stand as they were, and of the slots at most the groups have changed. -/
def keepsBodies (s t : State) : Prop :=
  ∀ y, (getCore t y).granted = (getCore s y).granted ∧ ∀ k, ∃ g, getSlot t y k = { getSlot s y k with group := g }

theorem keepsBodies.refl (s : State) : keepsBodies s s := fun y => ⟨rfl, fun k => ⟨(getSlot s y k).group, rfl⟩⟩

theorem keepsBodies.trans {s t u : State} (h : keepsBodies s t) (h' : keepsBodies t u) : keepsBodies s u := by
  refine fun y => ⟨(h' y).1.trans (h y).1, fun k => ?_⟩
  obtain ⟨g, hg⟩ := (h y).2 k
  obtain ⟨g', hg'⟩ := (h' y).2 k
  exact ⟨g', by rw [hg', hg]⟩

theorem keepsBodies_setGroup (s : State) (x : Nat) (k : Fin 4) (g : List Member) :
    keepsBodies s (setSlot s x k fun sl => { sl with group := g }) := by
  intro y
  by_cases hy : y = x
  · subst hy
    refine ⟨by rw [getCore_setSlot_self], fun j => ?_⟩
    by_cases hj : j = k
    · subst hj; exact ⟨g, getSlot_setSlot_self ..⟩
    · exact ⟨_, getSlot_setSlot_of_ne s y _ hj⟩
  · exact ⟨by rw [getCore_setSlot_of_ne s k _ hy], fun j => ⟨_, getSlot_setSlot_other s k _ hy j⟩⟩

theorem keepsBodies_settleAway (s : State) (x : Nat) : keepsBodies s (settleAway s x) := by
  unfold settleAway
  split
  · exact keepsBodies.refl s
  · intro y
    by_cases hy : y = x
    · subst hy
      obtain ⟨r, hr⟩ := pushResumes_ready (getCore s y)
      have hc : getCore (updCore s y pushResumes) y = { getCore s y with ready := r } := by rw [getCore_updCore_self, hr]
      exact ⟨by rw [hc], fun k => ⟨_, getSlot_eq_of_slots (by rw [hc]) k⟩⟩
    · have hc := getCore_updCore_of_ne s pushResumes hy
      exact ⟨by rw [hc], fun k => ⟨_, getSlot_eq_of_slots (by rw [hc]) k⟩⟩

-- Reservations

/-- A core that grants its slot k to a lead (R130). -/
def grant (s : State) (x lead : Nat) (k : Fin 4) : State :=
  updCore (setSlot s x k fun sl => { sl with mode := .reserved lead }) lead fun c => { c with granted := c.granted ++ [x] }

theorem grant_slots (s : State) (x lead : Nat) (k : Fin 4) (y : Nat) :
    (getCore (grant s x lead k) y).slots = (getCore (setSlot s x k fun sl => { sl with mode := .reserved lead }) y).slots := by
  unfold grant
  by_cases hy : y = lead
  · subst hy; rw [getCore_updCore_self]
  · rw [getCore_updCore_of_ne _ _ hy]

theorem getSlot_grant (s : State) (x lead : Nat) (k : Fin 4) :
    getSlot (grant s x lead k) x k = { getSlot s x k with mode := .reserved lead } :=
  (getSlot_eq_of_slots (grant_slots s x lead k x) k).trans (getSlot_setSlot_self ..)

theorem getSlot_grant_of_ne (s : State) (x lead : Nat) {k j : Fin 4} (h : j ≠ k) : getSlot (grant s x lead k) x j = getSlot s x j :=
  (getSlot_eq_of_slots (grant_slots s x lead k x) j).trans (getSlot_setSlot_of_ne s x _ h)

theorem grant_granted (s : State) (x lead : Nat) (k : Fin 4) : (getCore (grant s x lead k) lead).granted = (getCore s lead).granted ++ [x] := by
  unfold grant
  rw [getCore_updCore_self]
  by_cases h : lead = x
  · subst h; rw [getCore_setSlot_self]
  · rw [getCore_setSlot_of_ne s k _ h]

/-- A core without a reservation reserves no slot for anyone. -/
theorem not_reserved {c : Core} (h : holdsReservation c = false) (hr : c.restoring = none) (k : Fin 4) (lead : Nat) :
    c.slots[k].mode ≠ .reserved lead := by
  intro hk
  have := List.any_eq_false.mp h k (List.mem_finRange k)
  rw [hk, hr] at this
  exact this rfl

/-- The only slot that a core reserves for a lead. -/
theorem reservedFor_only {c : Core} {lead : Nat} {k : Fin 4} (hk : c.slots[k].mode = .reserved lead)
    (hno : ∀ j, j ≠ k → c.slots[j].mode ≠ .reserved lead) : reservedFor c lead = some k := by
  unfold reservedFor
  cases hf : (List.finRange 4).find? fun j => c.slots[j].mode == .reserved lead with
  | none => exact absurd hk (by simpa using List.find?_eq_none.mp hf k (List.mem_finRange k))
  | some j =>
    have hj : c.slots[j].mode = .reserved lead := by simpa using List.find?_some hf
    by_contra hne
    exact hno j (fun e => hne (by rw [e])) hj

theorem reservedFor_none {c : Core} {lead : Nat} (hno : ∀ j : Fin 4, c.slots[j].mode ≠ .reserved lead) : reservedFor c lead = none := by
  unfold reservedFor
  rw [List.find?_eq_none]
  intro j _
  simpa using hno j

theorem execGangGrant_grants {s : State} {x lead : Nat} {f : Fired} {ms : List Nat} {k : Fin 4} (hw : wantedBy s x = some lead)
    (hruns : coreRuns s x = true) (hres : holdsReservation (getCore s x) = false) (hg : groupOf s lead = some (f, ms))
    (hk : slotToGrant s x lead f.twin = some k) :
    ((getCore s lead).granted.length + 1 < ms.length → execGangGrant x s = .next (grant s x lead k)) ∧
      ((getCore s lead).granted.length + 1 = ms.length →
        execGangGrant x s = .next (settleAway (startGroup (grant s x lead k) lead f ms) lead)) := by
  have hex : execGangGrant x s = if (getCore (grant s x lead k) lead).granted.length = ms.length then
      .next (settleAway (startGroup (grant s x lead k) lead f ms) lead) else .next (grant s x lead k) := by
    unfold execGangGrant
    simp only [hw, hruns, hres, hg, hk]
    rfl
  rw [grant_granted, List.length_append, List.length_singleton] at hex
  exact ⟨fun h => hex.trans (if_neg (Nat.ne_of_lt h)), fun h => hex.trans (if_pos h)⟩

/-- The core that a lead wants next is a member of its group. -/
theorem wantedBy_member {s : State} {x lead : Nat} {f : Fired} {ms : List Nat} (hw : wantedBy s x = some lead)
    (hg : groupOf s lead = some (f, ms)) : nth ms (getCore s lead).granted.length = some x := by
  have hlead := List.find?_some hw
  rw [hg, Bool.and_eq_true] at hlead
  exact beq_iff_eq.mp hlead.2

-- Gangs

/-- A body start changes the slots of its core and mail. -/
theorem startBody_keeps (s : State) (x : Nat) (k : Fin 4) (f : Fired) (rank y : Nat) :
    ∃ sls, mail { getCore s y with slots := sls } (getCore (startBody s x k f rank) y) := by
  by_cases hy : y = x
  · subst hy; exact ⟨_, startBody_mail s y k f rank⟩
  · refine ⟨(getCore s y).slots, ?_⟩
    have := (posts_trace (setSlot s x k fun old => startSlot s old x k f rank) x k 1 f.pat (f.entry + 16) 0).2 y
    rwa [getCore_setSlot_of_ne s k _ hy] at this

theorem getSlot_startBody_other (s : State) {x y : Nat} (k : Fin 4) (f : Fired) (rank : Nat) (h : y ≠ x) (j : Fin 4) :
    getSlot (startBody s x k f rank) y j = getSlot s y j :=
  ((posts_trace ..).getSlot y j).trans (getSlot_setSlot_other s k _ h j)

theorem getSlot_startBody_self (s : State) (x : Nat) (k : Fin 4) (f : Fired) (rank : Nat) :
    getSlot (startBody s x k f rank) x k = startSlot s (getSlot s x k) x k f rank :=
  ((posts_trace ..).getSlot x k).trans (getSlot_setSlot_self ..)

theorem getSlot_startBody_of_ne (s : State) (x : Nat) {k j : Fin 4} (f : Fired) (rank : Nat) (h : j ≠ k) :
    getSlot (startBody s x k f rank) x j = getSlot s x j :=
  ((posts_trace ..).getSlot x j).trans (getSlot_setSlot_of_ne s x _ h)

/-- A member of a gang starts its body in the slot that it reserves for the lead (R130). -/
def startMember (lead : Nat) (f : Fired) (t : State) (x : Nat) : State :=
  match reservedFor (getCore t x) lead with
  | some k => startBody t x k (memberFired t f lead x) (if f.gang = 2 ∧ x ≠ lead then 1 else siteRank x)
  | none => t

theorem startMember_reserved {lead : Nat} {t : State} {x : Nat} {k : Fin 4} (f : Fired) (h : reservedFor (getCore t x) lead = some k) :
    startMember lead f t x = startBody t x k (memberFired t f lead x) (if f.gang = 2 ∧ x ≠ lead then 1 else siteRank x) := by
  unfold startMember
  rw [h]

theorem startMember_unreserved {lead : Nat} {t : State} {x : Nat} (f : Fired) (h : reservedFor (getCore t x) lead = none) :
    startMember lead f t x = t := by
  unfold startMember
  rw [h]

theorem startMember_granted (lead : Nat) (f : Fired) (t : State) (x y : Nat) :
    (getCore (startMember lead f t x) y).granted = (getCore t y).granted := by
  cases h : reservedFor (getCore t x) lead with
  | none => rw [startMember_unreserved f h]
  | some k =>
    rw [startMember_reserved f h]
    obtain ⟨sls, hm⟩ := startBody_keeps t x k (memberFired t f lead x) (if f.gang = 2 ∧ x ≠ lead then 1 else siteRank x) y
    rw [hm]

theorem getSlot_startMember_other (lead : Nat) (f : Fired) (t : State) {x y : Nat} (h : y ≠ x) (j : Fin 4) :
    getSlot (startMember lead f t x) y j = getSlot t y j := by
  cases hr : reservedFor (getCore t x) lead with
  | none => rw [startMember_unreserved f hr]
  | some k =>
    rw [startMember_reserved f hr]
    exact getSlot_startBody_other t k _ _ h j

theorem memberFired_entry (s : State) (f : Fired) (lead x : Nat) : (memberFired s f lead x).entry = f.entry := by
  unfold memberFired
  split <;> rfl

/-- Slot k of core x runs the body of the firing, and the core reserves no slot for the lead any more. -/
def bodyRuns (lead : Nat) (f : Fired) (x : Nat) (k : Fin 4) (t : State) : Prop :=
  ((getSlot t x k).mode = .run ∧ (getSlot t x k).pc = f.entry + 16) ∧ ∀ j, j ≠ k → (getSlot t x j).mode ≠ .reserved lead

/-- Slot k is the only slot of core x that is reserved for the lead. -/
def bodyWaits (lead x : Nat) (k : Fin 4) (t : State) : Prop :=
  (getSlot t x k).mode = .reserved lead ∧ ∀ j, j ≠ k → (getSlot t x j).mode ≠ .reserved lead

section Fold

variable {lead x : Nat} {f : Fired} {k : Fin 4} {t : State}

theorem startMember_starts (h : bodyWaits lead x k t) : bodyRuns lead f x k (startMember lead f t x) := by
  obtain ⟨hk, hno⟩ := h
  rw [startMember_reserved f (reservedFor_only hk hno)]
  refine ⟨?_, fun j hj => ?_⟩
  · rw [getSlot_startBody_self]
    refine ⟨rfl, ?_⟩
    change (memberFired t f lead x).entry + 16 = _
    rw [memberFired_entry]
  · rw [getSlot_startBody_of_ne _ _ _ _ hj]
    exact hno j hj

theorem startMember_keeps_run (h : bodyRuns lead f x k t) (y : Nat) : bodyRuns lead f x k (startMember lead f t y) := by
  by_cases hy : x = y
  · subst hy
    obtain ⟨⟨hrun, -⟩, hno⟩ := id h
    rwa [startMember_unreserved f (reservedFor_none fun j => ?_)]
    by_cases hj : j = k
    · subst hj
      change (getSlot t x j).mode ≠ _
      rw [hrun]
      simp
    · exact hno j hj
  · unfold bodyRuns at *
    simpa only [getSlot_startMember_other lead f t hy] using h

theorem startMember_keeps_wait (h : bodyWaits lead x k t) {y : Nat} (hy : x ≠ y) : bodyWaits lead x k (startMember lead f t y) := by
  unfold bodyWaits at *
  simpa only [getSlot_startMember_other lead f t hy] using h

/-- When every member has started, so has the one that waited. -/
theorem startMembers_starts {ms : List Nat} (hx : x ∈ ms) (h : bodyWaits lead x k t) : bodyRuns lead f x k (ms.foldl (startMember lead f) t) := by
  induction ms generalizing t with
  | nil => cases hx
  | cons y ms ih =>
    by_cases hy : x = y
    · subst hy
      exact foldl_related (fun s t => bodyRuns lead f x k s → bodyRuns lead f x k t) (fun _ => id) (fun h h' => h' ∘ h)
        (fun _ y h => startMember_keeps_run h y) ms _ (startMember_starts h)
    · exact ih ((List.mem_cons.mp hx).resolve_left hy) (startMember_keeps_wait h hy)

end Fold

/-- The lead's firing has left its ready queue, and its grants are used up. -/
def groupTaken (s : State) (lead : Nat) : State :=
  updCore s lead fun c => { c with granted := [], ready := match headEntry c c.ready with | some (_, r) => r | none => c.ready }

theorem getSlot_groupTaken (s : State) (lead y : Nat) (k : Fin 4) : getSlot (groupTaken s lead) y k = getSlot s y k := by
  refine getSlot_eq_of_slots ?_ k
  unfold groupTaken
  by_cases hy : y = lead
  · subst hy; rw [getCore_updCore_self]
  · rw [getCore_updCore_of_ne _ _ hy]

/-- A gang that starts: every member has its body, and only the groups of slots change after that (R130). -/
theorem startGroup_gang (s : State) (lead : Nat) {f : Fired} (ms : List Nat) (ht : f.twin = false) :
    keepsBodies (ms.foldl (startMember lead f) (groupTaken s lead)) (startGroup s lead f ms) := by
  unfold startGroup
  dsimp only
  rw [if_neg (by simp [ht])]
  exact foldl_related keepsBodies keepsBodies.refl keepsBodies.trans (fun t (m : Member) => keepsBodies_setGroup t m.site m.slot _) _ _

/-- After the last grant the body runs in the slot granted, and the lead has no grants any more (R130). -/
theorem startGroup_runs {s : State} {lead x : Nat} {f : Fired} {ms : List Nat} {k : Fin 4} (ht : f.twin = false) (hx : x ∈ ms)
    (h : bodyWaits lead x k s) :
    let t := startGroup s lead f ms
    (getSlot t x k).mode = .run ∧ (getSlot t x k).pc = f.entry + 16 ∧ (getCore t lead).granted = [] := by
  intro t
  have hwait : bodyWaits lead x k (groupTaken s lead) := by
    unfold bodyWaits at *
    simpa only [getSlot_groupTaken] using h
  obtain ⟨⟨hrun, hpc⟩, -⟩ := startMembers_starts (f := f) hx hwait
  have hgranted := foldl_related (fun s t => (getCore t lead).granted = (getCore s lead).granted) (fun _ => rfl) (fun h h' => h'.trans h)
    (fun t y => startMember_granted lead f t y lead) ms (groupTaken s lead)
  have hkeep := startGroup_gang s lead ms ht
  obtain ⟨g, hg⟩ := (hkeep x).2 k
  have hslot : getSlot t x k = _ := hg
  rw [hslot]
  refine ⟨hrun, hpc, ((hkeep lead).1.trans hgranted).trans ?_⟩
  unfold groupTaken
  rw [getCore_updCore_self]

end Sys2Proof.Machine
end

section
/-! SUPPORT. Twins (spec/17 R308 to R311): their start under one activation id, and their exchange. -/

namespace Sys2Proof.Machine

open Sys2Proof.Terms

-- Twins that start

/-- Twins start in the slots of one number on two cores, under the primary's activation id (R308). -/
theorem startTwins_runs (s : State) {prim sec : Nat} (k : Fin 4) (fp fs : Fired) (h : prim ≠ sec) :
    let t := startTwins s prim sec k fp fs
    let a := getSlot t prim k
    let b := getSlot t sec k
    (a.mode = .run ∧ a.pc = fp.entry + 16 ∧ a.outbox = [] ∧ a.twin = some (.primary sec)) ∧
      b.mode = .run ∧ b.pc = fs.entry + 16 ∧ b.twin = some (.secondary prim) ∧ b.actId = a.actId := by
  intro t a b
  obtain ⟨u, hu⟩ : ∃ u, u = setSlot s prim k fun old => startSlot s old prim k fp 0 := ⟨_, rfl⟩
  have hid : getSlot u prim k = startSlot s (getSlot s prim k) prim k fp 0 := by rw [hu, getSlot_setSlot_self]
  obtain ⟨g, hg⟩ : ∃ g : List Member, g = [⟨prim, k, (getSlot u prim k).actId⟩, ⟨sec, k, (getSlot u prim k).actId⟩] := ⟨_, rfl⟩
  obtain ⟨v, hv⟩ : ∃ v, v = setSlot u prim k fun sl => { sl with twin := some (.primary sec), group := g } := ⟨_, rfl⟩
  have hvp : getSlot v prim k = { getSlot u prim k with twin := some (.primary sec), group := g } := by rw [hv, getSlot_setSlot_self]
  obtain ⟨w, hw⟩ : ∃ w, w = setSlot v sec k fun old =>
      { startSlot v old sec k fs 0 with twin := some (.secondary prim), actId := (getSlot u prim k).actId, group := g } := ⟨_, rfl⟩
  have hpost : posts w t := by
    subst hw hv hg hu
    exact (posts_trace ..).trans (posts_trace ..)
  have ha : a = { getSlot u prim k with twin := some (.primary sec), group := g } := by
    refine (hpost.getSlot prim k).trans ?_
    rw [hw, getSlot_setSlot_other v k _ h, hvp]
  have hb : b = { startSlot v (getSlot v sec k) sec k fs 0 with
      twin := some (.secondary prim), actId := (getSlot u prim k).actId, group := g } := by
    refine (hpost.getSlot sec k).trans ?_
    rw [hw, getSlot_setSlot_self]
  rw [hid] at ha
  rw [hb, ha, hid]
  exact ⟨⟨rfl, rfl, rfl, rfl⟩, rfl, rfl, rfl, rfl⟩

/-- A group of twins that starts once the secondary has reserved the slot of the primary's number (R308). -/
theorem startGroup_twins {s : State} {lead sec : Nat} {f : Fired} {k : Fin 4} (ms : List Nat) (ht : f.twin = true)
    (hk : reservedFor (getCore s lead) lead = some k) (hsec : twinPartner lead = sec) :
    startGroup s lead f ms = startTwins (groupTaken s lead) lead sec k f (memberFired (groupTaken s lead) f lead sec) := by
  subst hsec
  unfold startGroup
  dsimp only
  rw [if_pos (by simp [ht]), hk]
  rfl

/-- The members of twins are the lead and its partner. -/
theorem groupOf_twins {s : State} {lead : Nat} {f : Fired} {ms : List Nat} (hg : groupOf s lead = some (f, ms)) (ht : f.twin = true) :
    ms = [lead, twinPartner lead] := by
  unfold groupOf at hg
  split at hg
  · cases hg
  · split at hg
    · cases hg; rfl
    · split at hg
      · cases hg; contradiction
      · cases hg

-- Twins that end

/-- Beside core x, only the mail of cores differs. -/
def mailsBeside (x : Nat) (s t : State) : Prop := ∀ y, y ≠ x → mail (getCore s y) (getCore t y)

theorem mailsBeside.trans {x : Nat} {s t u : State} (h : mailsBeside x s t) (h' : mailsBeside x t u) : mailsBeside x s u :=
  fun y hy => (h y hy).trans (h' y hy)

theorem mailsBeside_of_posts {s t : State} (x : Nat) (h : posts s t) : mailsBeside x s t := fun y _ => h.2 y

theorem mailsBeside_setCore (s : State) (x : Nat) (c : Core) : mailsBeside x s (setCore s x c) := by
  intro y hy
  rw [getCore_setCore_of_ne s c hy]
  exact mail.refl _

theorem mailsBeside_setSlot (s : State) (x : Nat) (k : Fin 4) (f : Slot → Slot) : mailsBeside x s (setSlot s x k f) :=
  mailsBeside_setCore s x _

theorem mailsBeside_freeHeld (s : State) (m : Member) : mailsBeside m.site s (freeHeld s m) := by
  unfold freeHeld
  exact (mailsBeside_setCore s m.site _).trans (mailsBeside_of_posts _ (posts_wakeChans ..))

/-- The reports of a closing slot change mail only. -/
theorem posts_reportDues (s : State) (x : Nat) (k : Fin 4) (ds : List Due) : posts s (ds.foldl (fun s d => reportDue s x k d) s) :=
  foldl_related posts posts.refl posts.trans (fun t _ => posts_report t x k _) ds s

/-- A slot that closes leaves the other cores as they are but for their mail (R156). -/
theorem closeSlot_closes (s : State) (x : Nat) (k : Fin 4) :
    (getSlot (closeSlot s x k) x k).mode = .closing ∧ mailsBeside x s (closeSlot s x k) := by
  unfold closeSlot
  dsimp only
  refine ⟨by rw [getSlot_setSlot_self], ?_⟩
  exact (mailsBeside_of_posts x (posts_reportDues ..)).trans (mailsBeside_setSlot _ x k _)

/-- An activation that ends leaves its slot closing, and the other cores as they are but for their mail (R15). -/
theorem endQuiet_closes (s : State) (x : Nat) (k : Fin 4) :
    (getSlot (endQuiet s x k) x k).mode = .closing ∧ mailsBeside x s (endQuiet s x k) := by
  unfold endQuiet
  dsimp only
  refine ⟨(closeSlot_closes _ x k).1, ?_⟩
  have haccount : mailsBeside x s (account s x k) := mailsBeside_of_posts x (accountOf_mail s (selfOf s x k)).1
  have hfree : mailsBeside x (account s x k) (freeHeld (account s x k) (selfOf (account s x k) x k)) :=
    mailsBeside_freeHeld _ (selfOf (account s x k) x k)
  refine mailsBeside.trans ?_ (closeSlot_closes _ x k).2
  refine mailsBeside.trans ?_ (mailsBeside_of_posts x (posts_trace ..))
  exact (haccount.trans hfree).trans (mailsBeside_setSlot _ x k _)

/-- A twin that runs is ended where its partner disagrees with it (R311). -/
theorem killTwin_closes {s : State} {m : Member} (h : memberRuns s m = true) :
    (getSlot (killTwin s m) m.site m.slot).mode = .closing ∧ mailsBeside m.site s (killTwin s m) := by
  unfold killTwin
  rw [if_pos h]
  obtain ⟨hmode, hmail⟩ := endQuiet_closes (updCore s m.site fun c => killReqs c m.slot m.act) m.site m.slot
  exact ⟨hmode, (mailsBeside_setCore s m.site _).trans hmail⟩

theorem memberRuns_of_mail {s t : State} {m : Member} (h : mail (getCore s m.site) (getCore t m.site)) : memberRuns t m = memberRuns s m := by
  unfold memberRuns
  dsimp only
  rw [parked_of_mail h, h.slots]

theorem memberRuns_stalled {s : State} {m : Member} (hm : (getSlot s m.site m.slot).mode = .stalled)
    (ha : (getSlot s m.site m.slot).actId = m.act) : memberRuns s m = true := by
  have hr : runnable (getSlot s m.site m.slot) = true := by unfold runnable; rw [hm]
  change (parked _ _ _ || (getSlot s m.site m.slot).actId == m.act && runnable (getSlot s m.site m.slot)) = true
  rw [ha, hr, beq_self_eq_true, Bool.and_self, Bool.or_true]

-- The exchange

/-- Twins in the slots k of two cores: both stand at an exchange, at one retirement count and under one activation id (R310). -/
structure AtExchange (s : State) (prim sec : Nat) (k : Fin 4) : Prop where
  apart : sec ≠ prim
  twin : (getSlot s prim k).twin = some (.primary sec)
  modes : (getSlot s prim k).mode = .stalled ∧ (getSlot s sec k).mode = .stalled
  retired : (getSlot s prim k).retired = (getSlot s sec k).retired
  waits : (getSlot s prim k).twinWait = .exchange ∧ (getSlot s sec k).twinWait = .exchange
  loads : (getSlot s prim k).cntL = 0 ∧ (getSlot s sec k).cntL = 0
  act : (getSlot s sec k).actId = (getSlot s prim k).actId
  unparked : parked (getCore s prim) k (getSlot s prim k).actId = false ∧ parked (getCore s sec) k (getSlot s prim k).actId = false

section Exchange

variable {s : State} {prim sec : Nat} {k : Fin 4} (h : AtExchange s prim sec k)

include h

theorem AtExchange.memberSlot_prim : memberSlot s ⟨prim, k, (getSlot s prim k).actId⟩ = getSlot s prim k := actSlot_unparked h.unparked.1 rfl
theorem AtExchange.memberSlot_sec : memberSlot s ⟨sec, k, (getSlot s prim k).actId⟩ = getSlot s sec k := actSlot_unparked h.unparked.2 h.act

theorem AtExchange.prim_runs : memberRuns s ⟨prim, k, (getSlot s prim k).actId⟩ = true := memberRuns_stalled h.modes.1 rfl
theorem AtExchange.sec_runs : memberRuns s ⟨sec, k, (getSlot s prim k).actId⟩ = true := memberRuns_stalled h.modes.2 h.act

theorem execTwinExchange_meets (hh : (getCore s prim).halted = false) :
    execTwinExchange prim k s =
      if (getSlot s prim k).fprint = (getSlot s sec k).fprint then
        .next (setSlot (setSlot s prim k fun sl => { sl with exchanged := some sl.retired, twinWait := .none }) sec k
          fun sl => { sl with exchanged := some sl.retired, twinWait := .none })
      else .next (twinsDiffer s prim sec prim k) := by
  have hlost : twinLost s ⟨sec, k, (getSlot s prim k).actId⟩ (getSlot s prim k).retired = false := by
    unfold twinLost
    rw [h.memberSlot_sec, h.sec_runs]
    simp [h.waits.2, h.retired]
  have hmeet : twinsMeet (getSlot s prim k) (getSlot s sec k) = true := by
    simp [twinsMeet, h.modes.2, h.waits.2, h.retired, h.loads.1, h.loads.2]
  unfold execTwinExchange
  dsimp only
  rw [if_neg (by simp [h.modes.1, hh]), h.twin, h.waits.1]
  dsimp only
  rw [hlost, hmeet]
  rfl

/-- Twins that disagree run again once while they may (R311). -/
theorem twinsDiffer_rerun {f g : Fired} (hf : (getSlot s prim k).fired = some f) (hg : (getSlot s sec k).fired = some g)
    (hr : (getSlot s prim k).replayable = true ∧ (getSlot s sec k).replayable = true) (hn : f.reruns = 0 ∧ g.reruns = 0) :
    twinsDiffer s prim sec prim k = startTwins (quitTwin (quitTwin s prim k) sec k) prim sec k { f with reruns := 1 } { g with reruns := 1 } := by
  unfold twinsDiffer
  dsimp only
  rw [if_pos]
  · simp [rerun, hf, hg, hn.1, hn.2]
  · simp [h.prim_runs, h.sec_runs, h.memberSlot_prim, h.memberSlot_sec, hf, hg, hr.1, hr.2, hn.1, hn.2]

/-- Twins that disagree and may not run again both end, with a machine check (R311). -/
theorem twinsDiffer_ends {f g : Fired} (hf : (getSlot s prim k).fired = some f) (hg : (getSlot s sec k).fired = some g)
    (hr : (getSlot s prim k).replayable = false ∨ (getSlot s sec k).replayable = false ∨ f.reruns = 1 ∨ g.reruns = 1) :
    let t := twinsDiffer s prim sec prim k
    (getSlot t prim k).mode = .closing ∧ (getSlot t sec k).mode = .closing ∧ ∃ l, t.out = l ++ [.machineCheck prim 9] := by
  intro t
  obtain ⟨a, ha⟩ : ∃ a : Member, ⟨prim, k, (getSlot s prim k).actId⟩ = a := ⟨_, rfl⟩
  obtain ⟨b, hb⟩ : ∃ b : Member, ⟨sec, k, (getSlot s prim k).actId⟩ = b := ⟨_, rfl⟩
  obtain ⟨u, hu⟩ : ∃ u, report s prim k { kind := 9, epc := (getSlot s prim k).pc } = u := ⟨_, rfl⟩
  have ht : t = { killTwin (killTwin u a) b with out := (killTwin (killTwin u a) b).out ++ [.machineCheck prim 9] } := by
    change twinsDiffer s prim sec prim k = _
    unfold twinsDiffer
    dsimp only
    rw [if_neg]
    · rw [hu, ha, hb]
      simp only [List.foldl_cons, List.foldl_nil]
    · simp only [List.all_cons, List.all_nil, h.prim_runs, h.sec_runs, h.memberSlot_prim, h.memberSlot_sec, hf, hg]
      rcases hr with hr | hr | hr | hr <;> simp [hr]
  have hpost : posts s u := hu ▸ posts_report s prim k _
  have hra : memberRuns u a = true := by
    rw [memberRuns_of_mail (hpost.2 _), ← ha]
    exact h.prim_runs
  obtain ⟨hclosea, hkeepa⟩ := killTwin_closes hra
  have hrb : memberRuns (killTwin u a) b = true := by
    rw [memberRuns_of_mail (hkeepa b.site (by rw [← ha, ← hb]; exact h.apart)), memberRuns_of_mail (hpost.2 _), ← hb]
    exact h.sec_runs
  obtain ⟨hcloseb, hkeepb⟩ := killTwin_closes hrb
  have hprim : getSlot (killTwin (killTwin u a) b) prim k = getSlot (killTwin u a) prim k :=
    getSlot_eq_of_slots (hkeepb prim (by rw [← hb]; exact h.apart.symm)).slots k
  have hslot : ∀ x, getSlot t x k = getSlot (killTwin (killTwin u a) b) x k := fun x => by rw [ht]; rfl
  refine ⟨?_, ?_, _, by rw [ht]⟩
  · rw [hslot, hprim]
    rw [← ha] at hclosea ⊢
    exact hclosea
  · rw [hslot]
    rw [← hb] at hcloseb ⊢
    exact hcloseb

end Exchange

end Sys2Proof.Machine
end

section
/-! SUPPORT. Spill frames (spec/17 R295 to R298): the four page accesses of a frame, and the context that goes to it and comes back. -/

namespace Sys2Proof.Machine

open Sys2Proof.Terms

-- The pages of a frame

/-- The packet of the access to page j of a frame. -/
def isPage (c : Core) (x frame : Nat) (out : Bool) (j : Nat) (p : Packet) : Prop :=
  p.src = .core x ∧ p.cls = .bulk ∧ p.dst = .ferry (homeFerry (frameAddr c frame j)) ∧
    ∃ q, p.body = .req q ∧ q.addr = frameAddr c frame j ∧ if out then ∃ bs, bs.length = 4096 ∧ q.op = .write bs else q.op = .read 4096

/-- One page of a frame starts on its way. -/
def sendPage (x frame : Nat) (out : Bool) (s : State) (j : Nat) : State :=
  let a := frameAddr (getCore s x) frame j
  if out then
    sendBulk s x (.spillPage j) a (.write ((List.range 4096).map fun i => Config.freeFrame (s.stepNo * 0x4000 + j * 0x1000 + i)))
  else sendBulk s x (.restorePage j) a (.read 4096)

theorem sendPages_eq (s : State) (x frame : Nat) (out : Bool) : sendPages s x frame out = [0, 1, 2, 3].foldl (sendPage x frame out) s := rfl

/-- A core that has started n more BULK accesses. -/
def startedBulks (c d : Core) (n : Nat) : Prop :=
  d = { c with nextUid := d.nextUid, bulks := d.bulks } ∧ d.bulks.length = c.bulks.length + n

theorem sendBulk_starts (s : State) (x : Nat) (k : BulkKind) (a : Word) (op : ROp) :
    startedBulks (getCore s x) (getCore (sendBulk s x k a op) x) 1 := by
  rw [sendBulk_core]
  exact ⟨rfl, by simp⟩

theorem sendPage_starts (s : State) (x frame : Nat) (out : Bool) (j : Nat) :
    startedBulks (getCore s x) (getCore (sendPage x frame out s j) x) 1 ∧
      ∃ p, (sendPage x frame out s j).net = s.net ++ [p] ∧ isPage (getCore s x) x frame out j p := by
  cases out with
  | true =>
    refine ⟨sendBulk_starts .., ?_⟩
    obtain ⟨p, q, hnet, hsrc, hdst, hcls, hbody, -, hop, haddr, -⟩ := sendBulk_packet s x (.spillPage j) (frameAddr (getCore s x) frame j)
      (.write ((List.range 4096).map fun i => Config.freeFrame (s.stepNo * 0x4000 + j * 0x1000 + i)))
    exact ⟨p, hnet, hsrc, hcls, hdst, q, hbody, haddr, _, by simp only [List.length_map, List.length_range], hop⟩
  | false =>
    refine ⟨sendBulk_starts .., ?_⟩
    obtain ⟨p, q, hnet, hsrc, hdst, hcls, hbody, -, hop, haddr, -⟩ := sendBulk_packet s x (.restorePage j) (frameAddr (getCore s x) frame j)
      (.read 4096)
    exact ⟨p, hnet, hsrc, hcls, hdst, q, hbody, haddr, hop⟩

/-- The pages listed start in their order, each in one packet behind what is on the network. -/
theorem sendPage_foldl (x frame : Nat) (out : Bool) (js : List Nat) (s : State) :
    startedBulks (getCore s x) (getCore (js.foldl (sendPage x frame out) s) x) js.length ∧
      ∃ l, (js.foldl (sendPage x frame out) s).net = s.net ++ l ∧ List.Forall₂ (isPage (getCore s x) x frame out) js l := by
  induction js generalizing s with
  | nil => exact ⟨⟨rfl, rfl⟩, [], by simp, .nil⟩
  | cons j js ih =>
    obtain ⟨⟨hc, hn⟩, p, hnet, hp⟩ := sendPage_starts s x frame out j
    obtain ⟨⟨hc', hn'⟩, l, hnet', hl⟩ := ih (sendPage x frame out s j)
    have haddr : ∀ i, frameAddr (getCore (sendPage x frame out s j) x) frame i = frameAddr (getCore s x) frame i := by
      intro i
      rw [hc]
      rfl
    refine ⟨⟨?_, ?_⟩, p :: l, ?_, .cons hp (hl.imp fun i q hq => ?_)⟩
    · rw [hc] at hc'
      exact hc'
    · rw [List.foldl_cons, hn', hn, List.length_cons]
      omega
    · rw [List.foldl_cons, hnet', hnet]
      simp
    · unfold isPage at *
      rwa [haddr i] at hq

/-- Starting the pages of a frame, from a state whose core has the BULK accesses and the spill area of another (R296). -/
theorem sendPages_pages {s u : State} {x : Nat} (frame : Nat) (out : Bool) (hb : (getCore u x).bulks = (getCore s x).bulks)
    (hsp : (getCore u x).spill = (getCore s x).spill) (hn : u.net = s.net) :
    pages s (sendPages u x frame out) x frame out ∧
      ∃ uid bs, getCore (sendPages u x frame out) x = { getCore u x with nextUid := uid, bulks := bs } := by
  rw [sendPages_eq]
  obtain ⟨⟨hc, hlen⟩, l, hnet, hl⟩ := sendPage_foldl x frame out [0, 1, 2, 3] u
  have haddr : ∀ i, frameAddr (getCore u x) frame i = frameAddr (getCore s x) frame i := fun i => by
    unfold frameAddr
    rw [hsp]
  refine ⟨⟨by rw [hlen, hb]; rfl, l, by rw [hnet, hn], hl.length_eq.symm, fun j p hj => ?_⟩, _, _, hc⟩
  rw [nth_eq_getElem?] at hj
  have hlt : j < l.length := (List.getElem?_eq_some_iff.mp hj).1
  have hj4 : j < 4 := by simpa [← hl.length_eq] using hlt
  have hpage := (List.forall₂_iff_get.mp hl).2 j (by simpa using hj4) hlt
  have hp : l.get ⟨j, hlt⟩ = p := (List.getElem?_eq_some_iff.mp hj).2
  have hjj : ([0, 1, 2, 3] : List Nat).get ⟨j, by simpa using hj4⟩ = j := by
    match j, hj4 with
    | 0, _ | 1, _ | 2, _ | 3, _ => rfl
  rw [hp, hjj] at hpage
  unfold isPage at hpage
  rwa [haddr j] at hpage

-- The events

/-- A core that has chosen slot k for its spill frame n (R297). -/
def spillChosen (c : Core) (k : Fin 4) (n : Nat) : Core :=
  { c with spillOut := some { slot := k, frame := n }, slots := c.slots.set k { c.slots[k] with waits := slotWaits c k } }

theorem execSlotSpill_starts {s : State} {x n : Nat} {k : Fin 4} (hruns : coreRuns s x = true) (hready : (getCore s x).ready ≠ [])
    (hout : (getCore s x).spillOut = none) (hk : spillVictim s (getCore s x) = some k) (hn : spillFrame (getCore s x) = some n) :
    execSlotSpill x s = .next (sendPages (setCore s x (spillChosen (getCore s x) k n)) x n true) := by
  have hne : (getCore s x).ready.isEmpty = false := by simpa using hready
  unfold execSlotSpill
  dsimp only
  rw [if_neg (by simp [hruns, hne, hout]), hk, hn]
  rfl

theorem execSlotSpillDone_finishes {s : State} {x : Nat} {m : FrameMove} (hm : (getCore s x).spillOut = some m)
    (hb : (getCore s x).bulks = []) : execSlotSpillDone x m.slot s = .next (finishSpill s x m) := by
  unfold execSlotSpillDone
  rw [hm, hb]
  dsimp only
  rw [if_neg (by simp)]

/-- The context of a slot as it stands in a spill frame (R297). -/
def spilledContext (c : Core) (m : FrameMove) : Away :=
  { slot := m.slot, frame := m.frame, ctx := c.slots[m.slot], frameBytes := readBytes c.spad (slotFrame m.slot) 4096,
    frameUE := c.spadUE.filter fun o => decide (slotFrame m.slot ≤ o ∧ o < slotFrame m.slot + 4096), fillTrap := m.fillTrap,
    waits := if c.slots[m.slot].mode = .closing then
        (c.reqs.filter fun r => r.slot == m.slot && r.act == c.slots[m.slot].actId).map fun r => r.uid
      else c.slots[m.slot].waits }

/-- A finished spill leaves the slot free, its context in the frame and the spill counted (R297, R325). -/
theorem finishSpill_core (s : State) (x : Nat) (m : FrameMove) :
    let c := getCore s x
    let d := getCore (finishSpill s x m) x
    d.slots = c.slots.set m.slot (freedSlot c.slots[m.slot]) ∧ d.spillOut = none ∧ d.events = c.events.set 6 (c.events[6] + 1) ∧
      d.away = c.away ++ [spilledContext c m] := by
  intro c d
  obtain ⟨u, hu⟩ : ∃ u, trace s x m.slot 5 (patOf (getSlot s x m.slot)) (getSlot s x m.slot).pc 0 = u := ⟨_, rfl⟩
  have hmail : mail c (getCore u x) := hu ▸ (posts_trace ..).2 x
  have hev : (getCore u x).events = c.events := by
    obtain ⟨-, -, -, -, he⟩ := trace_mail s x m.slot 5 (patOf (getSlot s x m.slot)) (getSlot s x m.slot).pc 0
    rw [hu] at he
    exact he
  obtain ⟨e, he⟩ : ∃ e, countEv { getCore u x with
      spillOut := none, away := (getCore u x).away ++ [spilledContext c m],
      slots := (getCore u x).slots.set m.slot (freedSlot c.slots[m.slot]) } 6 = e := ⟨_, rfl⟩
  obtain ⟨r, hr⟩ := pushResumes_ready e
  have hd : d = { e with ready := r } := by
    rw [← hr, ← he]
    change getCore (finishSpill s x m) x = _
    unfold finishSpill
    dsimp only
    rw [hu, getCore_updCore_self, hmail]
    rfl
  rw [hd, ← he, hmail]
  refine ⟨rfl, rfl, ?_, rfl⟩
  change (getCore u x).events.set 6 ((getCore u x).events[6] + 1) = _
  rw [hev]

/-- A core whose ready entry for slot k and frame n has started back, the rest of its queue left (R298). -/
def restoreChosen (c : Core) (k : Fin 4) (n : Nat) (rest : List ReadyEnt) : Core :=
  { c with ready := rest, restoring := some { slot := k, frame := n },
           slots := c.slots.set k { c.slots[k] with mode := .reserved Config.nSites } }

/-- A core whose one parked activation is on its way back has none that becomes ready. -/
theorem pushResumes_restoreChosen {c : Core} {a : Away} (haway : c.away = [a]) (rest : List ReadyEnt) :
    pushResumes (restoreChosen c a.slot a.frame rest) = restoreChosen c a.slot a.frame rest := by
  have hnone : returning (restoreChosen c a.slot a.frame rest) = [] := by simp [returning, restoreChosen, haway]
  unfold pushResumes
  rw [hnone]
  rfl

theorem execSlotRestore_starts {s : State} {x : Nat} {a : Away} {rest : List ReadyEnt} (hworks : working s x = true)
    (hboot : (getCore s x).boot = false) (hres : (getCore s x).restoring = none) (hh : (getCore s x).halted = false)
    (hw : wantedBy s x = none) (hready : (getCore s x).ready = .resume a.slot a.frame :: rest)
    (hfree : (getCore s x).slots[a.slot].mode = .free) (haway : (getCore s x).away = [a]) :
    execSlotRestore x s = .next (sendPages (setCore s x (restoreChosen (getCore s x) a.slot a.frame rest)) x a.frame false) := by
  have hhead : headEntry (getCore s x) (getCore s x).ready = some (.resume a.slot a.frame, rest) := by
    rw [hready]
    unfold headEntry
    rw [if_pos hfree]
  unfold execSlotRestore
  dsimp only
  rw [if_neg (by simp [hworks, hboot]), if_neg (by simp [hres, hh, hw]), hhead, ← pushResumes_restoreChosen haway]
  rfl

/-- The core with the context of a parked activation back in its slot, and its frame bytes in the slot's frame (R298). -/
def restored (s : State) (c : Core) (a : Away) : Core :=
  { c with
    restoring := none, bulks := [], away := [],
    slots := c.slots.set a.slot { a.ctx with serial := c.slots[a.slot].serial, waits := [], stallAt := s.cycle },
    spad := writeBytes c.spad (slotFrame a.slot) a.frameBytes,
    spadUE := (c.spadUE.filter fun o => !decide (slotFrame a.slot ≤ o ∧ o < slotFrame a.slot + 4096)) ++ a.frameUE }

/-- An activation that was not closing has no late events to report (R298). -/
theorem reportRestored_open {s : State} {x : Nat} {k : Fin 4} (h : (getSlot s x k).mode ≠ .closing) : reportRestored s x k = s := by
  unfold reportRestored
  exact if_neg h

/-- The end of a restore whose pages have all come, of an activation that was not closing (R298). -/
theorem finishRestore_core {s : State} {x : Nat} {m : FrameMove} {a : Away} (hm : (getCore s x).restoring = some m)
    (hslot : a.slot = m.slot) (hframe : a.frame = m.frame) (hb : (getCore s x).bulks = []) (haway : (getCore s x).away = [a])
    (hfill : a.fillTrap = none) (hmode : a.ctx.mode ≠ .closing) :
    mail (restored s (getCore s x) a) (getCore (finishRestore s x false) x) := by
  obtain ⟨slot, frame, fill⟩ := m
  obtain rfl : a.slot = slot := hslot
  obtain rfl : a.frame = frame := hframe
  obtain ⟨u, hu⟩ : ∃ u, setCore s x (restored s (getCore s x) a) = u := ⟨_, rfl⟩
  have huc : getCore u x = restored s (getCore s x) a := by rw [← hu, getCore_setCore_self]
  obtain ⟨v, hv⟩ : ∃ v, trace u x a.slot 6 (patOf a.ctx) a.ctx.pc 0 = v := ⟨_, rfl⟩
  have hpost : posts u v := hv ▸ posts_trace ..
  have hopen : (getSlot v x a.slot).mode ≠ .closing := by
    rw [hpost.getSlot]
    unfold getSlot
    rw [huc]
    simpa [restored] using hmode
  have hend : finishRestore s x false = v := by
    unfold finishRestore
    simp only [hm, updCore, getCore_setCore_self, setCore_setCore, haway, hb, hfill, List.find?_cons, List.filter_cons, List.filter_nil,
      beq_self_eq_true, Bool.and_self, Bool.not_true, Bool.false_eq_true, if_false]
    refine (congrArg (fun w => reportRestored (trace w x a.slot 6 (patOf a.ctx) a.ctx.pc 0) x a.slot) hu).trans ?_
    rw [hv, reportRestored_open hopen]
  rw [hend, ← huc]
  exact hpost.2 x

/-- The last page of a frame completes the restore (R298). -/
theorem lastPage_restores {s : State} {pkt x j : Nat} {src : Endpoint} {bs : List Byte} {b : Bulk} {m : FrameMove} {a : Away}
    (h : brings s pkt src (.core x) (.answer b.uid (.data bs))) (hm : (getCore s x).restoring = some m) (hslot : a.slot = m.slot)
    (hframe : a.frame = m.frame) (hb : (getCore s x).bulks = [b]) (hk : b.kind = .restorePage j) (hreqs : (getCore s x).reqs = [])
    (hfills : (getCore s x).fills = []) (hnot : (getCore s x).notices = []) (haway : (getCore s x).away = [a])
    (hfill : a.fillTrap = none) (hmode : a.ctx.mode ≠ .closing) :
    completes (.loadResponse pkt) s fun t => ∃ tk r, mail { restored s (getCore s x) a with tickets := tk, ready := r } (getCore t x) := by
  obtain ⟨hni, -, -⟩ := bulkReply_only h hreqs hfills hb
  obtain ⟨ls, hls⟩ := consumePkt_eq s pkt
  obtain ⟨u, hu⟩ : ∃ u, setCore (consumePkt s pkt) x { getCore s x with bulks := [] } = u := ⟨_, rfl⟩
  have huc : getCore u x = { getCore s x with bulks := [] } := by rw [← hu, getCore_setCore_self]
  have hcycle : u.cycle = s.cycle := by rw [← hu, hls]; rfl
  have hcons : getCore (consumePkt s pkt) x = getCore s x := by rw [hls]; rfl
  have hans : bulkAnswer (consumePkt s pkt) x b src (.data bs) = finishRestore u x false := by
    unfold bulkAnswer bulkEnd updCore
    simp only [hk, hcons, hb, List.filter_cons, List.filter_nil, bne_self_eq_false, Bool.false_eq_true, if_false, hu, huc, List.any_nil]
  have hmail := finishRestore_core (s := u) (x := x) (by rw [huc]; exact hm) hslot hframe (by rw [huc]) (by rw [huc]; exact haway) hfill hmode
  have hrest : restored u (getCore u x) a = restored s (getCore s x) a := by
    unfold restored
    rw [huc, hcycle]
  rw [hrest] at hmail
  obtain ⟨-, tk, r, hcore⟩ := answered_kept (s := finishRestore u x false) (x := x) (by rw [hmail]; exact hnot)
  have hex : exec (.loadResponse pkt) s = .next (answered (finishRestore u x false) x) := by
    change execLoadResponse pkt s = _
    unfold execLoadResponse
    rw [hni]
    dsimp only
    rw [bulkReplied_other h hreqs hfills hb (takes := isData) rfl (by simp [hk]), hans]
  refine ⟨_, hex, tk, r, ?_⟩
  dsimp only
  rw [hcore, hmail]
  rfl

end Sys2Proof.Machine
end

section
/-! SUPPORT. O46: gangs, twins and spill frames. -/

namespace Sys2Proof.Machine

open Sys2Proof.Terms

section Grants

variable {s : State} {x lead : Nat} {f : Fired} {ms : List Nat} {k : Fin 4} (hw : wantedBy s x = some lead) (hruns : coreRuns s x = true)
  (hres : holdsReservation (getCore s x) = false) (hg : groupOf s lead = some (f, ms)) (hk : slotToGrant s x lead f.twin = some k)

include hw hruns hres hg hk

theorem gangGrant_reserves (hn : (getCore s lead).granted.length + 1 < ms.length) : completes (.gangGrant x) s fun t =>
    (getSlot t x k).mode = .reserved lead ∧ (getCore t lead).granted = (getCore s lead).granted ++ [x] := by
  refine ⟨_, (execGangGrant_grants hw hruns hres hg hk).1 hn, ?_, grant_granted ..⟩
  rw [getSlot_grant]

/-- After the last grant the members of the gang run (R130). -/
theorem gangGrant_startsGang (hrest : (getCore s x).restoring = none) (hn : (getCore s lead).granted.length + 1 = ms.length)
    (ht : f.twin = false) : completes (.gangGrant x) s fun t =>
      (getSlot t x k).mode = .run ∧ (getSlot t x k).pc = f.entry + 16 ∧ (getCore t lead).granted = [] := by
  have hwait : bodyWaits lead x k (grant s x lead k) := by
    refine ⟨by rw [getSlot_grant], fun j hj => ?_⟩
    rw [getSlot_grant_of_ne s x lead hj]
    exact not_reserved hres hrest j lead
  have hmem : x ∈ ms := by
    have hnth := wantedBy_member hw hg
    rw [nth_eq_getElem?] at hnth
    exact List.mem_of_getElem? hnth
  obtain ⟨hmode, hpc, hgranted⟩ := startGroup_runs ht hmem hwait
  have hkeep := keepsBodies_settleAway (startGroup (grant s x lead k) lead f ms) lead
  obtain ⟨g, hslot⟩ := (hkeep x).2 k
  refine ⟨_, (execGangGrant_grants hw hruns hres hg hk).2 hn, ?_⟩
  dsimp only
  rw [hslot]
  exact ⟨hmode, hpc, (hkeep lead).1.trans hgranted⟩

/-- After the secondary's grant both twins run (R308). -/
theorem gangGrant_startsTwins (hn : (getCore s lead).granted.length + 1 = ms.length) (ht : f.twin = true) (hne : lead ≠ x) :
    completes (.gangGrant x) s fun t =>
      let a := getSlot t lead k
      let b := getSlot t x k
      a.mode = .run ∧ b.mode = .run ∧ a.pc = f.entry + 16 ∧ b.pc = f.entry + 16 ∧ a.twin = some (.primary x) ∧
        b.twin = some (.secondary lead) ∧ b.actId = a.actId := by
  have hms := groupOf_twins hg ht
  have hpartner : twinPartner lead = x := by
    have hlen : (getCore s lead).granted.length = 1 := by simpa [hms] using hn
    have hnth := wantedBy_member hw hg
    rw [hlen, hms] at hnth
    exact Option.some.inj hnth
  have hreserved : reservedFor (getCore (grant s x lead k) lead) lead = some k := by
    have hfor : reservedFor (getCore s lead) lead = some k := by
      unfold slotToGrant at hk
      rw [ht, if_pos (by simpa using hne.symm)] at hk
      exact (Option.filter_eq_some_iff.mp hk).1
    have hslots : (getCore (grant s x lead k) lead).slots = (getCore s lead).slots := by
      rw [grant_slots, getCore_setSlot_of_ne s k _ hne]
    unfold reservedFor at *
    rwa [hslots]
  obtain ⟨u, hu⟩ : ∃ u, groupTaken (grant s x lead k) lead = u := ⟨_, rfl⟩
  have hstart := startGroup_twins ms ht hreserved hpartner
  rw [hu] at hstart
  obtain ⟨⟨ham, hap, -, hat⟩, hbm, hbp, hbt, hid⟩ := startTwins_runs u k f (memberFired u f lead x) hne
  rw [← hstart] at ham hap hat hbm hbp hbt hid
  have hkeep := keepsBodies_settleAway (startGroup (grant s x lead k) lead f ms) lead
  obtain ⟨g, ha⟩ := (hkeep lead).2 k
  obtain ⟨g', hb⟩ := (hkeep x).2 k
  refine ⟨_, (execGangGrant_grants hw hruns hres hg hk).2 hn, ?_⟩
  dsimp only
  rw [ha, hb]
  exact ⟨ham, hbm, hap, by rw [← memberFired_entry u f lead x]; exact hbp, hat, hbt, hid⟩

end Grants

/-- Settles O46, event by event. -/
theorem gangsTwinsAndSpillFrames : Obligations.GangsTwinsAndSpillFrames := by
  unfold Obligations.GangsTwinsAndSpillFrames
  intro s x _ c
  refine ⟨?grant, ?exchange, ?spill, ?spilled, ?restore, ?restored⟩
  case grant =>
    intro lead f ms k hw hruns hres hrest hg hk
    exact ⟨gangGrant_reserves hw hruns hres hg hk, gangGrant_startsGang hw hruns hres hg hk hrest, gangGrant_startsTwins hw hruns hres hg hk⟩
  case exchange =>
    intro p k a b htwin hp ham hbm hret haw hbw hal hbl hact hpa hpb hh
    have hx : AtExchange s x p k :=
      { apart := hp, twin := htwin, modes := ⟨ham, hbm⟩, retired := hret, waits := ⟨haw, hbw⟩, loads := ⟨hal, hbl⟩, act := hact,
        unparked := ⟨hpa, hpb⟩ }
    have hmeets := execTwinExchange_meets hx hh
    refine ⟨fun hf => ?_, fun f g hne hf hg => ⟨fun hra hrb hn hn' => ?_, fun hr => ?_⟩⟩
    · refine ⟨_, hmeets.trans (if_pos hf), ?_, ?_⟩
      · rw [getSlot_setSlot_other _ _ _ hp.symm, getSlot_setSlot_self]
        rfl
      · rw [getSlot_setSlot_self, getSlot_setSlot_other _ _ _ hp, hret]
    · have hdiff := twinsDiffer_rerun hx hf hg ⟨hra, hrb⟩ ⟨hn, hn'⟩
      obtain ⟨⟨hm, hpc, hout, -⟩, hm', hpc', -, hid⟩ := startTwins_runs (quitTwin (quitTwin s x k) p k) k { f with reruns := 1 }
        { g with reruns := 1 } hp.symm
      rw [← hdiff] at hm hpc hout hm' hpc' hid
      exact ⟨_, hmeets.trans (if_neg hne), hm, hpc, hout, hm', hpc', hid⟩
    · exact ⟨_, hmeets.trans (if_neg hne), twinsDiffer_ends hx hf hg hr⟩
  case spill =>
    intro k n hruns hready hout hk hn
    obtain ⟨hpages, uid, bs, hcore⟩ := sendPages_pages (s := s) (u := setCore s x (spillChosen c k n)) (x := x) n true
      (by rw [getCore_setCore_self]; rfl) (by rw [getCore_setCore_self]; rfl) rfl
    rw [getCore_setCore_self] at hcore
    have hslot : getSlot (sendPages (setCore s x (spillChosen c k n)) x n true) x k = { c.slots[k] with waits := slotWaits c k } := by
      unfold getSlot
      rw [hcore]
      exact Vector.getElem_set_self _
    exact ⟨_, execSlotSpill_starts hruns hready hout hk hn, by rw [hcore]; rfl, by rw [hslot], by rw [hslot], by rw [hslot], hpages⟩
  case spilled =>
    intro m hm hb
    obtain ⟨hslots, hout, hev, haway⟩ := finishSpill_core s x m
    refine ⟨_, execSlotSpillDone_finishes hm hb, ?_, hout, ?_, _, haway, rfl, rfl, rfl, rfl⟩
    · unfold getSlot
      rw [hslots]
      simp [freedSlot]
    · rw [hev]
      simp [c]
  case restore =>
    intro k n rest a hworks hboot hres hh hw hready hfree haway hslot hframe
    subst hslot hframe
    obtain ⟨hpages, uid, bs, hcore⟩ := sendPages_pages (s := s) (u := setCore s x (restoreChosen c a.slot a.frame rest)) (x := x) a.frame false
      (by rw [getCore_setCore_self]; rfl) (by rw [getCore_setCore_self]; rfl) rfl
    rw [getCore_setCore_self] at hcore
    refine ⟨_, execSlotRestore_starts hworks hboot hres hh hw hready hfree haway, by rw [hcore]; rfl, by rw [hcore]; rfl,
      by rw [hcore]; exact haway, ?_, by rw [hcore]; rfl, hpages⟩
    unfold getSlot
    rw [hcore]
    simp [restoreChosen]
  case restored =>
    intro m a b j pkt src bs hm hb hk hreqs hfills hnot haway hslot hframe hfill hmode h
    obtain ⟨t, ht, tk, r, hmail⟩ := lastPage_restores h hm hslot hframe hb hk hreqs hfills hnot haway hfill hmode
    obtain ⟨slot, frame, fill⟩ := m
    obtain rfl : a.slot = slot := hslot
    refine ⟨t, ht, ?_, by rw [hmail]; rfl, by rw [hmail]; rfl, by rw [hmail]; rfl⟩
    unfold getSlot
    rw [hmail]
    exact Vector.getElem_set_self _

end Sys2Proof.Machine
end
